-- ==== Sys2Proof/Word.lean ====
section
/-! DEFINITION. The word types of the CW9-32A and the sparse map that holds every indexed store. -/

namespace Sys2Proof

/-- A control-space word (R18). -/
abbrev Word := BitVec 64

/-- One byte of a store. -/
abbrev Byte := BitVec 8

/-- An FP32 bit pattern. -/
abbrev F32 := BitVec 32

/-- A sparse map from a number to a value: entries in rising order of their numbers, one entry a number. -/
abbrev SMap (α : Type) := List (Nat × α)

end Sys2Proof
end

