-- ==== Sys2Proof/Machine/Bits.lean ====
section
/-! DEFINITION. Bit fields of a word, byte order (little-endian, R88, R378) and the operations of a sparse map. -/

namespace Sys2Proof.Machine

/-- Bits [hi:lo] of a number (Notation, "A bit range [h:l] includes both ends"). -/
def natBits (n hi lo : Nat) : Nat := n / 2 ^ lo % 2 ^ (hi + 1 - lo)

/-- Bit i of a number. -/
def natBit (n i : Nat) : Bool := n / 2 ^ i % 2 == 1

/-- Field [hi:lo] of a control-space word. -/
def bitsOf (w : Word) (hi lo : Nat) : Nat := natBits w.toNat hi lo

/-- The word with field [hi:lo] set to v, every other bit kept. -/
def setBits (w : Word) (hi lo v : Nat) : Word :=
  BitVec.ofNat 64 (w.toNat / 2 ^ (hi + 1) * 2 ^ (hi + 1) + v % 2 ^ (hi + 1 - lo) * 2 ^ lo + w.toNat % 2 ^ lo)

/-- The lesser of v and the largest value of a field of n bits: a counter that saturates at all ones. -/
def saturate (n v : Nat) : Nat := min v (2 ^ n - 1)

/-- A number between two bounds, both included (R566, "clamps"). -/
def clampNat (lo hi v : Nat) : Nat := min hi (max lo v)

def boolNat (b : Bool) : Nat := if b then 1 else 0

/-- n bytes of a number, least significant first. -/
def toBytesLE : Nat → Nat → List Byte
  | 0, _ => []
  | n + 1, v => BitVec.ofNat 8 v :: toBytesLE n (v / 256)

/-- The number that bytes spell, least significant first. -/
def ofBytesLE : List Byte → Nat
  | [] => 0
  | b :: bs => b.toNat + 256 * ofBytesLE bs

/-- The number that bytes spell, most significant first. -/
def ofBytesBE (bs : List Byte) : Nat := bs.foldl (fun a b => a * 256 + b.toNat) 0

def toBytesBE (n v : Nat) : List Byte := (toBytesLE n v).reverse

/-- A two's-complement number of n bits. -/
def signExt (n v : Nat) : Int :=
  let m := v % 2 ^ n
  if m < 2 ^ (n - 1) then (m : Int) else (m : Int) - (2 ^ n : Nat)

/-- The n-bit two's-complement code of an integer. -/
def ofInt (n : Nat) (i : Int) : Nat := (i % ((2 ^ n : Nat) : Int)).toNat

/-- The entry of a sparse map at a number, or the default. -/
def SMap.get {α : Type} (d : α) : SMap α → Nat → α
  | [], _ => d
  | (k, v) :: m, a => if k = a then v else SMap.get d m a

/-- The entry of a sparse map at a number, if listed. -/
def SMap.get? {α : Type} : SMap α → Nat → Option α
  | [], _ => none
  | (k, v) :: m, a => if k = a then some v else SMap.get? m a

/-- The map without its entry at a number. -/
def SMap.erase {α : Type} : SMap α → Nat → SMap α
  | [], _ => []
  | (k, v) :: m, a => if k = a then SMap.erase m a else (k, v) :: SMap.erase m a

/-- The map with an entry put at its place in rising order. -/
def SMap.insert {α : Type} : SMap α → Nat → α → SMap α
  | [], a, v => [(a, v)]
  | (k, w) :: m, a, v => if a < k then (a, v) :: (k, w) :: m else (k, w) :: SMap.insert m a v

/-- The map after v is stored at a number; a value equal to the default is not listed. -/
def SMap.set {α : Type} [DecidableEq α] (d : α) (m : SMap α) (a : Nat) (v : α) : SMap α :=
  if v = d then SMap.erase m a else SMap.insert (SMap.erase m a) a v

/-- The map with v listed at a number, whatever v is. -/
def SMap.put {α : Type} (m : SMap α) (a : Nat) (v : α) : SMap α := SMap.insert (SMap.erase m a) a v

/-- Keep only the entries whose number and value satisfy p. -/
def SMap.keep {α : Type} (p : Nat → α → Bool) (m : SMap α) : SMap α := m.filter fun e => p e.1 e.2

/-- Change every listed entry. -/
def SMap.mapVals {α : Type} (f : Nat → α → α) (m : SMap α) : SMap α := m.map fun e => (e.1, f e.1 e.2)

/-- The numbers of a map rise strictly. -/
def SMap.sorted {α : Type} : SMap α → Bool
  | [] => true
  | [_] => true
  | (a, _) :: (b, w) :: m => decide (a < b) && SMap.sorted ((b, w) :: m)

/-- The canonical form of a store: numbers rise strictly and no entry equals the default. -/
def SMap.wf {α : Type} [DecidableEq α] (d : α) (m : SMap α) : Bool :=
  SMap.sorted m && m.all fun e => decide (e.2 ≠ d)

/-- A byte store: unlisted bytes read 0 (R511). -/
abbrev Store := SMap Byte

/-- n bytes of a store from an address on. -/
def readBytes (m : Store) (a : Nat) : Nat → List Byte
  | 0 => []
  | n + 1 => SMap.get 0 m a :: readBytes m (a + 1) n

/-- A store after bytes are written from an address on. -/
def writeBytes (m : Store) (a : Nat) : List Byte → Store
  | [] => m
  | b :: bs => writeBytes (SMap.set 0 m a b) (a + 1) bs

/-- A store with the bytes of a range cleared. -/
def clearRange (m : Store) (a n : Nat) : Store := SMap.keep (fun k _ => k < a || a + n ≤ k) m

/-- Does a store hold a byte other than 0 in a range? -/
def anyIn (m : Store) (a n : Nat) : Bool := m.any fun e => decide (a ≤ e.1) && decide (e.1 < a + n)

/-- Insert an element before the first one that it may precede. -/
def insertBy {α : Type} (le : α → α → Bool) (a : α) : List α → List α
  | [] => [a]
  | b :: l => if le a b then a :: b :: l else b :: insertBy le a l

/-- A list in order; elements that may precede one another both ways keep their order. -/
def sortBy {α : Type} (le : α → α → Bool) : List α → List α
  | [] => []
  | a :: l => insertBy le a (sortBy le l)

/-- One bit of the reflected CRC-32C register. -/
def crc32cBit (c : Nat) : Nat := if c % 2 = 1 then (c / 2) ^^^ 0x82F63B78 else c / 2

def crc32cByte (c : Nat) (b : Byte) : Nat :=
  let c := c ^^^ b.toNat
  crc32cBit (crc32cBit (crc32cBit (crc32cBit (crc32cBit (crc32cBit (crc32cBit (crc32cBit c)))))))

/-- The CRC-32C of bytes (R81, R95, R419). -/
def crc32c (bs : List Byte) : Nat := (bs.foldl crc32cByte 0xFFFFFFFF) ^^^ 0xFFFFFFFF

/-- n bytes at an offset as a number. -/
def field (bs : List Byte) (off n : Nat) : Nat := ofBytesLE ((bs.drop off).take n)

/-- Consecutive pieces of n elements: at most k of them. -/
def piecesOf {α : Type} (n : Nat) : Nat → List α → List (List α)
  | 0, _ => []
  | k + 1, xs => if xs = [] then [] else xs.take n :: piecesOf n k (xs.drop n)

end Sys2Proof.Machine
end

