-- ==== Sys2Proof/Machine/CtlMap.lean ====
section
/-! DEFINITION. The control-space words (R18-R22, R561, R562): one name a word, its address by R562, its fields with their
access codes and reset values, and which programs may reach it (R20, R375). An array's record is found by index × stride. -/

namespace Sys2Proof.Machine

/-- The words of control space, named as the spec names them. -/
inductive CW where
  | PW_GATE
  | PW_STBY
  | PW_WAKE_LANE
  | PW_WAKE_VIN
  | PW_WAKE_PAD
  | PW_STATE
  | PW_LEASE
  | PW_ENTRY_REFUSED
  | PW_ENTRY_ABORTED
  | PW_ENTRY_LAST
  | PW_THERM
  | AT_DIE_INFO
  | AT_DIE_MEAS
  | AT_SIGN
  | AT_ANCHOR_CTRL
  | AT_ANCHOR_DIGEST
  | AT_FM_CTRL
  | AT_FM_DIGEST
  | AT_CCPKEY_CTRL
  | AT_CCPKEY_DIGEST
  | EC_PATROL
  | EC_DIAG_CTRL
  | EC_DIAG_ADDR
  | EC_DIAG_DATA
  | EC_DIE_CNT
  | EC_DIE_LAST
  | EC_DIE_SPARES
  | EC_RESET_LAST
  | CM_SELF
  | CM_TXN_TIMEOUT
  | CM_CLR_TXN_ERR
  | CM_CLR_T2_STAT
  | CM_CLR_COH_STAT
  | CM_CLR_CONF
  | CM_CLR_HANDLE
  | CM_COH
  | CM_DOM
  | CM_DOM_UNPOISON
  | CM_UNIT
  | CM_SCRUB
  | CM_SCRUB_CNT
  | CM_COMMIT
  | CM_EPOCH
  | CM_LEDGER
  | CM_SPARE
  | CM_SPARE_LOAD
  | CM_SPARE_ADMIT
  | CM_SPARE_BAR
  | LK_BOOT
  | LK_UPD
  | LK_HANDOVER
  | LK_NET_CFG
  | LK_NET_ADDR
  | LK_MKA_CFG
  | LK_MKA_CAK
  | LK_MKA_CKN
  | LK_PTP_CFG
  | LK_PTP_STATUS
  | LK_MGT_STATUS
  | LK_CCP_CNT
  | EV_SRC_CFG
  | EV_SRC_STATE
  | EV_CU_TAKE
  | EV_CU_EOE
  | EV_CU_STACK
  | EV_CTRL
  | EV_SOFT
  | SB_IMG
  | SB_NV
  | SB_UCAL
  | FR_PORT_CFG
  | FR_SUB_STATUS
  | FR_SUB_CNT_LINK
  | FR_SUB_CNT_DROP
  | FR_SPARE
  | FR_LANE_STATUS
  | FR_LANE_FEC
  | GL_WAYS
  | GL_AMAX
  | GL_AMAX_HIST
  | GL_RESID_CFG
  | GL_RESID_STEP
  | GL_CNT_ARITH
  | GL_CNT_ISSUE
  | XP_STREAM
  | XP_CNT
  | CX_CTX
  | CX_CNT
  | FW_SHARE
  | FW_CLR_BUF
  | FW_CLR_ALPHA
  | FW_CLR_CREDIT
  | FW_CLR_CNT_BUF
  | FW_CLR_CNT_DROP
  | FW_OCC
  | FW_LPORT_CFG
  | FW_SPRAY
  | FW_EDGE_STATUS
  | FW_TRAIL_CFG
  | FW_TRAIL_IDX
  | FW_TRAILFM_CFG
  | FW_TRAILFM_IDX
  | FW_CNT_MESH
  | SC_SCHED
  | SC_PSTATE
  | SC_CLASS_CFG
  | SC_CLASS_STATE
  | SC_GATE_CTRL
  | SC_GATE_BASE
  | SC_GATE_CYCLE
  | SC_GATE_TS
  | SC_GATE_ENTRY
  | SC_POLMAP
  | SC_POL_CFG
  | SC_POL_CNT
  | SC_MESH
deriving DecidableEq, Repr

/-- The access codes of Table 00.6. -/
inductive Acc where
  | ro | rw | w1c | wo | rc | rp
deriving DecidableEq, Repr

/-- A field of a word: bits [hi:lo]. -/
structure Fld where
  w : CW
  hi : Nat
  lo : Nat
deriving DecidableEq, Repr

/-- Which programs a word is opened to (R375 and the word's owning chapter). -/
inductive Opened where
  | priv | any | clr0 | clr1 | copse | lport | dom | unit
deriving DecidableEq, Repr

/-- One row of a field map: access code, factory reset value, NV tag (R22), and the limits of a field that clamps (R566). -/
structure FieldSpec where
  hi : Nat
  lo : Nat
  acc : Acc
  reset : Nat
  nv : Bool
  clamp : Option (Nat × Nat) := none
deriving DecidableEq, Repr

/-- The address of a word's first record, and the (count, stride) of each index from the outside in (R562). -/
structure Place where
  base : Nat
  dims : List (Nat × Nat)
deriving DecidableEq, Repr

/-- Every word, in parts. -/
def CW.part0 : List CW :=
  [.PW_GATE, .PW_STBY, .PW_WAKE_LANE, .PW_WAKE_VIN, .PW_WAKE_PAD, .PW_STATE, .PW_LEASE, .PW_ENTRY_REFUSED, .PW_ENTRY_ABORTED, .PW_ENTRY_LAST, .PW_THERM, .AT_DIE_INFO, .AT_DIE_MEAS, .AT_SIGN, .AT_ANCHOR_CTRL, .AT_ANCHOR_DIGEST, .AT_FM_CTRL, .AT_FM_DIGEST, .AT_CCPKEY_CTRL, .AT_CCPKEY_DIGEST]

def CW.part1 : List CW :=
  [.EC_PATROL, .EC_DIAG_CTRL, .EC_DIAG_ADDR, .EC_DIAG_DATA, .EC_DIE_CNT, .EC_DIE_LAST, .EC_DIE_SPARES, .EC_RESET_LAST, .CM_SELF, .CM_TXN_TIMEOUT, .CM_CLR_TXN_ERR, .CM_CLR_T2_STAT, .CM_CLR_COH_STAT, .CM_CLR_CONF, .CM_CLR_HANDLE, .CM_COH, .CM_DOM, .CM_DOM_UNPOISON, .CM_UNIT, .CM_SCRUB]

def CW.part2 : List CW :=
  [.CM_SCRUB_CNT, .CM_COMMIT, .CM_EPOCH, .CM_LEDGER, .CM_SPARE, .CM_SPARE_LOAD, .CM_SPARE_ADMIT, .CM_SPARE_BAR, .LK_BOOT, .LK_UPD, .LK_HANDOVER, .LK_NET_CFG, .LK_NET_ADDR, .LK_MKA_CFG, .LK_MKA_CAK, .LK_MKA_CKN, .LK_PTP_CFG, .LK_PTP_STATUS, .LK_MGT_STATUS, .LK_CCP_CNT]

def CW.part3 : List CW :=
  [.EV_SRC_CFG, .EV_SRC_STATE, .EV_CU_TAKE, .EV_CU_EOE, .EV_CU_STACK, .EV_CTRL, .EV_SOFT, .SB_IMG, .SB_NV, .SB_UCAL, .FR_PORT_CFG, .FR_SUB_STATUS, .FR_SUB_CNT_LINK, .FR_SUB_CNT_DROP, .FR_SPARE, .FR_LANE_STATUS, .FR_LANE_FEC, .GL_WAYS, .GL_AMAX, .GL_AMAX_HIST]

def CW.part4 : List CW :=
  [.GL_RESID_CFG, .GL_RESID_STEP, .GL_CNT_ARITH, .GL_CNT_ISSUE, .XP_STREAM, .XP_CNT, .CX_CTX, .CX_CNT, .FW_SHARE, .FW_CLR_BUF, .FW_CLR_ALPHA, .FW_CLR_CREDIT, .FW_CLR_CNT_BUF, .FW_CLR_CNT_DROP, .FW_OCC, .FW_LPORT_CFG, .FW_SPRAY, .FW_EDGE_STATUS, .FW_TRAIL_CFG, .FW_TRAIL_IDX]

def CW.part5 : List CW :=
  [.FW_TRAILFM_CFG, .FW_TRAILFM_IDX, .FW_CNT_MESH, .SC_SCHED, .SC_PSTATE, .SC_CLASS_CFG, .SC_CLASS_STATE, .SC_GATE_CTRL, .SC_GATE_BASE, .SC_GATE_CYCLE, .SC_GATE_TS, .SC_GATE_ENTRY, .SC_POLMAP, .SC_POL_CFG, .SC_POL_CNT, .SC_MESH]

/-- Every word. -/
def CW.all : List CW := CW.part0 ++ CW.part1 ++ CW.part2 ++ CW.part3 ++ CW.part4 ++ CW.part5

/-- Where each word stands (R561, R562). -/
def CW.place : CW → Place
  | .PW_GATE => ⟨0x0, []⟩
  | .PW_STBY => ⟨0x1, []⟩
  | .PW_WAKE_LANE => ⟨0x10, [(8, 1)]⟩
  | .PW_WAKE_VIN => ⟨0x18, []⟩
  | .PW_WAKE_PAD => ⟨0x19, []⟩
  | .PW_STATE => ⟨0x20, []⟩
  | .PW_LEASE => ⟨0x80, [(128, 1)]⟩
  | .PW_ENTRY_REFUSED => ⟨0x100, [(4, 4)]⟩
  | .PW_ENTRY_ABORTED => ⟨0x101, [(4, 4)]⟩
  | .PW_ENTRY_LAST => ⟨0x102, [(4, 4)]⟩
  | .PW_THERM => ⟨0x110, []⟩
  | .AT_DIE_INFO => ⟨0x2000, [(32, 0x10)]⟩
  | .AT_DIE_MEAS => ⟨0x2008, [(32, 0x10), (6, 1)]⟩
  | .AT_SIGN => ⟨0x2200, []⟩
  | .AT_ANCHOR_CTRL => ⟨0x2280, [(8, 0x10)]⟩
  | .AT_ANCHOR_DIGEST => ⟨0x2288, [(8, 0x10), (6, 1)]⟩
  | .AT_FM_CTRL => ⟨0x2300, [(8, 0x10)]⟩
  | .AT_FM_DIGEST => ⟨0x2308, [(8, 0x10), (6, 1)]⟩
  | .AT_CCPKEY_CTRL => ⟨0x2800, [(128, 0x10)]⟩
  | .AT_CCPKEY_DIGEST => ⟨0x2808, [(128, 0x10), (6, 1)]⟩
  | .EC_PATROL => ⟨0x10000, []⟩
  | .EC_DIAG_CTRL => ⟨0x10008, []⟩
  | .EC_DIAG_ADDR => ⟨0x10009, []⟩
  | .EC_DIAG_DATA => ⟨0x1000c, [(4, 1)]⟩
  | .EC_DIE_CNT => ⟨0x10080, [(32, 4)]⟩
  | .EC_DIE_LAST => ⟨0x10081, [(32, 4)]⟩
  | .EC_DIE_SPARES => ⟨0x10082, [(32, 4)]⟩
  | .EC_RESET_LAST => ⟨0x10100, []⟩
  | .CM_SELF => ⟨0x100000, []⟩
  | .CM_TXN_TIMEOUT => ⟨0x100001, []⟩
  | .CM_CLR_TXN_ERR => ⟨0x140000, [(128, 0x800)]⟩
  | .CM_CLR_T2_STAT => ⟨0x140001, [(128, 0x800)]⟩
  | .CM_CLR_COH_STAT => ⟨0x140002, [(128, 0x800)]⟩
  | .CM_CLR_CONF => ⟨0x140003, [(128, 0x800)]⟩
  | .CM_CLR_HANDLE => ⟨0x140400, [(128, 0x800), (1024, 1)]⟩
  | .CM_COH => ⟨0x180000, []⟩
  | .CM_DOM => ⟨0x180200, [(256, 2)]⟩
  | .CM_DOM_UNPOISON => ⟨0x180201, [(256, 2)]⟩
  | .CM_UNIT => ⟨0x180400, [(512, 1)]⟩
  | .CM_SCRUB => ⟨0x180600, []⟩
  | .CM_SCRUB_CNT => ⟨0x180601, []⟩
  | .CM_COMMIT => ⟨0x180602, []⟩
  | .CM_EPOCH => ⟨0x180603, []⟩
  | .CM_LEDGER => ⟨0x180680, [(128, 1)]⟩
  | .CM_SPARE => ⟨0x180700, [(8, 4)]⟩
  | .CM_SPARE_LOAD => ⟨0x180701, [(8, 4)]⟩
  | .CM_SPARE_ADMIT => ⟨0x180702, [(8, 4)]⟩
  | .CM_SPARE_BAR => ⟨0x180703, [(8, 4)]⟩
  | .LK_BOOT => ⟨0x1000000, [(2, 0x10000)]⟩
  | .LK_UPD => ⟨0x1000001, [(2, 0x10000)]⟩
  | .LK_HANDOVER => ⟨0x1000002, [(2, 0x10000)]⟩
  | .LK_NET_CFG => ⟨0x1000004, [(2, 0x10000)]⟩
  | .LK_NET_ADDR => ⟨0x1000006, [(2, 0x10000), (2, 1)]⟩
  | .LK_MKA_CFG => ⟨0x1000010, [(2, 0x10000)]⟩
  | .LK_MKA_CAK => ⟨0x1000014, [(2, 0x10000), (4, 1)]⟩
  | .LK_MKA_CKN => ⟨0x1000018, [(2, 0x10000), (4, 1)]⟩
  | .LK_PTP_CFG => ⟨0x1000020, [(2, 0x10000)]⟩
  | .LK_PTP_STATUS => ⟨0x1000021, [(2, 0x10000)]⟩
  | .LK_MGT_STATUS => ⟨0x1000022, [(2, 0x10000)]⟩
  | .LK_CCP_CNT => ⟨0x1000023, [(2, 0x10000)]⟩
  | .EV_SRC_CFG => ⟨0x1020000, [(2, 0x10000), (2048, 2)]⟩
  | .EV_SRC_STATE => ⟨0x1020001, [(2, 0x10000), (2048, 2)]⟩
  | .EV_CU_TAKE => ⟨0x1021000, [(2, 0x10000), (4, 4)]⟩
  | .EV_CU_EOE => ⟨0x1021001, [(2, 0x10000), (4, 4)]⟩
  | .EV_CU_STACK => ⟨0x1021002, [(2, 0x10000), (4, 4)]⟩
  | .EV_CTRL => ⟨0x1021010, [(2, 0x10000)]⟩
  | .EV_SOFT => ⟨0x1021011, [(2, 0x10000)]⟩
  | .SB_IMG => ⟨0x1040000, [(2, 0x1000), (5, 1)]⟩
  | .SB_NV => ⟨0x1040008, [(2, 0x1000)]⟩
  | .SB_UCAL => ⟨0x1040009, [(2, 0x1000)]⟩
  | .FR_PORT_CFG => ⟨0x1100000, [(16, 0x1000), (8, 0x20)]⟩
  | .FR_SUB_STATUS => ⟨0x1100010, [(16, 0x1000), (8, 0x20), (4, 4)]⟩
  | .FR_SUB_CNT_LINK => ⟨0x1100011, [(16, 0x1000), (8, 0x20), (4, 4)]⟩
  | .FR_SUB_CNT_DROP => ⟨0x1100012, [(16, 0x1000), (8, 0x20), (4, 4)]⟩
  | .FR_SPARE => ⟨0x1100100, [(16, 0x1000), (2, 1)]⟩
  | .FR_LANE_STATUS => ⟨0x1100180, [(16, 0x1000), (34, 2)]⟩
  | .FR_LANE_FEC => ⟨0x1100181, [(16, 0x1000), (34, 2)]⟩
  | .GL_WAYS => ⟨0x2000000, [(8, 0x10000), (16, 0x1000), (8, 1)]⟩
  | .GL_AMAX => ⟨0x2000400, [(8, 0x10000), (16, 0x1000), (64, 0x10)]⟩
  | .GL_AMAX_HIST => ⟨0x2000408, [(8, 0x10000), (16, 0x1000), (64, 0x10), (8, 1)]⟩
  | .GL_RESID_CFG => ⟨0x2000800, [(8, 0x10000), (16, 0x1000), (64, 2)]⟩
  | .GL_RESID_STEP => ⟨0x2000801, [(8, 0x10000), (16, 0x1000), (64, 2)]⟩
  | .GL_CNT_ARITH => ⟨0x2000880, [(8, 0x10000), (16, 0x1000)]⟩
  | .GL_CNT_ISSUE => ⟨0x2000890, [(8, 0x10000), (16, 0x1000), (16, 1)]⟩
  | .XP_STREAM => ⟨0x2100000, [(8, 0x1000), (16, 0x20), (16, 2)]⟩
  | .XP_CNT => ⟨0x2100001, [(8, 0x1000), (16, 0x20), (16, 2)]⟩
  | .CX_CTX => ⟨0x2200000, [(8, 0x1000), (16, 0x40), (32, 1)]⟩
  | .CX_CNT => ⟨0x2200020, [(8, 0x1000), (16, 0x40)]⟩
  | .FW_SHARE => ⟨0x3000000, [(8, 0x100000), (32, 1)]⟩
  | .FW_CLR_BUF => ⟨0x3000400, [(8, 0x100000), (128, 8)]⟩
  | .FW_CLR_ALPHA => ⟨0x3000401, [(8, 0x100000), (128, 8)]⟩
  | .FW_CLR_CREDIT => ⟨0x3000402, [(8, 0x100000), (128, 8)]⟩
  | .FW_CLR_CNT_BUF => ⟨0x3000403, [(8, 0x100000), (128, 8)]⟩
  | .FW_CLR_CNT_DROP => ⟨0x3000404, [(8, 0x100000), (128, 8)]⟩
  | .FW_OCC => ⟨0x3000800, [(8, 0x100000), (128, 1)]⟩
  | .FW_LPORT_CFG => ⟨0x3000a00, [(8, 0x100000), (512, 1)]⟩
  | .FW_SPRAY => ⟨0x3000c00, [(8, 0x100000), (8, 1)]⟩
  | .FW_EDGE_STATUS => ⟨0x3000c08, [(8, 0x100000), (4, 1)]⟩
  | .FW_TRAIL_CFG => ⟨0x3000d00, [(8, 0x100000), (128, 2)]⟩
  | .FW_TRAIL_IDX => ⟨0x3000d01, [(8, 0x100000), (128, 2)]⟩
  | .FW_TRAILFM_CFG => ⟨0x3000e00, [(8, 0x100000)]⟩
  | .FW_TRAILFM_IDX => ⟨0x3000e01, [(8, 0x100000)]⟩
  | .FW_CNT_MESH => ⟨0x3000e02, [(8, 0x100000)]⟩
  | .SC_SCHED => ⟨0x4000000, [(8, 0x800000), (512, 0x4000)]⟩
  | .SC_PSTATE => ⟨0x4000001, [(8, 0x800000), (512, 0x4000)]⟩
  | .SC_CLASS_CFG => ⟨0x4000020, [(8, 0x800000), (512, 0x4000), (16, 2)]⟩
  | .SC_CLASS_STATE => ⟨0x4000021, [(8, 0x800000), (512, 0x4000), (16, 2)]⟩
  | .SC_GATE_CTRL => ⟨0x4001000, [(8, 0x800000), (512, 0x4000)]⟩
  | .SC_GATE_BASE => ⟨0x4001001, [(8, 0x800000), (512, 0x4000)]⟩
  | .SC_GATE_CYCLE => ⟨0x4001002, [(8, 0x800000), (512, 0x4000)]⟩
  | .SC_GATE_TS => ⟨0x4001003, [(8, 0x800000), (512, 0x4000)]⟩
  | .SC_GATE_ENTRY => ⟨0x4001800, [(8, 0x800000), (512, 0x4000), (2, 0x400), (1024, 1)]⟩
  | .SC_POLMAP => ⟨0x4002000, [(8, 0x800000), (512, 0x4000)]⟩
  | .SC_POL_CFG => ⟨0x4800000, [(8, 0x800000), (128, 0x20), (15, 2)]⟩
  | .SC_POL_CNT => ⟨0x4800001, [(8, 0x800000), (128, 0x20), (15, 2)]⟩
  | .SC_MESH => ⟨0x4801000, [(8, 0x800000), (128, 1)]⟩

/-- Who may read each word. -/
def CW.readers : CW → Opened
  | .PW_LEASE => .any
  | .PW_THERM => .any
  | .AT_DIE_INFO => .any
  | .AT_DIE_MEAS => .any
  | .AT_SIGN => .any
  | .CM_EPOCH => .any
  | .LK_PTP_STATUS => .any
  | .CM_CLR_TXN_ERR => .clr0
  | .CM_CLR_T2_STAT => .clr0
  | .CM_CLR_COH_STAT => .clr0
  | .CM_CLR_CONF => .clr0
  | .CM_CLR_HANDLE => .clr0
  | .CM_LEDGER => .clr0
  | .FW_CLR_BUF => .clr1
  | .FW_CLR_ALPHA => .clr1
  | .FW_CLR_CREDIT => .clr1
  | .FW_CLR_CNT_BUF => .clr1
  | .FW_CLR_CNT_DROP => .clr1
  | .FW_OCC => .clr1
  | .FW_TRAIL_CFG => .clr1
  | .FW_TRAIL_IDX => .clr1
  | .SC_POL_CFG => .clr1
  | .SC_POL_CNT => .clr1
  | .SC_MESH => .clr1
  | .GL_WAYS => .copse
  | .GL_AMAX => .copse
  | .GL_AMAX_HIST => .copse
  | .GL_RESID_CFG => .copse
  | .GL_RESID_STEP => .copse
  | .GL_CNT_ARITH => .copse
  | .GL_CNT_ISSUE => .copse
  | .XP_STREAM => .copse
  | .XP_CNT => .copse
  | .CX_CTX => .copse
  | .CX_CNT => .copse
  | .FW_LPORT_CFG => .lport
  | .SC_SCHED => .lport
  | .SC_PSTATE => .lport
  | .SC_CLASS_CFG => .lport
  | .SC_CLASS_STATE => .lport
  | .SC_GATE_CTRL => .lport
  | .SC_GATE_BASE => .lport
  | .SC_GATE_CYCLE => .lport
  | .SC_GATE_TS => .lport
  | .SC_GATE_ENTRY => .lport
  | .SC_POLMAP => .lport
  | .CM_DOM => .dom
  | .CM_UNIT => .unit
  | .PW_GATE => .priv
  | .PW_STBY => .priv
  | .PW_WAKE_LANE => .priv
  | .PW_WAKE_VIN => .priv
  | .PW_WAKE_PAD => .priv
  | .PW_STATE => .priv
  | .PW_ENTRY_REFUSED => .priv
  | .PW_ENTRY_ABORTED => .priv
  | .PW_ENTRY_LAST => .priv
  | .AT_ANCHOR_CTRL => .priv
  | .AT_ANCHOR_DIGEST => .priv
  | .AT_FM_CTRL => .priv
  | .AT_FM_DIGEST => .priv
  | .AT_CCPKEY_CTRL => .priv
  | .AT_CCPKEY_DIGEST => .priv
  | .EC_PATROL => .priv
  | .EC_DIAG_CTRL => .priv
  | .EC_DIAG_ADDR => .priv
  | .EC_DIAG_DATA => .priv
  | .EC_DIE_CNT => .priv
  | .EC_DIE_LAST => .priv
  | .EC_DIE_SPARES => .priv
  | .EC_RESET_LAST => .priv
  | .CM_SELF => .priv
  | .CM_TXN_TIMEOUT => .priv
  | .CM_COH => .priv
  | .CM_DOM_UNPOISON => .priv
  | .CM_SCRUB => .priv
  | .CM_SCRUB_CNT => .priv
  | .CM_COMMIT => .priv
  | .CM_SPARE => .priv
  | .CM_SPARE_LOAD => .priv
  | .CM_SPARE_ADMIT => .priv
  | .CM_SPARE_BAR => .priv
  | .LK_BOOT => .priv
  | .LK_UPD => .priv
  | .LK_HANDOVER => .priv
  | .LK_NET_CFG => .priv
  | .LK_NET_ADDR => .priv
  | .LK_MKA_CFG => .priv
  | .LK_MKA_CAK => .priv
  | .LK_MKA_CKN => .priv
  | .LK_PTP_CFG => .priv
  | .LK_MGT_STATUS => .priv
  | .LK_CCP_CNT => .priv
  | .EV_SRC_CFG => .priv
  | .EV_SRC_STATE => .priv
  | .EV_CU_TAKE => .priv
  | .EV_CU_EOE => .priv
  | .EV_CU_STACK => .priv
  | .EV_CTRL => .priv
  | .EV_SOFT => .priv
  | .SB_IMG => .priv
  | .SB_NV => .priv
  | .SB_UCAL => .priv
  | .FR_PORT_CFG => .priv
  | .FR_SUB_STATUS => .priv
  | .FR_SUB_CNT_LINK => .priv
  | .FR_SUB_CNT_DROP => .priv
  | .FR_SPARE => .priv
  | .FR_LANE_STATUS => .priv
  | .FR_LANE_FEC => .priv
  | .FW_SHARE => .priv
  | .FW_SPRAY => .priv
  | .FW_EDGE_STATUS => .priv
  | .FW_TRAILFM_CFG => .priv
  | .FW_TRAILFM_IDX => .priv
  | .FW_CNT_MESH => .priv

/-- Who may write each word. -/
def CW.writers : CW → Opened
  | .PW_GATE => .priv
  | .PW_STBY => .priv
  | .PW_WAKE_LANE => .priv
  | .PW_WAKE_VIN => .priv
  | .PW_WAKE_PAD => .priv
  | .PW_STATE => .priv
  | .PW_LEASE => .clr0
  | .PW_ENTRY_REFUSED => .priv
  | .PW_ENTRY_ABORTED => .priv
  | .PW_ENTRY_LAST => .priv
  | .PW_THERM => .priv
  | .AT_DIE_INFO => .priv
  | .AT_DIE_MEAS => .priv
  | .AT_SIGN => .priv
  | .AT_ANCHOR_CTRL => .priv
  | .AT_ANCHOR_DIGEST => .priv
  | .AT_FM_CTRL => .priv
  | .AT_FM_DIGEST => .priv
  | .AT_CCPKEY_CTRL => .priv
  | .AT_CCPKEY_DIGEST => .priv
  | .EC_PATROL => .priv
  | .EC_DIAG_CTRL => .priv
  | .EC_DIAG_ADDR => .priv
  | .EC_DIAG_DATA => .priv
  | .EC_DIE_CNT => .priv
  | .EC_DIE_LAST => .priv
  | .EC_DIE_SPARES => .priv
  | .EC_RESET_LAST => .priv
  | .CM_SELF => .priv
  | .CM_TXN_TIMEOUT => .priv
  | .CM_CLR_TXN_ERR => .priv
  | .CM_CLR_T2_STAT => .priv
  | .CM_CLR_COH_STAT => .priv
  | .CM_CLR_CONF => .priv
  | .CM_CLR_HANDLE => .priv
  | .CM_COH => .priv
  | .CM_DOM => .priv
  | .CM_DOM_UNPOISON => .priv
  | .CM_UNIT => .priv
  | .CM_SCRUB => .priv
  | .CM_SCRUB_CNT => .priv
  | .CM_COMMIT => .priv
  | .CM_EPOCH => .priv
  | .CM_LEDGER => .priv
  | .CM_SPARE => .priv
  | .CM_SPARE_LOAD => .priv
  | .CM_SPARE_ADMIT => .priv
  | .CM_SPARE_BAR => .priv
  | .LK_BOOT => .priv
  | .LK_UPD => .priv
  | .LK_HANDOVER => .priv
  | .LK_NET_CFG => .priv
  | .LK_NET_ADDR => .priv
  | .LK_MKA_CFG => .priv
  | .LK_MKA_CAK => .priv
  | .LK_MKA_CKN => .priv
  | .LK_PTP_CFG => .priv
  | .LK_PTP_STATUS => .priv
  | .LK_MGT_STATUS => .priv
  | .LK_CCP_CNT => .priv
  | .EV_SRC_CFG => .priv
  | .EV_SRC_STATE => .priv
  | .EV_CU_TAKE => .priv
  | .EV_CU_EOE => .priv
  | .EV_CU_STACK => .priv
  | .EV_CTRL => .priv
  | .EV_SOFT => .priv
  | .SB_IMG => .priv
  | .SB_NV => .priv
  | .SB_UCAL => .priv
  | .FR_PORT_CFG => .priv
  | .FR_SUB_STATUS => .priv
  | .FR_SUB_CNT_LINK => .priv
  | .FR_SUB_CNT_DROP => .priv
  | .FR_SPARE => .priv
  | .FR_LANE_STATUS => .priv
  | .FR_LANE_FEC => .priv
  | .GL_WAYS => .copse
  | .GL_AMAX => .copse
  | .GL_AMAX_HIST => .copse
  | .GL_RESID_CFG => .copse
  | .GL_RESID_STEP => .copse
  | .GL_CNT_ARITH => .copse
  | .GL_CNT_ISSUE => .copse
  | .XP_STREAM => .copse
  | .XP_CNT => .copse
  | .CX_CTX => .copse
  | .CX_CNT => .copse
  | .FW_SHARE => .priv
  | .FW_CLR_BUF => .clr1
  | .FW_CLR_ALPHA => .clr1
  | .FW_CLR_CREDIT => .clr1
  | .FW_CLR_CNT_BUF => .clr1
  | .FW_CLR_CNT_DROP => .clr1
  | .FW_OCC => .priv
  | .FW_LPORT_CFG => .lport
  | .FW_SPRAY => .priv
  | .FW_EDGE_STATUS => .priv
  | .FW_TRAIL_CFG => .clr1
  | .FW_TRAIL_IDX => .clr1
  | .FW_TRAILFM_CFG => .priv
  | .FW_TRAILFM_IDX => .priv
  | .FW_CNT_MESH => .priv
  | .SC_SCHED => .lport
  | .SC_PSTATE => .lport
  | .SC_CLASS_CFG => .lport
  | .SC_CLASS_STATE => .lport
  | .SC_GATE_CTRL => .lport
  | .SC_GATE_BASE => .lport
  | .SC_GATE_CYCLE => .lport
  | .SC_GATE_TS => .lport
  | .SC_GATE_ENTRY => .lport
  | .SC_POLMAP => .lport
  | .SC_POL_CFG => .clr1
  | .SC_POL_CNT => .clr1
  | .SC_MESH => .priv

/-- The field map of each word, reserved bits left out (R21). The SENSE, TARGET and PRIO resets of EV_SRC_CFG (Table 14.6) and the ENTRY resets of
FW_SPRAY (Table 06.6) depend on the index: resetWord adds them. -/
def CW.fields : CW → List FieldSpec
  | .PW_GATE =>
    [⟨63, 48, .rp, 0x64, true, none⟩,
     ⟨47, 32, .rp, 0x1f4, true, none⟩]
  | .PW_STBY =>
    [⟨63, 60, .rp, 0, true, none⟩]
  | .PW_WAKE_LANE =>
    [⟨63, 63, .rp, 0, true, none⟩,
     ⟨62, 59, .rp, 0, true, none⟩,
     ⟨58, 53, .rp, 0, true, none⟩,
     ⟨52, 45, .rp, 0x20, true, none⟩,
     ⟨44, 40, .rp, 4, true, none⟩,
     ⟨39, 28, .rp, 0x21, true, none⟩]
  | .PW_WAKE_VIN =>
    [⟨63, 63, .rp, 0, true, none⟩,
     ⟨62, 56, .rp, 0x3c, true, none⟩,
     ⟨55, 51, .rp, 0xa, true, none⟩,
     ⟨50, 39, .rp, 0x21, true, none⟩]
  | .PW_WAKE_PAD =>
    [⟨63, 63, .rp, 1, true, none⟩,
     ⟨62, 62, .rp, 0, true, none⟩,
     ⟨61, 55, .rp, 0x32, true, none⟩,
     ⟨54, 50, .rp, 5, true, none⟩,
     ⟨49, 38, .rp, 1, true, none⟩]
  | .PW_STATE =>
    [⟨63, 62, .ro, 1, false, none⟩,
     ⟨61, 60, .rp, 1, false, none⟩,
     ⟨59, 58, .rp, 3, true, none⟩,
     ⟨57, 57, .ro, 0, false, none⟩,
     ⟨56, 54, .ro, 0, false, none⟩,
     ⟨53, 50, .ro, 0, false, none⟩,
     ⟨49, 46, .ro, 0, false, none⟩,
     ⟨45, 45, .ro, 0, false, none⟩]
  | .PW_LEASE =>
    [⟨63, 62, .rw, 0, false, none⟩]
  | .PW_ENTRY_REFUSED =>
    [⟨63, 48, .rc, 0, false, none⟩,
     ⟨47, 32, .rc, 0, false, none⟩,
     ⟨31, 16, .rc, 0, false, none⟩,
     ⟨15, 0, .rc, 0, false, none⟩]
  | .PW_ENTRY_ABORTED =>
    [⟨63, 48, .rc, 0, false, none⟩,
     ⟨47, 32, .rc, 0, false, none⟩,
     ⟨31, 16, .rc, 0, false, none⟩,
     ⟨15, 0, .rc, 0, false, none⟩]
  | .PW_ENTRY_LAST =>
    [⟨63, 63, .ro, 0, false, none⟩,
     ⟨62, 61, .ro, 0, false, none⟩,
     ⟨60, 52, .ro, 0, false, none⟩,
     ⟨31, 0, .ro, 0, false, none⟩]
  | .PW_THERM =>
    [⟨63, 52, .rp, 0x960, true, some (800, 2400)⟩,
     ⟨51, 45, .rp, 0x64, true, some (85, 105)⟩,
     ⟨39, 36, .ro, 0, false, none⟩,
     ⟨35, 35, .ro, 0, false, none⟩,
     ⟨34, 34, .ro, 0, false, none⟩,
     ⟨31, 0, .ro, 0, false, none⟩]
  | .AT_DIE_INFO =>
    [⟨63, 61, .ro, 0, false, none⟩,
     ⟨60, 57, .ro, 0, false, none⟩,
     ⟨56, 55, .ro, 3, false, none⟩,
     ⟨54, 54, .ro, 0, false, none⟩,
     ⟨53, 46, .ro, 0, false, none⟩,
     ⟨45, 38, .ro, 0, false, none⟩,
     ⟨31, 0, .ro, 0, false, none⟩]
  | .AT_DIE_MEAS =>
    [⟨63, 0, .ro, 0, false, none⟩]
  | .AT_SIGN =>
    [⟨63, 32, .ro, 0, false, none⟩,
     ⟨31, 31, .ro, 0, false, none⟩]
  | .AT_ANCHOR_CTRL =>
    [⟨63, 63, .rp, 0, true, none⟩]
  | .AT_ANCHOR_DIGEST =>
    [⟨63, 0, .rp, 0, true, none⟩]
  | .AT_FM_CTRL =>
    [⟨63, 63, .rp, 0, true, none⟩]
  | .AT_FM_DIGEST =>
    [⟨63, 0, .rp, 0, true, none⟩]
  | .AT_CCPKEY_CTRL =>
    [⟨63, 63, .rp, 0, false, none⟩]
  | .AT_CCPKEY_DIGEST =>
    [⟨63, 0, .rp, 0, false, none⟩]
  | .EC_PATROL =>
    [⟨63, 63, .rp, 1, true, none⟩,
     ⟨62, 52, .rp, 0x3c, true, some (10, 1440)⟩,
     ⟨51, 44, .rp, 0x18, true, some (1, 168)⟩]
  | .EC_DIAG_CTRL =>
    [⟨63, 63, .rp, 0, false, none⟩,
     ⟨62, 61, .rp, 0, false, none⟩,
     ⟨60, 56, .rp, 0, false, none⟩,
     ⟨55, 52, .rp, 0, false, none⟩,
     ⟨51, 44, .rp, 0, false, none⟩,
     ⟨43, 28, .rp, 0, false, none⟩,
     ⟨27, 25, .ro, 0, false, none⟩,
     ⟨24, 20, .ro, 0, false, none⟩]
  | .EC_DIAG_ADDR =>
    [⟨31, 0, .rp, 0, false, none⟩]
  | .EC_DIAG_DATA =>
    [⟨63, 0, .rp, 0, false, none⟩]
  | .EC_DIE_CNT =>
    [⟨63, 48, .rc, 0, false, none⟩,
     ⟨47, 40, .rc, 0, false, none⟩,
     ⟨39, 32, .rc, 0, false, none⟩,
     ⟨31, 24, .rc, 0, false, none⟩,
     ⟨23, 16, .rc, 0, false, none⟩,
     ⟨15, 0, .rc, 0, false, none⟩]
  | .EC_DIE_LAST =>
    [⟨63, 60, .ro, 0, false, none⟩,
     ⟨59, 52, .ro, 0, false, none⟩,
     ⟨51, 36, .ro, 0, false, none⟩,
     ⟨35, 34, .ro, 0, false, none⟩,
     ⟨31, 0, .ro, 0, false, none⟩]
  | .EC_DIE_SPARES =>
    [⟨63, 0, .ro, 0, false, none⟩]
  | .EC_RESET_LAST =>
    [⟨63, 60, .ro, 0, false, none⟩,
     ⟨59, 55, .ro, 0, false, none⟩,
     ⟨54, 47, .ro, 0, false, none⟩,
     ⟨46, 43, .ro, 0, false, none⟩,
     ⟨42, 32, .rc, 0, false, none⟩,
     ⟨31, 0, .ro, 0, false, none⟩]
  | .CM_SELF =>
    [⟨63, 48, .rp, 0, true, none⟩]
  | .CM_TXN_TIMEOUT =>
    [⟨63, 48, .rp, 0x1388, true, none⟩,
     ⟨47, 32, .rp, 0xc8, true, none⟩,
     ⟨31, 16, .rp, 0x7d0, true, none⟩,
     ⟨15, 0, .rp, 0xc8, true, none⟩]
  | .CM_CLR_TXN_ERR =>
    [⟨63, 48, .rc, 0, false, none⟩,
     ⟨47, 32, .rc, 0, false, none⟩,
     ⟨31, 16, .rc, 0, false, none⟩,
     ⟨15, 0, .rc, 0, false, none⟩]
  | .CM_CLR_T2_STAT =>
    [⟨63, 40, .rc, 0, false, none⟩,
     ⟨39, 16, .rc, 0, false, none⟩,
     ⟨15, 0, .rc, 0, false, none⟩]
  | .CM_CLR_COH_STAT =>
    [⟨63, 48, .rc, 0, false, none⟩,
     ⟨47, 32, .rc, 0, false, none⟩,
     ⟨31, 16, .rc, 0, false, none⟩,
     ⟨15, 0, .rc, 0, false, none⟩]
  | .CM_CLR_CONF =>
    [⟨63, 62, .ro, 0, false, none⟩,
     ⟨31, 0, .ro, 0, false, none⟩]
  | .CM_CLR_HANDLE =>
    [⟨63, 0, .ro, 0, false, none⟩]
  | .CM_COH =>
    [⟨63, 48, .rp, 0xa, true, none⟩,
     ⟨47, 32, .rp, 5, true, none⟩]
  | .CM_DOM =>
    [⟨63, 62, .ro, 0, false, none⟩,
     ⟨61, 61, .rp, 0, false, none⟩,
     ⟨60, 58, .ro, 0, false, none⟩,
     ⟨57, 49, .ro, 0x1ff, false, none⟩,
     ⟨48, 47, .ro, 0, false, none⟩,
     ⟨31, 0, .ro, 0, false, none⟩]
  | .CM_DOM_UNPOISON =>
    [⟨57, 0, .wo, 0, false, none⟩]
  | .CM_UNIT =>
    [⟨63, 56, .ro, 0xff, false, none⟩,
     ⟨55, 53, .ro, 0, false, none⟩,
     ⟨31, 0, .ro, 0, false, none⟩]
  | .CM_SCRUB =>
    [⟨63, 63, .rp, 0, false, none⟩,
     ⟨62, 54, .rp, 0, false, none⟩,
     ⟨53, 51, .ro, 0, false, none⟩]
  | .CM_SCRUB_CNT =>
    [⟨63, 32, .rc, 0, false, none⟩,
     ⟨31, 16, .rc, 0, false, none⟩,
     ⟨15, 0, .rc, 0, false, none⟩]
  | .CM_COMMIT =>
    [⟨63, 63, .rp, 0, false, none⟩,
     ⟨62, 62, .rp, 0, false, none⟩,
     ⟨61, 60, .ro, 0, false, none⟩,
     ⟨59, 57, .ro, 0, false, none⟩,
     ⟨56, 49, .ro, 0, false, none⟩]
  | .CM_EPOCH =>
    [⟨63, 48, .ro, 0, false, none⟩,
     ⟨47, 47, .ro, 0, false, none⟩,
     ⟨46, 0, .ro, 0, false, none⟩]
  | .CM_LEDGER =>
    [⟨63, 52, .ro, 0, false, none⟩,
     ⟨51, 40, .ro, 0, false, none⟩,
     ⟨39, 24, .rc, 0, false, none⟩,
     ⟨23, 8, .rc, 0, false, none⟩]
  | .CM_SPARE =>
    [⟨63, 62, .rp, 0, false, none⟩,
     ⟨61, 59, .ro, 0, false, none⟩,
     ⟨58, 56, .ro, 0, false, none⟩,
     ⟨55, 47, .rp, 0x1ff, false, none⟩,
     ⟨46, 38, .rp, 0x1ff, false, none⟩,
     ⟨37, 28, .rp, 0, false, none⟩]
  | .CM_SPARE_LOAD =>
    [⟨63, 32, .rp, 0, false, none⟩,
     ⟨31, 0, .ro, 0, false, none⟩]
  | .CM_SPARE_ADMIT =>
    [⟨63, 32, .rp, 0, false, none⟩,
     ⟨31, 24, .rp, 0xa, true, none⟩]
  | .CM_SPARE_BAR =>
    [⟨63, 0, .rp, 0, false, none⟩]
  | .LK_BOOT =>
    [⟨63, 63, .rp, 0, true, none⟩,
     ⟨62, 62, .ro, 0, false, none⟩,
     ⟨61, 61, .ro, 0, false, none⟩]
  | .LK_UPD =>
    [⟨63, 63, .rp, 0, false, none⟩,
     ⟨62, 60, .rp, 0, false, none⟩,
     ⟨59, 56, .rp, 0, false, none⟩,
     ⟨55, 55, .rp, 0, false, none⟩,
     ⟨54, 52, .ro, 0, false, none⟩,
     ⟨51, 48, .ro, 0, false, none⟩]
  | .LK_HANDOVER =>
    [⟨63, 63, .rp, 0, false, none⟩,
     ⟨62, 60, .ro, 0, false, none⟩,
     ⟨31, 0, .ro, 0, false, none⟩]
  | .LK_NET_CFG =>
    [⟨63, 63, .rp, 0, true, none⟩,
     ⟨62, 60, .rp, 6, true, none⟩,
     ⟨59, 48, .rp, 0, true, none⟩,
     ⟨47, 40, .rp, 0x40, true, none⟩]
  | .LK_NET_ADDR =>
    [⟨63, 0, .rp, 0, true, none⟩]
  | .LK_MKA_CFG =>
    [⟨63, 63, .rp, 0, true, none⟩,
     ⟨62, 62, .rp, 0, false, none⟩]
  | .LK_MKA_CAK =>
    [⟨63, 0, .wo, 0, false, none⟩]
  | .LK_MKA_CKN =>
    [⟨63, 0, .wo, 0, false, none⟩]
  | .LK_PTP_CFG =>
    [⟨63, 62, .rp, 1, true, none⟩,
     ⟨61, 61, .rp, 0, true, none⟩,
     ⟨60, 53, .rp, 0, true, none⟩,
     ⟨52, 37, .rp, 1, true, none⟩]
  | .LK_PTP_STATUS =>
    [⟨63, 62, .ro, 0, false, none⟩,
     ⟨61, 61, .ro, 0, false, none⟩,
     ⟨60, 45, .ro, 0, false, none⟩,
     ⟨31, 0, .ro, 0, false, none⟩]
  | .LK_MGT_STATUS =>
    [⟨63, 62, .ro, 0, false, none⟩,
     ⟨61, 61, .ro, 0, false, none⟩,
     ⟨60, 54, .ro, 0, false, none⟩,
     ⟨53, 47, .ro, 0, false, none⟩,
     ⟨31, 0, .rc, 0, false, none⟩]
  | .LK_CCP_CNT =>
    [⟨63, 48, .rc, 0, false, none⟩,
     ⟨47, 32, .rc, 0, false, none⟩,
     ⟨31, 16, .rc, 0, false, none⟩,
     ⟨15, 8, .rc, 0, false, none⟩,
     ⟨7, 0, .rc, 0, false, none⟩]
  | .EV_SRC_CFG =>
    [⟨63, 63, .rp, 1, true, none⟩,
     ⟨62, 60, .rp, 0, true, none⟩,
     ⟨59, 58, .rp, 0, true, none⟩,
     ⟨57, 54, .rp, 0, true, none⟩,
     ⟨53, 46, .rp, 1, true, none⟩,
     ⟨45, 30, .rp, 0x3e8, true, none⟩]
  | .EV_SRC_STATE =>
    [⟨63, 63, .ro, 0, false, none⟩,
     ⟨62, 62, .rp, 0, false, none⟩,
     ⟨61, 61, .w1c, 0, false, none⟩,
     ⟨60, 60, .ro, 0, false, none⟩,
     ⟨59, 59, .ro, 0, false, none⟩,
     ⟨58, 51, .ro, 0, false, none⟩,
     ⟨47, 32, .ro, 0, false, none⟩,
     ⟨31, 0, .ro, 0, false, none⟩]
  | .EV_CU_TAKE =>
    [⟨63, 63, .rp, 0, false, none⟩,
     ⟨57, 54, .rp, 0, false, none⟩,
     ⟨53, 43, .rp, 0, false, none⟩,
     ⟨42, 35, .rp, 0, false, none⟩,
     ⟨34, 19, .rp, 0, false, none⟩]
  | .EV_CU_EOE =>
    [⟨63, 63, .wo, 0, false, none⟩]
  | .EV_CU_STACK =>
    [⟨63, 59, .ro, 0, false, none⟩,
     ⟨58, 55, .ro, 0, false, none⟩,
     ⟨54, 44, .ro, 0, false, none⟩]
  | .EV_CTRL =>
    [⟨63, 54, .rp, 0xa, true, some (1, 1000)⟩,
     ⟨31, 16, .rc, 0, false, none⟩,
     ⟨15, 0, .rc, 0, false, none⟩]
  | .EV_SOFT =>
    [⟨7, 0, .wo, 0, false, none⟩]
  | .SB_IMG =>
    [⟨63, 63, .rp, 0, false, none⟩,
     ⟨62, 62, .rp, 0, false, none⟩,
     ⟨61, 61, .rp, 0, false, none⟩,
     ⟨60, 60, .ro, 0, false, none⟩,
     ⟨59, 59, .ro, 0, false, none⟩,
     ⟨58, 58, .ro, 0, false, none⟩,
     ⟨57, 57, .ro, 0, false, none⟩,
     ⟨55, 48, .ro, 0, false, none⟩,
     ⟨47, 40, .ro, 0, false, none⟩,
     ⟨39, 32, .ro, 0, false, none⟩]
  | .SB_NV =>
    [⟨63, 63, .rp, 0, false, none⟩,
     ⟨62, 62, .ro, 0, false, none⟩,
     ⟨61, 59, .ro, 0, false, none⟩,
     ⟨58, 40, .ro, 0, false, none⟩,
     ⟨31, 0, .ro, 0, false, none⟩]
  | .SB_UCAL =>
    [⟨63, 63, .rp, 0, false, none⟩,
     ⟨62, 62, .ro, 0, false, none⟩,
     ⟨61, 59, .ro, 0, false, none⟩,
     ⟨58, 40, .ro, 0, false, none⟩,
     ⟨31, 0, .ro, 0, false, none⟩]
  | .FR_PORT_CFG =>
    [⟨63, 63, .rp, 1, true, none⟩,
     ⟨62, 61, .rp, 0, true, none⟩,
     ⟨60, 60, .rp, 0, true, none⟩,
     ⟨59, 59, .rp, 1, true, none⟩,
     ⟨58, 58, .rp, 1, true, none⟩,
     ⟨57, 57, .rp, 0, false, none⟩,
     ⟨56, 49, .ro, 0xff, false, none⟩,
     ⟨31, 0, .rp, 0xffffffff, true, none⟩]
  | .FR_SUB_STATUS =>
    [⟨63, 61, .ro, 0, false, none⟩,
     ⟨60, 58, .ro, 0, false, none⟩,
     ⟨57, 57, .ro, 0, false, none⟩,
     ⟨47, 32, .ro, 0, false, none⟩,
     ⟨31, 0, .ro, 0, false, none⟩]
  | .FR_SUB_CNT_LINK =>
    [⟨63, 48, .rc, 0, false, none⟩,
     ⟨47, 32, .rc, 0, false, none⟩,
     ⟨31, 16, .rc, 0, false, none⟩,
     ⟨15, 0, .rc, 0, false, none⟩]
  | .FR_SUB_CNT_DROP =>
    [⟨63, 48, .rc, 0, false, none⟩,
     ⟨47, 32, .rc, 0, false, none⟩,
     ⟨31, 16, .rc, 0, false, none⟩,
     ⟨15, 0, .rc, 0, false, none⟩]
  | .FR_SPARE =>
    [⟨63, 56, .rp, 0xf, true, none⟩,
     ⟨55, 54, .ro, 0, false, none⟩,
     ⟨53, 48, .ro, 0x3f, false, none⟩,
     ⟨47, 47, .ro, 0, false, none⟩,
     ⟨46, 39, .ro, 0, false, none⟩]
  | .FR_LANE_STATUS =>
    [⟨63, 62, .ro, 0, false, none⟩,
     ⟨61, 59, .ro, 0, false, none⟩,
     ⟨58, 57, .ro, 0, false, none⟩,
     ⟨56, 56, .ro, 0, false, none⟩,
     ⟨55, 48, .ro, 0, false, none⟩,
     ⟨47, 47, .rp, 0, false, none⟩,
     ⟨46, 44, .ro, 0, false, none⟩]
  | .FR_LANE_FEC =>
    [⟨63, 24, .rc, 0, false, none⟩,
     ⟨23, 0, .rc, 0, false, none⟩]
  | .GL_WAYS =>
    [⟨63, 63, .ro, 0, false, none⟩,
     ⟨62, 47, .ro, 0, false, none⟩,
     ⟨46, 31, .ro, 0, false, none⟩]
  | .GL_AMAX =>
    [⟨63, 63, .rw, 0, false, none⟩,
     ⟨62, 51, .ro, 0, false, none⟩,
     ⟨50, 46, .ro, 0, false, none⟩,
     ⟨45, 42, .ro, 0, false, none⟩,
     ⟨31, 0, .ro, 0, false, none⟩]
  | .GL_AMAX_HIST =>
    [⟨63, 32, .ro, 0, false, none⟩,
     ⟨31, 0, .ro, 0, false, none⟩]
  | .GL_RESID_CFG =>
    [⟨63, 63, .rw, 0, false, none⟩,
     ⟨62, 51, .ro, 0, false, none⟩,
     ⟨50, 25, .ro, 0, false, none⟩]
  | .GL_RESID_STEP =>
    [⟨63, 32, .ro, 0, false, none⟩]
  | .GL_CNT_ARITH =>
    [⟨63, 32, .rc, 0, false, none⟩,
     ⟨31, 16, .rc, 0, false, none⟩,
     ⟨15, 8, .rc, 0, false, none⟩,
     ⟨7, 0, .rc, 0, false, none⟩]
  | .GL_CNT_ISSUE =>
    [⟨63, 24, .rc, 0, false, none⟩,
     ⟨23, 0, .rc, 0, false, none⟩]
  | .XP_STREAM =>
    [⟨63, 62, .ro, 0, false, none⟩,
     ⟨61, 61, .ro, 0, false, none⟩,
     ⟨60, 57, .ro, 0, false, none⟩,
     ⟨56, 49, .ro, 0, false, none⟩,
     ⟨48, 39, .ro, 0, false, none⟩,
     ⟨38, 31, .ro, 0, false, none⟩]
  | .XP_CNT =>
    [⟨63, 32, .rc, 0, false, none⟩,
     ⟨31, 16, .rc, 0, false, none⟩,
     ⟨15, 8, .rc, 0, false, none⟩,
     ⟨7, 0, .rc, 0, false, none⟩]
  | .CX_CTX =>
    [⟨63, 61, .ro, 0, false, none⟩,
     ⟨60, 60, .ro, 0, false, none⟩,
     ⟨59, 57, .ro, 0, false, none⟩,
     ⟨56, 54, .ro, 0, false, none⟩,
     ⟨47, 24, .ro, 1, false, none⟩]
  | .CX_CNT =>
    [⟨63, 48, .rc, 0, false, none⟩,
     ⟨47, 32, .rc, 0, false, none⟩,
     ⟨31, 16, .rc, 0, false, none⟩,
     ⟨15, 0, .rc, 0, false, none⟩]
  | .FW_SHARE =>
    [⟨63, 56, .ro, 0xff, false, none⟩,
     ⟨55, 54, .ro, 0, false, none⟩,
     ⟨53, 34, .ro, 0, false, none⟩]
  | .FW_CLR_BUF =>
    [⟨63, 48, .rw, 0x100, true, none⟩,
     ⟨47, 39, .rw, 0x40, true, none⟩,
     ⟨38, 19, .rw, 0x66666, true, none⟩,
     ⟨18, 3, .rw, 0x800, true, none⟩]
  | .FW_CLR_ALPHA =>
    [⟨63, 0, .rw, 0x6666666666666666, true, none⟩]
  | .FW_CLR_CREDIT =>
    [⟨63, 52, .rw, 0x400, true, none⟩,
     ⟨51, 40, .rw, 0x400, true, none⟩,
     ⟨39, 28, .rw, 0x40, true, none⟩,
     ⟨27, 16, .rw, 0x40, true, none⟩,
     ⟨15, 4, .rw, 0x400, true, none⟩]
  | .FW_CLR_CNT_BUF =>
    [⟨63, 48, .rc, 0, false, none⟩,
     ⟨47, 32, .rc, 0, false, none⟩,
     ⟨31, 16, .rc, 0, false, none⟩,
     ⟨15, 0, .rc, 0, false, none⟩]
  | .FW_CLR_CNT_DROP =>
    [⟨63, 48, .rc, 0, false, none⟩,
     ⟨47, 32, .rc, 0, false, none⟩,
     ⟨31, 16, .rc, 0, false, none⟩,
     ⟨15, 0, .rc, 0, false, none⟩]
  | .FW_OCC =>
    [⟨63, 43, .ro, 0, false, none⟩,
     ⟨22, 0, .ro, 0, false, none⟩]
  | .FW_LPORT_CFG =>
    [⟨63, 48, .rw, 0xffff, true, none⟩,
     ⟨47, 28, .rw, 0x1234, true, none⟩]
  | .FW_SPRAY =>
    [⟨63, 48, .rp, 0, true, none⟩]
  | .FW_EDGE_STATUS =>
    [⟨63, 62, .ro, 0, false, none⟩,
     ⟨61, 60, .ro, 0, false, none⟩,
     ⟨59, 58, .ro, 2, false, none⟩,
     ⟨31, 0, .rc, 0, false, none⟩]
  | .FW_TRAIL_CFG =>
    [⟨63, 63, .rw, 0, true, none⟩,
     ⟨62, 62, .rw, 0, true, none⟩,
     ⟨61, 56, .rw, 4, true, none⟩,
     ⟨55, 51, .rw, 3, true, none⟩,
     ⟨50, 46, .rw, 0x1f, true, none⟩,
     ⟨45, 30, .rw, 0xffff, true, none⟩,
     ⟨29, 21, .rw, 0x1ff, true, none⟩,
     ⟨20, 17, .rw, 0xa, true, none⟩,
     ⟨16, 9, .rw, 0x10, true, none⟩]
  | .FW_TRAIL_IDX =>
    [⟨63, 32, .ro, 0, false, none⟩,
     ⟨31, 0, .rw, 0, false, none⟩]
  | .FW_TRAILFM_CFG =>
    [⟨63, 63, .rp, 0, true, none⟩,
     ⟨62, 62, .rp, 0, true, none⟩,
     ⟨61, 56, .rp, 4, true, none⟩,
     ⟨55, 51, .rp, 3, true, none⟩,
     ⟨50, 46, .rp, 0x1f, true, none⟩,
     ⟨45, 30, .rp, 0xffff, true, none⟩,
     ⟨29, 21, .rp, 0x1ff, true, none⟩,
     ⟨20, 17, .rp, 0xa, true, none⟩,
     ⟨16, 9, .rp, 0x10, true, none⟩,
     ⟨8, 2, .rp, 0, true, none⟩]
  | .FW_TRAILFM_IDX =>
    [⟨63, 32, .ro, 0, false, none⟩,
     ⟨31, 0, .rp, 0, false, none⟩]
  | .FW_CNT_MESH =>
    [⟨63, 48, .rc, 0, false, none⟩,
     ⟨47, 32, .rc, 0, false, none⟩,
     ⟨31, 16, .rc, 0, false, none⟩,
     ⟨15, 0, .rc, 0, false, none⟩]
  | .SC_SCHED =>
    [⟨63, 63, .rw, 0, true, none⟩,
     ⟨62, 55, .rw, 0, true, none⟩,
     ⟨54, 37, .rw, 0x2dc6c, true, none⟩,
     ⟨36, 13, .rw, 0x10000, true, none⟩,
     ⟨12, 12, .ro, 0, false, none⟩]
  | .SC_PSTATE =>
    [⟨63, 40, .ro, 0, false, none⟩]
  | .SC_CLASS_CFG =>
    [⟨63, 63, .rw, 0, true, none⟩,
     ⟨62, 62, .rw, 0, true, none⟩,
     ⟨61, 46, .rw, 0x800, true, none⟩,
     ⟨45, 28, .rw, 0x2dc6c, true, none⟩,
     ⟨27, 4, .rw, 0x10000, true, none⟩,
     ⟨3, 3, .ro, 0, false, none⟩]
  | .SC_CLASS_STATE =>
    [⟨63, 40, .ro, 0, false, none⟩,
     ⟨39, 23, .ro, 0, false, none⟩,
     ⟨22, 22, .ro, 1, false, none⟩,
     ⟨21, 21, .ro, 0, false, none⟩]
  | .SC_GATE_CTRL =>
    [⟨63, 63, .rw, 0, true, none⟩,
     ⟨62, 62, .rw, 0, false, none⟩,
     ⟨61, 61, .rw, 0, false, none⟩,
     ⟨60, 60, .ro, 0, false, none⟩,
     ⟨59, 59, .ro, 0, false, none⟩,
     ⟨58, 56, .ro, 0, false, none⟩,
     ⟨55, 45, .rw, 0, false, none⟩,
     ⟨44, 34, .ro, 1, false, none⟩,
     ⟨33, 23, .ro, 0, false, none⟩]
  | .SC_GATE_BASE =>
    [⟨63, 0, .rw, 0, false, none⟩]
  | .SC_GATE_CYCLE =>
    [⟨63, 32, .rw, 0xf4240, false, none⟩]
  | .SC_GATE_TS =>
    [⟨63, 0, .ro, 0, false, none⟩]
  | .SC_GATE_ENTRY =>
    [⟨63, 48, .rw, 0xffff, false, none⟩,
     ⟨31, 0, .rw, 0, false, none⟩]
  | .SC_POLMAP =>
    [⟨63, 44, .rw, 0xfffff, true, none⟩]
  | .SC_POL_CFG =>
    [⟨63, 62, .rw, 0, true, none⟩,
     ⟨61, 44, .rw, 0x2dc6c, true, none⟩,
     ⟨43, 20, .rw, 0x10000, true, none⟩,
     ⟨19, 19, .ro, 0, false, none⟩]
  | .SC_POL_CNT =>
    [⟨63, 32, .rc, 0, false, none⟩,
     ⟨31, 0, .rc, 0, false, none⟩]
  | .SC_MESH =>
    [⟨63, 63, .ro, 0, false, none⟩,
     ⟨62, 31, .ro, 0, false, none⟩,
     ⟨30, 23, .rp, 1, true, none⟩]

@[reducible] def PW_GATE.CU_IDLE : Fld := ⟨.PW_GATE, 63, 48⟩
@[reducible] def PW_GATE.COPSE_IDLE : Fld := ⟨.PW_GATE, 47, 32⟩
@[reducible] def PW_STBY.RETAIN : Fld := ⟨.PW_STBY, 63, 60⟩
@[reducible] def PW_WAKE_LANE.EN : Fld := ⟨.PW_WAKE_LANE, 63, 63⟩
@[reducible] def PW_WAKE_LANE.FRINGE : Fld := ⟨.PW_WAKE_LANE, 62, 59⟩
@[reducible] def PW_WAKE_LANE.LANE : Fld := ⟨.PW_WAKE_LANE, 58, 53⟩
@[reducible] def PW_WAKE_LANE.THRESH : Fld := ⟨.PW_WAKE_LANE, 52, 45⟩
@[reducible] def PW_WAKE_LANE.HYST : Fld := ⟨.PW_WAKE_LANE, 44, 40⟩
@[reducible] def PW_WAKE_LANE.QUAL : Fld := ⟨.PW_WAKE_LANE, 39, 28⟩
@[reducible] def PW_WAKE_VIN.EN : Fld := ⟨.PW_WAKE_VIN, 63, 63⟩
@[reducible] def PW_WAKE_VIN.THRESH : Fld := ⟨.PW_WAKE_VIN, 62, 56⟩
@[reducible] def PW_WAKE_VIN.HYST : Fld := ⟨.PW_WAKE_VIN, 55, 51⟩
@[reducible] def PW_WAKE_VIN.QUAL : Fld := ⟨.PW_WAKE_VIN, 50, 39⟩
@[reducible] def PW_WAKE_PAD.EN : Fld := ⟨.PW_WAKE_PAD, 63, 63⟩
@[reducible] def PW_WAKE_PAD.POL : Fld := ⟨.PW_WAKE_PAD, 62, 62⟩
@[reducible] def PW_WAKE_PAD.THRESH : Fld := ⟨.PW_WAKE_PAD, 61, 55⟩
@[reducible] def PW_WAKE_PAD.HYST : Fld := ⟨.PW_WAKE_PAD, 54, 50⟩
@[reducible] def PW_WAKE_PAD.QUAL : Fld := ⟨.PW_WAKE_PAD, 49, 38⟩
@[reducible] def PW_STATE.CURRENT : Fld := ⟨.PW_STATE, 63, 62⟩
@[reducible] def PW_STATE.TARGET : Fld := ⟨.PW_STATE, 61, 60⟩
@[reducible] def PW_STATE.WAKE_TARGET : Fld := ⟨.PW_STATE, 59, 58⟩
@[reducible] def PW_STATE.BUSY : Fld := ⟨.PW_STATE, 57, 57⟩
@[reducible] def PW_STATE.LAST_RESULT : Fld := ⟨.PW_STATE, 56, 54⟩
@[reducible] def PW_STATE.WAKE_CAUSE : Fld := ⟨.PW_STATE, 53, 50⟩
@[reducible] def PW_STATE.RESET_CAUSE : Fld := ⟨.PW_STATE, 49, 46⟩
@[reducible] def PW_STATE.AO_FAIL : Fld := ⟨.PW_STATE, 45, 45⟩
@[reducible] def PW_LEASE.LEVEL : Fld := ⟨.PW_LEASE, 63, 62⟩
@[reducible] def PW_ENTRY_REFUSED.CLEARING : Fld := ⟨.PW_ENTRY_REFUSED, 63, 48⟩
@[reducible] def PW_ENTRY_REFUSED.LOOKOUT : Fld := ⟨.PW_ENTRY_REFUSED, 47, 32⟩
@[reducible] def PW_ENTRY_REFUSED.PARTNER : Fld := ⟨.PW_ENTRY_REFUSED, 31, 16⟩
@[reducible] def PW_ENTRY_REFUSED.THERMAL : Fld := ⟨.PW_ENTRY_REFUSED, 15, 0⟩
@[reducible] def PW_ENTRY_ABORTED.CLEARING : Fld := ⟨.PW_ENTRY_ABORTED, 63, 48⟩
@[reducible] def PW_ENTRY_ABORTED.LOOKOUT : Fld := ⟨.PW_ENTRY_ABORTED, 47, 32⟩
@[reducible] def PW_ENTRY_ABORTED.PARTNER : Fld := ⟨.PW_ENTRY_ABORTED, 31, 16⟩
@[reducible] def PW_ENTRY_ABORTED.THERMAL : Fld := ⟨.PW_ENTRY_ABORTED, 15, 0⟩
@[reducible] def PW_ENTRY_LAST.KIND : Fld := ⟨.PW_ENTRY_LAST, 63, 63⟩
@[reducible] def PW_ENTRY_LAST.CLASS : Fld := ⟨.PW_ENTRY_LAST, 62, 61⟩
@[reducible] def PW_ENTRY_LAST.ID : Fld := ⟨.PW_ENTRY_LAST, 60, 52⟩
@[reducible] def PW_ENTRY_LAST.TIME : Fld := ⟨.PW_ENTRY_LAST, 31, 0⟩
@[reducible] def PW_THERM.CAP : Fld := ⟨.PW_THERM, 63, 52⟩
@[reducible] def PW_THERM.THROTTLE_ON : Fld := ⟨.PW_THERM, 51, 45⟩
@[reducible] def PW_THERM.CUT : Fld := ⟨.PW_THERM, 39, 36⟩
@[reducible] def PW_THERM.CUT_THERMAL : Fld := ⟨.PW_THERM, 35, 35⟩
@[reducible] def PW_THERM.CUT_CAP : Fld := ⟨.PW_THERM, 34, 34⟩
@[reducible] def PW_THERM.CUT_TICKS : Fld := ⟨.PW_THERM, 31, 0⟩
@[reducible] def AT_DIE_INFO.DTYPE : Fld := ⟨.AT_DIE_INFO, 63, 61⟩
@[reducible] def AT_DIE_INFO.INDEX : Fld := ⟨.AT_DIE_INFO, 60, 57⟩
@[reducible] def AT_DIE_INFO.STATE : Fld := ⟨.AT_DIE_INFO, 56, 55⟩
@[reducible] def AT_DIE_INFO.SLOT : Fld := ⟨.AT_DIE_INFO, 54, 54⟩
@[reducible] def AT_DIE_INFO.SVN : Fld := ⟨.AT_DIE_INFO, 53, 46⟩
@[reducible] def AT_DIE_INFO.STAGED_SVN : Fld := ⟨.AT_DIE_INFO, 45, 38⟩
@[reducible] def AT_DIE_INFO.GEN : Fld := ⟨.AT_DIE_INFO, 31, 0⟩
@[reducible] def AT_DIE_MEAS.BYTES : Fld := ⟨.AT_DIE_MEAS, 63, 0⟩
@[reducible] def AT_SIGN.SIGSEQ : Fld := ⟨.AT_SIGN, 63, 32⟩
@[reducible] def AT_SIGN.PENDING : Fld := ⟨.AT_SIGN, 31, 31⟩
@[reducible] def AT_ANCHOR_CTRL.EN : Fld := ⟨.AT_ANCHOR_CTRL, 63, 63⟩
@[reducible] def AT_ANCHOR_DIGEST.BYTES : Fld := ⟨.AT_ANCHOR_DIGEST, 63, 0⟩
@[reducible] def AT_FM_CTRL.EN : Fld := ⟨.AT_FM_CTRL, 63, 63⟩
@[reducible] def AT_FM_DIGEST.BYTES : Fld := ⟨.AT_FM_DIGEST, 63, 0⟩
@[reducible] def AT_CCPKEY_CTRL.EN : Fld := ⟨.AT_CCPKEY_CTRL, 63, 63⟩
@[reducible] def AT_CCPKEY_DIGEST.BYTES : Fld := ⟨.AT_CCPKEY_DIGEST, 63, 0⟩
@[reducible] def EC_PATROL.EN : Fld := ⟨.EC_PATROL, 63, 63⟩
@[reducible] def EC_PATROL.SRAM_MIN : Fld := ⟨.EC_PATROL, 62, 52⟩
@[reducible] def EC_PATROL.US_HOUR : Fld := ⟨.EC_PATROL, 51, 44⟩
@[reducible] def EC_DIAG_CTRL.GO : Fld := ⟨.EC_DIAG_CTRL, 63, 63⟩
@[reducible] def EC_DIAG_CTRL.OP : Fld := ⟨.EC_DIAG_CTRL, 62, 61⟩
@[reducible] def EC_DIAG_CTRL.DIE : Fld := ⟨.EC_DIAG_CTRL, 60, 56⟩
@[reducible] def EC_DIAG_CTRL.ARRAY : Fld := ⟨.EC_DIAG_CTRL, 55, 52⟩
@[reducible] def EC_DIAG_CTRL.INST : Fld := ⟨.EC_DIAG_CTRL, 51, 44⟩
@[reducible] def EC_DIAG_CTRL.CHECK : Fld := ⟨.EC_DIAG_CTRL, 43, 28⟩
@[reducible] def EC_DIAG_CTRL.RESULT : Fld := ⟨.EC_DIAG_CTRL, 27, 25⟩
@[reducible] def EC_DIAG_CTRL.MARKS : Fld := ⟨.EC_DIAG_CTRL, 24, 20⟩
@[reducible] def EC_DIAG_ADDR.WORD : Fld := ⟨.EC_DIAG_ADDR, 31, 0⟩
@[reducible] def EC_DIAG_DATA.BYTES : Fld := ⟨.EC_DIAG_DATA, 63, 0⟩
@[reducible] def EC_DIE_CNT.TRANSIENT : Fld := ⟨.EC_DIE_CNT, 63, 48⟩
@[reducible] def EC_DIE_CNT.LASTING_CE : Fld := ⟨.EC_DIE_CNT, 47, 40⟩
@[reducible] def EC_DIE_CNT.LASTING_UE : Fld := ⟨.EC_DIE_CNT, 39, 32⟩
@[reducible] def EC_DIE_CNT.RETIRED : Fld := ⟨.EC_DIE_CNT, 31, 24⟩
@[reducible] def EC_DIE_CNT.RESETS : Fld := ⟨.EC_DIE_CNT, 23, 16⟩
@[reducible] def EC_DIE_CNT.DIAG_HITS : Fld := ⟨.EC_DIE_CNT, 15, 0⟩
@[reducible] def EC_DIE_LAST.ARRAY : Fld := ⟨.EC_DIE_LAST, 63, 60⟩
@[reducible] def EC_DIE_LAST.INST : Fld := ⟨.EC_DIE_LAST, 59, 52⟩
@[reducible] def EC_DIE_LAST.SYNDROME : Fld := ⟨.EC_DIE_LAST, 51, 36⟩
@[reducible] def EC_DIE_LAST.CLASS : Fld := ⟨.EC_DIE_LAST, 35, 34⟩
@[reducible] def EC_DIE_LAST.WORD : Fld := ⟨.EC_DIE_LAST, 31, 0⟩
@[reducible] def EC_DIE_SPARES.FREE : Fld := ⟨.EC_DIE_SPARES, 63, 0⟩
@[reducible] def EC_RESET_LAST.SCOPE : Fld := ⟨.EC_RESET_LAST, 63, 60⟩
@[reducible] def EC_RESET_LAST.DIE : Fld := ⟨.EC_RESET_LAST, 59, 55⟩
@[reducible] def EC_RESET_LAST.INST : Fld := ⟨.EC_RESET_LAST, 54, 47⟩
@[reducible] def EC_RESET_LAST.ARRAY : Fld := ⟨.EC_RESET_LAST, 46, 43⟩
@[reducible] def EC_RESET_LAST.MERGED : Fld := ⟨.EC_RESET_LAST, 42, 32⟩
@[reducible] def EC_RESET_LAST.TIME : Fld := ⟨.EC_RESET_LAST, 31, 0⟩
@[reducible] def CM_SELF.NODE : Fld := ⟨.CM_SELF, 63, 48⟩
@[reducible] def CM_TXN_TIMEOUT.T0 : Fld := ⟨.CM_TXN_TIMEOUT, 63, 48⟩
@[reducible] def CM_TXN_TIMEOUT.T1 : Fld := ⟨.CM_TXN_TIMEOUT, 47, 32⟩
@[reducible] def CM_TXN_TIMEOUT.T2 : Fld := ⟨.CM_TXN_TIMEOUT, 31, 16⟩
@[reducible] def CM_TXN_TIMEOUT.AGENT : Fld := ⟨.CM_TXN_TIMEOUT, 15, 0⟩
@[reducible] def CM_CLR_TXN_ERR.DENIED_WINDOW : Fld := ⟨.CM_CLR_TXN_ERR, 63, 48⟩
@[reducible] def CM_CLR_TXN_ERR.TIMEOUT : Fld := ⟨.CM_CLR_TXN_ERR, 47, 32⟩
@[reducible] def CM_CLR_TXN_ERR.LATE_RSP : Fld := ⟨.CM_CLR_TXN_ERR, 31, 16⟩
@[reducible] def CM_CLR_TXN_ERR.QUOTA : Fld := ⟨.CM_CLR_TXN_ERR, 15, 0⟩
@[reducible] def CM_CLR_T2_STAT.STAGE_HIT : Fld := ⟨.CM_CLR_T2_STAT, 63, 40⟩
@[reducible] def CM_CLR_T2_STAT.STAGE_MISS : Fld := ⟨.CM_CLR_T2_STAT, 39, 16⟩
@[reducible] def CM_CLR_T2_STAT.UNITS : Fld := ⟨.CM_CLR_T2_STAT, 15, 0⟩
@[reducible] def CM_CLR_COH_STAT.BACK_INV : Fld := ⟨.CM_CLR_COH_STAT, 63, 48⟩
@[reducible] def CM_CLR_COH_STAT.WB_CROSS : Fld := ⟨.CM_CLR_COH_STAT, 47, 32⟩
@[reducible] def CM_CLR_COH_STAT.LAPSED : Fld := ⟨.CM_CLR_COH_STAT, 31, 16⟩
@[reducible] def CM_CLR_COH_STAT.SUPERSEDED : Fld := ⟨.CM_CLR_COH_STAT, 15, 0⟩
@[reducible] def CM_CLR_CONF.CONF : Fld := ⟨.CM_CLR_CONF, 63, 62⟩
@[reducible] def CM_CLR_CONF.MAPGEN : Fld := ⟨.CM_CLR_CONF, 31, 0⟩
@[reducible] def CM_CLR_HANDLE.HANDLE : Fld := ⟨.CM_CLR_HANDLE, 63, 0⟩
@[reducible] def CM_COH.SNOOP_LIMIT : Fld := ⟨.CM_COH, 63, 48⟩
@[reducible] def CM_COH.INV_LIMIT : Fld := ⟨.CM_COH, 47, 32⟩
@[reducible] def CM_DOM.STATE : Fld := ⟨.CM_DOM, 63, 62⟩
@[reducible] def CM_DOM.RESET : Fld := ⟨.CM_DOM, 61, 61⟩
@[reducible] def CM_DOM.CAUSE : Fld := ⟨.CM_DOM, 60, 58⟩
@[reducible] def CM_DOM.PORT : Fld := ⟨.CM_DOM, 57, 49⟩
@[reducible] def CM_DOM.RESULT : Fld := ⟨.CM_DOM, 48, 47⟩
@[reducible] def CM_DOM.POISONED : Fld := ⟨.CM_DOM, 31, 0⟩
@[reducible] def CM_DOM_UNPOISON.LINE : Fld := ⟨.CM_DOM_UNPOISON, 57, 0⟩
@[reducible] def CM_UNIT.CLR : Fld := ⟨.CM_UNIT, 63, 56⟩
@[reducible] def CM_UNIT.STATE : Fld := ⟨.CM_UNIT, 55, 53⟩
@[reducible] def CM_UNIT.LAST_REC : Fld := ⟨.CM_UNIT, 31, 0⟩
@[reducible] def CM_SCRUB.GO : Fld := ⟨.CM_SCRUB, 63, 63⟩
@[reducible] def CM_SCRUB.U : Fld := ⟨.CM_SCRUB, 62, 54⟩
@[reducible] def CM_SCRUB.RESULT : Fld := ⟨.CM_SCRUB, 53, 51⟩
@[reducible] def CM_SCRUB_CNT.DONE : Fld := ⟨.CM_SCRUB_CNT, 63, 32⟩
@[reducible] def CM_SCRUB_CNT.FAILED : Fld := ⟨.CM_SCRUB_CNT, 31, 16⟩
@[reducible] def CM_SCRUB_CNT.RESTARTED : Fld := ⟨.CM_SCRUB_CNT, 15, 0⟩
@[reducible] def CM_COMMIT.GO : Fld := ⟨.CM_COMMIT, 63, 63⟩
@[reducible] def CM_COMMIT.QUIESCE : Fld := ⟨.CM_COMMIT, 62, 62⟩
@[reducible] def CM_COMMIT.PHASE : Fld := ⟨.CM_COMMIT, 61, 60⟩
@[reducible] def CM_COMMIT.RESULT : Fld := ⟨.CM_COMMIT, 59, 57⟩
@[reducible] def CM_COMMIT.REASON : Fld := ⟨.CM_COMMIT, 56, 49⟩
@[reducible] def CM_EPOCH.EPOCH : Fld := ⟨.CM_EPOCH, 63, 48⟩
@[reducible] def CM_EPOCH.DRAIN : Fld := ⟨.CM_EPOCH, 47, 47⟩
@[reducible] def CM_EPOCH.TC : Fld := ⟨.CM_EPOCH, 46, 0⟩
@[reducible] def CM_LEDGER.USED : Fld := ⟨.CM_LEDGER, 63, 52⟩
@[reducible] def CM_LEDGER.MOVING : Fld := ⟨.CM_LEDGER, 51, 40⟩
@[reducible] def CM_LEDGER.REVERTED : Fld := ⟨.CM_LEDGER, 39, 24⟩
@[reducible] def CM_LEDGER.ACCEPTED : Fld := ⟨.CM_LEDGER, 23, 8⟩
@[reducible] def CM_SPARE.CMD : Fld := ⟨.CM_SPARE, 63, 62⟩
@[reducible] def CM_SPARE.PHASE : Fld := ⟨.CM_SPARE, 61, 59⟩
@[reducible] def CM_SPARE.RESULT : Fld := ⟨.CM_SPARE, 58, 56⟩
@[reducible] def CM_SPARE.SPORT : Fld := ⟨.CM_SPARE, 55, 47⟩
@[reducible] def CM_SPARE.PPORT : Fld := ⟨.CM_SPARE, 46, 38⟩
@[reducible] def CM_SPARE.ROLE : Fld := ⟨.CM_SPARE, 37, 28⟩
@[reducible] def CM_SPARE_LOAD.LEN : Fld := ⟨.CM_SPARE_LOAD, 63, 32⟩
@[reducible] def CM_SPARE_LOAD.DONE : Fld := ⟨.CM_SPARE_LOAD, 31, 0⟩
@[reducible] def CM_SPARE_ADMIT.STEP : Fld := ⟨.CM_SPARE_ADMIT, 63, 32⟩
@[reducible] def CM_SPARE_ADMIT.STALL : Fld := ⟨.CM_SPARE_ADMIT, 31, 24⟩
@[reducible] def CM_SPARE_BAR.HANDLE : Fld := ⟨.CM_SPARE_BAR, 63, 0⟩
@[reducible] def LK_BOOT.PREFER : Fld := ⟨.LK_BOOT, 63, 63⟩
@[reducible] def LK_BOOT.ACTIVE : Fld := ⟨.LK_BOOT, 62, 62⟩
@[reducible] def LK_BOOT.FROM_STANDBY : Fld := ⟨.LK_BOOT, 61, 61⟩
@[reducible] def LK_UPD.GO : Fld := ⟨.LK_UPD, 63, 63⟩
@[reducible] def LK_UPD.DTYPE : Fld := ⟨.LK_UPD, 62, 60⟩
@[reducible] def LK_UPD.INDEX : Fld := ⟨.LK_UPD, 59, 56⟩
@[reducible] def LK_UPD.SLOT : Fld := ⟨.LK_UPD, 55, 55⟩
@[reducible] def LK_UPD.PHASE : Fld := ⟨.LK_UPD, 54, 52⟩
@[reducible] def LK_UPD.RESULT : Fld := ⟨.LK_UPD, 51, 48⟩
@[reducible] def LK_HANDOVER.GO : Fld := ⟨.LK_HANDOVER, 63, 63⟩
@[reducible] def LK_HANDOVER.LAST : Fld := ⟨.LK_HANDOVER, 62, 60⟩
@[reducible] def LK_HANDOVER.TIME : Fld := ⟨.LK_HANDOVER, 31, 0⟩
@[reducible] def LK_NET_CFG.VLAN_EN : Fld := ⟨.LK_NET_CFG, 63, 63⟩
@[reducible] def LK_NET_CFG.PCP : Fld := ⟨.LK_NET_CFG, 62, 60⟩
@[reducible] def LK_NET_CFG.VID : Fld := ⟨.LK_NET_CFG, 59, 48⟩
@[reducible] def LK_NET_CFG.PREFIX : Fld := ⟨.LK_NET_CFG, 47, 40⟩
@[reducible] def LK_NET_ADDR.BYTES : Fld := ⟨.LK_NET_ADDR, 63, 0⟩
@[reducible] def LK_MKA_CFG.REQUIRE : Fld := ⟨.LK_MKA_CFG, 63, 63⟩
@[reducible] def LK_MKA_CFG.INSTALL : Fld := ⟨.LK_MKA_CFG, 62, 62⟩
@[reducible] def LK_MKA_CAK.BYTES : Fld := ⟨.LK_MKA_CAK, 63, 0⟩
@[reducible] def LK_MKA_CKN.BYTES : Fld := ⟨.LK_MKA_CKN, 63, 0⟩
@[reducible] def LK_PTP_CFG.SRC : Fld := ⟨.LK_PTP_CFG, 63, 62⟩
@[reducible] def LK_PTP_CFG.PPS_OUT : Fld := ⟨.LK_PTP_CFG, 61, 61⟩
@[reducible] def LK_PTP_CFG.DOMAIN : Fld := ⟨.LK_PTP_CFG, 60, 53⟩
@[reducible] def LK_PTP_CFG.STEP_US : Fld := ⟨.LK_PTP_CFG, 52, 37⟩
@[reducible] def LK_PTP_STATUS.STATE : Fld := ⟨.LK_PTP_STATUS, 63, 62⟩
@[reducible] def LK_PTP_STATUS.PPS_FAULT : Fld := ⟨.LK_PTP_STATUS, 61, 61⟩
@[reducible] def LK_PTP_STATUS.STEPS : Fld := ⟨.LK_PTP_STATUS, 60, 45⟩
@[reducible] def LK_PTP_STATUS.OFFSET : Fld := ⟨.LK_PTP_STATUS, 31, 0⟩
@[reducible] def LK_MGT_STATUS.MODE : Fld := ⟨.LK_MGT_STATUS, 63, 62⟩
@[reducible] def LK_MGT_STATUS.SECURE : Fld := ⟨.LK_MGT_STATUS, 61, 61⟩
@[reducible] def LK_MGT_STATUS.SESSIONS : Fld := ⟨.LK_MGT_STATUS, 60, 54⟩
@[reducible] def LK_MGT_STATUS.SLOTS : Fld := ⟨.LK_MGT_STATUS, 53, 47⟩
@[reducible] def LK_MGT_STATUS.DROP : Fld := ⟨.LK_MGT_STATUS, 31, 0⟩
@[reducible] def LK_CCP_CNT.TAG_FAIL : Fld := ⟨.LK_CCP_CNT, 63, 48⟩
@[reducible] def LK_CCP_CNT.REPLAY : Fld := ⟨.LK_CCP_CNT, 47, 32⟩
@[reducible] def LK_CCP_CNT.AUTH_FAIL : Fld := ⟨.LK_CCP_CNT, 31, 16⟩
@[reducible] def LK_CCP_CNT.REC_LOST : Fld := ⟨.LK_CCP_CNT, 15, 8⟩
@[reducible] def LK_CCP_CNT.EVT_LOST : Fld := ⟨.LK_CCP_CNT, 7, 0⟩
@[reducible] def EV_SRC_CFG.EN : Fld := ⟨.EV_SRC_CFG, 63, 63⟩
@[reducible] def EV_SRC_CFG.SENSE : Fld := ⟨.EV_SRC_CFG, 62, 60⟩
@[reducible] def EV_SRC_CFG.TARGET : Fld := ⟨.EV_SRC_CFG, 59, 58⟩
@[reducible] def EV_SRC_CFG.PRIO : Fld := ⟨.EV_SRC_CFG, 57, 54⟩
@[reducible] def EV_SRC_CFG.COUNT : Fld := ⟨.EV_SRC_CFG, 53, 46⟩
@[reducible] def EV_SRC_CFG.TIME : Fld := ⟨.EV_SRC_CFG, 45, 30⟩
@[reducible] def EV_SRC_STATE.PENDING : Fld := ⟨.EV_SRC_STATE, 63, 63⟩
@[reducible] def EV_SRC_STATE.MASK : Fld := ⟨.EV_SRC_STATE, 62, 62⟩
@[reducible] def EV_SRC_STATE.STUCK : Fld := ⟨.EV_SRC_STATE, 61, 61⟩
@[reducible] def EV_SRC_STATE.ACTIVE : Fld := ⟨.EV_SRC_STATE, 60, 60⟩
@[reducible] def EV_SRC_STATE.RAW : Fld := ⟨.EV_SRC_STATE, 59, 59⟩
@[reducible] def EV_SRC_STATE.ACC : Fld := ⟨.EV_SRC_STATE, 58, 51⟩
@[reducible] def EV_SRC_STATE.LOST : Fld := ⟨.EV_SRC_STATE, 47, 32⟩
@[reducible] def EV_SRC_STATE.EDGES : Fld := ⟨.EV_SRC_STATE, 31, 0⟩
@[reducible] def EV_CU_TAKE.VALID : Fld := ⟨.EV_CU_TAKE, 63, 63⟩
@[reducible] def EV_CU_TAKE.PRIO : Fld := ⟨.EV_CU_TAKE, 57, 54⟩
@[reducible] def EV_CU_TAKE.SRC : Fld := ⟨.EV_CU_TAKE, 53, 43⟩
@[reducible] def EV_CU_TAKE.COUNT : Fld := ⟨.EV_CU_TAKE, 42, 35⟩
@[reducible] def EV_CU_TAKE.LOST : Fld := ⟨.EV_CU_TAKE, 34, 19⟩
@[reducible] def EV_CU_EOE.GO : Fld := ⟨.EV_CU_EOE, 63, 63⟩
@[reducible] def EV_CU_STACK.DEPTH : Fld := ⟨.EV_CU_STACK, 63, 59⟩
@[reducible] def EV_CU_STACK.RUNNING : Fld := ⟨.EV_CU_STACK, 58, 55⟩
@[reducible] def EV_CU_STACK.TOP_SRC : Fld := ⟨.EV_CU_STACK, 54, 44⟩
@[reducible] def EV_CTRL.STUCK_LIMIT : Fld := ⟨.EV_CTRL, 63, 54⟩
@[reducible] def EV_CTRL.STUCK_CNT : Fld := ⟨.EV_CTRL, 31, 16⟩
@[reducible] def EV_CTRL.EOE_EMPTY : Fld := ⟨.EV_CTRL, 15, 0⟩
@[reducible] def EV_SOFT.DOOR : Fld := ⟨.EV_SOFT, 7, 0⟩
@[reducible] def SB_IMG.SET_A : Fld := ⟨.SB_IMG, 63, 63⟩
@[reducible] def SB_IMG.SET_B : Fld := ⟨.SB_IMG, 62, 62⟩
@[reducible] def SB_IMG.RAISE_SVN : Fld := ⟨.SB_IMG, 61, 61⟩
@[reducible] def SB_IMG.ACTIVE : Fld := ⟨.SB_IMG, 60, 60⟩
@[reducible] def SB_IMG.FALLBACK : Fld := ⟨.SB_IMG, 59, 59⟩
@[reducible] def SB_IMG.A_GOOD : Fld := ⟨.SB_IMG, 58, 58⟩
@[reducible] def SB_IMG.B_GOOD : Fld := ⟨.SB_IMG, 57, 57⟩
@[reducible] def SB_IMG.MIN_SVN : Fld := ⟨.SB_IMG, 55, 48⟩
@[reducible] def SB_IMG.A_SVN : Fld := ⟨.SB_IMG, 47, 40⟩
@[reducible] def SB_IMG.B_SVN : Fld := ⟨.SB_IMG, 39, 32⟩
@[reducible] def SB_NV.COMMIT : Fld := ⟨.SB_NV, 63, 63⟩
@[reducible] def SB_NV.ACTIVE : Fld := ⟨.SB_NV, 62, 62⟩
@[reducible] def SB_NV.RESULT : Fld := ⟨.SB_NV, 61, 59⟩
@[reducible] def SB_NV.DROPPED : Fld := ⟨.SB_NV, 58, 40⟩
@[reducible] def SB_NV.SEQ : Fld := ⟨.SB_NV, 31, 0⟩
@[reducible] def SB_UCAL.COMMIT : Fld := ⟨.SB_UCAL, 63, 63⟩
@[reducible] def SB_UCAL.ACTIVE : Fld := ⟨.SB_UCAL, 62, 62⟩
@[reducible] def SB_UCAL.RESULT : Fld := ⟨.SB_UCAL, 61, 59⟩
@[reducible] def SB_UCAL.DROPPED : Fld := ⟨.SB_UCAL, 58, 40⟩
@[reducible] def SB_UCAL.SEQ : Fld := ⟨.SB_UCAL, 31, 0⟩
@[reducible] def FR_PORT_CFG.EN : Fld := ⟨.FR_PORT_CFG, 63, 63⟩
@[reducible] def FR_PORT_CFG.MODE : Fld := ⟨.FR_PORT_CFG, 62, 61⟩
@[reducible] def FR_PORT_CFG.ENC_REQ : Fld := ⟨.FR_PORT_CFG, 60, 60⟩
@[reducible] def FR_PORT_CFG.PD_ASK : Fld := ⟨.FR_PORT_CFG, 59, 59⟩
@[reducible] def FR_PORT_CFG.NARROW : Fld := ⟨.FR_PORT_CFG, 58, 58⟩
@[reducible] def FR_PORT_CFG.RETRAIN : Fld := ⟨.FR_PORT_CFG, 57, 57⟩
@[reducible] def FR_PORT_CFG.CLR : Fld := ⟨.FR_PORT_CFG, 56, 49⟩
@[reducible] def FR_PORT_CFG.KEY_LIFE : Fld := ⟨.FR_PORT_CFG, 31, 0⟩
@[reducible] def FR_SUB_STATUS.STATE : Fld := ⟨.FR_SUB_STATUS, 63, 61⟩
@[reducible] def FR_SUB_STATUS.WIDTH : Fld := ⟨.FR_SUB_STATUS, 60, 58⟩
@[reducible] def FR_SUB_STATUS.ENC : Fld := ⟨.FR_SUB_STATUS, 57, 57⟩
@[reducible] def FR_SUB_STATUS.PARTNER : Fld := ⟨.FR_SUB_STATUS, 47, 32⟩
@[reducible] def FR_SUB_STATUS.KEY_GEN : Fld := ⟨.FR_SUB_STATUS, 31, 0⟩
@[reducible] def FR_SUB_CNT_LINK.CRC_ERR : Fld := ⟨.FR_SUB_CNT_LINK, 63, 48⟩
@[reducible] def FR_SUB_CNT_LINK.REPLAY : Fld := ⟨.FR_SUB_CNT_LINK, 47, 32⟩
@[reducible] def FR_SUB_CNT_LINK.SPARE : Fld := ⟨.FR_SUB_CNT_LINK, 31, 16⟩
@[reducible] def FR_SUB_CNT_LINK.TRAIN_FAIL : Fld := ⟨.FR_SUB_CNT_LINK, 15, 0⟩
@[reducible] def FR_SUB_CNT_DROP.CLR_MISMATCH : Fld := ⟨.FR_SUB_CNT_DROP, 63, 48⟩
@[reducible] def FR_SUB_CNT_DROP.BAD_FTYPE : Fld := ⟨.FR_SUB_CNT_DROP, 47, 32⟩
@[reducible] def FR_SUB_CNT_DROP.TAG_FAIL : Fld := ⟨.FR_SUB_CNT_DROP, 31, 16⟩
@[reducible] def FR_SUB_CNT_DROP.DROPPED : Fld := ⟨.FR_SUB_CNT_DROP, 15, 0⟩
@[reducible] def FR_SPARE.GROUP : Fld := ⟨.FR_SPARE, 63, 56⟩
@[reducible] def FR_SPARE.STATE : Fld := ⟨.FR_SPARE, 55, 54⟩
@[reducible] def FR_SPARE.LANE : Fld := ⟨.FR_SPARE, 53, 48⟩
@[reducible] def FR_SPARE.USE : Fld := ⟨.FR_SPARE, 47, 47⟩
@[reducible] def FR_SPARE.MISMATCH : Fld := ⟨.FR_SPARE, 46, 39⟩
@[reducible] def FR_LANE_STATUS.ROLE : Fld := ⟨.FR_LANE_STATUS, 63, 62⟩
@[reducible] def FR_LANE_STATUS.PORT : Fld := ⟨.FR_LANE_STATUS, 61, 59⟩
@[reducible] def FR_LANE_STATUS.POS : Fld := ⟨.FR_LANE_STATUS, 58, 57⟩
@[reducible] def FR_LANE_STATUS.LOS : Fld := ⟨.FR_LANE_STATUS, 56, 56⟩
@[reducible] def FR_LANE_STATUS.RXPWR : Fld := ⟨.FR_LANE_STATUS, 55, 48⟩
@[reducible] def FR_LANE_STATUS.RECAL : Fld := ⟨.FR_LANE_STATUS, 47, 47⟩
@[reducible] def FR_LANE_STATUS.RECAL_RESULT : Fld := ⟨.FR_LANE_STATUS, 46, 44⟩
@[reducible] def FR_LANE_FEC.CORR_SYM : Fld := ⟨.FR_LANE_FEC, 63, 24⟩
@[reducible] def FR_LANE_FEC.UNCORR : Fld := ⟨.FR_LANE_FEC, 23, 0⟩
@[reducible] def GL_WAYS.VALID : Fld := ⟨.GL_WAYS, 63, 63⟩
@[reducible] def GL_WAYS.PRIV : Fld := ⟨.GL_WAYS, 62, 47⟩
@[reducible] def GL_WAYS.PIN : Fld := ⟨.GL_WAYS, 46, 31⟩
@[reducible] def GL_AMAX.VALID : Fld := ⟨.GL_AMAX, 63, 63⟩
@[reducible] def GL_AMAX.STREAM : Fld := ⟨.GL_AMAX, 62, 51⟩
@[reducible] def GL_AMAX.HCOUNT : Fld := ⟨.GL_AMAX, 50, 46⟩
@[reducible] def GL_AMAX.HEAD : Fld := ⟨.GL_AMAX, 45, 42⟩
@[reducible] def GL_AMAX.CUR : Fld := ⟨.GL_AMAX, 31, 0⟩
@[reducible] def GL_AMAX_HIST.EVEN : Fld := ⟨.GL_AMAX_HIST, 63, 32⟩
@[reducible] def GL_AMAX_HIST.ODD : Fld := ⟨.GL_AMAX_HIST, 31, 0⟩
@[reducible] def GL_RESID_CFG.VALID : Fld := ⟨.GL_RESID_CFG, 63, 63⟩
@[reducible] def GL_RESID_CFG.STREAM : Fld := ⟨.GL_RESID_CFG, 62, 51⟩
@[reducible] def GL_RESID_CFG.N : Fld := ⟨.GL_RESID_CFG, 50, 25⟩
@[reducible] def GL_RESID_STEP.STEP : Fld := ⟨.GL_RESID_STEP, 63, 32⟩
@[reducible] def GL_CNT_ARITH.SAT_ELEM : Fld := ⟨.GL_CNT_ARITH, 63, 32⟩
@[reducible] def GL_CNT_ARITH.PROMOTED : Fld := ⟨.GL_CNT_ARITH, 31, 16⟩
@[reducible] def GL_CNT_ARITH.RESID_RESET : Fld := ⟨.GL_CNT_ARITH, 15, 8⟩
@[reducible] def GL_CNT_ARITH.PIN_FULL : Fld := ⟨.GL_CNT_ARITH, 7, 0⟩
@[reducible] def GL_CNT_ISSUE.ISSUED : Fld := ⟨.GL_CNT_ISSUE, 63, 24⟩
@[reducible] def GL_CNT_ISSUE.BAY_WAIT : Fld := ⟨.GL_CNT_ISSUE, 23, 0⟩
@[reducible] def XP_STREAM.STATE : Fld := ⟨.XP_STREAM, 63, 62⟩
@[reducible] def XP_STREAM.QUEUED : Fld := ⟨.XP_STREAM, 61, 61⟩
@[reducible] def XP_STREAM.FMT : Fld := ⟨.XP_STREAM, 60, 57⟩
@[reducible] def XP_STREAM.LEFT : Fld := ⟨.XP_STREAM, 56, 49⟩
@[reducible] def XP_STREAM.STRAND : Fld := ⟨.XP_STREAM, 48, 39⟩
@[reducible] def XP_STREAM.STATUS : Fld := ⟨.XP_STREAM, 38, 31⟩
@[reducible] def XP_CNT.STALL : Fld := ⟨.XP_CNT, 63, 32⟩
@[reducible] def XP_CNT.BLOCKS : Fld := ⟨.XP_CNT, 31, 16⟩
@[reducible] def XP_CNT.BAD_CODE : Fld := ⟨.XP_CNT, 15, 8⟩
@[reducible] def XP_CNT.BAD_LEN : Fld := ⟨.XP_CNT, 7, 0⟩
@[reducible] def CX_CTX.STATE : Fld := ⟨.CX_CTX, 63, 61⟩
@[reducible] def CX_CTX.RUNNABLE : Fld := ⟨.CX_CTX, 60, 60⟩
@[reducible] def CX_CTX.PRIO : Fld := ⟨.CX_CTX, 59, 57⟩
@[reducible] def CX_CTX.SLOT : Fld := ⟨.CX_CTX, 56, 54⟩
@[reducible] def CX_CTX.GEN : Fld := ⟨.CX_CTX, 47, 24⟩
@[reducible] def CX_CNT.SWAP_OUT : Fld := ⟨.CX_CNT, 63, 48⟩
@[reducible] def CX_CNT.PREEMPT : Fld := ⟨.CX_CNT, 47, 32⟩
@[reducible] def CX_CNT.TORN_DOWN : Fld := ⟨.CX_CNT, 31, 16⟩
@[reducible] def CX_CNT.CREC_LOST : Fld := ⟨.CX_CNT, 15, 0⟩
@[reducible] def FW_SHARE.CLR : Fld := ⟨.FW_SHARE, 63, 56⟩
@[reducible] def FW_SHARE.STATE : Fld := ⟨.FW_SHARE, 55, 54⟩
@[reducible] def FW_SHARE.USED : Fld := ⟨.FW_SHARE, 53, 34⟩
@[reducible] def FW_CLR_BUF.VC_RESV : Fld := ⟨.FW_CLR_BUF, 63, 48⟩
@[reducible] def FW_CLR_BUF.OVF_SIZE : Fld := ⟨.FW_CLR_BUF, 47, 39⟩
@[reducible] def FW_CLR_BUF.ALPHA_VC : Fld := ⟨.FW_CLR_BUF, 38, 19⟩
@[reducible] def FW_CLR_BUF.MESH_POOL : Fld := ⟨.FW_CLR_BUF, 18, 3⟩
@[reducible] def FW_CLR_ALPHA.CLASS : Fld := ⟨.FW_CLR_ALPHA, 63, 0⟩
@[reducible] def FW_CLR_CREDIT.REQ : Fld := ⟨.FW_CLR_CREDIT, 63, 52⟩
@[reducible] def FW_CLR_CREDIT.RSP : Fld := ⟨.FW_CLR_CREDIT, 51, 40⟩
@[reducible] def FW_CLR_CREDIT.SNP : Fld := ⟨.FW_CLR_CREDIT, 39, 28⟩
@[reducible] def FW_CLR_CREDIT.ORD : Fld := ⟨.FW_CLR_CREDIT, 27, 16⟩
@[reducible] def FW_CLR_CREDIT.BULK : Fld := ⟨.FW_CLR_CREDIT, 15, 4⟩
@[reducible] def FW_CLR_CNT_BUF.HELD : Fld := ⟨.FW_CLR_CNT_BUF, 63, 48⟩
@[reducible] def FW_CLR_CNT_BUF.OVF : Fld := ⟨.FW_CLR_CNT_BUF, 47, 32⟩
@[reducible] def FW_CLR_CNT_BUF.MC : Fld := ⟨.FW_CLR_CNT_BUF, 31, 16⟩
@[reducible] def FW_CLR_CNT_BUF.MISSED : Fld := ⟨.FW_CLR_CNT_BUF, 15, 0⟩
@[reducible] def FW_CLR_CNT_DROP.PORT_DOWN : Fld := ⟨.FW_CLR_CNT_DROP, 63, 48⟩
@[reducible] def FW_CLR_CNT_DROP.STANDBY : Fld := ⟨.FW_CLR_CNT_DROP, 47, 32⟩
@[reducible] def FW_CLR_CNT_DROP.POISON : Fld := ⟨.FW_CLR_CNT_DROP, 31, 16⟩
@[reducible] def FW_CLR_CNT_DROP.LEFT : Fld := ⟨.FW_CLR_CNT_DROP, 15, 0⟩
@[reducible] def FW_OCC.FREE : Fld := ⟨.FW_OCC, 63, 43⟩
@[reducible] def FW_OCC.OVF_USED : Fld := ⟨.FW_OCC, 22, 0⟩
@[reducible] def FW_LPORT_CFG.CT : Fld := ⟨.FW_LPORT_CFG, 63, 48⟩
@[reducible] def FW_LPORT_CFG.CLASSMAP : Fld := ⟨.FW_LPORT_CFG, 47, 28⟩
@[reducible] def FW_SPRAY.ENTRY : Fld := ⟨.FW_SPRAY, 63, 48⟩
@[reducible] def FW_EDGE_STATUS.OUT : Fld := ⟨.FW_EDGE_STATUS, 63, 62⟩
@[reducible] def FW_EDGE_STATUS.IN : Fld := ⟨.FW_EDGE_STATUS, 61, 60⟩
@[reducible] def FW_EDGE_STATUS.SPARES : Fld := ⟨.FW_EDGE_STATUS, 59, 58⟩
@[reducible] def FW_EDGE_STATUS.CRC_RETRY : Fld := ⟨.FW_EDGE_STATUS, 31, 0⟩
@[reducible] def FW_TRAIL_CFG.EN : Fld := ⟨.FW_TRAIL_CFG, 63, 63⟩
@[reducible] def FW_TRAIL_CFG.WRAP : Fld := ⟨.FW_TRAIL_CFG, 62, 62⟩
@[reducible] def FW_TRAIL_CFG.SIZE : Fld := ⟨.FW_TRAIL_CFG, 61, 56⟩
@[reducible] def FW_TRAIL_CFG.KINDS : Fld := ⟨.FW_TRAIL_CFG, 55, 51⟩
@[reducible] def FW_TRAIL_CFG.VCS : Fld := ⟨.FW_TRAIL_CFG, 50, 46⟩
@[reducible] def FW_TRAIL_CFG.CLASSES : Fld := ⟨.FW_TRAIL_CFG, 45, 30⟩
@[reducible] def FW_TRAIL_CFG.PORT : Fld := ⟨.FW_TRAIL_CFG, 29, 21⟩
@[reducible] def FW_TRAIL_CFG.SAMPLE : Fld := ⟨.FW_TRAIL_CFG, 20, 17⟩
@[reducible] def FW_TRAIL_CFG.RATE : Fld := ⟨.FW_TRAIL_CFG, 16, 9⟩
@[reducible] def FW_TRAIL_IDX.PROD : Fld := ⟨.FW_TRAIL_IDX, 63, 32⟩
@[reducible] def FW_TRAIL_IDX.CONS : Fld := ⟨.FW_TRAIL_IDX, 31, 0⟩
@[reducible] def FW_TRAILFM_CFG.EN : Fld := ⟨.FW_TRAILFM_CFG, 63, 63⟩
@[reducible] def FW_TRAILFM_CFG.WRAP : Fld := ⟨.FW_TRAILFM_CFG, 62, 62⟩
@[reducible] def FW_TRAILFM_CFG.SIZE : Fld := ⟨.FW_TRAILFM_CFG, 61, 56⟩
@[reducible] def FW_TRAILFM_CFG.KINDS : Fld := ⟨.FW_TRAILFM_CFG, 55, 51⟩
@[reducible] def FW_TRAILFM_CFG.VCS : Fld := ⟨.FW_TRAILFM_CFG, 50, 46⟩
@[reducible] def FW_TRAILFM_CFG.CLASSES : Fld := ⟨.FW_TRAILFM_CFG, 45, 30⟩
@[reducible] def FW_TRAILFM_CFG.PORT : Fld := ⟨.FW_TRAILFM_CFG, 29, 21⟩
@[reducible] def FW_TRAILFM_CFG.SAMPLE : Fld := ⟨.FW_TRAILFM_CFG, 20, 17⟩
@[reducible] def FW_TRAILFM_CFG.RATE : Fld := ⟨.FW_TRAILFM_CFG, 16, 9⟩
@[reducible] def FW_TRAILFM_CFG.CH : Fld := ⟨.FW_TRAILFM_CFG, 8, 2⟩
@[reducible] def FW_TRAILFM_IDX.PROD : Fld := ⟨.FW_TRAILFM_IDX, 63, 32⟩
@[reducible] def FW_TRAILFM_IDX.CONS : Fld := ⟨.FW_TRAILFM_IDX, 31, 0⟩
@[reducible] def FW_CNT_MESH.GAP_SKIP : Fld := ⟨.FW_CNT_MESH, 63, 48⟩
@[reducible] def FW_CNT_MESH.LATE_CELL : Fld := ⟨.FW_CNT_MESH, 47, 32⟩
@[reducible] def FW_CNT_MESH.EDGE_REPAIR : Fld := ⟨.FW_CNT_MESH, 31, 16⟩
@[reducible] def FW_CNT_MESH.FM_MISSED : Fld := ⟨.FW_CNT_MESH, 15, 0⟩
@[reducible] def SC_SCHED.PSH_EN : Fld := ⟨.SC_SCHED, 63, 63⟩
@[reducible] def SC_SCHED.OVH : Fld := ⟨.SC_SCHED, 62, 55⟩
@[reducible] def SC_SCHED.PRATE : Fld := ⟨.SC_SCHED, 54, 37⟩
@[reducible] def SC_SCHED.PBURST : Fld := ⟨.SC_SCHED, 36, 13⟩
@[reducible] def SC_SCHED.PENDING : Fld := ⟨.SC_SCHED, 12, 12⟩
@[reducible] def SC_PSTATE.PTOKENS : Fld := ⟨.SC_PSTATE, 63, 40⟩
@[reducible] def SC_CLASS_CFG.MODE : Fld := ⟨.SC_CLASS_CFG, 63, 63⟩
@[reducible] def SC_CLASS_CFG.SH_EN : Fld := ⟨.SC_CLASS_CFG, 62, 62⟩
@[reducible] def SC_CLASS_CFG.QUANTUM : Fld := ⟨.SC_CLASS_CFG, 61, 46⟩
@[reducible] def SC_CLASS_CFG.RATE : Fld := ⟨.SC_CLASS_CFG, 45, 28⟩
@[reducible] def SC_CLASS_CFG.BURST : Fld := ⟨.SC_CLASS_CFG, 27, 4⟩
@[reducible] def SC_CLASS_CFG.PENDING : Fld := ⟨.SC_CLASS_CFG, 3, 3⟩
@[reducible] def SC_CLASS_STATE.TOKENS : Fld := ⟨.SC_CLASS_STATE, 63, 40⟩
@[reducible] def SC_CLASS_STATE.DEFICIT : Fld := ⟨.SC_CLASS_STATE, 39, 23⟩
@[reducible] def SC_CLASS_STATE.GATE : Fld := ⟨.SC_CLASS_STATE, 22, 22⟩
@[reducible] def SC_CLASS_STATE.LISTED : Fld := ⟨.SC_CLASS_STATE, 21, 21⟩
@[reducible] def SC_GATE_CTRL.EN : Fld := ⟨.SC_GATE_CTRL, 63, 63⟩
@[reducible] def SC_GATE_CTRL.COMMIT : Fld := ⟨.SC_GATE_CTRL, 62, 62⟩
@[reducible] def SC_GATE_CTRL.CANCEL : Fld := ⟨.SC_GATE_CTRL, 61, 61⟩
@[reducible] def SC_GATE_CTRL.ACTIVE : Fld := ⟨.SC_GATE_CTRL, 60, 60⟩
@[reducible] def SC_GATE_CTRL.PENDING : Fld := ⟨.SC_GATE_CTRL, 59, 59⟩
@[reducible] def SC_GATE_CTRL.RESULT : Fld := ⟨.SC_GATE_CTRL, 58, 56⟩
@[reducible] def SC_GATE_CTRL.COUNT : Fld := ⟨.SC_GATE_CTRL, 55, 45⟩
@[reducible] def SC_GATE_CTRL.ACOUNT : Fld := ⟨.SC_GATE_CTRL, 44, 34⟩
@[reducible] def SC_GATE_CTRL.INDEX : Fld := ⟨.SC_GATE_CTRL, 33, 23⟩
@[reducible] def SC_GATE_BASE.BASE : Fld := ⟨.SC_GATE_BASE, 63, 0⟩
@[reducible] def SC_GATE_CYCLE.CYCLE : Fld := ⟨.SC_GATE_CYCLE, 63, 32⟩
@[reducible] def SC_GATE_TS.TS : Fld := ⟨.SC_GATE_TS, 63, 0⟩
@[reducible] def SC_GATE_ENTRY.GATES : Fld := ⟨.SC_GATE_ENTRY, 63, 48⟩
@[reducible] def SC_GATE_ENTRY.DURATION : Fld := ⟨.SC_GATE_ENTRY, 31, 0⟩
@[reducible] def SC_POLMAP.POL : Fld := ⟨.SC_POLMAP, 63, 44⟩
@[reducible] def SC_POL_CFG.MODE : Fld := ⟨.SC_POL_CFG, 63, 62⟩
@[reducible] def SC_POL_CFG.RATE : Fld := ⟨.SC_POL_CFG, 61, 44⟩
@[reducible] def SC_POL_CFG.BURST : Fld := ⟨.SC_POL_CFG, 43, 20⟩
@[reducible] def SC_POL_CFG.PENDING : Fld := ⟨.SC_POL_CFG, 19, 19⟩
@[reducible] def SC_POL_CNT.EXCEED : Fld := ⟨.SC_POL_CNT, 63, 32⟩
@[reducible] def SC_POL_CNT.HOLD_US : Fld := ⟨.SC_POL_CNT, 31, 0⟩
@[reducible] def SC_MESH.MODE : Fld := ⟨.SC_MESH, 63, 63⟩
@[reducible] def SC_MESH.SLOTS : Fld := ⟨.SC_MESH, 62, 31⟩
@[reducible] def SC_MESH.WEIGHT : Fld := ⟨.SC_MESH, 30, 23⟩

/-- Index × stride, summed. -/
def dotIx : List (Nat × Nat) → List Nat → Nat
  | (_, st) :: ds, i :: is => i * st + dotIx ds is
  | _, _ => 0

/-- The address of a word's record (R562). -/
def CW.addr (w : CW) (ix : List Nat) : Nat := w.place.base + dotIx w.place.dims ix

/-- The indices of an offset, if it is the offset of a record's first word. -/
def splitIx : List (Nat × Nat) → Nat → Option (List Nat)
  | [], 0 => some []
  | [], _ + 1 => none
  | (n, st) :: ds, o =>
    if o / st < n then (splitIx ds (o % st)).map fun r => (o / st) :: r else none

/-- Does an index name something (R562)? PW.ENTRY and FW.SPRAY start at 1, and a logical port lies on the die of its physical port (R10). -/
def CW.named (w : CW) (ix : List Nat) : Bool :=
  match w, ix with
  | .PW_ENTRY_REFUSED, [i] | .PW_ENTRY_ABORTED, [i] | .PW_ENTRY_LAST, [i] => decide (1 ≤ i)
  | .FW_SPRAY, [_, d] => decide (1 ≤ d)
  | .FW_LPORT_CFG, g :: n :: _ | .SC_SCHED, g :: n :: _ | .SC_PSTATE, g :: n :: _ | .SC_CLASS_CFG, g :: n :: _ | .SC_CLASS_STATE, g :: n :: _
  | .SC_GATE_CTRL, g :: n :: _ | .SC_GATE_BASE, g :: n :: _ | .SC_GATE_CYCLE, g :: n :: _ | .SC_GATE_TS, g :: n :: _
  | .SC_GATE_ENTRY, g :: n :: _ | .SC_POLMAP, g :: n :: _ => decide (n / 64 = g)
  | _, _ => true

/-- The words that have a record at an address, with the indices. -/
def recordsAt (a : Nat) : List CW → List (CW × List Nat)
  | [] => []
  | w :: ws =>
    if w.place.base ≤ a then
      match splitIx w.place.dims (a - w.place.base) with
      | some ix => (w, ix) :: recordsAt a ws
      | none => recordsAt a ws
    else recordsAt a ws

/-- What an address of control space holds (R561, R562). -/
inductive AddrHolds where
  | nothing                        -- no word: DENIED
  | unnamed                        -- a word whose index names nothing: reads 0, a write is DENIED
  | word (w : CW) (ix : List Nat)
deriving DecidableEq, Repr

/-- The word of an address. DEDUCED (log 1): R562 places SC[g].CLR and SC[g].MESH past the instance stride of Table 15.8, where SC[g+1] has the records
of logical port 0, which lies on Glade[0] only; a word that names something is taken before one whose index names nothing. -/
def holdsAt (a : Nat) : AddrHolds :=
  match (recordsAt a CW.all).find? (fun r => r.1.named r.2), recordsAt a CW.all with
  | some (w, ix), _ => .word w ix
  | none, [] => .nothing
  | none, _ => .unnamed

/-- SENSE, PRIO and TARGET of the sources of Table 14.6. -/
def sourceDefaults (n : Nat) : Nat × Nat × Nat :=
  if n < 32 then (if n = 2 ∨ n = 3 then 2 else 0, 14, 0)
  else if n < 64 then (0, 13, 0)
  else if n < 128 then (2, 8, 1)
  else if n < 384 then (2, 10, 2)
  else if n < 1408 then (2, 9, 3)
  else if n < 1536 then (2, 7, 3)
  else if n < 1600 then (2, 7, 1)
  else if n < 1664 then (2, 12, 0)
  else if n < 1792 then (2, 6, 1)
  else (2, 4, 1)

/-- The default spray entries of Table 06.6, entry 0 in bits 63:60: bit 3 valid, bits 1:0 the edge. -/
def sprayDefault : Nat → Nat
  | 1 => 0x898B | 2 => 0x9898 | 3 => 0x8989 | 4 => 0x9A9A | 5 => 0xBABA | 6 => 0xABAB | 7 => 0xBAB8 | _ => 0

def setFields (w : Word) : List FieldSpec → Word
  | [] => w
  | f :: fs => setFields (setBits w f.hi f.lo f.reset) fs

/-- The factory reset word (R22): each field's reset value, reserved bits 0. -/
def CW.resetWord (w : CW) (ix : List Nat) : Word :=
  let r := setFields 0 w.fields
  match w, ix with
  | .EV_SRC_CFG, [_, n] =>
    let (s, p, t) := sourceDefaults n
    setBits (setBits (setBits r 62 60 s) 59 58 t) 57 54 p
  | .FW_SPRAY, [_, d] => setBits r 63 48 (sprayDefault d)
  | .FR_SPARE, [_, 1] => setBits r 63 56 0xF0
  | _, _ => r

end Sys2Proof.Machine
end

