-- ==== Sys2Proof/Machine/Types.lean ====
section
/-! DEFINITION. The types of the commands' operands and of the records that the state holds: statuses, who asks, transactions, cells, the canopy map's records. -/

namespace Sys2Proof.Machine

/-- The status codes of Table 00.7 (R23). -/
inductive Status where
  | ok | staleHandle | staleEpoch | superseded | accessClass | size | poison | dataCode | dataLength | quota | refusedLoad | partnerLost | domainDown
  | timeout | serviceInterrupted | denied | saturated | preempted
deriving DecidableEq, Repr

def Status.code : Status → Nat
  | .ok => 0 | .staleHandle => 1 | .staleEpoch => 2 | .superseded => 3 | .accessClass => 4 | .size => 5 | .poison => 6 | .dataCode => 7 | .dataLength => 8
  | .quota => 9 | .refusedLoad => 10 | .partnerLost => 11 | .domainDown => 12 | .timeout => 13 | .serviceInterrupted => 14 | .denied => 15
  | .saturated => 16 | .preempted => 17

/-- The status a code names; a reserved code acts as POISON (R24). -/
def Status.ofCode : Nat → Status
  | 0 => .ok | 1 => .staleHandle | 2 => .staleEpoch | 3 => .superseded | 4 => .accessClass | 5 => .size | 7 => .dataCode | 8 => .dataLength
  | 9 => .quota | 10 => .refusedLoad | 11 => .partnerLost | 12 => .domainDown | 13 => .timeout | 14 => .serviceInterrupted | 15 => .denied
  | 16 => .saturated | 17 => .preempted | _ => .poison

/-- The program that makes a control-space access: privileged or of a clearing (R375, R376), and the management CU it runs on, if any. -/
structure Prog where
  privileged : Bool
  clr : Nat
  mcu : Option Nat
deriving DecidableEq, Repr

/-- What the signature and digest engines answer for one copy of an image (R89); the algorithms stand outside the spec. -/
structure Verdict where
  rsaKey : Bool      -- SHA-384 of RSA_KEY equals the fuse
  slhKey : Bool      -- SHA-384 of SLH_KEY equals the fuse
  rsaSig : Bool
  slhSig : Bool
  digest : Bool      -- SHA-384 of the body equals BODY_DIGEST
deriving DecidableEq, Repr

/-- A strand: package copse number (128 + t for management CU[t] of the active Lookout), context number, CU of the copse, strand of the CU. -/
structure StrandRef where
  copse : Nat
  ctx : Nat
  cu : Nat
  strand : Nat
deriving DecidableEq, Repr

/-- Where the data of a strand's request goes (Table 09.17): nowhere, a scalar register, scratchpad bytes, or a field of the sorter. -/
inductive RetData where
  | none
  | sreg (r : Nat)
  | line (v m node line : Nat) (pin viaW : Bool)   -- a line into segment m of v, and into the copse cache under its physical address
  | scratch (addr len : Nat)
  | stored (node line : Nat)        -- nothing: the STORE of a line that the copse cache holds dirty
  | handle (r : Nat)                -- VERSION and SLOT of a region request
deriving DecidableEq, Repr

/-- What the certificate engine reads of a chain: whether it verifies, and the digests of its root certificate and of the leaf's key, as 6 words each (R549). -/
structure Cert where
  ok : Bool
  root : List Word
  leaf : List Word
deriving DecidableEq, Repr

/-- A CCP datagram as it arrives (Table 15.2), its body decrypted. -/
structure Dgram where
  peer : Nat                 -- the sender's address and port, a name of the model's
  type : Nat
  session : Nat
  seq : Nat
  msgid : Nat
  frag : Nat
  nfrag : Nat
  body : List Byte
  tagOk : Bool               -- the GCM tag verifies
  prev : Nat                 -- SEQ of the acknowledged datagram that the sender sent before this one, 0 if none (log 14)
  cert : Cert                -- of a HELLO: its chain
  sigOk : Bool               -- of a FINISH: its signature verifies under the leaf key
deriving DecidableEq, Repr

/-- A frame on the management port, by what R538 names. -/
inductive Frame where
  | neighbor | echo | ptp | mka
  | ccp (d : Dgram)          -- UDP to port 4821
  | other
deriving DecidableEq, Repr

/-- Who issued a request and where its end goes. -/
inductive ReqSrc where
  | port (lp tag : Nat)                                    -- a partner, by its request tag (R170)
  | strand (s : StrandRef) (ret : RetData) (stat : Option Nat) (pc : Nat)
  | txn (parent pos : Nat)                                 -- a part of another request, and its place in it
  | loader (sub : Nat)                                     -- a submission's program read (R475)
  | crec (copse id : Nat)                                  -- a completion record's store (R476)
  | service (key job piece : Nat)                          -- a Grove instance, its work and the piece of it (chapter 10)
  | home                                                   -- the home's own tray write of returned data (R221)
  | note (lp : Nat)                                        -- an EPOCH_NOTE (R571)
  | expander (s : StrandRef) (laddr node line : Nat) (viaW : Bool)   -- a line of a stream's block (R429): local address, and place in the copse cache
  | cacheFill (copse : Nat)                                -- the STORE that carries a dirty line home
  | page (clr node page : Nat)                             -- a T2 page read (R180)
  | spare (k : Nat)                                        -- an EPOCH_NOTE of a spare's test (R501)
deriving DecidableEq, Repr

/-- The header fields of a request, as the link delivers it or the CU forms it: R123, R162. -/
structure Req where
  src : ReqSrc
  clr : Nat
  epoch : Nat
  gen : Nat
  node : Nat
  line : Nat
  fm : Bool := false         -- a privileged program's FABRIC descriptor with CLR 0xFF: a physical address (R160)
deriving DecidableEq, Repr

/-- What the die reads of a cell in its buffer: the word of the cell buffer with the worst error, the syndromes of its reads (R515), and whether the cell's header units are readable. -/
structure CellRead where
  word : Nat
  s1 : Nat
  s2 : Nat
  s3 : Nat
  header : Bool
deriving DecidableEq, Repr

/-- A unit that gates (Table 01.13): a CU by package number or a copse by package number. -/
inductive GatedUnit where
  | cu (n : Nat)
  | copse (n : Nat)
deriving DecidableEq, Repr

/-- The fields of a request header as a partner sends it on a logical port (Tables 03.7 and 04.4). -/
structure PortReq where
  lp : Nat
  tag : Nat
  clr : Nat
  epoch : Nat
  gen : Nat
  node : Nat
  line : Nat
deriving DecidableEq, Repr

/-- The tiers of Table 04.2. -/
inductive Tier where
  | t0 | t1 | t2 | agent
deriving DecidableEq, Repr

/-- The roles of Table 04.3. -/
inductive Role where
  | unused | agentCached | agentUncached | ioAgent | tray | trunk | reserved
deriving DecidableEq, Repr

def Role.ofCode : Nat → Role
  | 0 => .unused | 1 => .agentCached | 2 => .agentUncached | 3 => .ioAgent | 4 => .tray | 5 => .trunk | _ => .reserved

/-- Does a role's partner issue clearing-local requests? -/
def Role.isAgent : Role → Bool
  | .agentCached | .agentUncached | .ioAgent => true
  | _ => false

/-- A window record (Table 04.1). -/
structure Window where
  lnode : Nat
  pnode : Nat
  clr : Nat
  valid : Bool
  coh : Bool
  tier : Tier
  r : Bool
  w : Bool
  a : Bool
  lbase : Nat
  pbase : Nat
  len : Nat
  region : Nat
  raw : List Byte            -- the record as written, for the reserved-field checks (R157, rule 9)
deriving DecidableEq, Repr

/-- The kinds of region (Table 05.3). -/
inductive RegionKind where
  | plain | published | coherent
deriving DecidableEq, Repr

structure Region where
  region : Nat
  clr : Nat
  kind : Option RegionKind
  nslot : Nat
  domain : Nat
  stride : Nat
  raw : List Byte
deriving DecidableEq, Repr

structure Domain where
  domain : Nat
  clr : Nat
  members : List Nat         -- logical ports, in rising order: member order
  raw : List Byte
deriving DecidableEq, Repr

structure ClrRec where
  clr : Nat
  conf : Nat
  mesh : Nat
  raw : List Byte
deriving DecidableEq, Repr

structure Slice where
  clr : Nat
  copse : Nat
  slot0 : Nat
  nslot : Nat
  shares : Nat
  ports : Nat
  raw : List Byte
deriving DecidableEq, Repr

structure PortRec where
  lport : Nat
  clr : Nat
  role : Nat
  pnode : Nat
  raw : List Byte
deriving DecidableEq, Repr

structure Route where
  clr : Nat
  pnode : Nat
  lport : Nat
  raw : List Byte
deriving DecidableEq, Repr

structure McGroup where
  mcg : Nat
  clr : Nat
  members : List Nat
  raw : List Byte
deriving DecidableEq, Repr

structure QuotaRec where
  clr : Nat
  t0Stage : Nat
  t1Inflight : Nat
  t2Open : Nat
  t2Rate : Nat
  t2Burst : Nat
  t1Cap : Nat
  t2Cap : Nat
  raw : List Byte
deriving DecidableEq, Repr

structure Endpoint where
  index : Nat
  clr : Nat
  type : Nat
  lport : Nat
  ctx : Nat
  raw : List Byte
deriving DecidableEq, Repr

/-- An expert map (Table 10.9): four replica handles per expert, 0 for none. -/
structure ExpertMap where
  clr : Nat
  raw : List Byte
  map : Nat
  experts : List (List Nat)
deriving DecidableEq, Repr

/-- A canopy map: the records of Table 15.10. -/
structure Canopy where
  clearings : List ClrRec
  slices : List Slice
  ports : List PortRec
  routes : List Route
  windows : List Window
  regions : List Region
  domains : List Domain
  groups : List McGroup
  experts : List ExpertMap
  quotas : List QuotaRec
  endpoints : List Endpoint
deriving DecidableEq, Repr

/-- The empty map of epoch 0 (R159). -/
def Canopy.empty : Canopy :=
  { clearings := [], slices := [], ports := [], routes := [], windows := [], regions := [], domains := [], groups := [], experts := [], quotas := [], endpoints := [] }

/-- A cell (Table 06.1). -/
structure Cell where
  clr : Nat
  cls : Nat
  vc : Nat
  dkind : Nat
  ddie : Nat
  dest : Nat
  skind : Nat
  sdie : Nat
  src : Nat
  seq : Nat
  mcg : Nat
  void : Bool
  poison : Bool
  tstamp : Nat
  hdr1 : BitVec 128
  hdr2 : Option (BitVec 128)
  data : List (BitVec 128)
  txn : Option Nat           -- the outstanding request that the cell carries or answers
deriving DecidableEq, Repr

/-- Slots of the cell's transaction (R230). -/
def Cell.nslot (c : Cell) : Nat := 1 + (if c.hdr2.isSome then 1 else 0) + c.data.length

/-- Buffer units of 64 bytes (R232). -/
def Cell.units (c : Cell) : Nat := (c.nslot + 1 + 3) / 4

/-- The 64 bytes of a line, lowest address first. -/
abbrev Line := List Byte

/-- The kinds of request that stay outstanding. -/
inductive TxnKind where
  | load | store (data : Line)
  | atomic (aop word operand compare : Nat)
  | blkRd (segs : Nat) | blkWr (data : List (BitVec 128)) | pageRd
  | gather (rowl : Nat) (idx : List Nat)
  | hint
  | unitWr (unit : Nat)
  | invalidate (count : Nat) | prepare | publish | openPin | closePin | subscribe | unsubscribe
  | rdS | rdM | upg | wb (data : Line) | evict
  | msg (target : Nat) (mtag : Nat) (mlen : Nat)
  | submit | ledger | epochNote
deriving DecidableEq, Repr

/-- What a request that a logical port receives asks for, its encoding read (Tables 04.5, 04.6, 05.4, 13.6). -/
inductive Ask where
  | mem (k : TxnKind) (narrow : Bool) (pages : Nat)
  | inval (count : Nat) | subscribe | unsubscribe | prepare | publish | openPin | closePin
  | coh (k : TxnKind)
  | submit (record : List Byte)
  | ledger (lop : Nat) (slot : List Byte)
  | msg (target mtag : Nat) (bytes : List Byte)
  | refused (st : Status)    -- an encoding that completes with DENIED or SIZE
deriving DecidableEq, Repr

/-- A transaction as a logical port receives it. -/
inductive Arrival where
  | request (r : Req) (a : Ask)
  | response (tag st seg : Nat) (last : Bool) (data : List Byte)
  | snoop (tag : Nat) (toI : Bool) (data : Option (Line))
  | invAck (tag : Nat)
  | msgSeg (r : Req) (tag target seg mtag mlen : Nat) (data : List (BitVec 128))   -- a MSG segment of a flit
  | discard                  -- an answer of a reserved kind
deriving DecidableEq, Repr

/-- Where an outstanding request stands. -/
inductive TxnPhase where
  | home         -- waits for the home order of its line (R197)
  | tagWait (lp : Nat)   -- waits for a free tag of a logical port (R171)
  | inflight     -- waits for T1_INFLIGHT (R178)
  | staging      -- waits for a page read in flight (R180)
  | unitWait     -- waits for a unit write to end (R183)
  | sent         -- sent or queued toward its end point
  | assembling   -- a segment held in a unit assembly (R182)
  | seq          -- waits for the Sequencer
  | slotWait     -- PREPARE waits for a free slot (R213)
  | held         -- PUBLISH waits for the requester's writes (R215)
  | snooping     -- the home waits for snoop answers (R221)
  | wbWait       -- the home waits for the holder's WB (R223)
  | wayWait      -- waits for a directory way (R222)
  | parts        -- waits for its parts
  | timedOut     -- ended with TIMEOUT as its port left ACTIVE; keeps its place and count (R172)
deriving DecidableEq, Repr

/-- An outstanding request. -/
structure Txn where
  id : Nat
  src : ReqSrc
  kind : TxnKind
  phase : TxnPhase
  clr : Nat
  epoch : Nat
  node : Nat               -- physical NodeID
  off : Nat                -- physical byte offset
  lnode : Nat              -- local NodeID as named
  loff : Nat
  tier : Tier
  region : Nat
  die : Nat                -- translating die
  lport : Option Nat       -- egress logical port
  tag : Nat                -- the CW9's own tag on that port (R170)
  issued : Nat             -- device time of issue
  got : List (Nat × List Byte)   -- segments received, by index
  staged : Bool            -- every byte so far came from staging copies
  bad : List (Nat × Status) -- failures of its parts, oldest first: place and status
  pos : Nat                -- its place in the request that it is a part of
  last : Bool              -- the response with LAST has come
  parts : Nat              -- parts outstanding
  counted : Bool           -- counts in T1_INFLIGHT
  ended : Bool := false    -- answered already: kept only for its tag or its place
deriving DecidableEq, Repr

end Sys2Proof.Machine
end

