-- ==== Sys2Proof/Syntax.lean ====
section
/-! DEFINITION. The commands of the block: one constructor for each row of spec/opcode_table.json, in the table's order. The table gives no operand fields: the operands
are the model's (log 2), named for what they carry; `t` is the device time of the command in ns, `p` the program that makes a control-space write. -/

namespace Sys2Proof

open Machine

/-- The commands. -/
inductive Instr where
  | vinKeepaliveStart (t mv : Nat)
  | pwResetExit (t : Nat) (bootHold : Bool)
  | clkAoHandover (t clean : Nat)
  | aoFallback (t silentPeriods : Nat)
  | keepaliveStop (t mv : Nat)
  | wakeDecisionCold (t mv heldNs : Nat)
  | busSoftstart (t mv heldNs : Nat)
  | busRun (t busMv : Nat)
  | brownoutBus (t busMv ns : Nat)
  | vinLow (t mv ns : Nat)
  | vinHigh (t mv ns : Nat)
  | brownoutVin (t mv ns : Nat)
  | overvoltageVin (t mv ns : Nat)
  | poreset (t ns : Nat)
  | poresetRelease (t : Nat) (bootHold : Bool)
  | brownoutKeepalive (t railMv ns : Nat)
  | refclkLoss (t ns : Nat)
  | refclkLossReset (t : Nat)
  | targetPortsOnly (p : Prog) (t : Nat)
  | targetStandby (p : Prog) (t : Nat)
  | targetActive (p : Prog) (t : Nat)
  | refuserCheckEnd (t : Nat)
  | contextSwapOutEnd (t : Nat)
  | portsOnlyEntryEnd (t : Nat)
  | pdNoticeSend (t : Nat)
  | standbyCellDrop (t : Nat)
  | transmittersOff (t : Nat)
  | understorySelfRefresh (t : Nat)
  | domainsOff (t : Nat)
  | standbyEntryEnd (t : Nat)
  | wakeComparatorTrip (t comp level ticks : Nat)
  | wakeComparatorRearm (t comp level : Nat)
  | workAdmitWake (t : Nat)
  | activeEntryRetry (t : Nat)
  | cutWindowEnd (t avgW maxTemp die : Nat)
  | cutApply (t : Nat)
  | thermtrip (t die temp ns : Nat)
  | dieThermalEvent (t die temp : Nat)
  | cuClockGate (t cu idleCycles : Nat)
  | cuPowerGate (t cu idleUs : Nat)
  | copseClockGate (t copse idleCycles : Nat)
  | copsePowerGate (t copse idleUs : Nat)
  | unitWake (t : Nat) (unit : GatedUnit) (ns : Nat)
  | bootRomStart (t k : Nat)
  | lookoutImageStart (t k : Nat) (va vb : Verdict) (va1 vb1 : Verdict)
  | activeLookoutChoice (t : Nat)
  | bootApplyLookout (t : Nat)
  | dieImageConfirm (t die : Nat) (va vb : Verdict) (va1 vb1 : Verdict) (hashOk calOk : Bool)
  | dieCalibrationApply (t : Nat)
  | understoryChannelsTrained (t : Nat)
  | bootDone (t : Nat)
  | seedbankResync (t region src : Nat)
  | setA (p : Prog) (t dtype : Nat)
  | setB (p : Prog) (t dtype : Nat)
  | raiseSvn (p : Prog) (t dtype : Nat)
  | nvCommit (p : Prog) (t : Nat)
  | ucalCommit (p : Prog) (t : Nat)
  | nvCommitDone (t : Nat) (ucal : Bool)
  | seedbankWindowWrite (p : Prog) (t word : Nat) (value : Word)
  | slotCheck (t dtype slot : Nat) (v0 v1 : Verdict)
  | updateGo (p : Prog) (t k dtype index slot : Nat)
  | updateLoaded (t : Nat)
  | updateSwitched (t : Nat)
  | updateRevert (t : Nat)
  | handoverGo (p : Prog) (t k : Nat)
  | handoverDone (t : Nat)
  | heartbeatLoss (t lastBeat : Nat)
  | failoverResume (t : Nat)
  | failoverEvents (t : Nat)
  | failoverAnswers (t : Nat)
  | lookoutReloadDone (t k : Nat)
  | flitRx (t lp : Nat) (slots : List (BitVec 128)) (trailer : BitVec 128)
  | replayTimer (t lp : Nat)
  | replayLimit (t lp : Nat)
  | eqReq (t lane : Nat)
  | eqAck (t lane : Nat)
  | spareReq (t lane spare : Nat)
  | spareAck (t lane : Nat)
  | narrowReq (t lane : Nat)
  | narrowAck (t lane : Nat)
  | restoreReq (t lane : Nat)
  | restoreAck (t lane : Nat)
  | remoteFault (t lane : Nat)
  | params (t lp node mode : Nat) (enc : Bool) (credits : List Nat)
  | pdHold (t lp : Nat)
  | pdNotice (t lp : Nat)
  | keySwitch (t lp gen : Nat)
  | keySwitchAck (t lp gen : Nat)
  | spdm (t lp off total : Nat) (bytes : List Byte)
  | retrainReq (t lp : Nat)
  | trainingStart (t lp : Nat) (power : List Nat)
  | trainingStepFail (t lp : Nat)
  | trainingRetry (t lp : Nat)
  | trainingDone (t lp : Nat)
  | spdmSessionDone (t lp : Nat) (good : Bool) (root : Option (List Word))
  | spareTraining (t f n node : Nat) (good : Bool)
  | laneFailed (t lane : Nat) (los : Option Nat)
  | laneDegraded (t lane symbols : Nat)
  | spareSwapResume (t lp : Nat)
  | mismatchDown (t lane code : Nat)
  | laneRecal (p : Prog) (t f lane : Nat)
  | laneRecalDone (t lane : Nat) (good : Bool)
  | retrain (p : Prog) (t port : Nat)
  | portEnable (p : Prog) (t port : Nat)
  | keyLifeExpiry (t lp : Nat)
  | keyLifeWrite (p : Prog) (t port value : Nat)
  | load (t : Nat) (q : PortReq)
  | store (t : Nat) (q : PortReq) (line : Line)
  | narrowStore (t : Nat) (q : PortReq) (data : List (BitVec 128))
  | atomic (t : Nat) (q : PortReq) (aop word : Nat) (operand compare : BitVec 64)
  | blkRd (t : Nat) (q : PortReq) (len : Nat)
  | blkWr (t : Nat) (q : PortReq) (data : List (BitVec 128))
  | pageRd (t : Nat) (q : PortReq)
  | gather (t : Nat) (q : PortReq) (rowl count : Nat) (data : List (BitVec 128))
  | hint (t : Nat) (q : PortReq) (prio pages : Nat)
  | unitWr (t : Nat) (q : PortReq) (data : List (BitVec 128))
  | response (t lp clr tag status seg : Nat) (last : Bool) (data : List (BitVec 128))
  | txnTimeout (t id : Nat)
  | tagRelease (t lp tag : Nat)
  | homeHoldEnd (t id : Nat)
  | t1Admit (t id : Nat)
  | stagingFill (t lp clr tag status seg : Nat) (last : Bool) (data : List (BitVec 128))
  | unitAssemblySend (t clr node unit : Nat)
  | unitWrResponse (t lp clr tag status : Nat)
  | unitTimeout (t clr node unit : Nat)
  | t2BucketRefill (t : Nat)
  | subscribe (t : Nat) (q : PortReq)
  | unsubscribe (t : Nat) (q : PortReq)
  | inval (t : Nat) (q : PortReq) (count : Nat)
  | sequencerHold (t : Nat)
  | sequencerAdmit (t : Nat) (clr : Option Nat)
  | invAck (t lp clr tag : Nat)
  | invLimitExpiry (t id : Nat)
  | prepare (t : Nat) (q : PortReq)
  | prepareTimeout (t id : Nat)
  | publish (t : Nat) (q : PortReq)
  | publishForward (t id : Nat)
  | publishPoint (t : Nat)
  | openRegion (t : Nat) (q : PortReq)
  | closeRegion (t : Nat) (q : PortReq)
  | rdS (t : Nat) (q : PortReq)
  | rdM (t : Nat) (q : PortReq)
  | upg (t : Nat) (q : PortReq)
  | wb (t : Nat) (q : PortReq) (line : Line)
  | evict (t : Nat) (q : PortReq)
  | rspI (t lp clr tag : Nat)
  | rspS (t lp clr tag : Nat)
  | rspIData (t lp clr tag : Nat) (line : Line)
  | rspSData (t lp clr tag : Nat) (line : Line)
  | directoryWaitTimeout (t id : Nat)
  | snoopLimitExpiry (t : Nat)
  | domainReset (p : Prog) (t d : Nat)
  | domainResetPoison (t d : Nat)
  | domainResetDone (t d : Nat)
  | unpoison (p : Prog) (t d value : Nat)
  | cellAdmitRetry (t g c : Nat)
  | overflowRefill (t lp cls : Nat)
  | meshCellArrive (t g e : Nat)
  | releaseNotice (t sdie ddie c vc : Nat)
  | gapTimeout (t sdie ddie c vc : Nat)
  | skipNotice (t sdie ddie c vc : Nat)
  | meshHopReplay (t g e : Nat)
  | meshWireFail (t g e : Nat)
  | meshSpraySuspend (t g e : Nat)
  | meshSpareWireTrained (t g e : Nat)
  | meshHeldResend (t g e : Nat)
  | meshEdgeUp (t g e : Nat)
  | gapTimerResume (t g e : Nat)
  | egressSelect (t lp : Nat) (rd : CellRead)
  | trailCfgWrite (p : Prog) (t g c : Nat) (value : Word)
  | shaperRefill (t : Nat)
  | shaperWrite (p : Prog) (t lp k : Nat) (value : Word)
  | policerWrite (p : Prog) (t g c n : Nat) (value : Word)
  | gateEntryEnd (t lp : Nat)
  | gateCommit (p : Prog) (t lp : Nat)
  | gateSwitch (t lp : Nat)
  | gateCancel (p : Prog) (t lp : Nat)
  | meshWheelBoundary (t : Nat)
  | bayGrant (t copse cu : Nat)
  | sorterGrant (t copse : Nat)
  | expanderDecodeDone (t copse cu : Nat)
  | queuedDecodeStart (t copse cu : Nat)
  | amaxFree (p : Prog) (t g c k : Nat)
  | residFree (p : Prog) (t g c k : Nat)
  | nop (sr : StrandRef) (w : Word)
  | add (sr : StrandRef) (w : Word)
  | sub (sr : StrandRef) (w : Word)
  | mul (sr : StrandRef) (w : Word)
  | mulhu (sr : StrandRef) (w : Word)
  | and (sr : StrandRef) (w : Word)
  | or (sr : StrandRef) (w : Word)
  | xor (sr : StrandRef) (w : Word)
  | shl (sr : StrandRef) (w : Word)
  | shr (sr : StrandRef) (w : Word)
  | sar (sr : StrandRef) (w : Word)
  | mins (sr : StrandRef) (w : Word)
  | maxs (sr : StrandRef) (w : Word)
  | minu (sr : StrandRef) (w : Word)
  | maxu (sr : StrandRef) (w : Word)
  | addi (sr : StrandRef) (w : Word)
  | movz (sr : StrandRef) (w : Word)
  | movk (sr : StrandRef) (w : Word)
  | cmp (sr : StrandRef) (w : Word)
  | cmpi (sr : StrandRef) (w : Word)
  | plog (sr : StrandRef) (w : Word)
  | clz (sr : StrandRef) (w : Word)
  | popc (sr : StrandRef) (w : Word)
  | time (sr : StrandRef) (w : Word)
  | seta (sr : StrandRef) (w : Word)
  | br (sr : StrandRef) (w : Word)
  | brr (sr : StrandRef) (w : Word)
  | call (sr : StrandRef) (w : Word)
  | endStrand (sr : StrandRef) (w : Word)
  | bayacq (sr : StrandRef) (w : Word)
  | bayrel (sr : StrandRef) (w : Word)
  | setcvt (sr : StrandRef) (w : Word)
  | vadd (sr : StrandRef) (w : Word)
  | vsub (sr : StrandRef) (w : Word)
  | vmul (sr : StrandRef) (w : Word)
  | vfma (sr : StrandRef) (w : Word)
  | vmin (sr : StrandRef) (w : Word)
  | vmax (sr : StrandRef) (w : Word)
  | vabs (sr : StrandRef) (w : Word)
  | vcmp (sr : StrandRef) (w : Word)
  | vsel (sr : StrandRef) (w : Word)
  | vaddi (sr : StrandRef) (w : Word)
  | vsubi (sr : StrandRef) (w : Word)
  | vand (sr : StrandRef) (w : Word)
  | vor (sr : StrandRef) (w : Word)
  | vxor (sr : StrandRef) (w : Word)
  | vbcast (sr : StrandRef) (w : Word)
  | vext (sr : StrandRef) (w : Word)
  | vsum (sr : StrandRef) (w : Word)
  | cvtn (sr : StrandRef) (w : Word)
  | cvtw (sr : StrandRef) (w : Word)
  | cvta (sr : StrandRef) (w : Word)
  | aroll (sr : StrandRef) (w : Word)
  | sortbeg (sr : StrandRef) (w : Word)
  | sortput (sr : StrandRef) (w : Word)
  | sortend (sr : StrandRef) (w : Word)
  | sortget (sr : StrandRef) (w : Word)
  | sortrel (sr : StrandRef) (w : Word)
  | tmma (sr : StrandRef) (w : Word)
  | tzero (sr : StrandRef) (w : Word)
  | tmov (sr : StrandRef) (w : Word)
  | tmovv (sr : StrandRef) (w : Word)
  | xstart (sr : StrandRef) (w : Word)
  | xstat (sr : StrandRef) (w : Word)
  | xcancel (sr : StrandRef) (w : Word)
  | lds (sr : StrandRef) (w : Word)
  | sts (sr : StrandRef) (w : Word)
  | ldv (sr : StrandRef) (w : Word)
  | stv (sr : StrandRef) (w : Word)
  | ldt (sr : StrandRef) (w : Word)
  | stt (sr : StrandRef) (w : Word)
  | ldseg (sr : StrandRef) (w : Word)
  | stseg (sr : StrandRef) (w : Word)
  | ldacc (sr : StrandRef) (w : Word)
  | stacc (sr : StrandRef) (w : Word)
  | ldl (sr : StrandRef) (w : Word)
  | stl (sr : StrandRef) (w : Word)
  | pld (sr : StrandRef) (w : Word)
  | atom (sr : StrandRef) (w : Word)
  | brd (sr : StrandRef) (w : Word)
  | bwr (sr : StrandRef) (w : Word)
  | prd (sr : StrandRef) (w : Word)
  | gath (sr : StrandRef) (w : Word)
  | nxSub (sr : StrandRef) (w : Word)
  | nxUnsub (sr : StrandRef) (w : Word)
  | nxInval (sr : StrandRef) (w : Word)
  | prep (sr : StrandRef) (w : Word)
  | publ (sr : StrandRef) (w : Word)
  | nxOpen (sr : StrandRef) (w : Word)
  | nxClose (sr : StrandRef) (w : Word)
  | nxHint (sr : StrandRef) (w : Word)
  | radd (sr : StrandRef) (w : Word)
  | rstep (sr : StrandRef) (w : Word)
  | send (sr : StrandRef) (w : Word)
  | sendg (sr : StrandRef) (w : Word)
  | recv (sr : StrandRef) (w : Word)
  | fence (sr : StrandRef) (w : Word)
  | rel (sr : StrandRef) (w : Word)
  | acq (sr : StrandRef) (w : Word)
  | rela (sr : StrandRef) (w : Word)
  | acqa (sr : StrandRef) (w : Word)
  | bar (sr : StrandRef) (w : Word)
  | waitm (sr : StrandRef) (w : Word)
  | csrd (sr : StrandRef) (w : Word)
  | cswr (sr : StrandRef) (w : Word)
  | csmw (sr : StrandRef) (w : Word)
  | runLimit (t copse n : Nat)
  | residencyGuardExpiry (t copse n : Nat)
  | contextSaved (t copse : Nat)
  | contextRestored (t copse n : Nat)
  | completionRecord (t copse n : Nat)
  | contrib (t key : Nat)
  | segmentTimeout (t key : Nat)
  | arrive (t key : Nat)
  | barrierTimeout (t key : Nat)
  | bagReq (t key : Nat)
  | dispatch (t key : Nat)
  | batchSend (t key : Nat)
  | expertInDone (t key batch : Nat)
  | expertInRetry (t key batch : Nat)
  | expertOut (t key : Nat)
  | tokenTimeout (t key : Nat)
  | filterReq (t key : Nat)
  | filterTimeout (t key : Nat)
  | stop (t key : Nat)
  | statsWrite (t key : Nat)
  | scrubStart (t unit : Nat)
  | scrubWritebackDone (t unit : Nat)
  | scrubZeroDone (t unit : Nat)
  | scrubReadbackDone (t unit bad : Nat)
  | scrubRecordHeld (t unit : Nat)
  | scrubGo (p : Prog) (t unit : Nat)
  | packagePartSign (t : Nat)
  | signatureDone (t : Nat)
  | submit (t : Nat) (q : PortReq) (record : List Byte)
  | msg (t : Nat) (q : PortReq) (target mtag : Nat) (units : List (BitVec 128))
  | create (t : Nat) (q : PortReq) (req : Nat)
  | begin (t : Nat) (q : PortReq) (req dest : Nat)
  | accept (t : Nat) (q : PortReq) (req : Nat)
  | abort (t : Nat) (q : PortReq) (req : Nat)
  | delete (t : Nat) (q : PortReq) (req : Nat)
  | query (t : Nat) (q : PortReq) (req : Nat)
  | ledgerRevert (t clr req : Nat)
  | epochNote (t : Nat) (q : PortReq)
  | commitGo (p : Prog) (t : Nat)
  | commitChecked (t : Nat)
  | commitPosition (t : Nat)
  | commitHeld (t : Nat)
  | commitSwitch (t : Nat)
  | drainWindowEnd (t : Nat)
  | quiesceGo (p : Prog) (t : Nat)
  | quiesceDrained (t : Nat)
  | quiesceInstall (t : Nat)
  | quiesceResume (t : Nat)
  | spareTest (p : Prog) (t k sport pport role : Nat)
  | spareTestEnd (t k : Nat)
  | spareLoad (p : Prog) (t k : Nat)
  | spareLoaded (t k : Nat)
  | spareLoadStall (t k : Nat)
  | spareAdmit (p : Prog) (t k : Nat)
  | spareAdmission (t k : Nat)
  | patrolSlot (t die array inst word s1 s2 s3 : Nat)
  | scopeResetDone (t scope die inst : Nat)
  | writeRaw (p : Prog) (t die array inst word check : Nat) (data : List Word)
  | readRaw (p : Prog) (t die array inst word : Nat)
  | clear (p : Prog) (t die array inst word check : Nat) (data : List Word)
  | sourceEdge (t n : Nat) (level : Bool) (origin : Nat)
  | coalesceTimeout (t k n : Nat)
  | take (p : Prog) (t k u : Nat)
  | eoe (p : Prog) (t k u : Nat)
  | sourceUnmask (p : Prog) (t k n : Nat)
  | doorbell (p : Prog) (t k d : Nat)
  | mgmtFrame (t : Nat) (tagged guarded : Bool) (f : Frame)
  | hello (t : Nat) (d : Dgram)
  | finish (t : Nat) (d : Dgram)
  | finishTimeout (t sess : Nat)
  | ccpClose (t : Nat) (d : Dgram)
  | ack (t : Nat) (d : Dgram)
  | ackResend (t sess seq : Nat)
  | keepalive (t : Nat) (d : Dgram)
  | keepaliveSend (t sess : Nat)
  | sessionSilence (t sess : Nat)
  | program (t : Nat) (d : Dgram)
  | programFragTimeout (t slot : Nat)
  | programSigChecked (t slot : Nat) (sigOk : Bool)
  | completionSend (t slot : Nat)
  | completionHoldExpiry (t slot : Nat)
  | eventSend (t at_ source status clr cause addr count lost : Nat)
  | telemSub (t : Nat) (d : Dgram)
  | telemPeriod (t sess group : Nat) (sensors : List Nat)
  | evidenceReq (t : Nat) (d : Dgram)
  | recoveryImage (t k peer seq msgid frag nfrag : Nat) (body : List Byte) (v : Verdict)
  | sync (t : Nat) (offset : Int)
  | syncLoss (t : Nat)
  | ppsIn (t : Nat)
  | ppsOut (t : Nat)
  | install (p : Prog) (t : Nat)
  | portModeChange (t : Nat)
  | refclkReturn (t : Nat)
  | vinWindowReturn (t mv : Nat)
  | selfRefreshRateChange (t stack temp : Nat)
  | mgmtPortLinkUp (t : Nat)
  | meshEdgeSelect (t g e : Nat) (rd : CellRead)
  | pdQuery (t lp target : Nat)
  | pdAccept (t lp : Nat)
  | memberRetrainLimit (t lp : Nat)
  | initCopyDone (t copse n : Nat)
deriving DecidableEq, Repr

end Sys2Proof
end

