-- ==== Sys2Proof/Decode.lean ====
section
/-! DEFINITION. The command that a word spells by the opcode table's bits. Every row of the table has an empty list of fields: no row gives bits, so no word spells a
command. (The 64-bit words of the Ndeah instructions are the operand w of those rows; Machine/Ndeah.lean reads their fields.) -/

namespace Sys2Proof

/-- The command that a word of nbits bits spells: none, since no row of the table gives bits. -/
def decodeTableWord (nbits w : Nat) : Option Instr :=
  let _ := (nbits, w)
  none

end Sys2Proof
end

