-- ==== Sys2Proof/Config.lean ====
section
/-! DEFINITION. What the spec leaves to an implementation or to a standard outside it: opaque constants, of which nothing can be evaluated or proved. A statement about
one of them holds for every value of it. -/

namespace Sys2Proof.Config

/-- SHA-384 of bytes (R92): the algorithm stands outside the spec. -/
opaque sha384 : List Byte → BitVec 384

/-- One block of the AES-256-GCM key stream of a tag group (R147), from logical port, direction (true: sent by the CW9), key generation, group number and block number:
the algorithm and the session's keys stand outside the spec. -/
opaque keyBlock : Nat → Bool → Nat → Nat → Nat → BitVec 128

/-- The GCM tag of a tag group (R147), from logical port, direction, key generation, group number, and the additional data and encrypted slots of each flit. -/
opaque gcmTag : Nat → Bool → Nat → Nat → List (Nat × List (BitVec 128)) → BitVec 128

/-- A PARAMS message (R133) out of its bytes, for which the spec gives no layout: NodeID, MODE, whether encryption is required, and initial credits by VC in credit units. -/
opaque paramsOf : List (BitVec 8) → Option (Nat × Nat × Bool × List Nat)

/-- The n-th free value drawn: a value that the spec leaves open. -/
opaque freeNat : Nat → Nat

/-- The payload of a NaN that the tile engine gives, from its operands: IEEE 754 leaves it open. -/
opaque nanPayload : Nat → Nat → Nat

/-- The directory set of a line, from its physical NodeID and line number (R218 gives no function). -/
opaque dirSet : Nat → Nat → Nat

/-- The factory calibration of an item (R101): factory value, LO and HI, or none if the number names no item. -/
opaque calItem : Nat → Option (Int × Int × Int)

/-- The package serial number, and the two certificate chains of R454: factory data that the spec does not give. -/
opaque serial : BitVec 128
opaque rsaChain : List (BitVec 8)
opaque slhChain : List (BitVec 8)

/-- Signatures by the identity keys (R453): RSA-PSS with SHA-384, and SLH-DSA-SHA2-192s. The algorithms and the keys stand outside the spec. -/
opaque rsaSign : List (BitVec 8) → BitVec 3072
opaque slhSign : List (BitVec 8) → BitVec 129792

/-- Units of one buffer share that hold cells (FW.SHARE.USED), from die, share and the clearing's units in use: how cells lie in the shares is left open. -/
opaque shareUnits : Nat → Nat → Nat → Nat

/-- The rate of a slew of package time, in parts per million (R543 gives its bound only). -/
opaque slewRate : Nat

end Sys2Proof.Config
end

