-- ==== Sys2Proof/Machine/State.lean ====
section
/-! DEFINITION. The state of the CW9-32A: plain data. Every control-space word stands in `ctl`; what the spec gives the machine beside its words
stands in one record per part of the machine, in the order of the chapters. State.reset is the machine just after the PW block has left reset (R32, R33). -/

namespace Sys2Proof.Machine

/-- The bus converter's modes (Table 01.6; LIGHT is entered and left without software action, so RUN stands for both). -/
inductive Converter where
  | off | softstart | run | light
deriving DecidableEq, Repr

/-- Where an entry to a lower package state stands (Table 01.12, R568). `target` is the state's code, times are device time in ns. -/
inductive Entry where
  | idle
  | check1 (target t0 : Nat)
  | swapping (target : Nat)
  | check2 (target t0 : Nat)
  | committed (target tc : Nat)
deriving DecidableEq, Repr

/-- One wake comparator (R59, R60): inert, armed on the inactive side, or armed with its input still beyond the re-arm point. -/
inductive Comparator where
  | inert | ready | beyond
deriving DecidableEq, Repr

/-- How an Understory stack is supplied (R58, Table 01.12). -/
inductive StackSupply where
  | off | powered | selfKeepalive | selfDomain
deriving DecidableEq, Repr

/-- A copse or CU's gating (Table 01.13). -/
inductive Gating where
  | running | clockGated | powerGated | waking
deriving DecidableEq, Repr

/-- A refuser that refused: its class as PW.ENTRY[s].LAST.CLASS codes it, and its number (R68). -/
structure Refuser where
  cls : Nat
  id : Nat
deriving DecidableEq, Repr

/-- Chapter 01: supply, clocks, package state. -/
structure PowerSt where
  keepalive : Bool            -- keepalive regulator on (R31)
  keepStart : Nat             -- device time of the 42.0 V crossing
  pwOut : Bool                -- the PW block is out of reset
  aoStart : Nat               -- device time at which the CLK_AO count started (R567)
  aoXtal : Bool               -- the always-on timers count XTAL_IN (R46)
  aoFellBack : Bool           -- the internal oscillator replaces CLK_AO: AO_FAIL reads 1
  causeLatch : Nat            -- cause of the last full reset (R37), Table 01.5
  poresetLow : Bool           -- PORESET_N pad is low
  bootHold : Bool             -- BOOT_HOLD as sampled at the end of the PW block's reset
  coldOwed : Bool             -- no wake decision of R33 yet since the full reset
  wakeStands : Bool           -- a wake decision stands (R34)
  wakeTick : Nat              -- CLK_AO tick of the wake decision (R63)
  wakeLatched : Option Nat    -- WAKE_CAUSE code of a trip latched between tc and the end of entry (R51)
  converter : Converter
  softAt : Nat                -- device time of the start of SOFTSTART
  vinLow : Bool               -- VIN_LOW in effect
  vinHigh : Bool              -- VIN_HIGH in effect
  thermtripLow : Bool         -- THERMTRIP_N driven low (R76)
  refclkLost : Option Nat     -- device time of the loss of REFCLK while PLLs hold over (R45)
  entry : Entry
  refused : List Refuser      -- refusers sampled at the start of the running check (R568)
  holds : List Nat            -- logical ports whose PD_HOLD arrived within the running check
  wakeLevel : SMap Nat        -- last level sampled at each comparator: lanes 0-7, VIN 8, WAKE pad 9
  comparators : SMap Comparator
  capCut : Nat                -- sixteenths decided by the cap loop (R72)
  thermalCut : Nat            -- sixteenths decided by the thermal loop (R73)
  cutDie : Nat                -- Glade die of the hottest reading in the last window that raised the thermal cut (R68)
  cutWindow : Nat             -- number of the last 1 ms window ended
  cutTick : Nat               -- CLK_AO tick at the end of that window
  cutOwed : Bool              -- the CUs have not taken that window's cuts yet (R74)
  ingressStopped : Bool       -- tc + 10 us of a STANDBY entry has passed
  forwardingStopped : Bool    -- tc + 50 us has passed
  transmittersOff : Bool      -- tc + 100 us has passed
  domainsOff : Bool           -- tc + 300 us has passed: Lookout retention memory in RETAIN, every other domain OFF
  stackSupply : SMap StackSupply   -- Understory[u]; unlisted: off
  doubleRate : SMap Bool      -- Understory[u] refreshes at the doubled rate (R41)
  cuGate : SMap Gating        -- package CU number; unlisted: powerGated
  copseGate : SMap Gating     -- package copse number; unlisted: powerGated
  workWaits : Bool            -- work admitted in PORTS-ONLY waits for ACTIVE (R53)
  retryAt : Nat               -- device time of the last refused attempt of R53
deriving DecidableEq, Repr

def PowerSt.reset : PowerSt :=
  { keepalive := true, keepStart := 0, pwOut := true, aoStart := 1000000, aoXtal := false, aoFellBack := false, causeLatch := 0, poresetLow := false,
    bootHold := false, coldOwed := true, wakeStands := false, wakeTick := 0, wakeLatched := none, converter := .off, softAt := 0, vinLow := false,
    vinHigh := false, thermtripLow := false, refclkLost := none, entry := .idle, refused := [], holds := [], wakeLevel := [],
    comparators := [(0, .ready), (1, .ready), (2, .ready), (3, .ready), (4, .ready), (5, .ready), (6, .ready), (7, .ready), (8, .ready), (9, .ready)],
    capCut := 0, thermalCut := 0, cutDie := 0, cutWindow := 0, cutTick := 0, cutOwed := false, ingressStopped := false, forwardingStopped := false,
    transmittersOff := false, domainsOff := false, stackSupply := [], doubleRate := [], cuGate := [], copseGate := [], workWaits := false, retryAt := 0 }

/-- How far the boot of Table 02.2 has come. -/
inductive BootPhase where
  | idle          -- no boot running
  | handed        -- control passed to the boot sequence (R34)
  | romStarted    -- boot ROMs have read fuses and directories
  | chosen        -- active Lookout chosen (R84)
  | applied       -- NV and calibration applied to the Lookout, PW, SB and EV blocks
  | calibrated    -- NV and calibration applied on every die
  | trained       -- Understory channels trained
  | done
deriving DecidableEq, Repr

/-- A live update or reload in progress (R105-R109). -/
structure Update where
  dtype : Nat
  index : Nat
  slot : Nat
  oldSlot : Nat
deriving DecidableEq, Repr

/-- A Lookout handover in progress: planned (R112), or a failover at a step of Table 02.8. -/
inductive Handover where
  | idle
  | planned (t0 : Nat)
  | lost (t0 lost : Nat)          -- active declared lost, fenced
  | resumed (t0 lost : Nat)       -- Sequencer resumed
  | events (t0 lost : Nat)        -- event sources taken
deriving DecidableEq, Repr

/-- Chapter 02: Seedbank stores, directory, boot, update, handover. -/
structure BootSt where
  seed0 : Store                -- Seedbank[0], byte addressed (Table 02.1)
  seed1 : Store                -- Seedbank[1]
  seedDown : List Nat          -- Seedbank dies out of service
  unsync : List Nat            -- regions marked unsynchronized in the directory, by row of Table 02.1
  slotActive : SMap Nat        -- directory: active image slot of die type d
  minSvn : SMap Nat            -- counter region: minimum security version of die type d
  nvActive : Nat               -- directory: NV image copy in force
  nvSeq : Nat
  ucalActive : Nat             -- directory: user calibration copy in force
  ucalSeq : Nat
  nvCommitAt : Option Nat      -- device time of a running NV commit
  ucalCommitAt : Option Nat
  phase : BootPhase
  dirRead : List Nat           -- Lookouts whose boot ROM has read the directories
  lookoutSlot : SMap Nat       -- slot whose image a Lookout verified and started
  recovery : List Nat          -- Lookouts in recovery (R91)
  lookoutUp : List Nat         -- Lookouts in service
  fenced : List Nat            -- Lookouts held in reset by the PW block (R113)
  resent : List Nat            -- dies whose body has been sent a second time (R93)
  notStarted : List Nat        -- die entries not started (R85)
  staged : SMap Nat            -- die type d: slot checked GOOD that its dies are STAGED for (R104)
  update : Option Update
  updateAt : Nat               -- device time of GO
  handover : Handover
  lastBeat : Nat               -- device time of the last heartbeat received from the active Lookout
  seqRuns : Bool               -- the Sequencer runs and accepts operations (R112)
  calApplied : SMap Int        -- calibration item: value applied (R102)
  sealed : Option (List Word)  -- CAK and CKN sealed beside the NV image (R540)
  evLog : List (List Byte)   -- the event log: records and digests, newest first (R553, R556); the spec gives it no layout
  retained : Option (List Nat) -- the Lookout retention memory holds content (R86), and the stacks that were retained with it
deriving DecidableEq, Repr

def BootSt.reset : BootSt :=
  { seed0 := [], seed1 := [], seedDown := [], unsync := [], slotActive := [], minSvn := [], nvActive := 0, nvSeq := 0, ucalActive := 0, ucalSeq := 0,
    nvCommitAt := none, ucalCommitAt := none, phase := .idle, dirRead := [], lookoutSlot := [], recovery := [], lookoutUp := [], fenced := [],
    resent := [], notStarted := [], staged := [], update := none, updateAt := 0, handover := .idle, lastBeat := 0, seqRuns := false, calApplied := [], sealed := none, evLog := [], retained := none }

/-- A sequenced flit: the fields kept for replay (R127). -/
structure Flit where
  seq : Nat
  ftype : Nat
  keyph : Bool
  slotmap : Nat
  slots : List (BitVec 128)
deriving DecidableEq, Repr

/-- One logical port's link layer (03). STATE, WIDTH, ENC, PARTNER and KEY_GEN stand in FR.SUB.STATUS. -/
structure Lport where
  ackd : Nat                  -- last sequence received in order with a good CRC
  nakSet : Bool               -- NAK already set for the lost sequence (R126)
  nakOwed : Bool              -- the next flit sent carries NAK
  txNext : Nat                -- next sequence to send
  txBuf : List Flit           -- replay buffer: unacknowledged flits, oldest first (R127)
  ackAt : Nat                 -- device time at which ACK last advanced or the buffer became non-empty
  replaySeq : Nat             -- sequence last replayed
  replayRuns : Nat            -- times in a row that it was replayed (R130)
  credits : SMap Nat          -- VC: slots the transmitter may send (R125)
  crSeen : SMap Nat           -- VC: last CRCNT received
  crGiven : SMap Nat          -- VC: slots returned to the partner since training
  crTold : SMap Nat           -- VC: the total last reported, in credit units
  crvNext : Nat               -- VC named by CRVC in the next flit
  trainAt : Option Nat        -- t0 of the running training attempt
  eqDone : Bool               -- transmitter taps agreed
  params : Bool               -- the partner's PARAMS has been received in this attempt
  partnerMode : Nat
  partnerEnc : Bool           -- the partner requires encryption
  retryAt : Option Nat        -- device time from which a new attempt may start
  activeAt : Nat              -- device time at which it last reached ACTIVE
  kept : Option Nat           -- device time at which a retrain of R130 started: outstanding work is kept
  rxSlots : List (BitVec 128) -- slots of the transaction being received
  rxNeed : Nat                -- slots it still needs
  rxMap : List Bool           -- SLOTMAP bits of rxSlots
  rxSkip : Bool               -- slots are discarded up to the next header slot (R123)
  group : List Flit           -- received flits of the open tag group (R147)
  groups : Nat                -- tag groups sent in the key generation
  groupsRx : Nat              -- tag groups received in the key generation of the receive stream
  txGroup : List Flit         -- flits sent in the open tag group
  keyRx : Nat                 -- key generation of the receive stream
  keyNext : Option Nat        -- key generation installed beside the old one
  keySent : Option Nat        -- generation named by a KEY_SWITCH not yet answered
  keyFlip : Bool              -- KEYPH flips at the next group boundary
  keyphTx : Bool
  keyphRx : Bool
  keysHeld : Bool             -- the Fringe key store holds keys of the stream
  secureSince : Option Nat    -- device time at which SPDM started
  noticeAt : Option Nat       -- device time of a received PD_NOTICE (R143)
  pausedBy : Bool             -- new sequenced flits stopped by a lane move
  txWait : List (Nat × Nat × List (BitVec 128))   -- FTYPE, SLOTMAP and slots of flits that wait for room in the replay buffer
  spdm : List Byte            -- bytes of the SPDM message being received
deriving DecidableEq, Repr

def Lport.reset : Lport :=
  { ackd := 65535, nakSet := false, nakOwed := false, txNext := 0, txBuf := [], ackAt := 0, replaySeq := 0, replayRuns := 0, credits := [], crSeen := [],
    crGiven := [], crTold := [], crvNext := 0, trainAt := none, eqDone := false, params := false, partnerMode := 0, partnerEnc := false, retryAt := none, activeAt := 0,
    kept := none, rxSlots := [], rxNeed := 0, rxMap := [], rxSkip := false, group := [], groups := 0, groupsRx := 0, txGroup := [], keyRx := 0, keyNext := none, keySent := none,
    keyFlip := false, keyphTx := false, keyphRx := false, keysHeld := false, secureSince := none, noticeAt := none, pausedBy := false, txWait := [], spdm := [] }

/-- One physical lane of a Fringe die, by number 64 × f + l. ROLE, PORT, POS, LOS and RECAL_RESULT stand in FR.LANE.STATUS. -/
structure Lane where
  light : Bool                -- received power above the level at which LOS clears
  taps : Bool                 -- transmitter taps agreed in the training attempt
  spareAsked : Option Nat     -- spare named in a SPARE_REQ not yet answered
  narrowAsked : Bool          -- NARROW_REQ sent, not yet answered
  restoreAsked : Bool         -- RESTORE_REQ sent, not yet answered
  onSpare : Option Nat        -- spare lane that carries this lane's blocks
  recal : Option Nat          -- recalibration running: 0 active lane, 1 failed lane, 2 spare lane
  expected : Bool             -- loss of light expected after PD_NOTICE
deriving DecidableEq, Repr

def Lane.reset : Lane :=
  { light := false, taps := false, spareAsked := none, narrowAsked := false, restoreAsked := false, onSpare := none, recal := none, expected := false }

/-- Chapter 03: links. -/
structure LinkSt where
  ports : SMap Lport          -- package logical port number 4p + s
  lanes : SMap Lane
  txOn : SMap Bool            -- physical port: transmitters on
  modes : SMap Nat            -- physical port: MODE in force, that of its last training (R117)
  sessions : List Nat         -- logical ports that run or wait for an SPDM session, in the order requested: the first 32 run (R150, R444)
  spdmIn : List (Nat × List Byte)   -- SPDM messages handed to the session engine of the Lookouts: logical port and message, oldest first
deriving DecidableEq, Repr

def LinkSt.reset : LinkSt := { ports := [], lanes := [], txOn := [], modes := [], sessions := [], spdmIn := [] }

/-- A read-only staging copy of a T2 page (R175, R180). -/
structure StageCopy where
  clr : Nat
  node : Nat
  page : Nat
  prio : Nat
  usedAt : Nat               -- order of the last use
  bytes : List Byte
deriving DecidableEq, Repr

/-- A HINT range (R179): newest first in the list. -/
structure HintRange where
  clr : Nat
  node : Nat
  page : Nat
  count : Nat
  prio : Nat
deriving DecidableEq, Repr

/-- A unit assembly (R182): 64 KiB unit number `unit` of a T2 tray. -/
structure UnitAsm where
  clr : Nat
  node : Nat
  unit : Nat
  firstAt : Nat
  segs : SMap (List (BitVec 128))
  waiters : List Nat         -- requests held
  sent : Option Nat          -- the UNIT_WR request in flight
deriving DecidableEq, Repr

/-- A request that has ended, on its way to whoever issued it. -/
structure Ended where
  src : ReqSrc
  status : Status
  data : List Byte
deriving DecidableEq, Repr

/-- Chapter 04: tiers, outstanding requests, staging, units. -/
structure FabricSt where
  t0 : Store                 -- Understory: byte b of channel n at n × 2^31 + b (R155)
  txns : SMap Txn
  nextTxn : Nat
  deadTags : List (Nat × Nat × Nat)    -- logical port, tag, device time from which the tag may be used again (R172)
  staging : List StageCopy
  stageSeq : Nat
  hints : List HintRange
  units : List UnitAsm
  buckets : SMap Nat         -- clearing: units in the unit bucket (R185)
  ended : List Ended         -- ends not yet taken by their issuers, oldest first: empty between commands
  refillAt : Nat             -- number of the last 10 ms boundary
deriving DecidableEq, Repr

def FabricSt.reset : FabricSt :=
  { t0 := [], txns := [], nextTxn := 0, deadTags := [], staging := [], stageSeq := 0, hints := [], units := [], buckets := [], ended := [], refillAt := 0 }

/-- A holder of something of a region: a logical port or a context. -/
inductive Holder where
  | port (lp : Nat)
  | ctx (copse n : Nat)
deriving DecidableEq, Repr

/-- The state of a directory entry (Table 05.8); I keeps no entry. -/
inductive DirState where
  | s | e | m
deriving DecidableEq, Repr

/-- A snoop outstanding to a member. -/
structure Snoop where
  lp : Nat
  tag : Nat
  share : Bool               -- SNP_SHARE, else SNP_INV
  sentAt : Nat
deriving DecidableEq, Repr

/-- A directory entry (R218, R219). -/
structure DirEntry where
  node : Nat
  line : Nat                 -- Offset[47:6]
  copse : Nat                -- partition
  set : Nat
  state : DirState
  holders : List Nat         -- logical ports
  domain : Nat
  poisoned : Bool
  usedAt : Nat
  busy : Option Nat          -- the request being processed
  snoops : List Snoop
  wbSince : Option Nat       -- a WB is awaited since this device time
  evicting : Bool            -- back-invalidated for another line (R222)
deriving DecidableEq, Repr

/-- A subscription (R207, R210). -/
structure Sub where
  region : Nat
  clr : Nat
  who : Holder
  lapsed : Bool
deriving DecidableEq, Repr

/-- An INVAL sent to its subscribers (R209). -/
structure InvalRun where
  txn : Nat
  region : Nat
  awaits : List (Holder × Nat)   -- subscriber and snoop tag
  sentAt : Nat
deriving DecidableEq, Repr

/-- The operations of the Sequencer (R199). -/
inductive SeqKind where
  | inval (txn : Nat)
  | publish (txn : Nat)
  | commit
  | ledger (txn : Nat) (lop : Nat) (reqId : Nat) (dest : Nat) (sender : Nat)
  | ledgerRevert (clr reqId : Nat)
  | admission (k : Nat)
deriving DecidableEq, Repr

/-- A Sequencer operation: waiting for its cycle, positioned, or held by both Lookouts (R111, R443). -/
structure SeqOp where
  id : Nat
  clr : Option Nat           -- none: a privileged operation
  kind : SeqKind
  positioned : Bool
  at_ : Nat                  -- package time of its position
deriving DecidableEq, Repr

/-- The state of a version slot (R212). -/
inductive SlotState where
  | free | prepared (by_ : Holder) | current | retired
deriving DecidableEq, Repr

/-- A PUBLISHED region's versions and pins (R212-R216). -/
structure PubRegion where
  region : Nat
  version : Nat
  slots : List SlotState
  pins : List (Holder × Nat)
  ordered : List Nat         -- PUBLISH requests ordered since the last publish point, oldest first
deriving DecidableEq, Repr

/-- A domain reset in progress (R227). -/
structure DomReset where
  domain : Nat
  t0 : Nat
  sweeping : Bool
deriving DecidableEq, Repr

/-- Chapter 05: directory, subscriptions, Sequencer, versions, domains. -/
structure CohSt where
  dir : List DirEntry
  dirSeq : Nat
  lateSnps : List (Nat × Nat) -- logical port and tag of snoops that a WB satisfied, until their late answers come (R223)
  subs : List Sub
  invals : List InvalRun
  seqOps : List SeqOp        -- in order of position; operations not yet positioned come after those that are
  nextOp : Nat
  pubs : List PubRegion
  pubPoint : Nat             -- number of the last publish point
  resets : List DomReset
  absent : List (Nat × Nat)  -- domain and member absent at its last reset (R228)
deriving DecidableEq, Repr

def CohSt.reset : CohSt :=
  { dir := [], dirSeq := 0, lateSnps := [], subs := [], invals := [], seqOps := [], nextOp := 0, pubs := [], pubPoint := 0, resets := [], absent := [] }

/-- What a queued cell is charged to (R243), or the multicast copy that it points at (R253). -/
inductive Charge where
  | shared | reserve | overflow | copy (id : Nat)
deriving DecidableEq, Repr

structure QCell where
  cell : Cell
  charge : Charge
deriving DecidableEq, Repr

/-- An egress queue of a logical port (R235, R247). -/
structure EgressQ where
  cells : List QCell         -- in the cell buffer, head first
  ovf : List Cell            -- in overflow, head first
deriving DecidableEq, Repr

def EgressQ.reset : EgressQ := { cells := [], ovf := [] }

/-- A flow of the mesh (R236, R259). -/
structure MeshFlow where
  queue : List QCell         -- mesh queue of the ingress die
  nextSeq : Nat
  spray : Nat                -- next spray entry
  sent : List (Nat × Cell)   -- sequence and header of each cell not yet released
  exp : Nat                  -- E of the destination
  held : List Cell           -- held ahead of E
  since : Option Nat         -- gap timer's start, in timer time
  notices : List Nat         -- release notices on their way to the ingress die, oldest first
  skips : List (Nat × Nat)   -- skip notices on their way: first sequence and count (R261)
deriving DecidableEq, Repr

def MeshFlow.reset : MeshFlow := { queue := [], nextSeq := 0, spray := 0, sent := [], exp := 0, held := [], since := none, notices := [], skips := [] }

/-- A cell on an edge direction: its flow and the cell. -/
structure MeshCell where
  flow : Nat
  cell : Cell
  hop2 : Option Nat          -- edge of the second hop, still to cross
deriving DecidableEq, Repr

/-- One edge direction, Glade[g] sending on EDGE[e], number 4g + e. OUT stands in FW.EDGE.STATUS. -/
structure EdgeDir where
  flying : List MeshCell     -- cells on the edge or in its hop buffer, oldest first
  failAt : Option Nat        -- t0 of Table 06.7
  holding : Bool             -- a wire has failed, and the cells held have not been sent again (Table 06.7)
  skipped : Bool             -- spray entries that use it are skipped
deriving DecidableEq, Repr

def EdgeDir.reset : EdgeDir := { flying := [], failAt := none, holding := false, skipped := false }

/-- Units of a clearing on a die (R243), number 128g + c. -/
structure FwUse where
  shared : Nat
  resv : SMap Nat            -- VC: units charged to its reserve
deriving DecidableEq, Repr

def FwUse.reset : FwUse := { shared := 0, resv := [] }

/-- A multicast copy stored on a die (R253). -/
structure McCopy where
  id : Nat
  die : Nat
  cell : Cell
  refs : Nat
  charge : Charge
deriving DecidableEq, Repr

/-- A trail ring's counts (R265): ring 129g + c, 129g + 128 for the fabric manager's. -/
structure TrailSt where
  matched : SMap Nat         -- KIND: events matched
  us : Nat                   -- microsecond of the last record
  inUs : Nat                 -- records written in it
deriving DecidableEq, Repr

def TrailSt.reset : TrailSt := { matched := [], us := 0, inUs := 0 }

/-- Chapter 06: queues, mesh, overflow, trails. -/
structure ForwardSt where
  egress : SMap EgressQ      -- 16 × logical port + class
  flows : SMap MeshFlow      -- ((8 × SDIE + DDIE) × 128 + CLR) × 8 + VC
  edges : SMap EdgeDir
  use : SMap FwUse
  refused : List (Nat × Cell)   -- Glade die and cell: cells refused admission, oldest first
  copies : List McCopy
  nextCopy : Nat
  trails : SMap TrailSt
  gapSusp : Option Nat       -- device time at which gap timers were suspended
  gapLost : Nat              -- ns of suspension so far: timer time is device time less this
  meshOwed : Bool            -- new mesh modes and slot sets wait for the wheel boundary (R290); those in force stand in SC.MESH
  meshDef : SMap Nat         -- open-mode deficit in units, ((4g + e) × 128 + c)
  meshTurn : SMap Nat        -- edge direction: clearing served last; VC served last at 2^20 + edge × 128 + c
deriving DecidableEq, Repr

def ForwardSt.reset : ForwardSt :=
  { egress := [], flows := [], edges := [], use := [], refused := [], copies := [], nextCopy := 0, trails := [], gapSusp := none, gapLost := 0,
    meshOwed := false, meshDef := [], meshTurn := [] }

/-- The settings in force of a shaper or policer whose words hold newer ones (R275): EN or MODE, RATE, BURST as written. -/
structure OldShaper where
  mode : Nat
  rate : Nat
  burst : Nat
deriving DecidableEq, Repr

/-- A transaction held at landing (R284, R497). -/
structure HeldReq where
  lp : Nat
  vc : Nat
  slots : Nat
  pol : Option Nat           -- the policer that held it, (128g + c) × 16 + i; none: it waits behind another, or was held by a quiesce (R497), and has met none
  what : Arrival
deriving DecidableEq, Repr

/-- One logical port's scheduler. -/
structure SchedPort where
  active : List Nat          -- DRR active list
  credited : List Nat        -- classes credited in the turn in progress
  switchAt : Option Nat      -- package time of a pending gate switch
  cycle : Nat                -- CYCLE of the list in force
  pendCycle : Nat            -- CYCLE frozen by COMMIT
deriving DecidableEq, Repr

def SchedPort.reset : SchedPort := { active := [], credited := [], switchAt := none, cycle := 1000000, pendCycle := 1000000 }

/-- Chapter 07: schedulers, shapers, policers. -/
structure SchedSt where
  ports : SMap SchedPort
  oldShapers : SMap OldShaper   -- 17 × logical port + class (16: the port shaper) while PENDING reads 1; TOKENS stand in the STATE words
  oldPols : SMap OldShaper      -- policer (128g + c) × 16 + i while PENDING reads 1
  polTokens : SMap Nat          -- a policer's tokens
  polUs : SMap Nat              -- a policer's last microsecond counted in HOLD_US
  held : List HeldReq        -- oldest first
  refill : Nat               -- number of the last 1,000 ns refill instant
deriving DecidableEq, Repr

def SchedSt.reset : SchedSt := { ports := [], oldShapers := [], oldPols := [], polTokens := [], polUs := [], held := [], refill := 0 }

/-- Why a strand does not go on (R478 and the waits that end inside the copse). -/
inductive Wait where
  | none
  | reg                      -- a register that an outstanding request will write
  | recv                     -- RECV without TRY on an empty queue
  | waitm (n : Nat)          -- WAITM with its bound
  | prep                     -- PREP, until its request ends
  | held                     -- INVAL or PUBL held under R200
  | fence                    -- the FENCE of FENCE, REL or RELA
  | acq                      -- the FENCE after the load or atomic of ACQ or ACQA
  | bay | sorter | stream | step
  | bar (b : Nat)
  | take                     -- a read of TAKE, until an event is claimed (R531)
deriving DecidableEq, Repr

/-- A strand's record (Tables 08.1 and 08.2). -/
structure Strand where
  regs : SMap Word           -- s0-s31
  pc : Nat
  preds : Nat                -- p0-p7
  aregs : SMap Nat           -- a0-a7
  bay : Option Nat
  rmode : Nat
  smode : Nat
  promoN : Nat
  promoEn : Bool
  srByte : Nat
  srState : Nat
  live : Bool                -- has not ended
  wait : Wait
deriving DecidableEq, Repr

def Strand.reset : Strand :=
  { regs := [], pc := 0, preds := 0, aregs := [], bay := none, rmode := 0, smode := 0, promoN := 0, promoEn := false, srByte := 0, srState := 0, live := false,
    wait := .none }

/-- A descriptor (Table 09.6). -/
structure Desc where
  kind : Nat
  rights : Nat
  clr : Nat
  aux : Nat
  base : Nat
  len : Nat
  reserved : Bool            -- a reserved bit or byte is not zero
deriving DecidableEq, Repr

/-- A program header (Table 09.20). -/
structure Header where
  ok : Bool                  -- MAGIC, FORMAT, lengths and reserved bytes are well formed
  codeOk : Bool              -- CODE_LEN and ENTRY in range
  priv : Bool
  mgmt : Bool
  plain : Bool
  codeLen : Nat
  entry : Nat
  initLen : Nat
  cus : Nat
  strands : Nat
  pages : Nat
  bays : Nat
  privWays : Nat
  pinWays : Nat
  sorter : Nat
  rxq : Nat
  prio : Nat
  state0 : Nat
  runLimit : Nat
  seed : Nat
  lit : List Word
  descs : List Desc
  amax : List Nat
  resid : List (Nat × Nat)   -- stream number, N
deriving DecidableEq, Repr

/-- The states of a context (Table 13.5). -/
inductive CtxState where
  | loading | running | blocked | saving | swapped | restoring | ending
deriving DecidableEq, Repr

/-- What ended a program: status, reason, PC and rank of the strand that set it (Table 09.21). -/
structure EndCause where
  status : Status
  reason : Nat
  pc : Nat
  rank : Nat
  torn : Bool
  time : Nat                 -- package time
deriving DecidableEq, Repr

/-- Who submitted a program: a fabric submission with its record's address, or a program slot. -/
inductive Submitter where
  | fabric (crec : Nat)
  | slot (n : Nat)
deriving DecidableEq, Repr

/-- A message in a receive queue: where its record lies in the ring, and how long it is. -/
structure RxMsg where
  at_ : Nat
  len : Nat
deriving DecidableEq, Repr

/-- A message that waits for room in a full ring (R372): who gets its completion. -/
structure RxWait where
  sender : Word
  tag : Nat
  bytes : List Byte
  src : ReqSrc
  clr : Nat
  epoch : Nat
deriving DecidableEq, Repr

/-- A block of an expander stream (R432). -/
structure XBlock where
  desc : Nat
  off : Nat
  fmt : Nat
  want : Nat                 -- the count of XSTART
  drawn : Nat
  panels : Nat               -- panels that the block yields, once known
  phase : Nat                -- 0 waits, 1 decoding, 2 panels released, 3 damaged or read failed
  status : Nat               -- status of poisoned panels
  raw : List Byte            -- the decoded output
  lines : SMap (List Byte)   -- lines of a block in fabric memory read so far, by local address / 64
  asked : List Nat           -- lines whose reads are outstanding
deriving DecidableEq, Repr

/-- The expander stream of a CU (R364). -/
structure XStream where
  ctx : Nat
  owner : Nat                -- strand key in the context
  opened : XBlock
  queued : Option XBlock
deriving DecidableEq, Repr

/-- A context (R475-R488). -/
structure Ctx where
  state : CtxState
  clr : Nat
  gid : Nat
  hdr : Header
  code : List Word
  init : List Byte
  args : List Word
  rankBase : Nat
  by_ : Submitter
  tag : Word
  strands : SMap Strand      -- 1,024 × CU index + strand index
  scratch : Store            -- 2^19 × CU index + byte
  bays : Store               -- (16 × CU index + bay) × 2^14 + byte
  started : Bool             -- INIT copied and strands at ENTRY
  rxHead : Nat               -- ring offset of the next record to be written
  rx : List RxMsg            -- oldest first
  rxWait : List RxWait
  runnable : Bool
  since : Nat                -- order of arrival, or of becoming RUNNABLE
  residentAt : Nat           -- device time of the scheduling decision
  blockedAt : Nat            -- device time from which it is BLOCKED
  readyAt : Nat              -- device time at which its save or restore ends
  slot : Nat                 -- resident slot
  ways : List Nat            -- private ways
  pins : List Nat            -- pinned ways
  frames : List Nat          -- pages of the scratchpads that hold its pages, in order
  first : Option Nat         -- package time of the first strand's start
  cause : Option EndCause
  streams : SMap XStream     -- expander streams kept while it is swapped out, by CU (R432)
  result : Option (List Word)    -- s20-s23 of the lowest-ranked strand at its end
  sat : Nat
  promoted : Nat
  expStall : Nat
  preempts : Nat
  issued : Nat
deriving DecidableEq, Repr

/-- A line of the copse cache (R307-R310). -/
structure CLine where
  node : Nat
  line : Nat
  way : Nat
  owner : Option Nat         -- context number of the way's owner
  data : Line
  dirty : Bool               -- the STORE that carries it home has not ended
  viaW : Bool                -- came through a window granting W (R191)
  usedAt : Nat
deriving DecidableEq, Repr

/-- An amax entry (R331): CUR and a history, oldest first. -/
structure AmaxEnt where
  stream : Nat
  cur : F32
  hist : List F32
  rolls : Nat                -- values pushed so far, modulo 16: the ring place of the next one (log 13)
deriving DecidableEq, Repr

/-- A residual entry (R336): its units of the residual area, in order. -/
structure ResidEnt where
  stream : Nat
  n : Nat
  step : Nat
  valid : Bool               -- a step has been done
  units : List Nat
deriving DecidableEq, Repr

/-- A copse. -/
structure Copse where
  cache : List CLine
  useSeq : Nat
  amax : SMap AmaxEnt        -- entry 0-63
  resid : SMap ResidEnt
  sortOwner : Option Nat     -- context number
  sortQ : List Nat           -- contexts waiting for the sorter
  sortK : Nat
  sortL : List (F32 × BitVec 32)   -- best first
  sortOpen : Bool
  bayQ : List StrandRef      -- bay requests waiting, oldest first
  zeroing : List (Nat × Nat × Nat)   -- CU, bay and the device time at which it was freed (R301)
  streams : SMap XStream     -- CU of the copse
  switching : Bool           -- a switch of R486 runs
  entering : Option Nat      -- the context that enters at its end
  arrivals : Nat             -- counter behind Ctx.since
deriving DecidableEq, Repr

def Copse.reset : Copse :=
  { cache := [], useSeq := 0, amax := [], resid := [], sortOwner := none, sortQ := [], sortK := 1, sortL := [], sortOpen := false, bayQ := [], zeroing := [], streams := [],
    switching := false, entering := none, arrivals := 0 }

/-- A submission being loaded (R475). -/
structure Loading where
  id : Nat
  src : ReqSrc               -- who gets SUBMIT's answer
  clr : Nat
  epoch : Nat
  copse : Nat
  gid : Nat
  rankBase : Nat
  prog : Nat
  tag : Word
  by_ : Submitter
  args : List Word
  priv : Bool                -- the privileged path (R376)
  plan : List (Nat × Nat)    -- reads still to be made: address, bytes
  got : List Byte            -- bytes read so far
  conf : List Byte           -- the configuration record of a Grove submission
  stage : Nat                -- 0 header, 1 the rest of the header area, 2 code, 3 INIT, 4 configuration record
deriving DecidableEq, Repr

/-- Segments of a message that is arriving on a logical port (R481). -/
structure PartMsg where
  lp : Nat
  tag : Nat
  segs : SMap (List (BitVec 128))
deriving DecidableEq, Repr

/-- Chapters 08, 09, 11 and 13: copses, contexts, loaders. Package copse 128 + t stands for management CU[t] of the active Lookout. -/
structure NxSt where
  copses : SMap Copse
  ctxs : SMap Ctx            -- 32 × package copse + context number
  msgs : List PartMsg
  slotRecs : List (Nat × List Byte)   -- completion records on their way to program slots, oldest first
  crecs : SMap (Nat × Bool)  -- completion records on their way: stores outstanding, and whether one failed (R476)
  gens : SMap Nat            -- generation of a context number; unlisted: 1
  loads : List Loading       -- in order of arrival
  nextLoad : Nat
deriving DecidableEq, Repr

def NxSt.reset : NxSt := { copses := [], ctxs := [], msgs := [], slotRecs := [], crecs := [], gens := [], loads := [], nextLoad := 0 }

/-- A message in a Grove instance's receive queue. -/
structure SvcMsg where
  sender : Word
  tag : Nat
  at_ : Nat                  -- package time of its entry
  epoch : Nat
  bytes : List Byte
  done : List Nat            -- segments of a contribution already handled
deriving DecidableEq, Repr

/-- An open segment of a collective (R394). -/
structure SvcSeg where
  seg : Nat
  step : Nat
  at_ : Nat                  -- entry of its first contribution
  ranks : List Nat           -- the rank bitmap
  area : List F32
  timedOut : Bool            -- emitted with TIMEOUT; kept until the RSTEP of its CU is settled (R398)
deriving DecidableEq, Repr

/-- A choice of a token (R407): pending, combined, or failed. -/
structure SvcChoice where
  expert : Nat
  weight : Nat               -- BF16
  state : Nat                -- 0 pending, 1 combined, 2 failed
  status : Status
deriving DecidableEq, Repr

/-- A pending token (R407, R410). -/
structure SvcToken where
  rank : Nat
  token : Nat
  at_ : Nat
  choices : List SvcChoice
  acc : List F32
deriving DecidableEq, Repr

/-- An entry of an EXPERT_IN batch. -/
structure SvcEntry where
  token : Nat
  rank : Nat
  data : List Byte
deriving DecidableEq, Repr

/-- An EXPERT_IN batch (R408, R409): the replica and expert that it is for. -/
structure SvcBatch where
  id : Nat
  handle : Nat
  expert : Nat
  entries : List SvcEntry
  at_ : Nat                  -- package time of its first entry
  tried : List Nat           -- replicas tried
  again : Bool               -- resolved a second time under a later map
  phase : Nat                -- 0 collecting, 1 sent, 2 ended with `status`, 3 waits to be sent again
  status : Status
  since : Nat
deriving DecidableEq, Repr

/-- A batch of COMBINED entries for a rank (R410). -/
structure SvcOut where
  rank : Nat
  count : Nat
  at_ : Nat
  bytes : List Byte
deriving DecidableEq, Repr

/-- The kinds of work that a Grove instance has under way. -/
inductive SvcJobKind where
  | start                    -- reading the return table and the tracker lines
  | result                   -- a result send
  | expertIn (batch : Nat)
  | write                    -- a statistics or tracker store
  | bags (msg : SvcMsg)      -- rows of a BAG_REQ
  | filter (msg : SvcMsg)    -- panels of a FILTER_REQ
  | kv (rank step first : Nat) (blocks : List Nat)   -- key-value blocks of a KV_DATA message
deriving DecidableEq, Repr

/-- Work under way: its reads, by piece. -/
structure SvcJob where
  kind : SvcJobKind
  left : Nat                 -- pieces outstanding
  got : SMap (List Byte)
  bad : SMap Status
deriving DecidableEq, Repr

/-- A Grove instance (chapter 10). -/
structure Svc where
  conf : List Byte           -- the configuration record, as read by the loader
  idx : Nat                  -- instance index i
  ret : List Word            -- the return table
  ready : Bool               -- the return table and tracker lines have been read
  stopping : Bool            -- a STOP has been taken
  queue : List SvcMsg        -- the receive queue, oldest first
  rng : Nat × Nat            -- SRSTATE and SRBYTE of its conversions
  segs : List SvcSeg
  emitted : List (Nat × Nat) -- segment and step of each segment emitted
  cur : Nat                  -- barrier in progress
  arrived : List Nat         -- ranks arrived at it, in order
  first : Nat                -- entry of its first ARRIVE
  hist : SMap Nat            -- rank: lateness history, bit 0 newest
  tokens : List SvcToken
  batches : List SvcBatch
  outs : List SvcOut
  filtering : Option Nat     -- the job of the filter request in progress
  jobs : SMap SvcJob
  nextJob : Nat
  nextBatch : Nat
  done : Nat
  bad : Nat
  dup : Nat
  late : Nat
  timeouts : Nat
  sendFail : Nat
  residReset : Nat
  bytesIn : Nat
  bytesOut : Nat
deriving DecidableEq, Repr

def Svc.reset : Svc :=
  { conf := [], idx := 0, ret := [], ready := false, stopping := false, queue := [], rng := (0, 0), segs := [], emitted := [], cur := 0, arrived := [], first := 0,
    hist := [], tokens := [], batches := [], outs := [], filtering := none, jobs := [], nextJob := 0, nextBatch := 0, done := 0, bad := 0, dup := 0, late := 0,
    timeouts := 0, sendFail := 0, residReset := 0, bytesIn := 0, bytesOut := 0 }

/-- Where a scrub stands (Table 12.12). -/
inductive ScrubPhase where
  | writeback                -- dirty lines of a copse leave; for shares and ports over at once
  | zeroing                  -- from tw
  | readback                 -- from tw + zero time
  | retrying (n : Nat)       -- n failing words are zeroed and read once more (R465)
  | record                   -- both Lookouts have still to hold the record
deriving DecidableEq, Repr

/-- A scrub of a unit (R463-R466). -/
structure Scrub where
  unit : Nat
  phase : ScrubPhase
  since : Nat                -- device time at which the phase began
  started : Nat              -- package time at t0
  clr : Nat                  -- former clearing; 0xFF at boot
  cause : Nat                -- 1 left at a commit, 2 boot, 3 GO
  epoch : Nat
  wb : Nat
  lost : Nat
  retries : Nat
  failed : Bool
deriving DecidableEq, Repr

/-- A scrub record of the ledger (Table 12.13). -/
structure ScrubRec where
  recno : Nat
  unit : Nat
  ok : Bool
  clr : Nat
  cause : Nat
  epoch : Nat
  tStart : Nat
  tEnd : Nat
  wb : Nat
  lost : Nat
  retries : Nat
deriving DecidableEq, Repr

/-- Chapter 12: units, scrubs, evidence. -/
structure ClearSt where
  scrubs : List Scrub
  owed : List (Nat × Nat × Nat × Nat)   -- scrubs that wait to start: unit, former clearing, cause, epoch
  records : List ScrubRec    -- newest first
  made : Nat                 -- records written since the last full reset
  leftAt : SMap Nat          -- unit: `made` when it last left a clearing (R438, rule 5)
  signing : Bool             -- a package-part signature is being computed (R461)
  signOwed : Bool            -- the package part changed since it started
  sigSeq : Nat
  sigPart : Option (List Byte)   -- the package part that the signature in force covers
  waiting : List (Nat × List Byte)   -- evidence requests that wait for the signature: who asks, and the nonce
deriving DecidableEq, Repr

def ClearSt.reset : ClearSt :=
  { scrubs := [], owed := [], records := [], made := 0, leftAt := [], signing := false, signOwed := false, sigSeq := 0, sigPart := none, waiting := [] }

/-- Where a canopy commit stands (Table 13.7, Table 13.9). -/
inductive CommitPhase where
  | idle
  | checking
  | ordered                      -- passed the check; waits for its Sequencer position
  | positioned                   -- positioned; waits for both Lookouts
  | held                         -- held; waits for the switch
  | draining (tc : Nat)          -- device time of the switch
  | quiescing (t0 : Nat)         -- device time of GO
  | drained
  | installed (accepted : Bool)
deriving DecidableEq, Repr

/-- A ledger entry (R498). -/
structure LedgerEntry where
  reqId : Nat
  clr : Nat
  owner : Nat                -- POOL handle
  moving : Option (Nat × Nat)    -- destination handle, deadline in package time
  lapsed : Option Nat        -- the destination whose deadline passed last, until the entry moves again (R499)
deriving DecidableEq, Repr

/-- A spare in test or load (R501-R504). CMD, PHASE, RESULT and the counts stand in CM.SPARE. -/
structure SpareSt where
  at_ : Nat                  -- device time of the CMD, or of the last advance of DONE
  snapAt : Nat               -- device time from which the counts of a test have stood
  snap : List Nat            -- CRC_ERR, REPLAY, TRAIN_FAIL and the UNCORRs of the port's lanes then
  noteOk : Bool              -- the spare answered an EPOCH_NOTE with OK
  bytes : Nat                -- bytes answered OK that make no whole unit yet
  gens : List Nat            -- generations of the endpoint records bound to the partner port, at LOAD
  release : Option (Nat × List Byte)   -- the barrier instance and RELEASE held for the admission (R504)
deriving DecidableEq, Repr

def SpareSt.reset : SpareSt := { at_ := 0, snapAt := 0, snap := [], noteOk := false, bytes := 0, gens := [], release := none }

/-- Chapter 13: canopy maps, ledger, spares. -/
structure CommitSt where
  node : Nat                 -- NodeID in force: CM.SELF.NODE as of the last commit or boot (R155)
  inForce : Canopy
  prev : Option Canopy       -- the map of epoch E - 1 in its drain window
  shadow : Store             -- the shadow map's bytes (R564)
  next : Option Canopy       -- the map being committed
  phase : CommitPhase
  epGens : SMap Nat          -- 1,024 × clearing + index: generation (R472)
  ledger : List LedgerEntry
  spares : SMap SpareSt
  stopped : Bool             -- no landing credit returns and nothing is admitted (R497)
deriving DecidableEq, Repr

def CommitSt.reset : CommitSt :=
  { node := 0, inForce := .empty, prev := none, shadow := [], next := none, phase := .idle, epGens := [], ledger := [], spares := [], stopped := false }

/-- What the event controller k keeps for a source n beside its words, number 2048k + n. -/
structure EvAux where
  first : Option Nat         -- device time of the first occurrence not yet claimed
  origin : Nat               -- the origin's 8-bit edge counter as last seen
  stuck : List Nat           -- device times of the last end-of-event writes that found the input active, newest first: at most 4 (R533)
deriving DecidableEq, Repr

def EvAux.reset : EvAux := { first := none, origin := 0, stuck := [] }

/-- A word marked by WRITE_RAW (R521), or a word in error: die entry, array, instance, word, data and check bits as stored. -/
structure RawWord where
  die : Nat
  array : Nat
  inst : Nat
  word : Nat
  data : List Byte
  check : Nat
  marked : Bool
  bad : Bool                 -- reads uncorrectable or poisoned
deriving DecidableEq, Repr

/-- A scope reset in progress (R522). -/
structure ScopeReset where
  scope : Nat
  die : Nat
  inst : Nat
  at_ : Nat
deriving DecidableEq, Repr

/-- A TAKE read that waits on management CU 4k + t (R531): of a strand, with the register that it writes, or of a program outside the model's strands. -/
structure Claim where
  cu : Nat
  strand : Option (StrandRef × Nat)
deriving DecidableEq, Repr

/-- Chapter 14: stored-data protection and the event controller. -/
structure EccSt where
  raw : List RawWord
  retired : SMap Nat         -- rows retired: ((die × 16 + array) × 256 + inst)
  resets : List ScopeReset
  aux : SMap EvAux
  evStacks : SMap (List (Nat × Nat))   -- 4k + t: the priority stack, top first: PRIO, source
  claims : List Claim        -- TAKE reads that wait, oldest first
deriving DecidableEq, Repr

def EccSt.reset : EccSt := { raw := [], retired := [], resets := [], aux := [], evStacks := [], claims := [] }

/-- A CCP datagram sent that its receiver acknowledges, kept until it is (R547). -/
structure TxDgram where
  seq : Nat
  type : Nat
  msgid : Nat
  frag : Nat
  nfrag : Nat
  body : List Byte
  sends : Nat
  due : Nat                  -- device time of the next send
deriving DecidableEq, Repr

/-- A fragment that waits for room among the 256 unacknowledged datagrams. -/
structure TxFrag where
  type : Nat
  msgid : Nat
  frag : Nat
  nfrag : Nat
  body : List Byte
deriving DecidableEq, Repr

/-- A telemetry subscription of a session (R558): a group's period in units of 100 us, its range of instances, and when it is due. -/
structure TelemSub where
  group : Nat
  period : Nat
  first : Nat
  last : Nat
  due : Nat                  -- device time
  streamed : List Nat        -- group TRAIL_FM: records streamed, by die
deriving DecidableEq, Repr

/-- A CCP session (R548-R551). -/
structure Session where
  num : Nat
  peer : Nat                 -- the sender's address and port, a name of the model's
  role : Nat                 -- 0xFF for the fabric manager, or a clearing
  enrol : Bool
  opening : Option Nat       -- device time of HELLO; none: the session is open
  cert : Cert                -- the peer's chain, as the certificate engine reads it
  rxHigh : Nat               -- highest SEQ received
  rxSeen : List Nat          -- SEQs received among the 1,024 up to rxHigh
  rxNext : Nat               -- SEQ of the last acknowledged datagram delivered in order
  rxHeld : List Dgram        -- acknowledged datagrams that wait for an earlier one
  parts : SMap (SMap (List Byte))   -- messages of several fragments being received: MSGID, fragment
  txSeq : Nat                -- SEQ of the next datagram
  txMsg : Nat                -- MSGID of the next message
  unacked : List TxDgram
  txWait : List TxFrag
  lastRx : Nat               -- device time
  lastKeep : Nat             -- device time of the last KEEPALIVE sent
  subs : List TelemSub
deriving DecidableEq, Repr

/-- Where a program slot stands (R553, R555). -/
inductive SlotPhase where
  | filling                  -- datagrams of its message arrive
  | checking                 -- the signature is checked
  | running                  -- with the loader, or running
  | record (bs : List Byte)  -- ended; the record waits to be sent
  | sent (msgid : Nat) (bs : List Byte)   -- COMPLETION sent, not yet acknowledged
deriving DecidableEq, Repr

/-- A busy program slot (R552). -/
structure Slot where
  sess : Option Nat          -- session number; none once it is lost
  role : Nat
  msgid : Nat
  nfrag : Nat
  got : SMap (List Byte)
  firstAt : Nat              -- device time of the first datagram
  phase : SlotPhase
  lostAt : Nat               -- device time at which the session was lost, or the record came, if later
deriving DecidableEq, Repr

/-- Chapter 15: the management port, its sessions and slots, PTP. LK words hold the rest. -/
structure MgmtSt where
  linkUp : Bool
  sessions : List Session
  sessSeq : Nat              -- sessions made so far
  slots : SMap Slot          -- busy slots 0-63
  recno : Nat                -- event records made
  recovery : SMap (SMap (List Byte))   -- Lookout k: fragments of the image that its ROM receives
  cak : Option (List Word)   -- CAK and CKN in effect: 4 words each
  secure : Bool              -- a MACsec secure channel is live
  totals : SMap Nat          -- telemetry counters: totals since the last full reset (R559), by address of the counted field × 64 + its low bit, or by a number of Totals
  lastSync : Option Nat      -- device time of the last Sync
  goodSyncs : Nat            -- successive Syncs with an offset below 100 ns, up to 16
  goodEdges : Nat            -- PPS_IN edges in a row that agree, while PPS_FAULT
  ppsHigh : Option Nat       -- PPS_OUT pad: device time at which it rose, while high
  ppsSec : Nat               -- second of package time of the last PPS_OUT edge
  slew : Int                 -- ns by which package time is still to be slewed
  stepOwed : Int             -- ns by which package time steps at its next multiple of 1,000 ns
deriving DecidableEq, Repr

def MgmtSt.reset : MgmtSt :=
  { linkUp := false, sessions := [], sessSeq := 0, slots := [], recno := 0, recovery := [], cak := none, secure := false, totals := [], lastSync := none, goodSyncs := 0,
    goodEdges := 0, ppsHigh := none, ppsSec := 0, slew := 0, stepOwed := 0 }

/-- Events to the fabric manager that no source of Table 14.6 carries. -/
inductive FmEvent where
  | bootDone                       -- Table 02.2
  | fallback (dtype : Nat)         -- R90
  | dieNotStarted (die : Nat)      -- R85
  | laneMoved (lp : Nat)           -- R139
  | trailDisabled (die : Nat)      -- R262
  | partnerLost (spare : Nat)      -- R503
deriving DecidableEq, Repr

/-- What leaves the block. -/
inductive Output where
  | ctl (st : Status) (value : Word)                                     -- the end of a control-space access
  | flit (lp : Nat) (slots : List (BitVec 128)) (trailer : BitVec 128)   -- a flit on a logical port (R120)
  | params (lp node mode : Nat) (enc : Bool) (credits : List Nat)        -- a PARAMS message (R133), by its fields: the spec gives it no layout
  | lane (lane cmd argA argB : Nat)                                      -- a lane-control command (Table 03.4) sent about physical lane 64f + l
  | event (e : FmEvent)
  | ccp (peer sess type seq msgid frag nfrag : Nat) (body : List Byte)    -- a CCP datagram (Table 15.2), by its fields before it is sealed
  | pps (high : Bool)                                                    -- the PPS_OUT pad
deriving DecidableEq, Repr

/-- The whole machine. -/
structure State where
  pending : List Instr       -- the commands that wait, first in, first out
  now : Nat                  -- device time: ns since the supply came up, the model's own time base (log 3)
  pkgRuns : Bool             -- package time runs (R541)
  pkg : Nat                  -- package time in ns, modulo 2^64
  draws : Nat                -- how many free values have been drawn: the model's own field (log 4)
  ctl : SMap Word            -- every control-space word that differs from its reset word, by word address
  out : List Output          -- what has left the block, newest first
  pw : PowerSt
  boot : BootSt
  link : LinkSt
  fab : FabricSt
  coh : CohSt
  fwd : ForwardSt
  sched : SchedSt
  nx : NxSt
  svc : SMap Svc             -- Grove instances by context: 32 × package copse + context number
  clr : ClearSt
  com : CommitSt
  ecc : EccSt
  mgmt : MgmtSt
deriving DecidableEq, Repr

/-- The machine right after reset: the package in STANDBY with every control-space word at its reset value. -/
def State.reset : State :=
  { pending := [], now := 1000000, pkgRuns := false, pkg := 0, draws := 0, ctl := [], out := [], pw := .reset, boot := .reset, link := .reset, fab := .reset,
    coh := .reset, fwd := .reset, sched := .reset, nx := .reset, svc := [], clr := .reset, com := .reset, ecc := .reset, mgmt := .reset }

/-- Why the machine stops with a fault. The block has no such stop: a refused command completes with a status of Table 00.7, an invalid one is discarded and counted,
and a command whose condition does not hold has no effect. No meaning raises a fault. -/
inductive Fault where
deriving DecidableEq, Repr

/-- Why a command has no outcome. -/
inductive Refusal where
  /-- Raised by a command that has no meaning in the model yet; safe, since nothing follows from it. -/
  | notModelled (mnemonic : String)
deriving DecidableEq, Repr

end Sys2Proof.Machine
end

