-- ==== Sys2Proof/Machine/Ops.lean ====
section
/-! DEFINITION. The named operations over the state: control words and their fields, time, outputs, event sources, and the full reset. -/

namespace Sys2Proof.Machine

/-- What a meaning answers. -/
abbrev Out := Host.Outcome State Fault Refusal

/-- Words of SB and LK that describe one package-wide state are mirrored (R569, R565), and so is the source configuration of EV (R534): the copy with instance 0 is kept. -/
def CW.home (w : CW) (ix : List Nat) : List Nat :=
  match w, ix with
  | .SB_IMG, _ :: r | .SB_NV, _ :: r | .SB_UCAL, _ :: r | .LK_BOOT, _ :: r | .LK_UPD, _ :: r | .LK_HANDOVER, _ :: r | .LK_NET_CFG, _ :: r
  | .LK_NET_ADDR, _ :: r | .LK_MKA_CFG, _ :: r | .LK_MKA_CAK, _ :: r | .LK_MKA_CKN, _ :: r | .LK_PTP_CFG, _ :: r | .LK_PTP_STATUS, _ :: r
  | .LK_MGT_STATUS, _ :: r | .LK_CCP_CNT, _ :: r | .EV_SRC_CFG, _ :: r => 0 :: r
  | _, _ => ix

def fitsDims : List (Nat × Nat) → List Nat → Bool
  | [], [] => true
  | (n, _) :: ds, i :: is => decide (i < n) && fitsDims ds is
  | _, _ => false

/-- Do the indices name a word? -/
def CW.inRange (w : CW) (ix : List Nat) : Bool := fitsDims w.place.dims ix && w.named ix

/-- A control-space word as it stands. A word whose index names nothing reads 0 (R562). -/
def State.word (s : State) (w : CW) (ix : List Nat) : Word :=
  if w.inRange ix then SMap.get (w.resetWord (w.home ix)) s.ctl (w.addr (w.home ix)) else 0

/-- Store a control-space word. -/
def State.setWord (s : State) (w : CW) (ix : List Nat) (v : Word) : State :=
  if w.inRange ix then { s with ctl := SMap.set (w.resetWord (w.home ix)) s.ctl (w.addr (w.home ix)) v } else s

/-- A field of a word. -/
def State.fget (s : State) (f : Fld) (ix : List Nat) : Nat := bitsOf (s.word f.w ix) f.hi f.lo

/-- Set a field of a word. -/
def State.fset (s : State) (f : Fld) (ix : List Nat) (v : Nat) : State := s.setWord f.w ix (setBits (s.word f.w ix) f.hi f.lo v)

/-- A telemetry total (R559): since the last full reset, 64 bits. -/
def State.addTotal (s : State) (k n : Nat) : State := { s with mgmt.totals := SMap.set 0 s.mgmt.totals k ((SMap.get 0 s.mgmt.totals k + n) % 2 ^ 64) }

/-- The number of the total that stands beside a counted field. -/
def totalKey (f : Fld) (ix : List Nat) : Nat := f.w.addr (f.w.home ix) * 64 + f.lo

/-- Totals that no field counts: kind k, instance i. -/
def ownTotal (k i : Nat) : Nat := 2 ^ 40 + 2 ^ 16 * k + i

/-- Add to a counter that saturates at all ones, and to its total. -/
def State.fadd (s : State) (f : Fld) (ix : List Nat) (n : Nat) : State :=
  (s.fset f ix (saturate (f.hi + 1 - f.lo) (s.fget f ix + n))).addTotal (totalKey f ix) n

/-- Add to a counter that wraps. -/
def State.fwrap (s : State) (f : Fld) (ix : List Nat) (n : Nat) : State := (s.fset f ix (s.fget f ix + n)).addTotal (totalKey f ix) n

def State.emit (s : State) (o : Output) : State := { s with out := o :: s.out }

/-- The completion of a control-space access. -/
def State.done (s : State) (st : Status) (v : Word := 0) : State := s.emit (.ctl st v)

/-- Draw the next free value's number: R0 of the free values, never read back (log 4). -/
def State.draw (s : State) : State := { s with draws := s.draws + 1 }

/-- CLK_AO ticks since the last full reset (R567), at the nominal rate of Table 01.9. -/
def aoTicksAt (start now : Nat) : Nat := (now - start) * 32768 / 1000000000

def State.aoTicks (s : State) : Nat := aoTicksAt s.pw.aoStart s.now

/-- The rate of a slew in parts per million, at most 100 (R543): the spec names no other bound. -/
def slewPart (d : Nat) : Nat := d * (Config.slewRate % 101) / 1000000

/-- Package time over d ns: it runs, slews toward the time of PTP, and steps at a multiple of 1,000 ns (R541, R543). -/
def runPackage (d : Nat) (s : State) : State :=
  if s.mgmt.slew = 0 ∧ s.mgmt.stepOwed = 0 then { s with pkg := (s.pkg + d) % 2 ^ 64 }
  else
    let most : Int := slewPart d
    let by_ : Int := max (-most) (min most s.mgmt.slew)
    let p : Int := s.pkg + d + by_
    let steps := p / 1000 ≠ s.pkg / 1000
    let p := if steps then p + s.mgmt.stepOwed else p
    { s with pkg := (p % (2 ^ 64 : Int)).toNat, mgmt.slew := s.mgmt.slew - by_, mgmt.stepOwed := if steps then 0 else s.mgmt.stepOwed }

/-- The machine at a later time: device time, package time (R541) and CUT_TICKS (R77) advance; a time not later changes nothing. -/
def State.upTo (s : State) (t : Nat) : State :=
  let d := t - s.now
  let k := aoTicksAt s.pw.aoStart (s.now + d) - s.aoTicks
  let s1 := if s.fget PW_THERM.CUT [] = 0 then s else s.fwrap PW_THERM.CUT_TICKS [] k
  if s.pkgRuns then runPackage d { s1 with now := s.now + d } else { s1 with now := s.now + d }

/-- The package state (Table 01.10). -/
def State.current (s : State) : Nat := s.fget PW_STATE.CURRENT []

/-- The active Lookout. -/
def State.activeLookout (s : State) : Nat := s.fget LK_BOOT.ACTIVE [0]

/-! Event sources (R526-R530). -/

def evKey (k n : Nat) : Nat := 2048 * k + n

def State.evAux (s : State) (k n : Nat) : EvAux := SMap.get .reset s.ecc.aux (evKey k n)

def State.setEvAux (s : State) (k n : Nat) (a : EvAux) : State := { s with ecc.aux := SMap.set .reset s.ecc.aux (evKey k n) a }

/-- COUNT of a source, 0 acting as 1. -/
def State.evCount (s : State) (n : Nat) : Nat := max 1 (s.fget EV_SRC_CFG.COUNT [0, n])

/-- One detected edge of a source at controller k (R528, R529). -/
def countEdge (k n : Nat) (s : State) : State :=
  let a := s.evAux k n
  let acc := saturate 8 (s.fget EV_SRC_STATE.ACC [k, n] + 1)
  let s := (s.fwrap EV_SRC_STATE.EDGES [k, n] 1).fset EV_SRC_STATE.ACC [k, n] acc
  let s := s.setEvAux k n { a with first := some (a.first.getD s.now), origin := (a.origin + 1) % 256 }
  if s.evCount n ≤ acc then s.fset EV_SRC_STATE.PENDING [k, n] 1 else s

/-- The input of a source takes a level at controller k: edges count by SENSE, a level source is PENDING while its input is active (R527, R529). -/
def sampleSource (k n : Nat) (level : Bool) (s : State) : State :=
  let was := s.fget EV_SRC_STATE.RAW [k, n] == 1
  let s1 := s.fset EV_SRC_STATE.RAW [k, n] (boolNat level)
  match s.fget EV_SRC_CFG.SENSE [0, n] with
  | 0 => s1.fset EV_SRC_STATE.PENDING [k, n] (boolNat level)
  | 1 => s1.fset EV_SRC_STATE.PENDING [k, n] (boolNat (!level))
  | 2 => if level && !was then countEdge k n s1 else s1
  | 3 => if !level && was then countEdge k n s1 else s1
  | 4 => if level != was then countEdge k n s1 else s1
  | _ => s1

/-- The input of a source at both controllers. -/
def setSource (n : Nat) (level : Bool) (s : State) : State := sampleSource 1 n level (sampleSource 0 n level s)

/-- A pulse of a source: one rising edge. -/
def pulse (n : Nat) (s : State) : State := setSource n false (setSource n true s)

/-! The full reset. -/

/-- What survives a full reset: the supplies and pins, the cause latch (R37), the Seedbank stores and directory with the retirement map (R516), and what has left the block. Everything else takes its
reset value (R33); the retention memory is discarded (R86) and no stack is retained (R58). The PW block is in reset until PW_RESET_EXIT or PORESET_RELEASE. -/
def fullReset (cause : Nat) (s : State) : State :=
  { State.reset with
    pending := s.pending, now := s.now, draws := s.draws, out := s.out,
    pw := { PowerSt.reset with
      keepalive := s.pw.keepalive, keepStart := s.pw.keepStart, pwOut := false, aoStart := s.now, aoXtal := s.pw.aoXtal, aoFellBack := s.pw.aoFellBack,
      causeLatch := cause, poresetLow := s.pw.poresetLow, thermtripLow := s.pw.thermtripLow, vinLow := s.pw.vinLow, vinHigh := s.pw.vinHigh,
      wakeLevel := s.pw.wakeLevel, comparators := [] },
    boot := { BootSt.reset with
      seed0 := s.boot.seed0, seed1 := s.boot.seed1, seedDown := s.boot.seedDown, unsync := s.boot.unsync, slotActive := s.boot.slotActive,
      minSvn := s.boot.minSvn, nvActive := s.boot.nvActive, nvSeq := s.boot.nvSeq, ucalActive := s.boot.ucalActive, ucalSeq := s.boot.ucalSeq, sealed := s.boot.sealed, evLog := s.boot.evLog }
    ecc := { EccSt.reset with retired := s.ecc.retired } }

/-- An answer that is always a next state. -/
def ok (s : State) : Out := .next s

/-- A command whose condition does not hold has no effect (log 5). -/
def whenever (c : Bool) (s : State) (s' : State) : Out := .next (if c then s' else s)

end Sys2Proof.Machine
end

