-- ==== Sys2Proof/Machine/LinkOps.lean ====
section
/-! DEFINITION. Operations of the link layer that other parts use: port numbering (R16, R17), CRC-64 (R121), the flit trailer (R120), sending flits and link messages. -/

namespace Sys2Proof.Machine

/-- The indices of a logical port in the FR block: Fringe die, port of the die, sub-port (R16, R17). -/
def lpIx (lp : Nat) : List Nat := [lp / 32, lp / 4 % 8, lp % 4]

/-- The indices of a logical port's physical port. -/
def ppIx (lp : Nat) : List Nat := [lp / 32, lp / 4 % 8]

/-- The Glade die of a logical port (R10). -/
def lpDie (lp : Nat) : Nat := lp / 64

def State.lport (s : State) (lp : Nat) : Lport := SMap.get .reset s.link.ports lp

def State.setLport (s : State) (lp : Nat) (p : Lport) : State := { s with link.ports := SMap.set .reset s.link.ports lp p }

/-- STATE of a logical port (Table 03.12). -/
def State.lpState (s : State) (lp : Nat) : Nat := s.fget FR_SUB_STATUS.STATE (lpIx lp)

def State.lpActive (s : State) (lp : Nat) : Bool := s.lpState lp == 3

/-- MODE of a physical port, 0b11 acting as 0b00 (Table 03.2). -/
def actingMode (m : Nat) : Nat := if m = 3 then 0 else m

/-- The sub-ports that a MODE creates (R17). -/
def modeSubs (m : Nat) : List Nat :=
  match actingMode m with
  | 0 => [0]
  | 1 => [0, 1]
  | _ => [0, 1, 2, 3]

/-- The full width of a logical port under a MODE (Table 03.1). -/
def modeWidth (m : Nat) : Nat :=
  match actingMode m with
  | 0 => 4
  | 1 => 2
  | _ => 1

/-- The physical lanes of a logical port before sparing, as numbers 64f + l (R16, R17). -/
def lpLanes (mode lp : Nat) : List Nat :=
  let w := modeWidth mode
  (List.range w).map fun i => 64 * (lp / 32) + 4 * (lp / 4 % 8) + w * (lp % 4) + i

/-- All logical ports. -/
def allLports : List Nat := List.range 512

/-- One bit of the CRC-64 register. -/
def crc64Bit (c : Nat) : Nat := if c ≥ 2 ^ 63 then (c * 2 % 2 ^ 64) ^^^ 0x42F0E1EBA9EA3693 else c * 2

def crc64Byte (c : Nat) (b : Byte) : Nat :=
  let c := c ^^^ (b.toNat * 2 ^ 56)
  crc64Bit (crc64Bit (crc64Bit (crc64Bit (crc64Bit (crc64Bit (crc64Bit (crc64Bit c)))))))

/-- The CRC-64 of bytes (R121). -/
def crc64 (bs : List Byte) : Nat := (bs.foldl crc64Byte (2 ^ 64 - 1)) ^^^ (2 ^ 64 - 1)

/-- The bytes of a slot, byte 0 in bits 127:120 (log 6). -/
def slotBytes (b : BitVec 128) : List Byte := toBytesBE 16 b.toNat

def bytesSlot (bs : List Byte) : BitVec 128 := BitVec.ofNat 128 (ofBytesBE (bs ++ List.replicate (16 - bs.length) 0))

/-- Slots from bytes, the last one padded with zero bytes. -/
def bytesSlots : Nat → List Byte → List (BitVec 128)
  | 0, _ => []
  | n + 1, bs => bytesSlot (bs.take 16) :: bytesSlots n (bs.drop 16)

/-- The fields of a trailer (Table 03.5). -/
structure Trailer where
  seq : Nat
  ack : Nat
  ftype : Nat
  ackv : Bool
  nak : Bool
  keyph : Bool
  crvc : Nat
  crcnt : Nat
  slotmap : Nat
  crc : Nat
deriving DecidableEq, Repr

def Trailer.ofBits (b : BitVec 128) : Trailer :=
  let n := b.toNat
  { seq := natBits n 127 112, ack := natBits n 111 96, ftype := natBits n 95 92, ackv := natBit n 91, nak := natBit n 90, keyph := natBit n 89,
    crvc := natBits n 88 86, crcnt := natBits n 85 79, slotmap := natBits n 78 64, crc := natBits n 63 0 }

/-- Bits 127:64 of a trailer. -/
def Trailer.high (t : Trailer) : Nat :=
  t.seq % 2 ^ 16 * 2 ^ 48 + t.ack % 2 ^ 16 * 2 ^ 32 + t.ftype % 16 * 2 ^ 28 + boolNat t.ackv * 2 ^ 27 + boolNat t.nak * 2 ^ 26 + boolNat t.keyph * 2 ^ 25
    + t.crvc % 8 * 2 ^ 22 + t.crcnt % 128 * 2 ^ 15 + t.slotmap % 2 ^ 15

/-- The CRC of a flit over bytes 0-239 and trailer bits 127:64 (Table 03.5). -/
def flitCrc (slots : List (BitVec 128)) (t : Trailer) : Nat := crc64 ((slots.map slotBytes).flatten ++ toBytesBE 8 t.high)

def Trailer.bits (t : Trailer) : BitVec 128 := BitVec.ofNat 128 (t.high * 2 ^ 64 + t.crc)

/-- A NULL header slot (Table 03.8). -/
def nullSlot : BitVec 128 := BitVec.ofNat 128 (7 * 2 ^ 77)

/-- Fifteen slots, unused ones NULL header slots (R124). -/
def padSlots (xs : List (BitVec 128)) : List (BitVec 128) := xs ++ List.replicate (15 - xs.length) nullSlot

/-- SLOTMAP of the padding: every unused slot is a header slot. -/
def padMap (n : Nat) (map : Nat) : Nat := map + ((List.range 15).filter (fun i => n ≤ i)).foldl (fun a i => a + 2 ^ i) 0

/-- Flits that the replay buffer of a logical port holds (R128). -/
def bufferShare (mode : Nat) : Nat := 512 * modeWidth mode

/-- MODE in force of a logical port's physical port. -/
def State.modeOf (s : State) (lp : Nat) : Nat := SMap.get 0 s.link.modes (lp / 4)

/-- Totals of chapter 15: flits and slots sent and received on a logical port; bytes and cells sent by an egress queue; units on a mesh edge; CCP datagrams; MACsec frames. -/
def totFlitTx := 0
def totSlotTx := 1
def totFlitRx := 2
def totSlotRx := 3
def totBytes := 4
def totCells := 5
def totUnits := 6
def totDgramTx := 7
def totDgramRx := 8
def totMacsec := 9

/-- Put a flit on the wire: the trailer names the latest ACK, the NAK owed and the next VC's credit total (R125, R126). -/
def transmit (lp : Nat) (f : Flit) (s : State) : State :=
  let p := s.lport lp
  let told := min (SMap.get 0 p.crGiven p.crvNext / 8) (SMap.get 0 p.crTold p.crvNext + 127)
  let t : Trailer :=
    { seq := f.seq, ack := p.ackd, ftype := f.ftype, ackv := true, nak := p.nakOwed, keyph := f.keyph, crvc := p.crvNext,
      crcnt := told % 128, slotmap := f.slotmap, crc := 0 }
  let t := { t with crc := flitCrc f.slots t }
  (s.setLport lp { p with nakOwed := false, crTold := SMap.set 0 p.crTold p.crvNext told, crvNext := (p.crvNext + 1) % 5 }).emit (.flit lp f.slots t.bits)
    |>.addTotal (ownTotal totFlitTx lp) 1 |>.addTotal (ownTotal totSlotTx lp) 15

/-- Slots through the key stream of a tag group, from block n on: encryption and decryption are one operation. -/
def keyed (lp : Nat) (tx : Bool) (gen group n : Nat) (slots : List (BitVec 128)) : List (BitVec 128) :=
  ((List.range slots.length).zip slots).map fun (e : Nat × BitVec 128) => e.2 ^^^ Config.keyBlock lp tx gen group (n + e.1)

/-- Additional data and encrypted slots of a flit of a tag group (R147). -/
def flitAad (f : Flit) : Nat × List (BitVec 128) :=
  ((f.seq * 16 + f.ftype) * 2 ^ 16 + boolNat f.keyph * 2 ^ 15 + f.slotmap, if f.ftype = 3 then f.slots.take 14 else f.slots)

def State.encrypted (s : State) (lp : Nat) : Bool := s.fget FR_SUB_STATUS.ENC (lpIx lp) == 1

/-- The port at the start of a tag group: KEYPH flips to an answered key generation, whose groups count from 0 (R148). -/
def groupStart (lp : Nat) (s : State) : State :=
  let p := s.lport lp
  match p.keyFlip, p.keySent with
  | true, some g =>
    (s.setLport lp { p with keyFlip := false, keySent := none, keyphTx := !p.keyphTx, groups := 0 }).fset FR_SUB_STATUS.KEY_GEN (lpIx lp) g
  | _, _ => s

/-- A flit takes the next sequence number; an encrypted payload flit joins the open tag group, and PAYLOAD_TAGGED closes it (R147). -/
def makeFlit (lp ftype slotmap : Nat) (slots : List (BitVec 128)) (s : State) : Flit × State :=
  if (ftype = 1 ∨ ftype = 3) ∧ s.encrypted lp then
    let s := if (s.lport lp).txGroup = [] then groupStart lp s else s
    let p := s.lport lp
    let gen := s.fget FR_SUB_STATUS.KEY_GEN (lpIx lp)
    let f : Flit :=
      { seq := p.txNext, ftype := ftype, keyph := p.keyphTx, slotmap := slotmap, slots := keyed lp true gen p.groups (15 * p.txGroup.length) slots }
    let group := p.txGroup ++ [f]
    if ftype = 3 then
      ({ f with slots := f.slots ++ [Config.gcmTag lp true gen p.groups (group.map flitAad)] }, s.setLport lp { p with txGroup := [], groups := p.groups + 1 })
    else (f, s.setLport lp { p with txGroup := group })
  else ({ seq := (s.lport lp).txNext, ftype := ftype, keyph := false, slotmap := slotmap, slots := slots }, s)

/-- Send a sequenced flit, kept for replay (R127); with the replay buffer full, or new flits stopped, it waits. -/
def sendSequenced (lp ftype slotmap : Nat) (slots : List (BitVec 128)) (s : State) : State :=
  let p := s.lport lp
  if p.pausedBy ∨ bufferShare (s.modeOf lp) ≤ p.txBuf.length ∨ p.txWait ≠ [] then
    s.setLport lp { p with txWait := p.txWait ++ [(ftype, slotmap, slots)] }
  else
    let (f, s) := makeFlit lp ftype slotmap slots s
    let p := s.lport lp
    transmit lp f (s.setLport lp
      { p with txNext := (p.txNext + 1) % 65536, txBuf := p.txBuf ++ [f], ackAt := if p.txBuf = [] then s.now else p.ackAt })

/-- Send the flits that waited, while there is room: at most n of them. -/
def drainWait : Nat → Nat → State → State
  | 0, _, s => s
  | n + 1, lp, s =>
    let p := s.lport lp
    match p.txWait with
    | [] => s
    | (ft, map, slots) :: rest =>
      if p.pausedBy ∨ bufferShare (s.modeOf lp) ≤ p.txBuf.length then s
      else
        let s := sendSequenced lp ft map slots (s.setLport lp { p with txWait := [] })
        drainWait n lp (s.setLport lp { s.lport lp with txWait := rest })

/-- A transaction goes out in flits of its own, each completed with NULL header slots, and in a tag group of its own if the port is encrypted (R124, R147). `hx` says that
the second slot is a header slot too. The link writes the port's clearing into CLR (R152). -/
def sendSlots (lp : Nat) (hx : Bool) (slots : List (BitVec 128)) (s : State) : State :=
  let clr := s.fget FR_PORT_CFG.CLR (ppIx lp)
  let slots := match slots with
    | h :: r => BitVec.ofNat 128 (clr * 2 ^ 120 + h.toNat % 2 ^ 120) :: r
    | [] => []
  let map := 1 + 2 * boolNat hx
  let last (map : Nat) (xs : List (BitVec 128)) (s : State) : State :=
    if s.encrypted lp then sendSequenced lp 3 (padMap xs.length map % 2 ^ 14) ((padSlots xs).take 14) s else sendSequenced lp 1 (padMap xs.length map) (padSlots xs) s
  if slots.length ≤ (if s.encrypted lp then 14 else 15) then last map slots s else last 0 (slots.drop 15) (sendSequenced lp 1 map (slots.take 15) s)

/-- A link message (R141): byte 0 the type, bytes 1-2 the length, then the message. -/
def linkMsgSlots (type : Nat) (body : List Byte) : List (BitVec 128) :=
  bytesSlots 15 (BitVec.ofNat 8 type :: toBytesLE 2 body.length ++ body)

def sendLinkMsg (lp type : Nat) (body : List Byte) (s : State) : State := sendSequenced lp 2 0 (linkMsgSlots type body) s

/-- Send a flit again from the replay buffer (R127). -/
def replayFlits (lp : Nat) : List Flit → State → State
  | [], s => s
  | f :: fs, s => replayFlits lp fs (transmit lp f s)

/-- Start a replay from the oldest unacknowledged flit, counting it (R127, R130). -/
def startReplay (lp : Nat) (s : State) : State :=
  let p := s.lport lp
  match p.txBuf with
  | [] => s
  | f :: _ =>
    let runs := if p.replayRuns > 0 ∧ p.replaySeq = f.seq then p.replayRuns + 1 else 1
    let s := s.setLport lp { p with replaySeq := f.seq, replayRuns := runs, ackAt := s.now }
    replayFlits lp p.txBuf (s.fadd FR_SUB_CNT_LINK.REPLAY (lpIx lp) 1)

/-- The unacknowledged flits go out again after a pause, then those that waited (R130, Table 03.10): no replay is counted. -/
def resend (lp : Nat) (s : State) : State :=
  let p := s.lport lp
  drainWait p.txWait.length lp (replayFlits lp p.txBuf (s.setLport lp { p with ackAt := s.now }))

/-- A lane-control command about a lane (Table 03.4). -/
def sendLane (lane cmd a b : Nat) (s : State) : State := s.emit (.lane lane cmd a b)

/-- Event source of a logical port (Table 14.6). -/
def lpSource (lp : Nat) : Nat := 384 + 64 * (lp / 32) + (4 * (lp / 4 % 8) + lp % 4)

end Sys2Proof.Machine
end

