-- ==== Sys2Proof/Machine/Power.lean ====
section
/-! DEFINITION. Chapter 01: supply, clocks, package states, leases and refusers, wake comparators, capping and thermal throttling. -/

namespace Sys2Proof.Machine

/-- Package states (Table 01.10). -/
def stOff : Nat := 0
def stStandby : Nat := 1
def stPortsOnly : Nat := 2
def stActive : Nat := 3

/-- LAST_RESULT codes (Table 01.14). -/
def resCompleted : Nat := 1
def resRefused : Nat := 2
def resAborted : Nat := 3
def resIgnored : Nat := 4

/-- ALERT_N is low while VIN_LOW, VIN_HIGH or a clock cut is in effect (Table 01.1). -/
def alertLow (s : State) : Bool := s.pw.vinLow || s.pw.vinHigh || s.fget PW_THERM.CUT [] != 0

/-- The keepalive load in mW at the regulator's output (R41, Table 01.8). -/
def keepaliveLoad (s : State) : Nat :=
  let lanes := (List.range 8).filter fun n => s.fget PW_WAKE_LANE.EN [n] == 1 && decide (s.fget PW_WAKE_LANE.LANE [n] ≤ 33)
  let named := (lanes.map fun n => 64 * s.fget PW_WAKE_LANE.FRINGE [n] + s.fget PW_WAKE_LANE.LANE [n]).eraseDups
  let fresh := (List.range 4).filter fun u => SMap.get .off s.pw.stackSupply u == .selfKeepalive
  900 + 50 + 150 * named.length + 800 + (fresh.map fun u => if SMap.get false s.pw.doubleRate u then 4000 else 2000).sum

/-! Supply (R31-R37). -/

/-- The comparators arm: an input already beyond its re-arm point must first return (R59, R60). After THERMTRIP only the WAKE pad arms (R76). -/
def wakeBeyond (s : State) (n level : Nat) : Bool :=
  if n < 8 then decide (min 72 (s.fget PW_WAKE_LANE.THRESH [n]) < level)
  else if n = 8 then decide (54000 + 100 * min 120 (s.fget PW_WAKE_VIN.THRESH []) < level)
  else
    let th := 400 + 10 * min 100 (s.fget PW_WAKE_PAD.THRESH [])
    if s.fget PW_WAKE_PAD.POL [] = 0 then decide (th < level) else decide (level < th)

/-- Has the input returned past the re-arm point THRESH - HYST (THRESH + HYST for the WAKE pad with POL = 1)? -/
def wakeReturned (s : State) (n level : Nat) : Bool :=
  if n < 8 then decide (level + clampNat 2 16 (s.fget PW_WAKE_LANE.HYST [n]) < min 72 (s.fget PW_WAKE_LANE.THRESH [n]))
  else if n = 8 then decide (level + 100 * clampNat 1 20 (s.fget PW_WAKE_VIN.HYST []) < 54000 + 100 * min 120 (s.fget PW_WAKE_VIN.THRESH []))
  else
    let th := 400 + 10 * min 100 (s.fget PW_WAKE_PAD.THRESH [])
    let hy := 10 * clampNat 2 20 (s.fget PW_WAKE_PAD.HYST [])
    if s.fget PW_WAKE_PAD.POL [] = 0 then decide (level + hy < th) else decide (th + hy < level)

/-- Is the comparator's entry in use (EN, and a LANE that names a lane, R61)? -/
def wakeEnabled (s : State) (n : Nat) : Bool :=
  if n < 8 then s.fget PW_WAKE_LANE.EN [n] == 1 && decide (s.fget PW_WAKE_LANE.LANE [n] ≤ 33)
  else if n = 8 then s.fget PW_WAKE_VIN.EN [] == 1 else s.fget PW_WAKE_PAD.EN [] == 1

/-- QUAL in ticks, 0 acting as 1. -/
def wakeQual (s : State) (n : Nat) : Nat :=
  max 1 (if n < 8 then s.fget PW_WAKE_LANE.QUAL [n] else if n = 8 then s.fget PW_WAKE_VIN.QUAL [] else s.fget PW_WAKE_PAD.QUAL [])

/-- WAKE_CAUSE of a comparator (Table 01.14). -/
def wakeCode (n : Nat) : Nat := if n < 8 then 8 + n else if n = 8 then 2 else 1

def armComparators (padOnly : Bool) (s : State) : State :=
  let one (n : Nat) : Nat × Comparator :=
    (n, if padOnly && n != 9 then .inert
        else match SMap.get? s.pw.wakeLevel n with
          | some l => if wakeBeyond s n l then .beyond else .ready
          | none => .ready)
  { s with pw.comparators := (List.range 10).map one }

/-- The PW block leaves reset (Table 01.3, R33, R36, R59): its words take factory defaults, RESET_CAUSE takes the cause latch, the comparators arm. -/
def pwLeavesReset (bootHold : Bool) (s : State) : State :=
  let s := { s with ctl := s.ctl.filter (fun e => decide (0x1000 ≤ e.1)), pw.pwOut := true, pw.aoStart := s.now, pw.bootHold := bootHold, pw.coldOwed := true }
  let s := (s.fset PW_STATE.RESET_CAUSE [] s.pw.causeLatch).fset PW_STATE.AO_FAIL [] (boolNat s.pw.aoFellBack)
  armComparators (s.pw.causeLatch == 5) s

def execVinKeepaliveStart (t mv : Nat) (s : State) : Out :=
  let s := s.upTo t
  whenever (decide (42000 ≤ mv) && s.current == stOff) s
    (({ s with pw.keepalive := true, pw.keepStart := s.now, pw.pwOut := false, pw.causeLatch := 0, pw.aoXtal := false }).fset PW_STATE.CURRENT [] stStandby)

def execPwResetExit (t : Nat) (bootHold : Bool) (s : State) : Out :=
  let s := s.upTo t
  whenever (s.pw.keepalive && !s.pw.pwOut && !s.pw.poresetLow && decide (s.pw.keepStart + 1000000 ≤ s.now)) s (pwLeavesReset bootHold s)

def execClkAoHandover (t clean : Nat) (s : State) : Out :=
  let s := s.upTo t
  whenever (s.pw.pwOut && decide (1024 ≤ clean)) s
    (setSource 5 false (({ s with pw.aoXtal := true, pw.aoFellBack := false }).fset PW_STATE.AO_FAIL [] 0))

/-- The internal oscillator takes over: no clean crystal by t0 + 100 ms, or 8 of its periods without an edge (R46). -/
def execAoFallback (t silentPeriods : Nat) (s : State) : Out :=
  let s := s.upTo t
  let missing := !s.pw.aoXtal && decide (s.pw.keepStart + 100000000 ≤ s.now)
  let silent := s.pw.aoXtal && decide (8 ≤ silentPeriods)
  whenever (s.pw.pwOut && (missing || silent)) s
    (setSource 5 true (({ s with pw.aoXtal := false, pw.aoFellBack := true }).fset PW_STATE.AO_FAIL [] 1))

/-- VIN below 40.0 V: the package is OFF, and the cause latch reads COLD (R37, R48). -/
def execKeepaliveStop (t mv : Nat) (s : State) : Out :=
  let s := s.upTo t
  let off := fullReset 0 s
  whenever (decide (mv < 40000)) s
    ({ off with pw := { off.pw with keepalive := false, thermtripLow := false, vinLow := false, vinHigh := false, aoXtal := false, aoFellBack := false, coldOwed := false } }.fset
      PW_STATE.CURRENT [] stOff)

/-- A wake decision: the cause is recorded; within one CLK_AO tick the lowest code counts (R63). It stands until it is acted on (R34). Source 3 is the wake. -/
def decideWake (code : Nat) (s : State) : State :=
  if s.pw.wakeStands then
    if s.aoTicks = s.pw.wakeTick then s.fset PW_STATE.WAKE_CAUSE [] (min code (s.fget PW_STATE.WAKE_CAUSE [])) else s
  else pulse 3 (({ s with pw.wakeStands := true, pw.wakeTick := s.aoTicks, pw.coldOwed := false }).fset PW_STATE.WAKE_CAUSE [] code)

def execWakeDecisionCold (t mv heldNs : Nat) (s : State) : Out :=
  let s := s.upTo t
  let c := s.pw.pwOut && !s.pw.poresetLow && s.pw.coldOwed && decide (54000 ≤ mv) && decide (1000000 ≤ heldNs) && !s.pw.bootHold
    && s.fget PW_STATE.RESET_CAUSE [] != 5 && s.current == stStandby && s.pw.converter == .off
  whenever c s (decideWake 0 s)

/-- SOFTSTART (R34); no start while VIN stays above 68.0 V (Table 01.2). The comparators are inert outside STANDBY (R59). -/
def execBusSoftstart (t mv heldNs : Nat) (s : State) : Out :=
  let s := s.upTo t
  let c := s.pw.wakeStands && s.pw.converter == .off && decide (54000 ≤ mv) && decide (mv ≤ 68000) && decide (1000000 ≤ heldNs) && s.current == stStandby
  whenever c s { s with pw.converter := .softstart, pw.softAt := s.now, pw.wakeStands := false, pw.comparators := [], pw.thermtripLow := false }

/-- The 6 V bus is within 3 %: RUN, and control passes to the boot sequence (Table 01.4). -/
def busGood (busMv : Nat) : Bool := decide (5820 ≤ busMv) && decide (busMv ≤ 6180)

def execBusRun (t busMv : Nat) (s : State) : Out :=
  let s := s.upTo t
  whenever (s.pw.converter == .softstart && decide (s.pw.softAt + 4000000 ≤ s.now) && busGood busMv) s
    { s with pw.converter := .run, boot.phase := .handed, boot.lookoutUp := [0, 1], pw.domainsOff := false, pw.transmittersOff := false,
             pw.forwardingStopped := false, pw.ingressStopped := false }

/-- R35: out of tolerance at t0 + 6 ms, or below 5.4 V for 2 us while the converter runs. -/
def execBrownoutBus (t busMv ns : Nat) (s : State) : Out :=
  let s := s.upTo t
  let late := s.pw.converter == .softstart && decide (s.pw.softAt + 6000000 ≤ s.now) && !busGood busMv
  let low := s.pw.converter != .off && decide (busMv < 5400) && decide (2000 ≤ ns) && s.pw.converter != .softstart
  whenever (late || low) s (fullReset 3 s)

/-- VIN_LOW (Table 01.2). With the bus converter OFF only ALERT_N goes low; source 0 is sampled once the Lookouts run. -/
def execVinLow (t mv ns : Nat) (s : State) : Out :=
  let s := s.upTo t
  whenever (decide (51000 ≤ mv) && decide (mv < 54000) && decide (100000 ≤ ns)) s (setSource 0 true { s with pw.vinLow := true, pw.vinHigh := false })

def execVinHigh (t mv ns : Nat) (s : State) : Out :=
  let s := s.upTo t
  whenever (decide (66000 < mv) && decide (mv ≤ 68000) && decide (100000 ≤ ns)) s (setSource 6 true { s with pw.vinHigh := true, pw.vinLow := false })

/-- VIN back in its window ends VIN_LOW or VIN_HIGH and drops the level source (R31). -/
def execVinWindowReturn (t mv : Nat) (s : State) : Out :=
  let s := s.upTo t
  whenever (decide (54000 ≤ mv) && decide (mv ≤ 66000)) s (setSource 6 false (setSource 0 false { s with pw.vinLow := false, pw.vinHigh := false }))

def execBrownoutVin (t mv ns : Nat) (s : State) : Out :=
  let s := s.upTo t
  whenever (decide (mv < 51000) && decide (10000 ≤ ns) && s.pw.converter != .off) s (fullReset 1 s)

def execOvervoltageVin (t mv ns : Nat) (s : State) : Out :=
  let s := s.upTo t
  whenever (decide (68000 < mv) && decide (10000 ≤ ns) && s.pw.converter != .off) s (fullReset 2 s)

/-- PORESET_N low for 1 us: one full reset; while it stays low nothing further is latched (R36). -/
def execPoreset (t ns : Nat) (s : State) : Out :=
  let s := s.upTo t
  let r := fullReset 7 s
  whenever (decide (1000 ≤ ns) && !s.pw.poresetLow && s.pw.keepalive) s { r with pw.poresetLow := true }

def execPoresetRelease (t : Nat) (bootHold : Bool) (s : State) : Out :=
  let s := s.upTo t
  whenever s.pw.poresetLow s (pwLeavesReset bootHold { s with pw.poresetLow := false })

/-- R40; none while PORESET_N is low (R36). -/
def execBrownoutKeepalive (t railMv ns : Nat) (s : State) : Out :=
  let s := s.upTo t
  whenever (decide (railMv < 700) && decide (1000 ≤ ns) && s.pw.keepalive && !s.pw.poresetLow) s (fullReset 4 s)

/-- REFCLK lost: 1 us without an edge while the bus converter runs (R45). -/
def execRefclkLoss (t ns : Nat) (s : State) : Out :=
  let s := s.upTo t
  whenever (decide (1000 ≤ ns) && s.pw.converter != .off && s.pw.refclkLost.isNone) s (setSource 1 true { s with pw.refclkLost := some s.now })

def execRefclkLossReset (t : Nat) (s : State) : Out :=
  let s := s.upTo t
  match s.pw.refclkLost with
  | some t0 => whenever (decide (t0 + 1000000 ≤ s.now)) s (fullReset 6 s)
  | none => .next s

def execRefclkReturn (t : Nat) (s : State) : Out :=
  let s := s.upTo t
  match s.pw.refclkLost with
  | some t0 => whenever (decide (s.now < t0 + 1000000)) s (setSource 1 false { s with pw.refclkLost := none })
  | none => .next s

/-! Refusers and entries (R48-R54, R65-R69, R568). -/

/-- Is every Understory stack that holds a channel of clearing c retained (R65)? Understory[u] holds channels 32u to 32u + 31 (R11). -/
def retainedAll (s : State) (c : Nat) : Bool :=
  (s.com.inForce.slices.filter fun x => x.clr == c).all fun x => natBit (s.fget PW_STBY.RETAIN []) (x.copse / 32)

/-- Does clearing c refuse a target state (R65)? -/
def clearingRefuses (s : State) (target c : Nat) : Bool :=
  match s.fget PW_LEASE.LEVEL [c] with
  | 1 => target == stStandby && !retainedAll s c
  | 2 => target == stStandby
  | 3 => true
  | _ => false

/-- Is one of the Lookout's grounds of Table 01.15 true? -/
def lookoutsBusy (s : State) : Bool :=
  s.boot.update.isSome || s.boot.handover != .idle || s.com.phase != .idle || s.coh.seqOps.any (fun o => o.positioned)

/-- The clearing and Lookout refusers at the start of a check, in the order of R69. Each Lookout in service refuses for itself (log 7). -/
def sampledRefusers (s : State) (target : Nat) : List Refuser :=
  ((List.range 128).filter (clearingRefuses s target)).map (fun c => ⟨0, c⟩)
    ++ (if lookoutsBusy s then ([0, 1].filter (fun k => s.boot.lookoutUp.contains k)).map (fun k => ⟨1, k⟩) else [])

def refusedFld (cls : Nat) : Fld :=
  match cls with
  | 0 => PW_ENTRY_REFUSED.CLEARING | 1 => PW_ENTRY_REFUSED.LOOKOUT | 2 => PW_ENTRY_REFUSED.PARTNER | _ => PW_ENTRY_REFUSED.THERMAL

def abortedFld (cls : Nat) : Fld :=
  match cls with
  | 0 => PW_ENTRY_ABORTED.CLEARING | 1 => PW_ENTRY_ABORTED.LOOKOUT | 2 => PW_ENTRY_ABORTED.PARTNER | _ => PW_ENTRY_ABORTED.THERMAL

/-- Count each refuser and record the first in LAST (R67-R69). -/
def recordRefusal (aborted : Bool) (target : Nat) (rs : List Refuser) (s : State) : State :=
  let s := rs.foldl (fun s r => s.fadd (if aborted then abortedFld r.cls else refusedFld r.cls) [target] 1) s
  match rs with
  | [] => s
  | r :: _ =>
    (((s.fset PW_ENTRY_LAST.KIND [target] (boolNat aborted)).fset PW_ENTRY_LAST.CLASS [target] r.cls).fset PW_ENTRY_LAST.ID [target] r.id).fset
      PW_ENTRY_LAST.TIME [target] s.aoTicks

/-- PD_QUERY on every ACTIVE logical port whose physical port has PD_ASK = 1 (R142). -/
def sendPdQuery (target : Nat) (s : State) : State :=
  allLports.foldl (fun s lp => if s.lpActive lp && s.fget FR_PORT_CFG.PD_ASK (ppIx lp) == 1 then sendLinkMsg lp 2 [BitVec.ofNat 8 target] s else s) s

/-- Start a refuser check (R568): the refusers are sampled, and for STANDBY PD_QUERY leaves. -/
def startCheck (target : Nat) (e : Entry) (s : State) : State :=
  let s := { s with pw.entry := e, pw.refused := sampledRefusers s target, pw.holds := [] }
  if target = stStandby then sendPdQuery target s else s

/-- A check that refused ends the entry: REFUSED at the first check, ABORTED at the second. -/
def refuseEntry (aborted : Bool) (target : Nat) (rs : List Refuser) (s : State) : State :=
  let s := recordRefusal aborted target rs s
  ({ s with pw.entry := .idle, pw.refused := [], pw.holds := [] }.fset PW_STATE.LAST_RESULT [] (if aborted then resAborted else resRefused)).fset PW_STATE.BUSY [] 0

/-- Thermal control refuses ACTIVE while the thermal cut stands at 8/16 (Table 01.15). -/
def thermalRefuses (s : State) : Bool := s.pw.thermalCut == 8

/-- The entry to ACTIVE: the copse and CU domains leave power-gating, each waking when work comes (R54). -/
def enterActive (s : State) : State := s.fset PW_STATE.CURRENT [] stActive

/-- A write of TARGET (R49, R50, R54). TARGET reads back the last value written. A request that Table 01.11 does not allow is ignored (log 8). -/
def targetWrite (v : Nat) (s : State) : State :=
  let s := s.fset PW_STATE.TARGET [] v
  let cur := s.current
  if s.fget PW_STATE.BUSY [] = 1 ∨ v = 0 then s.fset PW_STATE.LAST_RESULT [] resIgnored
  else if v = cur then s.fset PW_STATE.LAST_RESULT [] resCompleted
  else if v = stActive ∧ cur = stPortsOnly then
    if thermalRefuses s then (recordRefusal false stActive [⟨3, s.pw.cutDie⟩] s).fset PW_STATE.LAST_RESULT [] resRefused
    else (enterActive s).fset PW_STATE.LAST_RESULT [] resCompleted
  else if v = stPortsOnly ∧ cur = stActive then
    let s := startCheck stPortsOnly (.check1 stPortsOnly s.now) (s.fset PW_STATE.BUSY [] 1)
    if s.pw.refused = [] then { s with pw.entry := .swapping stPortsOnly } else refuseEntry false stPortsOnly s.pw.refused s
  else if v = stStandby ∧ (cur = stActive ∨ cur = stPortsOnly) then
    startCheck stStandby (.check1 stStandby s.now) (s.fset PW_STATE.BUSY [] 1)
  else s.fset PW_STATE.LAST_RESULT [] resIgnored

/-- A write of PW.STATE.TARGET by a program: DENIED if it is not privileged (R20), else OK (R49). -/
def writeTarget (p : Prog) (v : Nat) (s : State) : State := if p.privileged then (targetWrite v s).done .ok else s.done .denied

def execTargetPortsOnly (p : Prog) (t : Nat) (s : State) : Out := .next (writeTarget p stPortsOnly (s.upTo t))

def execTargetStandby (p : Prog) (t : Nat) (s : State) : Out := .next (writeTarget p stStandby (s.upTo t))

def execTargetActive (p : Prog) (t : Nat) (s : State) : Out := .next (writeTarget p stActive (s.upTo t))

/-- The refusers of a check that ends: those sampled, then the partners whose PD_HOLD came, lowest port first (R69). -/
def checkRefusers (s : State) : List Refuser :=
  s.pw.refused ++ ((allLports.filter fun lp => s.pw.holds.contains lp).map fun lp => ⟨2, lp⟩)

/-- A PD_HOLD that arrives within 10 us of PD_QUERY (R142); at any other time it is ignored. -/
def receiveHold (lp : Nat) (s : State) : State :=
  match s.pw.entry with
  | .check1 1 t0 | .check2 1 t0 => if s.now ≤ t0 + 10000 then { s with pw.holds := if s.pw.holds.contains lp then s.pw.holds else lp :: s.pw.holds } else s
  | _ => s

/-! Wake comparators (R59-R63). -/

/-- A comparator trips: between tc and the end of an entry its trip is latched (R51), in STANDBY the wake decision is made. -/
def execWakeComparatorTrip (t comp level ticks : Nat) (s : State) : Out :=
  let s := s.upTo t
  let s := { s with pw.wakeLevel := SMap.put s.pw.wakeLevel comp level }
  let trips := SMap.get .inert s.pw.comparators comp == .ready && wakeEnabled s comp && wakeBeyond s comp level && decide (wakeQual s comp ≤ ticks)
  let s1 := { s with pw.comparators := SMap.put s.pw.comparators comp .beyond }
  let code := wakeCode comp
  let s2 := match s1.pw.entry with
    | .committed 1 _ => { s1 with pw.wakeLatched := some (match s1.pw.wakeLatched with | some c => if s1.aoTicks = s1.pw.wakeTick then min c code else c | none => code),
                                  pw.wakeTick := match s1.pw.wakeLatched with | some _ => s1.pw.wakeTick | none => s1.aoTicks }
    | _ => if s1.current = stStandby then (if s1.fget PW_STATE.RESET_CAUSE [] = 5 then { decideWake code s1 with pw.thermtripLow := false } else decideWake code s1) else s1
  whenever (decide (comp < 10) && trips) s s2

def execWakeComparatorRearm (t comp level : Nat) (s : State) : Out :=
  let s := s.upTo t
  let s := { s with pw.wakeLevel := SMap.put s.pw.wakeLevel comp level }
  whenever (decide (comp < 10) && SMap.get .inert s.pw.comparators comp == .beyond && wakeReturned s comp level) s
    { s with pw.comparators := SMap.put s.pw.comparators comp .ready }

/-! ACTIVE for admitted work (R53). -/

/-- An attempt to enter ACTIVE for admitted work: a refusal is counted and leaves LAST_RESULT; the work waits (R53, R54). -/
def attemptActive (s : State) : State :=
  if thermalRefuses s then { recordRefusal false stActive [⟨3, s.pw.cutDie⟩] s with pw.workWaits := true, pw.retryAt := s.now }
  else { enterActive s with pw.workWaits := false }

def execWorkAdmitWake (t : Nat) (s : State) : Out :=
  let s := s.upTo t
  whenever (s.current == stPortsOnly && s.fget PW_STATE.BUSY [] == 0) s (attemptActive s)

def execActiveEntryRetry (t : Nat) (s : State) : Out :=
  let s := s.upTo t
  whenever (s.pw.workWaits && s.current == stPortsOnly && s.fget PW_STATE.BUSY [] == 0 && decide (s.pw.retryAt + 1000000 ≤ s.now)) s (attemptActive s)

/-! Capping and throttling (R72-R78). -/

/-- A cut moves by at most 1/16 and stays within 0 to 8/16 (R72, R73). -/
def moveCut (up down : Bool) (k : Nat) : Nat := if up then min 8 (k + 1) else if down then k - 1 else k

/-- The end of a 1 ms window of package time (R74): `avgW` is the window's average input power, `maxTemp` the highest Glade reading in degrees, `die` its Glade die. -/
def execCutWindowEnd (t avgW maxTemp die : Nat) (s : State) : Out :=
  let s := s.upTo t
  let w := s.pkg / 1000000
  let cap := s.fget PW_THERM.CAP []
  let on := s.fget PW_THERM.THROTTLE_ON []
  let capCut := moveCut (decide (cap < avgW)) (decide (100 * avgW < 95 * cap)) s.pw.capCut
  let hot := decide (on ≤ maxTemp)
  let thermal := moveCut hot (decide (maxTemp + 5 ≤ on)) s.pw.thermalCut
  let raised := decide (s.pw.thermalCut < thermal)
  whenever (s.pkgRuns && decide (s.pw.cutWindow < w) && decide (2 ≤ s.current)) s
    (setSource 4 (capCut == 8)
      { s with pw.capCut := capCut, pw.thermalCut := thermal, pw.cutDie := if raised then die else s.pw.cutDie, pw.cutWindow := w, pw.cutTick := s.aoTicks, pw.cutOwed := true })

/-- All CU clocks take the cut on the first CLK_AO tick after the window (R74): CUT, CUT_THERMAL, CUT_CAP; source 2 is a clock cut change. -/
def takeCut (s : State) : State :=
  let k := max s.pw.capCut s.pw.thermalCut
  let was := s.fget PW_THERM.CUT []
  let s := ((s.fset PW_THERM.CUT [] k).fset PW_THERM.CUT_THERMAL [] (boolNat (k != 0 && k == s.pw.thermalCut))).fset PW_THERM.CUT_CAP [] (boolNat (k != 0 && k == s.pw.capCut))
  let s := { s with pw.cutOwed := false }
  if was = k then s else pulse 2 s

def execCutApply (t : Nat) (s : State) : Out :=
  let s := s.upTo t
  whenever (s.pw.cutOwed && decide (s.pw.cutTick < s.aoTicks)) s (takeCut s)

/-- The types of the die entries of R458: 0 Lookout, 1 Glade, 2 Fringe, 3 Understory, 4 Seedbank. -/
def dieType (n : Nat) : Nat := if n < 2 then 0 else if n < 10 then 1 else if n < 26 then 2 else if n < 30 then 3 else 4

/-- The index of a die entry within its type. -/
def dieIndex (n : Nat) : Nat := if n < 2 then n else if n < 10 then n - 2 else if n < 26 then n - 10 else if n < 30 then n - 26 else n - 30

/-- The die entry of a die. -/
def dieEntry (dtype index : Nat) : Nat :=
  match dtype with
  | 0 => index | 1 => 2 + index | 2 => 10 + index | 3 => 26 + index | _ => 30 + index

/-- Dies of a type. -/
def dieCount (dtype : Nat) : Nat :=
  match dtype with
  | 0 => 2 | 1 => 8 | 2 => 16 | 3 => 4 | 4 => 2 | _ => 0

/-- THERMTRIP limit in degrees (Table 01.16). -/
def tripLimit (n : Nat) : Nat :=
  match dieType n with
  | 1 => 115 | 2 => 95 | 3 => 95 | _ => 115

/-- Event limit in degrees (Table 01.16). -/
def eventLimit (s : State) (n : Nat) : Nat :=
  match dieType n with
  | 1 => s.fget PW_THERM.THROTTLE_ON [] | 2 => 80 | 3 => 85 | _ => 95

/-- Is the die's domain powered, so that its sensor acts (R76)? -/
def diePowered (s : State) (n : Nat) : Bool :=
  if s.pw.converter == .off then dieType n == 3 && SMap.get .off s.pw.stackSupply (dieIndex n) == .selfKeepalive
  else decide (s.boot.phase ≠ .idle)

def execThermtrip (t die temp ns : Nat) (s : State) : Out :=
  let s := s.upTo t
  let r := fullReset 5 s
  whenever (decide (die < 32) && decide (tripLimit die ≤ temp) && decide (10000 ≤ ns) && diePowered s die) s { r with pw.thermtripLow := true }

/-- A die's event temperature (R75): its source is a level, so a reading below the limit drops it. -/
def execDieThermalEvent (t die temp : Nat) (s : State) : Out :=
  let s := s.upTo t
  whenever (decide (die < 32) && diePowered s die) s (setSource (32 + die) (decide (eventLimit s die ≤ temp)) s)

/-- The self-refresh rate of a stack (R41): doubled above 85 degrees, single below 80. -/
def execSelfRefreshRateChange (t stack temp : Nat) (s : State) : Out :=
  let s := s.upTo t
  let self := SMap.get .off s.pw.stackSupply stack == .selfKeepalive
  whenever (decide (stack < 4) && self && (decide (85 < temp) || decide (temp < 80))) s { s with pw.doubleRate := SMap.set false s.pw.doubleRate stack (decide (85 < temp)) }

end Sys2Proof.Machine
end

