-- ==== Sys2Proof/Machine/Boot.lean ====
section
/-! DEFINITION. Chapter 02: Seedbank stores, image checks, the NV image and its precedence, calibration, boot steps that touch no other chapter's state, slots and windows. -/

namespace Sys2Proof.Machine

def mib : Nat := 1048576

/-- Image slot: offset in the store and size (Table 02.1). -/
def slotOffset (d slot : Nat) : Nat :=
  match d with
  | 0 => (128 + 256 * slot) * mib | 1 => (640 + 256 * slot) * mib | 2 => (1152 + 64 * slot) * mib | 3 => (1280 + 32 * slot) * mib | _ => (1344 + 16 * slot) * mib

def slotSize (d : Nat) : Nat :=
  match d with
  | 0 => 256 * mib | 1 => 256 * mib | 2 => 64 * mib | 3 => 32 * mib | _ => 16 * mib

/-- The regions of Table 02.1, by row. -/
def slotRegion (d : Nat) : Nat := 6 + d

/-- Which row of Table 02.1 holds a byte: region number, or none for a reserved byte. -/
def regionOf (a : Nat) : Option Nat :=
  let m := a / mib
  if m < 1 then some 0 else if m < 17 then some 1 else if m < 81 then some 2 else if m < 113 then some 3 else if m < 121 then some 4 else if m < 122 then some 5
  else if m < 128 then none else if m < 640 then some 6 else if m < 1152 then some 7 else if m < 1280 then some 8 else if m < 1344 then some 9
  else if m < 1376 then some 10 else if m < 2048 then none else if m < 2176 then some 11 else none

/-- Is the region writable by a privileged program (Table 02.1)? -/
def regionWritable (r : Nat) : Bool := r == 3 || r == 4 || (decide (6 ≤ r) && decide (r ≤ 10))

/-- Offset and size of a region. -/
def regionSpan (r : Nat) : Nat × Nat :=
  match r with
  | 0 => (0, mib) | 1 => (mib, 16 * mib) | 2 => (17 * mib, 64 * mib) | 3 => (81 * mib, 32 * mib) | 4 => (113 * mib, 8 * mib) | 5 => (121 * mib, mib)
  | 6 => (128 * mib, 512 * mib) | 7 => (640 * mib, 512 * mib) | 8 => (1152 * mib, 128 * mib) | 9 => (1280 * mib, 64 * mib) | 10 => (1344 * mib, 32 * mib)
  | _ => (2048 * mib, 128 * mib)

/-- The copy that a read returns: Seedbank[0], or Seedbank[1] while Seedbank[0] is out of service (R563). -/
def seedStore (s : State) : Store := if s.boot.seedDown.contains 0 then s.boot.seed1 else s.boot.seed0

/-- A write reaches both dies; while one is out of service it goes to the other alone, and the region is marked unsynchronized, which raises that die's source (R80). -/
def seedWrite (region a : Nat) (bs : List Byte) (s : State) : State :=
  let s := if s.boot.seedDown.contains 0 then s else { s with boot.seed0 := writeBytes s.boot.seed0 a bs }
  let s := if s.boot.seedDown.contains 1 then s else { s with boot.seed1 := writeBytes s.boot.seed1 a bs }
  if s.boot.seedDown = [] ∨ s.boot.unsync.contains region then s
  else s.boot.seedDown.foldl (fun s d => pulse (1536 + 32 * d + 1) s) { s with boot.unsync := region :: s.boot.unsync }

/-! Image checks (R88-R94). -/

inductive CheckResult where
  | good | badFormat | badKey | badSignature | badDigest | rollback
deriving DecidableEq, Repr

/-- Header fields of Table 02.3. -/
structure ImageHdr where
  magic : Nat
  format : Nat
  dtype : Nat
  svn : Nat
  bodyLen : Nat
deriving DecidableEq, Repr

def readHdr (m : Store) (a : Nat) : ImageHdr :=
  { magic := ofBytesLE (readBytes m a 4), format := ofBytesLE (readBytes m (a + 4) 2), dtype := ofBytesLE (readBytes m (a + 6) 1),
    svn := ofBytesLE (readBytes m (a + 0x10) 4), bodyLen := ofBytesLE (readBytes m (a + 0x14) 4) }

/-- check of R89; `minSvn` is MIN_SVN of the type. -/
def checkImage (h : ImageHdr) (v : Verdict) (d minSvn : Nat) : CheckResult :=
  if h.magic ≠ 0x4E445746 ∨ h.format ≠ 1 ∨ h.dtype ≠ d then .badFormat
  else if h.bodyLen > slotSize d - 65536 then .badFormat
  else if !v.rsaKey then .badKey
  else if !v.slhKey then .badKey
  else if !(v.rsaSig && v.slhSig) then .badSignature
  else if !v.digest then .badDigest
  else if h.svn < minSvn then .rollback
  else .good

/-- A slot's check from Seedbank[0] first, then from Seedbank[1] (R82); a die out of service is not read. -/
def checkSlot (s : State) (d slot : Nat) (v0 v1 : Verdict) : CheckResult :=
  let a := slotOffset d slot
  let m := SMap.get 0 s.boot.minSvn d
  let c0 := checkImage (readHdr s.boot.seed0 a) v0 d m
  let c1 := checkImage (readHdr s.boot.seed1 a) v1 d m
  if s.boot.seedDown.contains 0 then c1 else if c0 = .good then c0 else if s.boot.seedDown.contains 1 then c0 else c1

/-- The header of the copy that passes. -/
def slotHdr (s : State) (d slot : Nat) (v0 : Verdict) : ImageHdr :=
  let a := slotOffset d slot
  let h0 := readHdr s.boot.seed0 a
  if !s.boot.seedDown.contains 0 && checkImage h0 v0 d (SMap.get 0 s.boot.minSvn d) == .good then h0 else readHdr s.boot.seed1 a

/-- The measurement of R92: SHA-384 of the 512-byte signed message. -/
def measure (s : State) (d slot : Nat) (v0 : Verdict) : BitVec 384 :=
  let a := slotOffset d slot
  let h0 := readHdr s.boot.seed0 a
  let m := if !s.boot.seedDown.contains 0 && checkImage h0 v0 d (SMap.get 0 s.boot.minSvn d) == .good then s.boot.seed0 else s.boot.seed1
  Config.sha384 (readBytes m a 512)

/-- Record a check in SB.IMG: GOOD and SVN of the slot. -/
def recordCheck (d slot : Nat) (good : Bool) (svn : Nat) (s : State) : State :=
  if slot = 0 then (s.fset SB_IMG.A_GOOD [0, d] (boolNat good)).fset SB_IMG.A_SVN [0, d] svn
  else (s.fset SB_IMG.B_GOOD [0, d] (boolNat good)).fset SB_IMG.B_SVN [0, d] svn

/-- A copy that fails while the other passes is repaired as R81 states: its region is marked for the resynchronization. -/
def markRepair (d slot : Nat) (v0 v1 : Verdict) (s : State) : State :=
  let a := slotOffset d slot
  let m := SMap.get 0 s.boot.minSvn d
  let g0 := checkImage (readHdr s.boot.seed0 a) v0 d m == .good
  let g1 := checkImage (readHdr s.boot.seed1 a) v1 d m == .good
  if g0 != g1 && s.boot.seedDown == [] && !s.boot.unsync.contains (slotRegion d) then
    pulse (1536 + 32 * (if g0 then 1 else 0) + 1) { s with boot.unsync := slotRegion d :: s.boot.unsync }
  else s

/-- select of R89: the slot to boot, the active one first. -/
def selectSlot (s : State) (d : Nat) (va vb va1 vb1 : Verdict) : Option Nat :=
  let act := SMap.get 0 s.boot.slotActive d
  let ck (slot : Nat) : Bool := checkSlot s d slot (if slot = 0 then va else vb) (if slot = 0 then va1 else vb1) == .good
  if ck act then some act else if ck (1 - act) then some (1 - act) else none

/-- Checks of select recorded in SB.IMG. -/
def recordSelect (d : Nat) (va vb va1 vb1 : Verdict) (s : State) : State :=
  let g (slot : Nat) (v0 v1 : Verdict) := checkSlot s d slot v0 v1 == .good
  let act := SMap.get 0 s.boot.slotActive d
  let v (slot : Nat) := if slot = 0 then va else vb
  let v' (slot : Nat) := if slot = 0 then va1 else vb1
  let s1 := recordCheck d act (g act (v act) (v' act)) (slotHdr s d act (v act)).svn s
  if g act (v act) (v' act) then s1
  else recordCheck d (1 - act) (g (1 - act) (v (1 - act)) (v' (1 - act))) (slotHdr s d (1 - act) (v (1 - act))).svn s1

/-- The six words of a measurement, bytes 8m to 8m + 7 little-endian. -/
def setMeas (n : Nat) (m : BitVec 384) (s : State) : State :=
  let bs := toBytesBE 48 m.toNat
  (List.range 6).foldl (fun s i => s.fset AT_DIE_MEAS.BYTES [n, i] (ofBytesLE ((bs.drop (8 * i)).take 8))) s

/-- Die life states (Table 12.9). -/
def dieSteady : Nat := 0
def dieStaged : Nat := 1
def dieSwitching : Nat := 2
def dieResetting : Nat := 3

/-- The package part of the evidence changed: a new signature is owed (R461). -/
def evidenceChanged (s : State) : State := { s with clr.signOwed := true }

/-- A die begins executing an image (R459): GEN + 1, slot, SVN and measurement; STEADY, or STAGED while a slot of its type is staged. -/
def startImage (n slot svn : Nat) (meas : BitVec 384) (s : State) : State :=
  let d := dieType n
  let s := ((s.fset AT_DIE_INFO.DTYPE [n] d).fset AT_DIE_INFO.INDEX [n] (dieIndex n)).fset AT_DIE_INFO.STATE [n]
    (if (SMap.get? s.boot.staged d).isSome then dieStaged else dieSteady)
  let s := ((s.fset AT_DIE_INFO.SLOT [n] slot).fset AT_DIE_INFO.SVN [n] svn).fwrap AT_DIE_INFO.GEN [n] 1
  evidenceChanged (setMeas n meas s)

/-- A die that is not started (R85): RESETTING, measurement zero, GEN 0, and an event. -/
def leaveNotStarted (n : Nat) (s : State) : State :=
  let s := ((s.fset AT_DIE_INFO.STATE [n] dieResetting).fset AT_DIE_INFO.GEN [n] 0).emit (.event (.dieNotStarted n))
  evidenceChanged (setMeas n 0 { s with boot.notStarted := n :: s.boot.notStarted })

def dieState (s : State) (n : Nat) : Nat := s.fget AT_DIE_INFO.STATE [n]

/-- R90: the slot that ACTIVE does not name is booted. -/
def noteFallback (d slot : Nat) (s : State) : State :=
  if slot = SMap.get 0 s.boot.slotActive d then s else (s.fset SB_IMG.FALLBACK [0, d] 1).emit (.event (.fallback d))

/-! Boot (Table 02.2). -/

/-- The SB words loaded from the directory and the counter region at t0 + 4.1 ms. -/
def loadDirectory (s : State) : State :=
  let s := (List.range 5).foldl (fun s d =>
    (s.fset SB_IMG.ACTIVE [0, d] (SMap.get 0 s.boot.slotActive d)).fset SB_IMG.MIN_SVN [0, d] (SMap.get 0 s.boot.minSvn d)) s
  let s := (s.fset SB_NV.ACTIVE [0] s.boot.nvActive).fset SB_NV.SEQ [0] s.boot.nvSeq
  (s.fset SB_UCAL.ACTIVE [0] s.boot.ucalActive).fset SB_UCAL.SEQ [0] s.boot.ucalSeq

def execBootRomStart (t k : Nat) (s : State) : Out :=
  let s := s.upTo t
  whenever (decide (k < 2) && (s.boot.phase == .handed || s.boot.phase == .romStarted) && !s.boot.dirRead.contains k) s
    (loadDirectory { s with boot.phase := .romStarted, boot.dirRead := k :: s.boot.dirRead })

/-- A Lookout checks, measures and starts its image, or stays in recovery (R89-R92). Package time starts from 0 here, at t0 + 42 ms (R541). -/
def execLookoutImageStart (t k : Nat) (va vb va1 vb1 : Verdict) (s : State) : Out :=
  let s := s.upTo t
  let s0 := recordSelect 0 va vb va1 vb1 s
  let s1 := match selectSlot s 0 va vb va1 vb1 with
    | some slot =>
      let v := if slot = 0 then va else vb
      let v' := if slot = 0 then va1 else vb1
      let s1 := { s0 with boot.lookoutSlot := SMap.put s0.boot.lookoutSlot k slot, pkgRuns := true, pkg := if s0.pkgRuns then s0.pkg else 0 }
      markRepair 0 slot v v' (noteFallback 0 slot (startImage k slot (slotHdr s 0 slot v).svn (measure s 0 slot v) s1))
    | none => { s0 with boot.recovery := k :: s0.boot.recovery, boot.lookoutUp := s0.boot.lookoutUp.filter (· ≠ k) }
  whenever (decide (k < 2) && s.boot.phase == .romStarted && s.boot.dirRead.contains k && (SMap.get? s.boot.lookoutSlot k).isNone && !s.boot.recovery.contains k) s s1

/-- R84: PREFER if its image verified, else the other. -/
def execActiveLookoutChoice (t : Nat) (s : State) : Out :=
  let s := s.upTo t
  let pref := s.fget LK_BOOT.PREFER [0]
  let up (k : Nat) := (SMap.get? s.boot.lookoutSlot k).isSome
  whenever (s.boot.phase == .romStarted && (up 0 || up 1)) s
    (({ s with boot.phase := .chosen, boot.lastBeat := s.now }).fset LK_BOOT.ACTIVE [0] (if up pref then pref else 1 - pref))

/-! The NV image (R95-R98). -/

/-- One NV record. -/
structure NvRec where
  addr : Nat
  mask : Word
  value : Word
deriving DecidableEq, Repr

def nvOffset (copy : Nat) : Nat := (113 + 4 * copy) * mib

def readNvRecs (m : Store) (a : Nat) : Nat → List NvRec
  | 0 => []
  | n + 1 =>
    { addr := ofBytesLE (readBytes m a 4), mask := BitVec.ofNat 64 (ofBytesLE (readBytes m (a + 8) 8)), value := BitVec.ofNat 64 (ofBytesLE (readBytes m (a + 16) 8)) }
      :: readNvRecs m (a + 24) n

/-- Bits of a word that belong to a field tagged NV. -/
def nvMask (fs : List FieldSpec) : Word := (fs.filter fun f => f.nv).foldl (fun m f => setBits m f.hi f.lo (2 ^ (f.hi + 1 - f.lo) - 1)) 0

/-- A word with its clamping fields clamped (R566). -/
def clampWord (fs : List FieldSpec) (w : Word) : Word :=
  fs.foldl (fun w f => match f.clamp with | some (lo, hi) => setBits w f.hi f.lo (clampNat lo hi (bitsOf w f.hi f.lo)) | none => w) w

/-- One record applied to a word (R96); the Bool says that the record was dropped or lost bits. -/
def applyNvRec (only : CW → List Nat → Bool) (r : NvRec) (s : State) : State × Bool :=
  match holdsAt r.addr with
  | .word w ix =>
    if only w ix then
      let m := r.mask &&& nvMask w.fields
      (s.setWord w ix (clampWord w.fields ((s.word w ix &&& ~~~m) ||| (r.value &&& m))), m ≠ r.mask)
    else (s, false)
  | _ => (s, only .SB_NV [0])

/-- Is the word in a block that the active Lookout applies (PW, SB, EV, LK, and the package's own CM, AT and EC), or one that each die applies? -/
def lookoutBlock (w : CW) (_ : List Nat) : Bool := decide (w.place.base < 0x1050000)

def dieBlock (w : CW) (ix : List Nat) : Bool := !lookoutBlock w ix

def applyNvRecs (only : CW → List Nat → Bool) : List NvRec → State → State
  | [], s => s
  | r :: rs, s =>
    let (s1, lost) := applyNvRec only r s
    applyNvRecs only rs (if lost then s1.fadd SB_NV.DROPPED [0] 1 else s1)

/-- Apply the NV image in force to the words that `only` picks, in record order (R96, R97). Records are applied only if the copy's header names a good count. -/
def nvImage (s : State) : List NvRec :=
  let m := seedStore s
  let a := nvOffset s.boot.nvActive
  if ofBytesLE (readBytes m a 4) = 0x4E44564E then readNvRecs m (a + 64) (min 131072 (ofBytesLE (readBytes m (a + 0x10) 4))) else []

def applyNv (only : CW → List Nat → Bool) (s : State) : State := applyNvRecs only (nvImage s) s

/-! User calibration (R101, R102). -/

def ucalOffset (copy : Nat) : Nat := (81 + 16 * copy) * mib

def readUcal (m : Store) (a : Nat) : Nat → List (Nat × Int)
  | 0 => []
  | n + 1 => (ofBytesLE (readBytes m a 4), signExt 32 (ofBytesLE (readBytes m (a + 4) 4))) :: readUcal m (a + 8) n

/-- clamp(factory + offset, LO, HI); a record that names no item is dropped and counted (R101, R102). -/
def applyUcal : List (Nat × Int) → State → State
  | [], s => s
  | (item, off) :: rs, s =>
    match Config.calItem item with
    | some (f, lo, hi) => applyUcal rs { s with boot.calApplied := SMap.put s.boot.calApplied item (min hi (max lo (f + off))) }
    | none => applyUcal rs (s.fadd SB_UCAL.DROPPED [0] 1)

def ucalImage (s : State) : List (Nat × Int) :=
  let m := seedStore s
  let a := ucalOffset s.boot.ucalActive
  if ofBytesLE (readBytes m a 4) = 0x4E445543 then readUcal m (a + 64) (min 2097144 (ofBytesLE (readBytes m (a + 0x10) 4))) else []

/-- Calibration is applied anew: items without a user record take their factory value (Config.calItem), so only user items are listed. -/
def applyCalibration (s : State) : State := applyUcal (ucalImage s) (({ s with boot.calApplied := [] }).fset SB_UCAL.DROPPED [0] 0)

/-- A die's image (R85, R89, R90, R92, R93): verified slot, streamed body, digest confirmed; one resend; a die without one is not started. -/
def execDieImageConfirm (t die : Nat) (va vb va1 vb1 : Verdict) (hashOk calOk : Bool) (s : State) : Out :=
  let s := s.upTo t
  let d := dieType die
  let s0 := recordSelect d va vb va1 vb1 s
  let s1 := match selectSlot s d va vb va1 vb1 with
    | none => leaveNotStarted die s0
    | some slot =>
      let v := if slot = 0 then va else vb
      let v' := if slot = 0 then va1 else vb1
      if !calOk then leaveNotStarted die s0
      else if hashOk then markRepair d slot v v' (noteFallback d slot (startImage die slot (slotHdr s d slot v).svn (measure s d slot v) s0))
      else if s.boot.resent.contains die then leaveNotStarted die s0
      else { s0 with boot.resent := die :: s0.boot.resent }
  whenever (decide (2 ≤ die) && decide (die < 32) && s.boot.phase == .applied && dieState s die == dieResetting && !s.boot.notStarted.contains die) s s1

/-- The chosen copy of a region is copied over the other die's (R81). -/
def copyRegion (r : Nat) (src dst : Store) : Store :=
  let (a, n) := regionSpan r
  (SMap.keep (fun k _ => decide (a ≤ k) && decide (k < a + n)) src).foldl (fun m e => SMap.set 0 m e.1 e.2) (clearRange dst a n)

def execSeedbankResync (t region src : Nat) (s : State) : Out :=
  let s := s.upTo t
  let s1 := if src = 0 then { s with boot.seed1 := copyRegion region s.boot.seed0 s.boot.seed1 } else { s with boot.seed0 := copyRegion region s.boot.seed1 s.boot.seed0 }
  whenever (s.boot.unsync.contains region && s.boot.seedDown == []) s { s1 with boot.unsync := s1.boot.unsync.filter (· ≠ region) }

/-! Slots (R94, R104). -/

def goodFld (slot : Nat) : Fld := if slot = 0 then SB_IMG.A_GOOD else SB_IMG.B_GOOD
def svnFld (slot : Nat) : Fld := if slot = 0 then SB_IMG.A_SVN else SB_IMG.B_SVN

/-- A write of SET_A and SET_B (R94): DENIED if both are 1, or if the slot's GOOD bit is 0. -/
def writeSet (d : Nat) (setA setB : Bool) (s : State) : Status × State :=
  if setA && setB then (.denied, s)
  else if setA || setB then
    let slot := boolNat setB
    if s.fget (goodFld slot) [0, d] = 0 then (.denied, s)
    else (.ok, ({ s with boot.slotActive := SMap.set 0 s.boot.slotActive d slot }).fset SB_IMG.ACTIVE [0, d] slot)
  else (.ok, s)

/-- RAISE_SVN: MIN_SVN takes the SVN of the ACTIVE slot if that is higher (R94). -/
def raiseSvn (d : Nat) (s : State) : State :=
  let svn := s.fget (svnFld (s.fget SB_IMG.ACTIVE [0, d])) [0, d]
  if SMap.get 0 s.boot.minSvn d < svn then evidenceChanged (({ s with boot.minSvn := SMap.set 0 s.boot.minSvn d svn }).fset SB_IMG.MIN_SVN [0, d] svn) else s

/-- A control-space write by a program that only a privileged program may make. -/
def privWrite (p : Prog) (f : State → Status × State) (s : State) : State :=
  if p.privileged then (let (st, s') := f s; s'.done st) else s.done .denied

def execSetA (p : Prog) (t dtype : Nat) (s : State) : Out := .next (privWrite p (writeSet dtype true false) (s.upTo t))
def execSetB (p : Prog) (t dtype : Nat) (s : State) : Out := .next (privWrite p (writeSet dtype false true) (s.upTo t))
def execRaiseSvn (p : Prog) (t dtype : Nat) (s : State) : Out := .next (privWrite p (fun s => (.ok, raiseSvn dtype s)) (s.upTo t))

/-- A die of a type enters or leaves STAGED (R104). -/
def setStaged (d : Nat) (on : Bool) (svn : Nat) (s : State) : State :=
  (List.range (dieCount d)).foldl (fun s i =>
    let n := dieEntry d i
    if on then
      if dieState s n = dieSteady ∨ dieState s n = dieStaged then (s.fset AT_DIE_INFO.STATE [n] dieStaged).fset AT_DIE_INFO.STAGED_SVN [n] svn else s
    else if dieState s n = dieStaged then (s.fset AT_DIE_INFO.STATE [n] dieSteady).fset AT_DIE_INFO.STAGED_SVN [n] 0 else s) s

/-- A check of a firmware slot (R89, R104). -/
def slotCheck (d slot : Nat) (v0 v1 : Verdict) (s : State) : State :=
  let good := checkSlot s d slot v0 v1 == .good
  let svn := (slotHdr s d slot v0).svn
  let s := markRepair d slot v0 v1 (recordCheck d slot good svn s)
  evidenceChanged
    (if good then setStaged d true svn { s with boot.staged := SMap.put s.boot.staged d slot }
     else if SMap.get? s.boot.staged d = some slot then setStaged d false 0 { s with boot.staged := SMap.erase s.boot.staged d }
     else s)

def execSlotCheck (t dtype slot : Nat) (v0 v1 : Verdict) (s : State) : Out :=
  let s := s.upTo t
  whenever (decide (dtype < 5) && decide (slot < 2)) s (slotCheck dtype slot v0 v1 s)

/-! NV and user-calibration commits (R99-R101), the Seedbank write window (R563). -/

/-- COMMIT of SB.NV: starts the check, or reads busy while one runs (R100). -/
def nvCommit (s : State) : State :=
  match s.boot.nvCommitAt with
  | some _ => s.fset SB_NV.RESULT [0] 4
  | none => { s with boot.nvCommitAt := some s.now }

def ucalCommit (s : State) : State :=
  match s.boot.ucalCommitAt with
  | some _ => s.fset SB_UCAL.RESULT [0] 4
  | none => { s with boot.ucalCommitAt := some s.now }

def execNvCommit (p : Prog) (t : Nat) (s : State) : Out := .next (privWrite p (fun s => (.ok, nvCommit s)) (s.upTo t))
def execUcalCommit (p : Prog) (t : Nat) (s : State) : Out := .next (privWrite p (fun s => (.ok, ucalCommit s)) (s.upTo t))

/-- The check of a copy: 1 committed, 2 bad header, 3 bad CRC (SB.NV.RESULT). -/
def copyResult (m : Store) (a magic rsize limit : Nat) : Nat :=
  let count := ofBytesLE (readBytes m (a + 0x10) 4)
  if ofBytesLE (readBytes m a 4) ≠ magic ∨ ofBytesLE (readBytes m (a + 4) 2) ≠ 1 ∨ limit < count then 2
  else if crc32c (readBytes m (a + 64) (rsize * count)) ≠ ofBytesLE (readBytes m (a + 0x14) 4) then 3
  else 1

def nvCommitDone (s : State) : State :=
  let copy := 1 - s.boot.nvActive
  let r := copyResult (seedStore s) (nvOffset copy) 0x4E44564E 24 131072
  let s := ({ s with boot.nvCommitAt := none }).fset SB_NV.RESULT [0] r
  if r = 1 then
    let s := seedWrite 4 (nvOffset copy + 8) (toBytesLE 8 (s.boot.nvSeq + 1)) s
    evidenceChanged ((({ s with boot.nvActive := copy, boot.nvSeq := s.boot.nvSeq + 1 }).fset SB_NV.ACTIVE [0] copy).fset SB_NV.SEQ [0] (s.boot.nvSeq + 1))
  else s

def ucalCommitDone (s : State) : State :=
  let copy := 1 - s.boot.ucalActive
  let r := copyResult (seedStore s) (ucalOffset copy) 0x4E445543 8 2097144
  let s := ({ s with boot.ucalCommitAt := none }).fset SB_UCAL.RESULT [0] r
  if r = 1 then
    let s := seedWrite 3 (ucalOffset copy + 8) (toBytesLE 8 (s.boot.ucalSeq + 1)) s
    evidenceChanged ((({ s with boot.ucalActive := copy, boot.ucalSeq := s.boot.ucalSeq + 1 }).fset SB_UCAL.ACTIVE [0] copy).fset SB_UCAL.SEQ [0] (s.boot.ucalSeq + 1))
  else s

def execNvCommitDone (t : Nat) (ucal : Bool) (s : State) : Out :=
  let s := s.upTo t
  if ucal then whenever s.boot.ucalCommitAt.isSome s (ucalCommitDone s) else whenever s.boot.nvCommitAt.isSome s (nvCommitDone s)

/-- May a byte of the store be written through the window now? The copy in force of an alternating region is not written, and neither is a copy being committed (R99, R100). -/
def windowOpen (s : State) (a : Nat) : Option Nat :=
  match regionOf a with
  | none => none
  | some r =>
    if !regionWritable r then none
    else if r = 4 then
      let copy := (a - 113 * mib) / (4 * mib)
      if copy = s.boot.nvActive ∨ s.boot.nvCommitAt.isSome then none else some r
    else if r = 3 then
      let copy := (a - 81 * mib) / (16 * mib)
      if copy = s.boot.ucalActive ∨ s.boot.ucalCommitAt.isSome then none else some r
    else some r

/-- A word of the window (R563). -/
def windowWrite (word : Nat) (v : Word) (s : State) : Status × State :=
  match windowOpen s (8 * word) with
  | some r => (.ok, seedWrite r (8 * word) (toBytesLE 8 v.toNat) s)
  | none => (.denied, s)

def execSeedbankWindowWrite (p : Prog) (t word : Nat) (value : Word) (s : State) : Out := .next (privWrite p (windowWrite word value) (s.upTo t))

end Sys2Proof.Machine
end

