-- ==== Sys2Proof/Machine/FwdOps.lean ====
section
/-! DEFINITION. Operations of the forwarding core that other parts use: header slots (Tables 03.7, 04.4, 04.9a, 05.5), buffer shares and admission (R239-R247), trail rings
(R262-R266), and the entry of a cell into the core (R234, R236). -/

namespace Sys2Proof.Machine

/-! Header slots. -/

/-- A first header slot (Table 03.7). -/
def mkHdr (clr epoch gen vc : Nat) (hx : Bool) (dlen txn : Nat) : BitVec 128 :=
  BitVec.ofNat 128 (clr % 256 * 2 ^ 120 + epoch % 65536 * 2 ^ 104 + gen % 2 ^ 24 * 2 ^ 80 + vc % 8 * 2 ^ 77 + boolNat hx * 2 ^ 76 + dlen % 32 * 2 ^ 71 + txn % 2 ^ 71)

/-- The TXN field of a request (Table 04.4). -/
def reqTxn (node line tag : Nat) : Nat := node % 65536 * 2 ^ 55 + line % 2 ^ 42 * 2 ^ 13 + tag % 8192

/-- The TXN field of a response (Table 04.9a). -/
def rspTxn (tag status seg : Nat) (last staged : Bool) : Nat :=
  tag % 8192 * 2 ^ 58 + status % 256 * 2 ^ 50 + seg % 256 * 2 ^ 42 + boolNat last * 2 ^ 41 + boolNat staged * 2 ^ 40

/-- The TXN field on the SNP VC (Table 05.5). -/
def snpTxn (stype node line tag : Nat) : Nat := stype % 8 * 2 ^ 68 + node % 65536 * 2 ^ 52 + line % 2 ^ 42 * 2 ^ 10 + tag % 1024

/-- A second header slot: OP and its fields (R164). -/
def mkHdr2 (op fields : Nat) : BitVec 128 := BitVec.ofNat 128 (op % 64 * 2 ^ 122 + fields % 2 ^ 122)

/-- Bytes as slots of 16. -/
def slotsOf (bs : List Byte) : List (BitVec 128) := bytesSlots ((bs.length + 15) / 16) bs

def slotsBytes (xs : List (BitVec 128)) : List Byte := (xs.map slotBytes).flatten

/-- The 64 bytes of a line. -/
def lineBytes (d : Line) : List Byte := (d ++ List.replicate 64 0).take 64

def bytesLine (bs : List Byte) : Line := (bs ++ List.replicate 64 0).take 64

def vcReq : Nat := 0
def vcRsp : Nat := 1
def vcSnp : Nat := 2
def vcOrd : Nat := 3
def vcBulk : Nat := 4

/-! Shares and admission. -/

/-- The Glade dies on which a clearing holds a slice. -/
def clrDies (m : Canopy) (c : Nat) : List Nat := (List.range 8).filter fun g => m.slices.any fun sl => sl.clr == c && sl.copse / 16 == g

/-- Shares of a clearing on a die (FW[g].SHARE); the units of a share that leaves count as used (R245). -/
def shareCount (s : State) (g c : Nat) : Nat :=
  ((List.range 32).filter fun k => s.fget FW_SHARE.CLR [g, k] == c && s.fget FW_SHARE.STATE [g, k] == 1).length

/-- Logical ports of a clearing's physical ports on a die, under the MODE in force. -/
def clrPorts (s : State) (g c : Nat) : Nat :=
  (((List.range 16).filter fun j => s.fget FR_PORT_CFG.CLR [(16 * g + j) / 8, j % 8] == c).map fun j =>
    (modeSubs (s.modeOf (4 * (16 * g + j)))).length).sum

/-- Initial credits of a VC in credit units (FW.CLR.CREDIT), 0 acting as 1. -/
def vcCredit (s : State) (g c vc : Nat) : Nat :=
  let f := match vc with
    | 0 => FW_CLR_CREDIT.REQ
    | 1 => FW_CLR_CREDIT.RSP
    | 2 => FW_CLR_CREDIT.SNP
    | 3 => FW_CLR_CREDIT.ORD
    | _ => FW_CLR_CREDIT.BULK
  max 1 (s.fget f [g, c])

/-- The landing allowances and mesh pools of a clearing on a die (R240). -/
def landingUnits (s : State) (g c : Nat) : Nat :=
  2 * ((List.range 5).map (vcCredit s g c)).sum * clrPorts s g c
    + max 1 (s.fget FW_CLR_BUF.MESH_POOL [g, c]) * ((clrDies s.com.inForce c).filter fun d => d != g).length

def sharedPool (s : State) (g c : Nat) : Nat := 32768 * shareCount s g c - (landingUnits s g c + 5 * s.fget FW_CLR_BUF.VC_RESV [g, c])

def State.fwUse (s : State) (g c : Nat) : FwUse := SMap.get .reset s.fwd.use (128 * g + c)

def State.setFwUse (s : State) (g c : Nat) (u : FwUse) : State := { s with fwd.use := SMap.set .reset s.fwd.use (128 * g + c) u }

/-- F of R243. -/
def freeUnits (s : State) (g c : Nat) : Nat := sharedPool s g c - (s.fwUse g c).shared

/-- floor(alpha × F) for a code of Table 06.3. -/
def alphaTimes (code f : Nat) : Nat := if 6 ≤ min code 9 then f * 2 ^ (min code 9 - 6) else f / 2 ^ (6 - code)

def egKey (lp cls : Nat) : Nat := 16 * lp + cls

def State.egQ (s : State) (lp cls : Nat) : EgressQ := SMap.get .reset s.fwd.egress (egKey lp cls)

def State.setEgQ (s : State) (lp cls : Nat) (q : EgressQ) : State := { s with fwd.egress := SMap.set .reset s.fwd.egress (egKey lp cls) q }

def qUnits (cs : List QCell) : Nat := (cs.map fun q => q.cell.units).sum

/-- What admission charges: the shared pool, the VC reserve, or nothing. -/
def admitCharge (s : State) (g c vc alpha q u : Nat) : Option Charge :=
  let f := freeUnits s g c
  if q + u ≤ alphaTimes alpha f ∧ u ≤ f then some .shared
  else if SMap.get 0 (s.fwUse g c).resv vc + u ≤ s.fget FW_CLR_BUF.VC_RESV [g, c] then some .reserve
  else none

def addCharge (g c vc u : Nat) (ch : Charge) (s : State) : State :=
  let w := s.fwUse g c
  match ch with
  | .shared => s.setFwUse g c { w with shared := w.shared + u }
  | .reserve => s.setFwUse g c { w with resv := SMap.set 0 w.resv vc (SMap.get 0 w.resv vc + u) }
  | _ => s

def dropCharge (g c vc u : Nat) (ch : Charge) (s : State) : State :=
  let w := s.fwUse g c
  match ch with
  | .shared => s.setFwUse g c { w with shared := w.shared - u }
  | .reserve => s.setFwUse g c { w with resv := SMap.set 0 w.resv vc (SMap.get 0 w.resv vc - u) }
  | _ => s

/-- Class of a VC on a logical port (FW.LPORT.CFG.CLASSMAP). -/
def classOf (s : State) (lp vc : Nat) : Nat := bitsOf (s.word .FW_LPORT_CFG [lpDie lp, lp]) (47 - 4 * vc) (44 - 4 * vc)

/-- Alpha code of a class, and of a VC for mesh queues. -/
def classAlpha (s : State) (g c cls : Nat) : Nat := bitsOf (s.word .FW_CLR_ALPHA [g, c]) (63 - 4 * cls) (60 - 4 * cls)
def vcAlpha (s : State) (g c vc : Nat) : Nat := bitsOf (s.word .FW_CLR_BUF [g, c]) (38 - 4 * vc) (35 - 4 * vc)

/-- Units of overflow in use by a clearing on a die. -/
def ovfUsed (s : State) (g c : Nat) : Nat :=
  ((s.fwd.egress.filter fun e => e.1 / 16 / 64 == g).map fun e => ((e.2.ovf.filter fun x => x.clr == c).map Cell.units).sum).sum

/-- Does an update hold the channels of the stacks on a die's side (R248)? Package channels 32u to 32u + 31 are Understory[u]. -/
def understoryFrozen (s : State) (u : Nat) : Bool := s.fget AT_DIE_INFO.STATE [26 + u] != 0 && s.fget AT_DIE_INFO.STATE [26 + u] != 1

/-! Trail rings. -/

/-- The lowest-numbered channel of a clearing on a die (R247). -/
def lowChannel (m : Canopy) (g c : Nat) : Option Nat :=
  ((m.slices.filter fun sl => sl.clr == c && sl.copse / 16 == g).map Slice.copse).foldl (fun a k => some (match a with | some x => min x k | none => k)) none

/-- A byte of a channel in the T0 store. -/
def chKey (ch byte : Nat) : Nat := ch * 2 ^ 31 + byte

def writeChannel (ch byte : Nat) (bs : List Byte) (s : State) : State := { s with fab.t0 := writeBytes s.fab.t0 (chKey ch byte) bs }

/-- An event that a trail may record (Table 06.8). -/
structure TrailEv where
  kind : Nat
  clr : Nat
  port : Nat
  sdie : Nat
  ddie : Nat
  vc : Nat
  cls : Nat
  seq : Nat
  hdr1 : BitVec 128
  hdr2 : BitVec 128
  qlen : Nat
  lat : Nat
  cause : Nat
deriving DecidableEq, Repr

def TrailEv.bytes (e : TrailEv) (s : State) (sample recno : Nat) : List Byte :=
  toBytesLE 8 s.pkg ++ [BitVec.ofNat 8 e.kind, BitVec.ofNat 8 e.clr] ++ toBytesLE 2 e.port ++ [BitVec.ofNat 8 (e.sdie + 8 * e.ddie), BitVec.ofNat 8 (e.vc + 8 * e.cls)]
    ++ toBytesLE 2 e.seq ++ slotBytes e.hdr1 ++ slotBytes e.hdr2 ++ toBytesLE 4 e.qlen ++ toBytesLE 4 (min e.lat 0xFFFFFFFF) ++ toBytesLE 2 (2 ^ sample)
    ++ [BitVec.ofNat 8 e.cause, 0] ++ toBytesLE 4 recno

/-- Does a ring's CFG match an event (R265)? -/
def trailMatch (cfg : Word) (e : TrailEv) : Bool :=
  bitsOf cfg 63 63 == 1 && natBit (bitsOf cfg 55 51) (e.kind - 1) && natBit (bitsOf cfg 50 46) e.vc && natBit (bitsOf cfg 45 30) e.cls
    && (bitsOf cfg 29 21 == 0x1FF || bitsOf cfg 29 21 == e.port)

/-- Offer an event to one ring: its CFG and IDX words, its channel, and its counter of records not written (R265, R266). -/
def trailRing (ring : Nat) (cfg idx : CW) (ix : List Nat) (ch : Option Nat) (missed : Fld) (mix : List Nat) (e : TrailEv) (s : State) : State :=
  let w := s.word cfg ix
  if trailMatch w e then
    let st := SMap.get .reset s.fwd.trails ring
    let n := SMap.get 0 st.matched e.kind + 1
    let st := { st with matched := SMap.set 0 st.matched e.kind n }
    let put (st : TrailSt) (s : State) : State := { s with fwd.trails := SMap.set .reset s.fwd.trails ring st }
    if n % 2 ^ bitsOf w 20 17 = 0 then
      let us := s.pkg / 1000
      let st := if st.us = us then st else { st with us := us, inUs := 0 }
      let slots := 1024 * 2 ^ min 9 (bitsOf w 61 56)
      let prod := bitsOf (s.word idx ix) 63 32
      let cons := bitsOf (s.word idx ix) 31 0
      let full := bitsOf w 62 62 == 0 && (prod + 2 ^ 32 - cons) % 2 ^ 32 == slots
      if max 1 (bitsOf w 16 9) ≤ st.inUs ∨ full then (put st s).fadd missed mix 1
      else
        match ch with
        | some c =>
          let s := writeChannel c (0x50000000 + prod % slots * 64) (e.bytes s (bitsOf w 20 17) prod) (put { st with inUs := st.inUs + 1 } s)
          s.setWord idx ix (setBits (s.word idx ix) 63 32 (prod + 1))
        | none => put st s
    else put st s
  else s

/-- An event of a die is offered to its clearing's ring and to the fabric manager's. -/
def trail (g : Nat) (e : TrailEv) (s : State) : State :=
  let s := if e.kind = 5 then s
    else trailRing (129 * g + e.clr) .FW_TRAIL_CFG .FW_TRAIL_IDX [g, e.clr] (lowChannel s.com.inForce g e.clr) FW_CLR_CNT_BUF.MISSED [g, e.clr] e s
  trailRing (129 * g + 128) .FW_TRAILFM_CFG .FW_TRAILFM_IDX [g] (some (s.fget FW_TRAILFM_CFG.CH [g])) FW_CNT_MESH.FM_MISSED [g] e s

/-- A cell's event. -/
def cellEvent (kind port qlen cause : Nat) (c : Cell) (s : State) : TrailEv :=
  { kind := kind, clr := c.clr, port := port, sdie := c.sdie, ddie := c.ddie, vc := c.vc, cls := c.cls, seq := c.seq, hdr1 := c.hdr1, hdr2 := c.hdr2.getD 0,
    qlen := qlen, lat := if kind = 1 then 0 else (s.pkg % 2 ^ 48 + 2 ^ 48 - c.tstamp) % 2 ^ 48, cause := cause }

/-! Entry of cells. -/

/-- The overflow area takes a cell, if it has room and no update of its stack runs (R247, R248). -/
def toOverflow (lp : Nat) (c : Cell) (s : State) : Option State :=
  let g := lpDie lp
  let size := min 256 (s.fget FW_CLR_BUF.OVF_SIZE [g, c.clr]) * 16384
  let frozen : Bool := match lowChannel s.com.inForce g c.clr with
    | some ch => understoryFrozen s (ch / 32)
    | none => true
  if frozen ∨ size < ovfUsed s g c.clr + c.units then none
  else
    let q := s.egQ lp c.cls
    let s := trail g (cellEvent 3 lp (qUnits q.cells) 0 c s) s
    some ((s.setEgQ lp c.cls { q with ovf := q.ovf ++ [c] }).fadd FW_CLR_CNT_BUF.OVF [g, c.clr] 1)

/-- Admission to an egress queue (R243): none if the cell is refused. -/
def admitEgress (lp : Nat) (c : Cell) (s : State) : Option State :=
  let g := lpDie lp
  let q := s.egQ lp c.cls
  if q.ovf ≠ [] then toOverflow lp c s
  else
    match admitCharge s g c.clr c.vc (classAlpha s g c.clr c.cls) (qUnits q.cells) c.units with
    | some ch => some ((addCharge g c.clr c.vc c.units ch s).setEgQ lp c.cls { q with cells := q.cells ++ [{ cell := c, charge := ch }] })
    | none => if 0 < s.fget FW_CLR_BUF.OVF_SIZE [g, c.clr] then toOverflow lp c s else none

def flowKey (sdie ddie clr vc : Nat) : Nat := ((8 * sdie + ddie) * 128 + clr) * 8 + vc

def State.flow (s : State) (k : Nat) : MeshFlow := SMap.get .reset s.fwd.flows k

def State.setFlow (s : State) (k : Nat) (f : MeshFlow) : State := { s with fwd.flows := SMap.set .reset s.fwd.flows k f }

/-- Admission to a mesh queue, which numbers the cell in its flow (R236, R243). -/
def admitMesh (c : Cell) (s : State) : Option State :=
  let k := flowKey c.sdie c.ddie c.clr c.vc
  let f := s.flow k
  match admitCharge s c.sdie c.clr c.vc (vcAlpha s c.sdie c.clr c.vc) (qUnits f.queue) c.units with
  | some ch =>
    let c' := { c with seq := f.nextSeq }
    some ((addCharge c.sdie c.clr c.vc c.units ch s).setFlow k
      { f with queue := f.queue ++ [{ cell := c', charge := ch }], nextSeq := (f.nextSeq + 1) % 65536 })
  | none => none

/-- Units in the queue of a cell on a die. -/
def queueUnits (die : Nat) (c : Cell) (s : State) : Nat :=
  if die = c.ddie then qUnits (s.egQ c.dest c.cls).cells else qUnits (s.flow (flowKey c.sdie c.ddie c.clr c.vc)).queue

/-- A cell enters the core at its entry die; a refused cell waits (R234, R243). Its TSTAMP is taken here. -/
def tryEnter (c : Cell) (s : State) : Option State :=
  let s' := if c.sdie = c.ddie then admitEgress c.dest c s else admitMesh c s
  s'.map fun s' => trail c.sdie (cellEvent 1 (if c.skind = 0 then c.src else 0x1FF) (queueUnits c.sdie c s') 0 c s) s'

/-- Are two cells on a die bound for one queue? -/
def sameQueue (die : Nat) (a b : Cell) : Bool :=
  if a.ddie = die then b.ddie == die && a.dest == b.dest && a.cls == b.cls else a.ddie == b.ddie && a.clr == b.clr && a.vc == b.vc

/-- Does a cell refused earlier wait for the same queue? Queues are FIFO (R236). -/
def waitsBehind (die : Nat) (c : Cell) (rs : List (Nat × Cell)) : Bool := rs.any fun r => r.1 == die && sameQueue die r.2 c

/-- A cell that is refused admission on a die waits there; counted in HELD at its first refusal. -/
def refuseCell (die : Nat) (c : Cell) (s : State) : State := ({ s with fwd.refused := s.fwd.refused ++ [(die, c)] }).fadd FW_CLR_CNT_BUF.HELD [die, c.clr] 1

def enterCell (c : Cell) (s : State) : State :=
  let c := { c with tstamp := s.pkg % 2 ^ 48 }
  if waitsBehind c.sdie c s.fwd.refused then refuseCell c.sdie c s else (tryEnter c s).getD (refuseCell c.sdie c s)

/-- A transaction bound for a logical port: its cell, from the die and kind of source given. The class is taken from the CLASSMAP of the egress port. -/
def sendCell (sdie skind src lp clr vc : Nat) (hdr1 : BitVec 128) (hdr2 : Option (BitVec 128)) (data : List (BitVec 128)) (txn : Option Nat) (s : State) : State :=
  enterCell { clr := clr, cls := classOf s lp vc, vc := vc, dkind := 0, ddie := lpDie lp, dest := lp, skind := skind, sdie := sdie, src := src, seq := 0, mcg := 0,
              void := false, poison := false, tstamp := 0, hdr1 := hdr1, hdr2 := hdr2, data := data, txn := txn } s

/-- The clearing of a logical port (FR.PORT.CFG.CLR). -/
def lpClr (s : State) (lp : Nat) : Nat := s.fget FR_PORT_CFG.CLR (ppIx lp)

/-- Landing credit returns: slots of a VC of a logical port (R242). -/
def returnCredit (lp vc slots : Nat) (s : State) : State :=
  let p := s.lport lp
  s.setLport lp { p with crGiven := SMap.set 0 p.crGiven vc (SMap.get 0 p.crGiven vc + slots) }

/-! Multicast (R251-R254). -/

/-- The member ports of a group on a die. -/
def mcMembers (m : Canopy) (mcg die : Nat) : List Nat := ((m.groups.find? fun g => g.mcg == mcg).map McGroup.members).getD [] |>.filter fun lp => lpDie lp == die

/-- Admit a pointer of a stored copy to a member's queue; the copy's units count once. -/
def admitPointer (c : Cell) (id : Nat) (first : Bool) (s : State) : Option State :=
  let g := lpDie c.dest
  let q := s.egQ c.dest c.cls
  if q.ovf ≠ [] then none
  else
    let f := freeUnits s g c.clr
    if qUnits q.cells + c.units ≤ alphaTimes (classAlpha s g c.clr c.cls) f ∧ (c.units ≤ f ∨ !first) then
      let s := if first then addCharge g c.clr c.vc c.units .shared s else s
      some (s.setEgQ c.dest c.cls { q with cells := q.cells ++ [{ cell := c, charge := .copy id }] })
    else none

/-- The pointers of a copy, member by member; a member that takes none gets its own copy in overflow, or waits. -/
def mcPointers (c : Cell) (id : Nat) : List Nat → Nat → State → Nat × State
  | [], k, s => (k, s)
  | lp :: r, k, s =>
    let cl := { c with dkind := 0, dest := lp, ddie := lpDie lp, cls := classOf s lp c.vc }
    match admitPointer cl id (k == 0) s with
    | some s => mcPointers c id r (k + 1) s
    | none =>
      match if 0 < s.fget FW_CLR_BUF.OVF_SIZE [lpDie lp, c.clr] then toOverflow lp cl s else none with
      | some s => mcPointers c id r k s
      | none => mcPointers c id r k (refuseCell (lpDie lp) cl s)

/-- A multicast cell on a die: one stored copy with a pointer in every member's queue (R253). -/
def mcLocal (die : Nat) (c : Cell) (s : State) : State :=
  let ms := mcMembers s.com.inForce c.mcg die
  if ms = [] then s
  else
    let id := s.fwd.nextCopy
    let (k, s) := mcPointers c id ms 0 { s with fwd.nextCopy := id + 1 }
    let s := if k = 0 then s else { s with fwd.copies := s.fwd.copies ++ [{ id := id, die := die, cell := c, refs := k, charge := .shared }] }
    s.fadd FW_CLR_CNT_BUF.MC [die, c.clr] 1

/-- A pointer leaves its queue: the copy's units free with the last one. -/
def dropPointer (id : Nat) (s : State) : State :=
  match s.fwd.copies.find? fun m => m.id == id with
  | some m =>
    if m.refs ≤ 1 then dropCharge m.die m.cell.clr m.cell.vc m.cell.units m.charge { s with fwd.copies := s.fwd.copies.filter fun x => x.id != id }
    else { s with fwd.copies := s.fwd.copies.map fun (x : McCopy) => if x.id == id then { x with refs := x.refs - 1 } else x }
  | none => s

/-- A multicast cell enters the core: its own die's members, then one copy toward every other die that holds a member. -/
def mcEnter (c : Cell) (s : State) : State :=
  let c := { c with tstamp := s.pkg % 2 ^ 48 }
  let dies := (List.range 8).filter fun d => d != c.sdie && mcMembers s.com.inForce c.mcg d != []
  dies.foldl (fun s d =>
    let cd := { c with ddie := d }
    if waitsBehind c.sdie cd s.fwd.refused then refuseCell c.sdie cd s else (admitMesh cd s).getD (refuseCell c.sdie cd s)) (mcLocal c.sdie c s)

end Sys2Proof.Machine
end

