-- ==== Sys2Proof/Machine/CanopyOps.lean ====
section
/-! DEFINITION. The canopy map in use: epochs (R491), windows and translation (R154-R161), routes, endpoint handles (R470-R474), versioned and coherent regions seen by a
translation (R214, R217). -/

namespace Sys2Proof.Machine

/-- The epoch in force. -/
def State.epoch (s : State) : Nat := s.fget CM_EPOCH.EPOCH []

/-- The map under which a request of an epoch is translated (R491). -/
def State.mapAt (s : State) (e : Nat) : Option Canopy :=
  let d := (s.epoch + 65536 - e) % 65536
  if d = 0 then some s.com.inForce
  else if d = 1 && s.fget CM_EPOCH.DRAIN [] == 1 then s.com.prev else none

/-- NodeID of the CW9 in force: a change of CM.SELF.NODE takes effect at the next commit (R155). -/
def State.selfNode (s : State) : Nat := s.com.node

/-- The port record of a logical port; without one its ROLE is unused (R158). -/
def portRec (m : Canopy) (lp : Nat) : Option PortRec := m.ports.find? fun p => p.lport == lp

def portRole (m : Canopy) (lp : Nat) : Role := match portRec m lp with
  | some p => Role.ofCode p.role
  | none => .unused

/-- A kind of access, for the rights of Tables 04.7 and 05.4. -/
inductive Right where
  | r | w | a
deriving DecidableEq, Repr

def Window.has (w : Window) : Right → Bool
  | .r => w.r
  | .w => w.w
  | .a => w.a

/-- Bytes of a window. -/
def Window.bytes (w : Window) : Nat := w.len * 4096

/-- The windows of a clearing, valid ones only. -/
def clrWindows (m : Canopy) (c : Nat) : List Window := m.windows.filter fun w => w.valid && w.clr == c

/-- translate of R159 over a range of n bytes: the window and the physical offset. -/
def translate (m : Canopy) (c node off n : Nat) (need : Right) : Option (Window × Nat) :=
  match (clrWindows m c).find? fun w => w.lnode == node && decide (w.lbase ≤ off) && decide (off < w.lbase + w.bytes) with
  | some w => if w.has need && decide (off + n ≤ w.lbase + w.bytes) then some (w, w.pbase + (off - w.lbase)) else none
  | none => none

/-- A physical address checked against the valid windows of a clearing, or of any clearing (R160). -/
def physical (m : Canopy) (c : Option Nat) (node off n : Nat) (need : Right) : Option (Window × Nat) :=
  let ws := m.windows.filter fun w => w.valid && (match c with
    | some c => w.clr == c
    | none => true)
  match ws.find? fun w => w.pnode == node && decide (w.pbase ≤ off) && decide (off < w.pbase + w.bytes) with
  | some w => if w.has need && decide (off + n ≤ w.pbase + w.bytes) then some (w, off) else none
  | none => none

/-- The routes of a clearing to a NodeID; the one with the lowest logical port serves (log 9). -/
def routeOf (m : Canopy) (c node : Nat) : Option Nat :=
  ((m.routes.filter fun r => r.clr == c && r.pnode == node).map Route.lport).foldl (fun a k => some (match a with | some x => min x k | none => k)) none

/-- The home slice's die of a line outside T0 (R161). -/
def homeDie (m : Canopy) (c pnode line : Nat) : Nat :=
  let d := clrDies m c
  let h := pnode ^^^ natBits line 15 0 ^^^ natBits line 31 16 ^^^ natBits line 41 32
  d.getD (h % d.length) 0

/-- The home partition: the copse that orders a line and holds its directory entry (R218, R439). -/
def homeCopse (m : Canopy) (c pnode line : Nat) : Nat :=
  let g := homeDie m c pnode line
  let ks := (List.range 16).filter fun k => m.slices.any fun sl => sl.clr == c && sl.copse == 16 * g + k
  let h := pnode ^^^ natBits line 15 0 ^^^ natBits line 31 16 ^^^ natBits line 41 32
  16 * g + ks.getD (h % ks.length) 0

/-- CONF of a clearing in a map. -/
def confOf (m : Canopy) (c : Nat) : Nat := ((m.clearings.find? fun r => r.clr == c).map ClrRec.conf).getD 0

/-- The clearing that holds a copse. -/
def copseClr (m : Canopy) (k : Nat) : Option Nat := (m.slices.find? fun sl => sl.copse == k).map Slice.clr

/-- The quota record of a clearing; without one every field is 0 (R184). -/
def quotaOf (m : Canopy) (c : Nat) : QuotaRec :=
  (m.quotas.find? fun q => q.clr == c).getD { clr := c, t0Stage := 0, t1Inflight := 0, t2Open := 0, t2Rate := 0, t2Burst := 0, t1Cap := 0, t2Cap := 0, raw := [] }

def regionRec (m : Canopy) (r : Nat) : Option Region := if r = 0 then none else m.regions.find? fun x => x.region == r

/-! Handles (R470-R474). -/

structure Handle where
  type : Nat
  clr : Nat
  index : Nat
  gen : Nat
deriving DecidableEq, Repr

def Handle.ofNat (n : Nat) : Handle := { type := natBits n 63 56, clr := natBits n 55 48, index := natBits n 47 24, gen := natBits n 23 0 }

def Handle.toNat (h : Handle) : Nat := h.type % 256 * 2 ^ 56 + h.clr % 256 * 2 ^ 48 + h.index % 2 ^ 24 * 2 ^ 24 + h.gen % 2 ^ 24

/-- The generation of an endpoint index (R472), starting at 1. -/
def epGen (s : State) (c i : Nat) : Nat := SMap.get 1 s.com.epGens (1024 * c + i)

/-- The generation after one more change (R472). -/
def nextGen (g : Nat) : Nat := if g ≥ 2 ^ 24 - 1 then 1 else g + 1

/-- The generation of a context number. -/
def ctxGen (s : State) (copse n : Nat) : Nat := SMap.get 1 s.nx.gens (32 * copse + n)

def State.ctx? (s : State) (copse n : Nat) : Option Ctx := SMap.get? s.nx.ctxs (32 * copse + n)

/-- The handle of a context (Table 13.2); a management context has none. -/
def ctxHandle (s : State) (copse n : Nat) : Nat :=
  match s.ctx? copse n with
  | some x => if copse < 128 then Handle.toNat { type := 1, clr := x.clr, index := copse * 65536 + n, gen := ctxGen s copse n } else 0
  | none => 0

def endpointOf (m : Canopy) (c i : Nat) : Option Endpoint := m.endpoints.find? fun e => e.clr == c && e.index == i

def epHandle (s : State) (e : Endpoint) : Nat := Handle.toNat { type := e.type, clr := e.clr, index := e.index, gen := epGen s e.clr e.index }

/-- Is a handle current (R472)? -/
def handleCurrent (s : State) (h : Handle) : Bool :=
  match h.type with
  | 1 => (s.ctx? (h.index / 65536) (h.index % 32)).isSome && ctxGen s (h.index / 65536) (h.index % 32) == h.gen
          && decide (h.index / 65536 < 128) && h.index % 65536 == h.index % 32
  | 2 | 3 | 4 => match endpointOf s.com.inForce h.clr h.index with
      | some e => e.type == h.type && epGen s h.clr h.index == h.gen
      | none => false
  | _ => false

/-- GEN of a request against its sender's own handles: ENDPOINT and REPLICA records, or the POOL record (R473). -/
def genStale (s : State) (lp gen : Nat) (pool : Bool) : Bool :=
  gen != 0 && !(s.com.inForce.endpoints.any fun e => e.lport == lp && (if pool then e.type == 4 else e.type == 2 || e.type == 3) && epGen s e.clr e.index == gen)

/-- The POOL record bound to a logical port. -/
def poolOf (m : Canopy) (lp : Nat) : Option Endpoint := m.endpoints.find? fun e => e.type == 4 && e.lport == lp

end Sys2Proof.Machine
end

