-- ==== Sys2Proof/Machine/MapCheck.lean ====
section
/-! DEFINITION. The canopy map's layout (R564, Table 15.10), its records, and the commit rules (R157, R184, R202-R204, R235, R241, R252, R286, R406, R438, R474, R493). -/

namespace Sys2Proof.Machine

/-! Records. -/

def parseClr (r : List Byte) : ClrRec := { clr := field r 0 1, conf := field r 1 1, mesh := field r 2 1, raw := r }

def parseSlice (r : List Byte) : Slice :=
  { clr := field r 0 1, copse := field r 1 1, slot0 := field r 2 1, nslot := field r 3 1, shares := field r 4 4, ports := field r 8 2, raw := r }

def parsePort (r : List Byte) : PortRec := { lport := field r 0 2, clr := field r 2 1, role := field r 3 1, pnode := field r 4 2, raw := r }

def parseRoute (r : List Byte) : Route := { clr := field r 0 1, pnode := field r 2 2, lport := field r 4 2, raw := r }

def tierOf : Nat → Tier
  | 0 => .t0
  | 1 => .t1
  | 2 => .t2
  | _ => .agent

def parseWindow (r : List Byte) : Window :=
  let a := field r 5 1
  { lnode := field r 0 2, pnode := field r 2 2, clr := field r 4 1, valid := natBit a 7, coh := natBit a 6, tier := tierOf (natBits a 5 4), r := natBit a 3, w := natBit a 2,
    a := natBit a 1, lbase := field r 8 8, pbase := field r 16 8, len := field r 24 4, region := field r 28 4, raw := r }

def kindOf : Nat → Option RegionKind
  | 0 => some .plain
  | 1 => some .published
  | 2 => some .coherent
  | _ => none

def parseRegion (r : List Byte) : Region :=
  { region := field r 0 4, clr := field r 4 1, kind := kindOf (field r 5 1), nslot := field r 6 1, domain := field r 7 1, stride := field r 8 8, raw := r }

/-- The logical ports of a 512-bit map, in rising order. -/
def portMap (bs : List Byte) : List Nat :=
  let n := ofBytesLE (bs.take 64)
  (List.range 512).filter fun k => natBit n k

def parseDomain (r : List Byte) : Domain := { domain := field r 0 1, clr := field r 1 1, members := portMap (r.drop 8), raw := r }

def parseGroup (r : List Byte) : McGroup := { mcg := field r 0 2, clr := field r 2 1, members := portMap (r.drop 8), raw := r }

def parseExperts : Nat → List Byte → List (List Nat)
  | 0, _ => []
  | n + 1, bs => ((List.range 4).map fun i => field bs (8 * i) 8) :: parseExperts n (bs.drop 32)

def parseExpertMap (r : List Byte) : ExpertMap := { clr := field r 2 1, raw := r, map := field r 0 2, experts := parseExperts (field r 4 2) (r.drop 8) }

def parseQuota (r : List Byte) : QuotaRec :=
  { clr := field r 0 1, t0Stage := field r 8 4, t1Inflight := field r 12 2, t2Open := field r 14 1, t2Rate := field r 16 2, t2Burst := field r 18 2, t1Cap := field r 20 4,
    t2Cap := field r 24 4, raw := r }

def parseEndpoint (r : List Byte) : Endpoint := { index := field r 0 2, clr := field r 2 1, type := field r 3 1, lport := field r 4 2, ctx := field r 8 8, raw := r }

/-! Layout. -/

/-- A section: KIND, COUNT, RSIZE and its records. -/
structure MapSec where
  kind : Nat
  count : Nat
  rsize : Nat
  records : List (List Byte)
deriving DecidableEq, Repr

/-- RSIZE of a kind (Table 15.10); none for a kind that the table does not list. -/
def recSize : Nat → Option Nat
  | 1 | 3 | 4 => some 8
  | 2 | 11 => some 16
  | 5 | 6 | 10 => some 32
  | 7 | 8 => some 72
  | 9 => some 0
  | _ => none

/-- n expert-map records, each 8 + 32 × NEXP bytes; none if the bytes do not fit. -/
def varRecords : Nat → List Byte → Option (List (List Byte))
  | 0, bs => if bs = [] then some [] else none
  | n + 1, bs =>
    let len := 8 + 32 * field bs 4 2
    if bs.length < len then none else (varRecords n (bs.drop len)).map fun rs => bs.take len :: rs

/-- n sections that fill the bytes exactly; none if the layout is broken. -/
def parseSecs : Nat → List Byte → Option (List MapSec)
  | 0, bs => if bs = [] then some [] else none
  | n + 1, bs =>
    let kind := field bs 0 1
    let count := field bs 4 4
    let rsize := field bs 8 4
    let len := field bs 12 4
    let body := (bs.drop 16).take len
    let records : Option (List (List Byte)) := match recSize kind with
      | some 0 => if rsize = 0 then varRecords count body else none
      | some k => if rsize = k ∧ len = count * k then some (piecesOf k count body) else none
      | none => none
    if bs.length < 16 + len ∨ field bs 1 3 ≠ 0 then none
    else match records, parseSecs n (bs.drop (16 + len)) with
      | some rs, some more => some ({ kind := kind, count := count, rsize := rsize, records := rs } :: more)
      | _, _ => none

/-- The place of a record in its section: CLR, then the order of R460. -/
def recOrder (kind : Nat) (r : List Byte) : List Nat :=
  match kind with
  | 1 | 10 => [field r 0 1]
  | 2 => [field r 0 1, field r 1 1]
  | 3 => [field r 2 1, field r 0 2]
  | 4 => [field r 0 1, field r 2 2, field r 4 2]
  | 5 => [field r 4 1, field r 0 2, field r 8 8]
  | 6 => [field r 4 1, field r 0 4]
  | 7 => [field r 1 1, field r 0 1]
  | _ => [field r 2 1, field r 0 2]

def lexLe : List Nat → List Nat → Bool
  | a :: x, b :: y => decide (a < b) || (a == b && lexLe x y)
  | _, _ => true

def inOrder (kind : Nat) : List (List Byte) → Bool
  | a :: b :: l => lexLe (recOrder kind a) (recOrder kind b) && inOrder kind (b :: l)
  | _ => true

def ascending : List Nat → Bool
  | a :: b :: l => decide (a < b) && ascending (b :: l)
  | _ => true

/-- The sections of a shadow map; none if it breaks the layout of R564. -/
def mapSections (m : Store) : Option (List MapSec) :=
  let h := readBytes m 0 64
  let len := field h 8 4
  if field h 0 4 ≠ 0x4E44434D ∨ field h 4 2 ≠ 1 ∨ (h.drop 16).any (fun b => b != 0) ∨ len < 64 ∨ 0x10000000 < len then none
  else
    let bs := readBytes m 64 (len - 64)
    if crc32c bs ≠ field h 12 4 then none
    else match parseSecs (field h 6 2) bs with
      | some ss => if ascending (ss.map MapSec.kind) && ss.all (fun x => inOrder x.kind x.records) then some ss else none
      | none => none

def secRecords (ss : List MapSec) (kind : Nat) : List (List Byte) := ((ss.find? fun x => x.kind == kind).map MapSec.records).getD []

def canopyOf (ss : List MapSec) : Canopy :=
  { clearings := (secRecords ss 1).map parseClr, slices := (secRecords ss 2).map parseSlice, ports := (secRecords ss 3).map parsePort,
    routes := (secRecords ss 4).map parseRoute, windows := (secRecords ss 5).map parseWindow, regions := (secRecords ss 6).map parseRegion,
    domains := (secRecords ss 7).map parseDomain, groups := (secRecords ss 8).map parseGroup, experts := (secRecords ss 9).map parseExpertMap,
    quotas := (secRecords ss 10).map parseQuota, endpoints := (secRecords ss 11).map parseEndpoint }

/-! Shared by the rules. -/

def zeros (bs : List Byte) (off n : Nat) : Bool := ((bs.drop off).take n).all fun b => b == 0

def noDup : List Nat → Bool
  | [] => true
  | a :: l => !l.contains a && noDup l

/-- Every pair of different places of a list satisfies p. -/
def pairwise {α : Type} (p : α → α → Bool) : List α → Bool
  | [] => true
  | a :: l => l.all (p a) && pairwise p l

def apart (a n b m : Nat) : Bool := decide (a + n ≤ b) || decide (b + m ≤ a)

def holds (m : Canopy) (c : Nat) : Bool := m.slices.any fun sl => sl.clr == c

/-- The units that a slice gives its clearing (Table 12.11). -/
def sliceUnits (sl : Slice) : List Nat :=
  let g := sl.copse / 16
  sl.copse :: (((List.range 32).filter fun k => natBit sl.shares k).map (fun k => 128 + 32 * g + k)
    ++ ((List.range 16).filter fun j => natBit sl.ports j).map fun j => 384 + 16 * g + j)

/-- The clearing that a map gives a unit. -/
def unitClr (m : Canopy) (u : Nat) : Option Nat := (m.slices.find? fun sl => (sliceUnits sl).contains u).map Slice.clr

/-- The physical ports of a slice. -/
def slicePorts (sl : Slice) : List Nat := ((List.range 16).filter fun j => natBit sl.ports j).map fun j => 16 * (sl.copse / 16) + j

/-- Logical ports of a physical port under the MODE held in its CFG. -/
def cfgLports (s : State) (p : Nat) : List Nat := (modeSubs (s.fget FR_PORT_CFG.MODE [p / 8, p % 8])).map fun k => 4 * p + k

/-- A logical port of a clearing with a role. -/
def lportOf (m : Canopy) (c lp : Nat) (roles : List Nat) : Bool := m.ports.any fun p => p.lport == lp && p.clr == c && roles.contains p.role

/-! The rules: each answers whether a map keeps it. -/

/-- R184: quota records; a failure here is one of layout (R493). -/
def quotasOk (m : Canopy) : Bool :=
  noDup (m.quotas.map QuotaRec.clr) && m.quotas.all fun q => decide (q.clr ≤ 127) && zeros q.raw 1 7 && zeros q.raw 15 1 && zeros q.raw 28 4

/-- R157, rule 9. -/
def windowForm (w : Window) : Bool :=
  decide (w.clr ≤ 127) && decide (1 ≤ w.len) && w.lbase % 4096 == 0 && decide (w.lbase < 2 ^ 48) && w.pbase % 4096 == 0 && decide (w.pbase < 2 ^ 48)
    && field w.raw 5 1 % 2 == 0 && zeros w.raw 6 2

/-- R157, rule 5: inside the low 1 GiB of one channel of the clearing. -/
def t0Placed (node : Nat) (m : Canopy) (w : Window) : Bool :=
  w.pnode == node && decide (w.pbase / 2 ^ 31 < 128) && decide (w.pbase % 2 ^ 31 + w.bytes ≤ 2 ^ 30) && copseClr m (w.pbase / 2 ^ 31) == some w.clr

/-- A window by itself: rules 4 to 7 of R157, and R450 for a BOUNCE clearing. -/
def windowSound (node : Nat) (m : Canopy) (w : Window) : Bool :=
  (!w.coh || w.tier == .t1) && (w.tier != .t0 || t0Placed node m w)
    && (w.tier != .t2 || (!w.a && w.pbase % 65536 == 0 && w.lbase % 65536 == 0 && w.bytes % 65536 == 0))
    && decide (w.lbase + w.bytes ≤ 2 ^ 48) && decide (w.pbase + w.bytes ≤ 2 ^ 48)
    && (confOf m w.clr != 2 || !w.a || (w.tier != .t0 && w.tier != .t1))

def tierSum (ws : List Window) (c : Nat) (t : Tier) : Nat := ((ws.filter fun w => w.clr == c && w.tier == t).map Window.bytes).sum

def windowsOk (node : Nat) (m : Canopy) : Bool :=
  let ws := m.windows.filter Window.valid
  m.windows.all windowForm && ws.all (windowSound node m) && decide (ws.length ≤ 8192)
    && ((List.range 128).all fun c => decide ((ws.filter fun w => w.clr == c).length ≤ 256)
      && decide (tierSum ws c .t1 ≤ (quotaOf m c).t1Cap * 2 ^ 30) && decide (tierSum ws c .t2 ≤ (quotaOf m c).t2Cap * 2 ^ 30))
    && pairwise (fun a b => a.clr != b.clr || a.lnode != b.lnode || apart a.lbase a.bytes b.lbase b.bytes) ws
    && pairwise (fun a b => a.pnode != b.pnode || apart a.pbase a.bytes b.pbase b.bytes) ws

/-- A region record's own fields (Table 05.3). -/
def regionForm (r : Region) : Bool :=
  decide (1 ≤ r.region) && decide (r.clr ≤ 127) && zeros r.raw 16 16 && (match r.kind with
    | none => false
    | some .published => decide (2 ≤ r.nslot) && decide (r.nslot ≤ 8) && r.stride % 4096 == 0 && r.domain == 0
    | some .coherent => r.nslot == 0 && r.stride == 0
    | some .plain => r.nslot == 0 && r.stride == 0 && r.domain == 0)

/-- The slots of a PUBLISHED region beyond its window, as (NodeID, base, length). -/
def slotRanges (m : Canopy) (w : Window) : List (Nat × Nat × Nat) :=
  match regionRec m w.region with
  | some r => if r.kind = some .published then (List.range (r.nslot - 1)).map fun k => (w.pnode, w.pbase + (k + 1) * r.stride, w.bytes) else []
  | none => []

/-- R202 and R204 for a valid window that names a region. -/
def regionWindow (m : Canopy) (ws : List Window) (w : Window) : Bool :=
  match regionRec m w.region with
  | none => w.region == 0 && !w.coh
  | some r =>
    (ws.filter fun v => v.region == w.region).length == 1 && r.clr == w.clr && (w.coh == (r.kind == some .coherent))
      && (r.kind != some .published || ((w.tier == .t0 || w.tier == .t1) && decide (w.bytes ≤ r.stride)))
      && (r.kind != some .coherent || m.domains.any fun d => d.domain == r.domain && d.clr == r.clr)

def domainOk (m : Canopy) (d : Domain) : Bool :=
  decide (d.clr ≤ 127) && zeros d.raw 2 6 && decide (1 ≤ d.members.length) && decide (d.members.length ≤ 64) && d.members.all fun lp => lportOf m d.clr lp [1]

def regionsOk (m : Canopy) : Bool :=
  let ws := m.windows.filter Window.valid
  let slots := (ws.map (slotRanges m)).flatten
  m.regions.all regionForm && noDup (m.regions.map Region.region) && ws.all (regionWindow m ws)
    && (m.regions.all fun r => r.kind != some .coherent || m.domains.any fun d => d.domain == r.domain && d.clr == r.clr)
    && (slots.all fun q => ws.all fun w => w.pnode != q.1 || apart q.2.1 q.2.2 w.pbase w.bytes)
    && pairwise (fun a b => a.1 != b.1 || apart a.2.1 a.2.2 b.2.1 b.2.2) slots
    && m.domains.all (domainOk m) && noDup (m.domains.map Domain.domain) && decide (m.domains.length ≤ 256)

/-- R235: no route leads to a die where the clearing holds no slice. -/
def routesOk (m : Canopy) : Bool :=
  m.routes.all fun r => decide (r.clr ≤ 127) && zeros r.raw 1 1 && zeros r.raw 6 2 && decide (r.lport < 512) && (clrDies m r.clr).contains (lpDie r.lport)

/-- Logical ports that a physical port counts for in R241: under the MODE in force or that of CFG, whichever gives more. -/
def countPorts (s : State) (p : Nat) : Nat := max (modeSubs (s.modeOf (4 * p))).length (cfgLports s p).length

/-- R241 for a clearing on a die of a map. -/
def reservesOk (s : State) (m : Canopy) (g c : Nat) : Bool :=
  let sl := m.slices.filter fun x => x.clr == c && x.copse / 16 == g
  let lps := (((sl.map slicePorts).flatten).map (countPorts s)).sum
  let shares := ((sl.map fun x => ((List.range 32).filter fun k => natBit x.shares k).length)).sum
  decide (2 * ((List.range 5).map (vcCredit s g c)).sum * lps
    + max 1 (s.fget FW_CLR_BUF.MESH_POOL [g, c]) * ((clrDies m c).filter fun d => d != g).length + 5 * s.fget FW_CLR_BUF.VC_RESV [g, c] ≤ 16384 * shares)

def buffersOk (s : State) (m : Canopy) : Bool := (List.range 128).all fun c => (clrDies m c).all fun g => reservesOk s m g c

/-- R252. -/
def groupsOk (m : Canopy) : Bool :=
  noDup (m.groups.map McGroup.mcg) && decide (m.groups.length ≤ 4095) && m.groups.all fun g =>
    decide (1 ≤ g.mcg) && decide (g.mcg ≤ 4095) && decide (g.clr ≤ 127) && zeros g.raw 3 5 && g.members.all fun lp => m.ports.any fun p => p.lport == lp && p.clr == g.clr

/-- Mesh slots of a clearing (R286). -/
def slotSet (m : Canopy) (c : Nat) : List Nat :=
  (List.range 32).filter fun k => m.slices.any fun sl => sl.clr == c && decide (sl.slot0 ≤ k) && decide (k < sl.slot0 + sl.nslot)

def sealedClrs (m : Canopy) : List Nat := (m.clearings.filter fun r => r.mesh == 1).map ClrRec.clr

/-- R286. -/
def meshOk (m : Canopy) : Bool :=
  pairwise (fun a b => (slotSet m a).all fun k => !(slotSet m b).contains k) (sealedClrs m)
    && (sealedClrs m).all fun c => decide ((clrDies m c).length ≤ 1) || slotSet m c != []

/-- R406. -/
def expertsOk (m : Canopy) : Bool :=
  noDup (m.experts.map ExpertMap.map) && decide (m.experts.length ≤ 256) && m.experts.all fun e =>
    decide (1 ≤ e.map) && decide (e.clr ≤ 127) && zeros e.raw 3 1 && zeros e.raw 6 2 && decide (1 ≤ e.experts.length) && decide (e.experts.length ≤ 4096)
      && e.experts.all fun hs => hs.all fun h => h == 0 || ((Handle.ofNat h).type == 3 && (Handle.ofNat h).clr == e.clr)

/-- R438, rule 8. -/
def portsNamed (s : State) (m : Canopy) : Bool :=
  let inSlices := (m.slices.map fun sl => (slicePorts sl).map fun p => (sl.clr, p)).flatten
  (inSlices.all fun q => (cfgLports s q.2).all fun lp => (m.ports.filter fun r => r.lport == lp).length == 1 && (m.ports.any fun r => r.lport == lp && r.clr == q.1))
    && m.ports.all fun r => r.role == 0 || inSlices.any fun q => q.2 == r.lport / 4 && (cfgLports s q.2).contains r.lport

/-- R438, rules 1 to 4 and 6 to 9. -/
def slicesOk (s : State) (m : Canopy) : Bool :=
  (m.slices.all fun sl => (m.clearings.filter fun r => r.clr == sl.clr).length == 1) && (m.clearings.all fun r => holds m r.clr)
    && noDup ((m.slices.map sliceUnits).flatten)
    && (m.slices.all fun sl => sl.shares != 0 && sl.ports != 0 && decide (sl.slot0 + sl.nslot ≤ 32)
      && !s.boot.notStarted.contains (2 + sl.copse / 16) && s.fget AT_DIE_INFO.STATE [2 + sl.copse / 16] != 2)
    && (m.clearings.all fun r => !holds s.com.inForce r.clr || confOf s.com.inForce r.clr == r.conf)
    && portsNamed s m
    && (m.clearings.all fun r => decide (r.clr ≤ 127) && decide (r.conf ≤ 2) && decide (r.mesh ≤ 1) && zeros r.raw 3 5)
    && (m.slices.all fun sl => decide (sl.clr ≤ 127) && decide (sl.copse ≤ 127) && decide (sl.slot0 ≤ 31) && decide (sl.nslot ≤ 16) && zeros sl.raw 10 6)
    && (m.ports.all fun r => decide (r.lport ≤ 511) && decide (r.clr ≤ 127) && decide (r.role ≤ 5) && zeros r.raw 6 2)

/-- R438, rule 5: a unit that changes hands has an OK record newer than its last departure. -/
def scrubbed (s : State) (u : Nat) : Bool := s.clr.records.any fun r => r.unit == u && r.ok && decide (SMap.get 0 s.clr.leftAt u < r.recno)

def scrubsOk (s : State) (m : Canopy) : Bool :=
  m.slices.all fun sl => (sliceUnits sl).all fun u => unitClr s.com.inForce u == some sl.clr || scrubbed s u

/-- R474. -/
def endpointsOk (m : Canopy) : Bool :=
  decide (m.endpoints.length ≤ 16384) && pairwise (fun a b => a.clr != b.clr || a.index != b.index) m.endpoints
    && pairwise (fun a b => a.type != 4 || b.type != 4 || a.lport != b.lport) m.endpoints
    && m.endpoints.all fun e =>
      decide (e.index < 1024) && decide (e.clr ≤ 127) && (e.type == 2 || e.type == 3 || e.type == 4) && zeros e.raw 6 2
        && (if e.type = 3 then (e.lport != 0x1FF) != (e.ctx != 0) else e.lport != 0x1FF && e.ctx == 0)
        && (e.lport == 0x1FF || lportOf m e.clr e.lport [1, 2, 3]) && (e.ctx == 0 || (Handle.ofNat e.ctx).type == 1)

/-- REASON 0x0B: a clearing with a COHERENT region in force keeps its copses. -/
def copsesKept (s : State) (m : Canopy) : Bool :=
  let ks (m : Canopy) (c : Nat) : List Nat := (List.range 128).filter fun k => copseClr m k == some c
  s.com.inForce.regions.all fun r => r.kind != some .coherent || ks s.com.inForce r.clr == ks m r.clr

/-- The REASON of a map whose layout stands (Table 13.8): the lowest code among the rules that fail, 0 for none. -/
def mapReason (s : State) (m : Canopy) : Nat :=
  if !windowsOk (s.fget CM_SELF.NODE []) m then 1
  else if !regionsOk m then 2
  else if !routesOk m then 3
  else if !buffersOk s m then 4
  else if !groupsOk m then 5
  else if !meshOk m then 6
  else if !expertsOk m then 7
  else if !slicesOk s m then 8
  else if !scrubsOk s m then 9
  else if !endpointsOk m then 10
  else if !copsesKept s m then 11
  else 0

/-- The check of the shadow map (R493): its canopy, or the REASON that refuses it. -/
def checkShadow (s : State) : Except Nat Canopy :=
  match mapSections s.com.shadow with
  | none => .error 12
  | some ss =>
    let m := canopyOf ss
    if !quotasOk m then .error 12
    else match mapReason s m with
      | 0 => .ok m
      | r => .error r

end Sys2Proof.Machine
end

