-- ==== Sys2Proof/Machine/Float.lean ====
section
/-! DEFINITION. Arithmetic on numbers: IEEE 754 binary formats, BF16, the narrow formats of chapter 08 and conversion to them (R311-R330). A value is held exactly, as a sign,
a whole number and a power of two. -/

namespace Sys2Proof.Machine

/-- A value: a NaN, an infinity, or ±m × 2^e exactly. -/
inductive Num where
  | nan
  | inf (neg : Bool)
  | fin (neg : Bool) (m : Nat) (e : Int)
deriving DecidableEq, Repr

/-- m × 2^k for k ≥ 0. -/
def shiftUp (m : Nat) (k : Int) : Nat := m * 2 ^ k.toNat

def signedNat (neg : Bool) (m : Nat) : Int := if neg then -(m : Int) else m

/-- The exact product. -/
def Num.mul : Num → Num → Num
  | .nan, _ => .nan
  | _, .nan => .nan
  | .inf a, .inf b => .inf (a != b)
  | .inf a, .fin b m _ => if m = 0 then .nan else .inf (a != b)
  | .fin a m _, .inf b => if m = 0 then .nan else .inf (a != b)
  | .fin a m e, .fin b n f => .fin (a != b) (m * n) (e + f)

/-- The exact sum; a sum of 0 is +0 unless both terms are −0. -/
def Num.add : Num → Num → Num
  | .nan, _ => .nan
  | _, .nan => .nan
  | .inf a, .inf b => if a = b then .inf a else .nan
  | .inf a, .fin _ _ _ => .inf a
  | .fin _ _ _, .inf b => .inf b
  | .fin a m e, .fin b n f =>
    let g := min e f
    let v := signedNat a (shiftUp m (e - g)) + signedNat b (shiftUp n (f - g))
    if v = 0 then .fin (a && b && m == 0 && n == 0) 0 g else .fin (decide (v < 0)) v.natAbs g

def Num.neg : Num → Num
  | .nan => .nan
  | .inf a => .inf (!a)
  | .fin a m e => .fin (!a) m e

def Num.abs : Num → Num
  | .nan => .nan
  | .inf _ => .inf false
  | .fin _ m e => .fin false m e

def Num.isNan : Num → Bool
  | .nan => true
  | _ => false

def Num.isFin : Num → Bool
  | .fin _ _ _ => true
  | _ => false

def Num.isNeg : Num → Bool
  | .nan => false
  | .inf a => a
  | .fin a m _ => a && m != 0

/-- |a| ≤ |b| of finite values. -/
def magLe (m : Nat) (e : Int) (n : Nat) (f : Int) : Bool :=
  let g := min e f
  decide (shiftUp m (e - g) ≤ shiftUp n (f - g))

/-- The value n as a number. -/
def Num.ofInt (n : Int) : Num := .fin (decide (n < 0)) n.natAbs 0

/-- The whole number of bits that m takes. -/
def bitLen (m : Nat) : Nat := if m = 0 then 0 else Nat.log2 m + 1

/-- m × 2^k rounded to a whole number, ties to even. -/
def roundEven (m : Nat) (k : Int) : Nat :=
  if 0 ≤ k then shiftUp m k
  else
    let d := 2 ^ (-k).toNat
    let q := m / d
    let r := m % d
    if d < 2 * r ∨ (2 * r = d ∧ q % 2 = 1) then q + 1 else q

/-- An IEEE 754 binary format: precision, exponent of the least subnormal, magnitude code of infinity, place of the sign. -/
structure BinFmt where
  p : Nat
  qmin : Int
  infCode : Nat
  sign : Nat
deriving DecidableEq, Repr

def binary32 : BinFmt := { p := 24, qmin := -149, infCode := 0x7F800000, sign := 31 }
def binary64 : BinFmt := { p := 53, qmin := -1074, infCode := 0x7FF0000000000000, sign := 63 }
def bf16Fmt : BinFmt := { p := 8, qmin := -133, infCode := 0x7F80, sign := 15 }

/-- The value of a code. -/
def BinFmt.num (f : BinFmt) (b : Nat) : Num :=
  let s := natBit b f.sign
  let mag := b % 2 ^ f.sign
  if f.infCode < mag then .nan
  else if mag = f.infCode then .inf s
  else
    let ef := mag / 2 ^ (f.p - 1)
    let fr := mag % 2 ^ (f.p - 1)
    if ef = 0 then .fin s fr f.qmin else .fin s (fr + 2 ^ (f.p - 1)) (f.qmin + (ef : Int) - 1)

/-- The code of a value, rounded to nearest, ties to even; a NaN takes the code given. -/
def BinFmt.code (f : BinFmt) (nan : Nat) : Num → Nat
  | .nan => nan
  | .inf s => f.infCode + boolNat s * 2 ^ f.sign
  | .fin s m e =>
    let q := max (e + (bitLen m : Int) - (f.p : Int)) f.qmin
    let n := roundEven m (e - q)
    if m = 0 then boolNat s * 2 ^ f.sign else min f.infCode ((q - f.qmin).toNat * 2 ^ (f.p - 1) + n) + boolNat s * 2 ^ f.sign

/-- The default quiet NaN of binary32 (R318). -/
def qnan32 : Nat := 0x7FC00000

def f32num (b : F32) : Num := binary32.num b.toNat

def f32of (x : Num) : F32 := BitVec.ofNat 32 (binary32.code qnan32 x)

/-- FP32 operations of the vector path (R318). -/
def f32add (a b : F32) : F32 := f32of ((f32num a).add (f32num b))
def f32sub (a b : F32) : F32 := f32of ((f32num a).add (f32num b).neg)
def f32mul (a b : F32) : F32 := f32of ((f32num a).mul (f32num b))
def f32fma (a b c : F32) : F32 := f32of (((f32num a).mul (f32num b)).add (f32num c))

/-- Place of a number in the order of its codes: −0 lies below +0. -/
def f32key (a : F32) : Int := if natBit a.toNat 31 then -((a.toNat % 2 ^ 31 : Nat) : Int) - 1 else (a.toNat : Int)

def f32min (a b : F32) : F32 :=
  if (f32num a).isNan || (f32num b).isNan then BitVec.ofNat 32 qnan32 else if f32key a ≤ f32key b then a else b

def f32max (a b : F32) : F32 :=
  if (f32num a).isNan || (f32num b).isNan then BitVec.ofNat 32 qnan32 else if f32key a ≤ f32key b then b else a

def f32abs (a : F32) : F32 := if (f32num a).isNan then BitVec.ofNat 32 qnan32 else BitVec.ofNat 32 (a.toNat % 2 ^ 31)

/-- Comparison of numbers by value, −0 equal to +0; false where a NaN takes part. -/
def f32lt (a b : F32) : Bool :=
  !(f32num a).isNan && !(f32num b).isNan && decide (f32key a < f32key b) && !(a.toNat % 2 ^ 31 == 0 && b.toNat % 2 ^ 31 == 0)

def f32eq (a b : F32) : Bool := !(f32num a).isNan && !(f32num b).isNan && (a == b || (a.toNat % 2 ^ 31 == 0 && b.toNat % 2 ^ 31 == 0))

/-- The larger of two magnitudes, for amax: neither is a NaN. -/
def f32maxMag (a b : F32) : F32 := if a.toNat % 2 ^ 31 ≤ b.toNat % 2 ^ 31 then BitVec.ofNat 32 (b.toNat % 2 ^ 31) else BitVec.ofNat 32 (a.toNat % 2 ^ 31)

/-! Sums of the atomics (R167): a NaN result takes the default quiet NaN. -/

def qnan64 : Nat := 0x7FF8000000000000

def f64Add (a b : Nat) : Nat := binary64.code qnan64 ((binary64.num (a % 2 ^ 64)).add (binary64.num (b % 2 ^ 64)))
def f32Add (a b : Nat) : Nat := binary32.code qnan32 ((binary32.num (a % 2 ^ 32)).add (binary32.num (b % 2 ^ 32)))

/-! BF16 (R325). -/

def bf16num (b : Nat) : Num := bf16Fmt.num (b % 2 ^ 16)

/-- An FP32 value rounded to BF16, ties to even; a NaN gives 0x7FC0 (R330, R337). -/
def bf16rne (x : Num) : Nat := bf16Fmt.code 0x7FC0 x

/-- BF16 widened to FP32, exactly. -/
def widen (b : Nat) : F32 := BitVec.ofNat 32 (b % 2 ^ 16 * 2 ^ 16)

/-! Narrow formats (R319-R324). -/

/-- Element formats. MXFP4+E has the elements of MXFP4 and outlier records beside them (R322). -/
inductive NFmt where
  | fp4 | fp4e | e2m3 | e3m2 | e4m3 | e5m2 | int8 | bf16 | t2 | l3
deriving DecidableEq, Repr

/-- Element width in bits. -/
def NFmt.width : NFmt → Nat
  | .fp4 | .fp4e => 4
  | .e2m3 | .e3m2 => 6
  | .e4m3 | .e5m2 | .int8 => 8
  | .bf16 => 16
  | .t2 => 2
  | .l3 => 3

/-- Elements of a row of a panel (Table 08.6). -/
def NFmt.k : NFmt → Nat
  | .fp4 | .fp4e | .l3 => 64
  | .t2 => 128
  | .bf16 => 16
  | _ => 32

/-- Elements that one scale covers (R311). -/
def NFmt.group : NFmt → Nat
  | .t2 => 64
  | .bf16 => 16
  | _ => 32

/-- Is the scale an E4M3 value (T2, L3)? -/
def NFmt.scaled4 : NFmt → Bool
  | .t2 | .l3 => true
  | _ => false

/-- Magnitude of a code of a format with exponent bias and m mantissa bits, in units of 2^-16. -/
def magFp (bias m c : Nat) : Nat := if c / 2 ^ m = 0 then c % 2 ^ m * 2 ^ (17 - bias - m) else (2 ^ m + c % 2 ^ m) * 2 ^ (16 + c / 2 ^ m - bias - m)

/-- Magnitude of a magnitude code, in units of 2^-16. -/
def NFmt.mag : NFmt → Nat → Nat
  | .fp4, c | .fp4e, c => magFp 1 1 c
  | .e2m3, c => magFp 1 3 c
  | .e3m2, c => magFp 3 2 c
  | .e4m3, c => magFp 7 3 c
  | .e5m2, c => magFp 15 2 c
  | .int8, c => c * 2 ^ 10
  | .bf16, _ => 0
  | .t2, c => c * 2 ^ 16
  | .l3, c => if c = 0 then 0 else 2 ^ (13 + c)

/-- The magnitude code of max_e. -/
def NFmt.maxCode : NFmt → Nat
  | .fp4 | .fp4e => 7
  | .e2m3 | .e3m2 => 31
  | .e4m3 => 126
  | .e5m2 => 123
  | .int8 => 127
  | .bf16 => 0x7F7F
  | .t2 => 1
  | .l3 => 3

/-- emax of R326. -/
def NFmt.emax : NFmt → Nat
  | .fp4 | .fp4e | .e2m3 => 2
  | .e3m2 => 4
  | .e4m3 => 8
  | .e5m2 => 15
  | _ => 0

/-- The code of a sign and a magnitude code; −0 is never emitted. -/
def NFmt.signed (f : NFmt) (neg : Bool) (c : Nat) : Nat :=
  if neg && c != 0 then
    match f with
    | .int8 => 256 - c
    | .t2 => 3
    | f => c + 2 ^ (f.width - 1)
  else c

/-- The value of an element code (R320-R325). -/
def NFmt.num (f : NFmt) (code : Nat) : Num :=
  let c := code % 2 ^ f.width
  match f with
  | .bf16 => bf16num c
  | .int8 => .fin (decide (128 ≤ c)) (if 128 ≤ c then 256 - c else c) (-6)
  | .t2 => .fin (c == 3) (if c = 1 ∨ c = 3 then 1 else 0) 0
  | f =>
    let h := 2 ^ (f.width - 1)
    let m := c % h
    let s : Bool := decide (h ≤ c)
    if f = .e4m3 ∧ m = 127 then .nan
    else if f = .e5m2 ∧ m = 124 then .inf s
    else if f = .e5m2 ∧ 124 < m then .nan
    else .fin (s && m != 0) (f.mag m) (-16)

/-- The value of a scale byte (R319, R323): E8M0, or E4M3 for T2 and L3. -/
def NFmt.scaleNum (f : NFmt) (b : Nat) : Num :=
  if f.scaled4 then NFmt.e4m3.num b
  else if b = 255 then .nan else .fin false 1 ((b : Int) - 127)

/-- The scale byte that is a NaN (R330). -/
def NFmt.nanScale (f : NFmt) : Nat := if f.scaled4 then 0x7F else 0xFF

/-! Conversion to a narrow format (R326-R330). -/

/-- |x| / scale as a fraction in units of 2^-16. -/
def fraction (m : Nat) (e : Int) (sm : Nat) (se : Int) : Nat × Nat :=
  let k := e + 16 - se
  if 0 ≤ k then (shiftUp m k, sm) else (m, shiftUp sm (-k))

/-- RMODE of Table 08.9. -/
def roundUp (rmode rbyte num den a b : Nat) (odd : Bool) : Bool :=
  match rmode with
  | 1 => false
  | 2 => decide (rbyte < 256 * (num - a * den) / ((b - a) * den))
  | _ => decide ((a + b) * den < 2 * num) || (decide (2 * num = (a + b) * den) && odd)

/-- A finite nonzero value over a scale of sm × 2^se: the magnitude code, and whether it clamped (R327, R329). -/
def narrowMag (f : NFmt) (rmode rbyte m : Nat) (e : Int) (sm : Nat) (se : Int) : Nat × Bool :=
  let (num, den) := fraction m e sm se
  if f.mag f.maxCode * den < num ∨ sm = 0 then (f.maxCode, true)
  else
    let c := (List.range (f.maxCode + 1)).foldl (fun a k => if f.mag k * den ≤ num then k else a) 0
    if f.mag c * den = num then (c, false)
    else (if roundUp rmode rbyte num den (f.mag c) (f.mag (c + 1)) (c % 2 == 1) then c + 1 else c, false)

/-- A finite value to BF16: code without its sign, and whether it clamped. -/
def narrowBf16 (rmode rbyte m : Nat) (e : Int) : Nat × Bool :=
  let q := max (e + (bitLen m : Int) - 8) (-133)
  let base := (q + 133).toNat * 2 ^ 7
  let (num, den) := if q ≤ e then (shiftUp m (e - q), 1) else (m, shiftUp 1 (q - e))
  let n := num / den
  let up := n * den != num && roundUp rmode rbyte num den n (n + 1) (n % 2 == 1)
  if 0x7F7F < base + n ∨ (base + n = 0x7F7F ∧ n * den ≠ num) then (0x7F7F, true) else (base + n + boolNat up, false)

/-- One element: its code and whether it clamped. A NaN gives the NaN code; elsewhere the block's scale is NaN and the element is 0. -/
def narrowElem (f : NFmt) (rmode rbyte : Nat) (x : Num) (sm : Nat) (se : Int) : Nat × Bool :=
  match x with
  | .nan => (match f with
      | .e4m3 | .e5m2 => 0x7F
      | .bf16 => 0x7FC0
      | _ => 0, false)
  | .inf s => (match f with
      | .e5m2 => (0x7C + boolNat s * 0x80, false)
      | .bf16 => (0x7F80 + boolNat s * 0x8000, false)
      | f => (f.signed s f.maxCode, true))
  | .fin s m e =>
    if m = 0 then (0, false)
    else if f = .bf16 then
      let r := narrowBf16 rmode rbyte m e
      (f.signed s r.1, r.2)
    else
      let r := narrowMag f rmode rbyte m e sm se
      (f.signed s r.1, r.2)

/-- amax of finite inputs (R326). -/
def amaxOf (xs : List F32) : F32 := xs.foldl (fun a x => if (f32num x).isFin then f32maxMag a x else a) 0

/-- floor(log2) of a finite nonzero value. -/
def floorLog2 (m : Nat) (e : Int) : Int := e + (bitLen m : Int) - 1

/-- ⌈log2(amax / max_e)⌉ of R326. -/
def fitExp (f : NFmt) (m : Nat) (e : Int) : Int :=
  let mx := f.mag f.maxCode
  let k := floorLog2 m e - floorLog2 mx (-16)
  if magLe m e mx (k - 16) then k else k + 1

/-- The E4M3 code of amax rounded up, at most 448. -/
def fitE4m3 (m : Nat) (e : Int) : Nat :=
  ((List.range 127).find? fun c => magLe m e (NFmt.e4m3.mag c) (-16)).getD 126

def clampExp (e : Int) : Nat := (max (-127) (min 127 e) + 127).toNat

/-- The scale byte of a block from its amax, FIT or OCP (R326). -/
def scaleByte (f : NFmt) (fit : Bool) (amax : F32) : Nat :=
  match f32num amax with
  | .fin _ m e =>
    if m = 0 then 0
    else if f.scaled4 then fitE4m3 m e
    else clampExp (if fit then fitExp f m e else floorLog2 m e - (f.emax : Int))
  | _ => 0

/-- The generator of RSR (R328). -/
def nextState (x : Nat) : Nat :=
  let x := (x ^^^ (x * 2 ^ 13)) % 2 ^ 64
  let x := x ^^^ (x / 2 ^ 7)
  (x ^^^ (x * 2 ^ 17)) % 2 ^ 64

def goldenGamma : Nat := 0x9E3779B97F4A7C15

def startState (seed rank : Nat) : Nat :=
  let x := (seed ^^^ (rank * goldenGamma % 2 ^ 64)) % 2 ^ 64
  if x = 0 then goldenGamma else x

/-- The state of a strand's generator: SRSTATE and SRBYTE. When the eighth byte has been taken, SRBYTE stands at 0 with `next_state` applied. -/
structure Rng where
  state : Nat
  byte : Nat
deriving DecidableEq, Repr

def Rng.take (r : Rng) : Nat × Rng :=
  (r.state / 2 ^ (8 * r.byte) % 256, if r.byte = 7 then { state := nextState r.state, byte := 0 } else { r with byte := r.byte + 1 })

/-- The elements of a block over one scale. -/
def narrowElems (f : NFmt) (rmode sm : Nat) (se : Int) : List F32 → Rng → List (Nat × Bool) × Rng
  | [], r => ([], r)
  | x :: xs, r =>
    let (b, r') := if rmode = 2 then r.take else (0, r)
    let (ys, r'') := narrowElems f rmode sm se xs r'
    (narrowElem f rmode b (f32num x) sm se :: ys, r'')

/-- A block converted. -/
structure NBlock where
  scale : Nat
  codes : List Nat
  clamped : Nat
deriving DecidableEq, Repr

/-- A block under the scale byte given; a NaN input of a format without a NaN code makes the scale NaN (R330). -/
def convertScaled (f : NFmt) (rmode scale : Nat) (xs : List F32) (r : Rng) : NBlock × Rng :=
  let (sm, se) := match f.scaleNum scale with
    | .fin _ m e => (m, e)
    | _ => (0, 0)
  let (ys, r) := narrowElems f rmode sm se xs r
  let bad := xs.any (fun x => (f32num x).isNan) && (match f with
    | .e4m3 | .e5m2 | .bf16 => false
    | _ => true)
  ({ scale := if bad then f.nanScale else scale, codes := ys.map Prod.fst, clamped := (ys.filter Prod.snd).length }, r)

/-- A block under SMODE; `delayed` is amax_d where the conversion names a stream with a history (R326, R331). -/
def convertBlock (f : NFmt) (smode rmode : Nat) (delayed : Option F32) (xs : List F32) (r : Rng) : NBlock × Rng :=
  let scale := match smode, delayed with
    | 2, some a => scaleByte f true a
    | 2, none => scaleByte f true (amaxOf xs)
    | 1, _ => scaleByte f true (amaxOf xs)
    | _, _ => scaleByte f false (amaxOf xs)
  convertScaled f rmode scale xs r

/-- The values of a block's elements. -/
def NBlock.nums (b : NBlock) (f : NFmt) : List Num := b.codes.map fun c => if f = .bf16 then f.num c else (f.num c).mul (f.scaleNum b.scale)

/-- Element codes of width w as a little-endian bit string (R315). -/
def packBits (w : Nat) (codes : List Nat) : List Byte :=
  toBytesLE ((codes.length * w + 7) / 8) (codes.foldr (fun c a => c % 2 ^ w + a * 2 ^ w) 0)

/-- n element codes of width w from bytes. -/
def unpackBits (w n : Nat) (bs : List Byte) : List Nat := (List.range n).map fun i => ofBytesLE bs / 2 ^ (w * i) % 2 ^ w

/-! The tile engine's add. -/

/-- The code of a NaN that the tile engine gives: IEEE 754 leaves its payload open. -/
def nan32 (a b : Nat) : Nat := 0x7FC00000 + Config.nanPayload a b % 2 ^ 22

/-- One fused add into an accumulator element: the new code, and whether it overflowed from finite terms (R312, R317). -/
def fusedAdd (acc : F32) (x : Num) : F32 × Bool :=
  let y := (f32num acc).add x
  let c := binary32.code (nan32 acc.toNat 0) y
  (BitVec.ofNat 32 c, (f32num acc).isFin && x.isFin && c % 2 ^ 31 == binary32.infCode)

end Sys2Proof.Machine
end

