-- ==== Sys2Proof/Machine/FabOps.lean ====
section
/-! DEFINITION. Requests (chapter 04): their checks, tiers, home order, tags, responses, staging copies and unit writes. -/

namespace Sys2Proof.Machine

/-! Outstanding requests. -/

def State.txn? (s : State) (i : Nat) : Option Txn := SMap.get? s.fab.txns i

def State.putTxn (s : State) (x : Txn) : State := { s with fab.txns := SMap.put s.fab.txns x.id x }

def State.delTxn (s : State) (i : Nat) : State := { s with fab.txns := SMap.erase s.fab.txns i }

/-- The time limit of a tier in ns (CM.TXN.TIMEOUT). -/
def tierLimit (s : State) (t : Tier) : Nat :=
  let f := match t with
    | .t0 => CM_TXN_TIMEOUT.T0
    | .t1 => CM_TXN_TIMEOUT.T1
    | .t2 => CM_TXN_TIMEOUT.T2
    | .agent => CM_TXN_TIMEOUT.AGENT
  max 1 (s.fget f []) * 10000

/-- A request of the kind, on its way. -/
def newTxn (r : Req) (k : TxnKind) (w : Window) (pnode off die : Nat) (s : State) : Txn :=
  { id := s.fab.nextTxn, src := r.src, kind := k, phase := .home, clr := w.clr, epoch := r.epoch, node := pnode, off := off, lnode := r.node, loff := r.line * 64,
    tier := w.tier, region := w.region, die := if die < 8 then die else (clrDies s.com.inForce w.clr).headD 0, lport := none, tag := 0, issued := s.now, got := [], staged := true, bad := [], pos := 0, last := false,
    parts := 0, counted := false }

def State.addTxn (s : State) (x : Txn) : State := { s with fab.txns := SMap.put s.fab.txns x.id x, fab.nextTxn := x.id + 1 }

/-! Answers. -/

/-- Is a logical port usable, or in a retrain under R130 that keeps its work? -/
def portHolds (s : State) (lp : Nat) : Bool := s.lpActive lp || (s.lport lp).kept.isSome

/-- One response cell (Table 04.9a). -/
def respond (die lp clr epoch tag : Nat) (st : Status) (seg : Nat) (last staged : Bool) (data : List Byte) (s : State) : State :=
  if portHolds s lp then
    sendCell die 2 0 lp clr vcRsp (mkHdr (lpClr s lp) epoch 0 vcRsp false ((data.length + 15) / 16) (rspTxn tag st.code seg last staged)) none (slotsOf data) none s
  else s.fadd FW_CLR_CNT_DROP.PORT_DOWN [lpDie lp, clr] 1

/-- The segments of an answer, 256 bytes each. -/
def respondSegs (die lp clr epoch tag seg : Nat) (staged : Bool) : Nat → List Byte → State → State
  | 0, _, s => s
  | n + 1, bs, s =>
    respondSegs die lp clr epoch tag (seg + 1) staged n (bs.drop 256) (respond die lp clr epoch tag .ok seg (n == 0) staged (bs.take 256) s)

/-- A request ends: a partner is answered on its port, any other issuer takes the end when the command is done (R168, R169). -/
def endReq (src : ReqSrc) (clr epoch die : Nat) (st : Status) (data : List Byte) (staged : Bool) (s : State) : State :=
  match src with
  | .port lp tag =>
    if st = .ok ∧ data ≠ [] then respondSegs die lp clr epoch tag 0 staged ((data.length + 255) / 256) data s
    else respond die lp clr epoch tag st 0 true false [] s
  | _ => { s with fab.ended := s.fab.ended ++ [{ src := src, status := st, data := if st = .ok then data else [] }] }

/-- An outstanding request ends and is forgotten. -/
def endTxn (x : Txn) (st : Status) (data : List Byte) (s : State) : State :=
  let s := s.delTxn x.id
  if x.ended then s else endReq x.src x.clr x.epoch x.die st data (x.staged && st == .ok && x.tier == .t2) s

/-- The status TIMEOUT of R172, counted. -/
def timeoutTxn (x : Txn) (s : State) : State := endTxn x .timeout [] (if x.ended then s else s.fadd CM_CLR_TXN_ERR.TIMEOUT [x.clr] 1)

/-! Home order. -/

/-- Bytes that a request touches from its offset on. -/
def kindLen : TxnKind → Nat
  | .blkRd n => n * 256
  | .blkWr d => d.length * 16
  | .pageRd => 4096
  | .unitWr _ => 65536
  | _ => 64

def kindReads : TxnKind → Bool
  | .load | .blkRd _ | .pageRd | .gather _ _ => true
  | _ => false

/-- The kinds that the home orders by line. -/
def kindOrdered : TxnKind → Bool
  | .load | .store _ | .atomic _ _ _ _ | .blkRd _ | .blkWr _ | .pageRd => true
  | _ => false

/-- Two requests to one line conflict unless both only read (R172, R197; log 10). -/
def conflicts (a b : Txn) : Bool :=
  kindOrdered a.kind && kindOrdered b.kind && a.node == b.node && decide (a.off < b.off + kindLen b.kind) && decide (b.off < a.off + kindLen a.kind)
    && !(kindReads a.kind && kindReads b.kind)

/-- Does a request hold its place at the home: waiting, sent, or timed out by its port and not yet released? -/
def holdsPlace (x : Txn) : Bool :=
  match x.phase with
  | .home | .tagWait _ | .sent | .timedOut => true
  | _ => false

/-- Requests of a clearing that count in T1_INFLIGHT. -/
def t1Count (s : State) (c : Nat) : Nat := (s.fab.txns.filter fun e => e.2.counted && e.2.clr == c).length

def t1Limit (s : State) (c : Nat) : Nat := max 1 (quotaOf s.com.inForce c).t1Inflight

/-! Tags. -/

def tagUsed (s : State) (lp tag : Nat) : Bool :=
  s.fab.txns.any (fun e => e.2.lport == some lp && e.2.tag == tag) || s.fab.deadTags.any (fun d => d.1 == lp && d.2.1 == tag)

/-- The lowest free tag of a logical port, of 8,192 (R171). -/
def freeTag (s : State) (lp : Nat) : Option Nat :=
  (List.range (s.fab.txns.length + s.fab.deadTags.length + 1)).find? fun t => decide (t < 8192) && !tagUsed s lp t

/-! Sending. -/

/-- EPOCH of a request that leaves: the CW9's own on a trunk (R492), else the request's. -/
def sendEpoch (s : State) (lp e : Nat) : Nat := if portRole s.com.inForce lp = .trunk then s.epoch else e

def sendReq (x : Txn) (lp vc : Nat) (op : Option (Nat × Nat)) (data : List (BitVec 128)) (s : State) : State :=
  sendCell x.die 2 0 lp x.clr vc (mkHdr (lpClr s lp) (sendEpoch s lp x.epoch) 0 vc op.isSome data.length (reqTxn x.node (x.off / 64) x.tag))
    (op.map fun o => mkHdr2 o.1 o.2) data (some x.id) s

def sendUnitSegs (x : Txn) (lp : Nat) : List (Nat × List (BitVec 128)) → State → State
  | [], s => s
  | (i, d) :: r, s => sendUnitSegs x lp r (sendReq { x with off := x.off + 256 * i } lp vcBulk (some (6, i * 2 ^ 114)) d s)

def sendMsgSegs (x : Txn) (lp target mtag mlen : Nat) (die : Nat) : Nat → List Byte → Nat → State → State
  | 0, _, _, s => s
  | n + 1, bs, i, s =>
    let seg := slotsOf (bs.take 256)
    let h1 := mkHdr (lpClr s lp) (sendEpoch s lp x.epoch) 0 vcBulk true seg.length (reqTxn x.node 0 x.tag)
    let h2 := mkHdr2 0x20 (target * 2 ^ 58 + i * 2 ^ 50 + mtag * 2 ^ 34 + mlen * 2 ^ 22)
    sendMsgSegs x lp target mtag mlen die n (bs.drop 256) (i + 1) (sendCell die 2 0 lp x.clr vcBulk h1 (some h2) seg (some x.id) s)

/-- The transaction of a request on its egress port (R164, R182). -/
def emitTxn (x : Txn) (lp : Nat) (s : State) : State :=
  match x.kind with
  | .load => sendReq x lp vcReq none [] s
  | .store d => sendReq x lp vcReq none (slotsOf (lineBytes d)) s
  | .atomic aop word opd cmp =>
    if x.tier = .agent then
      sendReq x lp vcReq (some (5, aop * 2 ^ 118 + word * 2 ^ 115)) (slotsOf (toBytesLE 8 opd ++ toBytesLE 8 cmp)) s
    else if x.parts = 0 then sendReq x lp vcReq none [] s
    else sendReq x lp vcReq none (slotsOf ((x.got.map Prod.snd).flatten.take 64)) s
  | .blkRd n => sendReq x lp vcReq (some (1, (n - 1) * 2 ^ 114)) [] s
  | .blkWr d => sendReq x lp vcBulk none d s
  | .pageRd => sendReq x lp vcReq (some (2, 0)) [] s
  | .unitWr u =>
    match s.fab.units.find? fun a => a.clr == x.clr && a.node == x.node && a.unit == u && a.sent == some x.id with
    | some a => sendUnitSegs x lp a.segs s
    | none => s
  | .msg target mtag mlen =>
    let bs := (x.got.map Prod.snd).flatten
    sendMsgSegs x lp target mtag mlen x.die ((bs.length + 255) / 256) bs 0 s
  | .epochNote => sendReq x lp vcReq (some (0x23, 0)) [] s
  | _ => s

/-- Is a logical port quarantined as a spare (R500)? -/
def quarantined (s : State) (lp : Nat) : Bool :=
  (List.range 8).any fun k => s.fget CM_SPARE.SPORT [k] == lp && (let p := s.fget CM_SPARE.PHASE [k]; p != 0 && p != 5)

/-- A request to a quarantined spare is refused, but for BLK_WR from the partner port during LOAD (R500). -/
def spareRefuses (s : State) (src : ReqSrc) (k : TxnKind) (lp : Nat) : Bool :=
  quarantined s lp && !((List.range 8).any fun i => s.fget CM_SPARE.SPORT [i] == lp && s.fget CM_SPARE.PHASE [i] == 2
    && (match src, k with
      | .port p _, .blkWr _ => p == s.fget CM_SPARE.PPORT [i]
      | _, _ => false))

/-- Send a request on its logical port: TIMEOUT if the port is not there for it (R172); it waits while no tag is free (R171). -/
def launch (x : Txn) (lp : Nat) (s : State) : State :=
  if portHolds s lp then
    match freeTag s lp with
    | some tag =>
      let x := { x with phase := .sent, lport := some lp, tag := tag }
      emitTxn x lp (s.putTxn x)
    | none => s.putTxn { x with phase := .tagWait lp }
  else timeoutTxn x s

/-- A request goes its way: routed (R172), counted (R178), in home order (R197). -/
def routeTxn (x : Txn) (s : State) : State :=
  match routeOf ((s.mapAt x.epoch).getD s.com.inForce) x.clr x.node with
  | none => endTxn x .denied [] s
  | some lp =>
    if spareRefuses s x.src x.kind lp then endTxn x .denied [] s
    else if x.tier = .t1 ∧ !x.counted ∧ t1Limit s x.clr ≤ t1Count s x.clr then s.putTxn { x with phase := .inflight }
    else
      let x := { x with counted := x.tier == .t1 }
      if s.fab.txns.any fun e => decide (e.1 < x.id) && holdsPlace e.2 && conflicts e.2 x then s.putTxn { x with phase := .home }
      else launch x lp s

/-- A request is taken up: given a number and sent its way. -/
def startTxn (x : Txn) (s : State) : State := routeTxn x (s.addTxn x)

/-- Requests that wait at their home try again, oldest first. -/
def pumpHome : List Nat → State → State
  | [], s => s
  | i :: r, s =>
    match s.txn? i with
    | some x => (match x.phase with
      | .home => pumpHome r (if kindOrdered x.kind then routeTxn x s else s)
      | .tagWait lp => pumpHome r (launch x lp s)
      | _ => pumpHome r s)
    | none => pumpHome r s

/-! T0 (R155, R174). -/

/-- Is a codeword of an array stored in error, uncorrectably (R508, R515)? The code itself stands in Ecc.lean; here an entry of the list of words in error is asked. -/
def wordsBad (s : State) (die array inst lo hi : Nat) : Bool :=
  s.ecc.raw.any fun w => w.die == die && w.array == array && w.inst == inst && decide (lo ≤ w.word) && decide (w.word < hi) && w.bad

/-- Do the bytes of a channel read uncorrectable or poisoned? -/
def t0Bad (s : State) (off n : Nat) : Bool :=
  let ch := off / 2 ^ 31
  let b := off % 2 ^ 31
  wordsBad s (26 + ch / 32) 0b1011 (ch % 32) (b / 32) ((b + n + 31) / 32)

/-- A whole-codeword write takes the words of its range out of the list of words in error (R509, R521). -/
def clearWords (die array inst lo hi : Nat) (s : State) : State :=
  let (gone, kept) := s.ecc.raw.partition fun w => w.die == die && w.array == array && w.inst == inst && decide (lo ≤ w.word) && decide (w.word < hi)
  if gone = [] then s
  else { s with ecc.raw := kept }.fset EC_DIAG_CTRL.MARKS [] (kept.filter RawWord.marked).length

def t0Write (off : Nat) (bs : List Byte) (s : State) : State :=
  let ch := off / 2 ^ 31
  let b := off % 2 ^ 31
  clearWords (26 + ch / 32) 0b1011 (ch % 32) (b / 32) ((b + bs.length + 31) / 32) { s with fab.t0 := writeBytes s.fab.t0 off bs }

/-- The new word of an ATOMIC (Table 04.8), none for a reserved AOP. -/
def atomicOp (aop old opd cmp : Nat) : Option Nat :=
  match aop with
  | 0 => some ((old + opd) % 2 ^ 64)
  | 1 => some (f64Add old opd)
  | 2 => some (f32Add (old % 2 ^ 32) (opd % 2 ^ 32) + f32Add (old / 2 ^ 32) (opd / 2 ^ 32) * 2 ^ 32)
  | 3 => some (if signExt 64 old ≤ signExt 64 opd then old else opd)
  | 4 => some (min old opd)
  | 5 => some (if signExt 64 old ≤ signExt 64 opd then opd else old)
  | 6 => some (max old opd)
  | 7 => some (if old = cmp then opd else old)
  | _ => none

/-- A line after an ATOMIC on one word. -/
def atomicLine (aop word opd cmp : Nat) (line : List Byte) : List Byte :=
  let old := ofBytesLE ((line.drop (8 * word)).take 8)
  line.take (8 * word) ++ toBytesLE 8 ((atomicOp aop old opd cmp).getD old) ++ line.drop (8 * word + 8)

/-- The data slot of an ATOMIC's answer: the old word, then zeros. -/
def atomicAnswer (word : Nat) (line : List Byte) : List Byte := (line.drop (8 * word)).take 8 ++ List.replicate 8 0

/-- Do bytes lie in the low 1 GiB of a channel (R155)? -/
def t0Open (off n : Nat) : Bool := decide (off < 2 ^ 38) && decide (off % 2 ^ 31 + n ≤ 2 ^ 30)

/-- A request on T0: served at once. -/
def serveT0 (r : Req) (k : TxnKind) (off die : Nat) (s : State) : State :=
  let fin (st : Status) (d : List Byte) (s : State) : State := endReq r.src r.clr r.epoch die st d false s
  if !t0Open off (kindLen k) then fin .denied [] s
  else match k with
  | .load => if t0Bad s off 64 then fin .poison [] s else fin .ok (readBytes s.fab.t0 off 64) s
  | .store d => fin .ok [] (t0Write off (lineBytes d) s)
  | .atomic aop word opd cmp =>
    if t0Bad s off 64 then fin .poison [] s
    else
      let l := readBytes s.fab.t0 off 64
      fin .ok (atomicAnswer word l) (t0Write off (atomicLine aop word opd cmp l) s)
  | .blkRd n => if t0Bad s off (n * 256) then fin .poison [] s else fin .ok (readBytes s.fab.t0 off (n * 256)) s
  | .blkWr d => fin .ok [] (t0Write off (slotsBytes d) s)
  | .pageRd => if t0Bad s off 4096 then fin .poison [] s else fin .ok (readBytes s.fab.t0 off 4096) s
  | _ => fin .ok [] s

/-! T2: staging copies and pages (R179-R181). -/

/-- Retention priority of a page: the newest HINT range that covers it, or 1. -/
def pagePrio (s : State) (c node page : Nat) : Nat :=
  ((s.fab.hints.find? fun h => h.clr == c && h.node == node && decide (h.page ≤ page) && decide (page < h.page + h.count)).map HintRange.prio).getD 1

/-- Pages of a clearing's channels that no T0 window maps. -/
def unmappedPages (m : Canopy) (c : Nat) : Nat :=
  (m.slices.filter fun sl => sl.clr == c).length * 262144 - (((clrWindows m c).filter fun w => w.tier == .t0).map Window.len).sum

def stagePool (s : State) (c : Nat) : Nat := min (quotaOf s.com.inForce c).t0Stage (unmappedPages s.com.inForce c)

def sameCopy (c node page : Nat) (y : StageCopy) : Bool := y.clr == c && y.node == node && y.page == page

/-- The copy to replace: least recently used among those of the lowest priority, if that is not above p. -/
def stageVictim (s : State) (c p : Nat) : Option StageCopy :=
  ((s.fab.staging.filter fun y => y.clr == c && decide (y.prio ≤ p))).foldl
    (fun a y => match a with
      | none => some y
      | some v => if y.prio < v.prio ∨ (y.prio = v.prio ∧ y.usedAt < v.usedAt) then some y else some v) none

/-- Stage a page that the tray has returned (R180, step 4). -/
def stagePage (c node page : Nat) (bs : List Byte) (s : State) : State :=
  let p := pagePrio s c node page
  let here := (s.fab.staging.filter fun y => y.clr == c).length
  let y : StageCopy := { clr := c, node := node, page := page, prio := p, usedAt := s.fab.stageSeq, bytes := bs }
  let add (l : List StageCopy) : State := { s with fab.staging := y :: l.filter (fun z => !sameCopy c node page z), fab.stageSeq := s.fab.stageSeq + 1 }
  if p = 0 ∨ stagePool s c = 0 then s
  else if here < stagePool s c then add s.fab.staging
  else match stageVictim s c p with
    | some v => add (s.fab.staging.filter fun z => !sameCopy v.clr v.node v.page z)
    | none => s

/-- The bytes that a request needs, as (place in the answer, offset, length) in rising place: rows of a GATHER, else one run. -/
def pieces (x : Txn) : List (Nat × Nat × Nat) :=
  match x.kind with
  | .gather rowl idx => (List.range idx.length).map fun i => (i * (rowl + 1) * 64, x.off + idx.getD i 0 * ((rowl + 1) * 64), (rowl + 1) * 64)
  | k => [(0, x.off, kindLen k)]

/-- Pages that a run covers. -/
def runPages (off n : Nat) : List Nat := (List.range ((off + n - 1) / 4096 - off / 4096 + 1)).map fun i => off / 4096 + i

def txnPages (x : Txn) : List Nat := ((pieces x).map fun p => runPages p.2.1 p.2.2).flatten.eraseDups

/-- Bytes of a run out of pages held. -/
def cutRun (got : List (Nat × List Byte)) (off n : Nat) : List Byte :=
  let ps := runPages off n
  let bs := (ps.map fun p => ((got.find? fun g => g.1 == p).map Prod.snd).getD []).flatten
  (bs.drop (off % 4096)).take n

/-- Is the unit of a page in flight to its tray (R183)? -/
def unitInFlight (s : State) (c node unit : Nat) : Bool := s.fab.units.any fun a => a.clr == c && a.node == node && a.unit == unit && a.sent.isSome

/-- Has a page of a request been settled, by data or by a failure? -/
def pageSettled (x : Txn) (p : Nat) : Bool := x.got.any (fun g => g.1 == p) || x.bad.any (fun b => b.1 == p)

/-- The failure of the lowest-numbered failing row of a GATHER, or the first failure in time. -/
def partFailure (x : Txn) : Option Status :=
  match x.kind with
  | .gather _ _ =>
    ((pieces x).findSome? fun p => x.bad.find? fun b => (runPages p.2.1 p.2.2).contains b.1).map Prod.snd
  | _ => (x.bad.head?).map Prod.snd

/-- End a T2 read when nothing of it is outstanding: a read other than a GATHER ends at its first failure (R177, R180). -/
def finishPages (x : Txn) (s : State) : State :=
  let isGather := match x.kind with
    | .gather _ _ => true
    | _ => false
  if x.bad ≠ [] ∧ !isGather then endTxn x ((partFailure x).getD .poison) [] s
  else if (txnPages x).all (pageSettled x) then
    match partFailure x with
    | some st => endTxn x st [] s
    | none => endTxn x .ok (((pieces x).map fun p => cutRun x.got p.2.1 p.2.2).flatten) s
  else s.putTxn x

/-- A page read toward the tray: one 4 KiB BLK_RD (R180, step 2). -/
def startPageRead (x : Txn) (page : Nat) (s : State) : State :=
  if s.fab.txns.any fun e => e.2.src == .page x.clr x.node page && !e.2.ended then s
  else
    startTxn { x with id := s.fab.nextTxn, src := .page x.clr x.node page, kind := .blkRd 16, phase := .home, off := page * 4096, got := [], bad := [], staged := false,
                      issued := s.now, lport := none, parts := 0 }
      (s.fadd CM_CLR_T2_STAT.STAGE_MISS [x.clr] 1)

/-- Look for a request's pages: staging copies first, then the tray (R180, R183). -/
def fetchPages (id : Nat) : List Nat → State → State
  | [], s => s
  | p :: r, s =>
    match s.txn? id with
    | none => s
    | some x =>
      if pageSettled x p ∨ unitInFlight s x.clr x.node (p / 16) then fetchPages id r s
      else match s.fab.staging.find? (sameCopy x.clr x.node p) with
        | some y =>
          let s := { s with fab.staging := s.fab.staging.map (fun z => if sameCopy x.clr x.node p z then { z with usedAt := s.fab.stageSeq } else z),
                            fab.stageSeq := s.fab.stageSeq + 1 }
          fetchPages id r ((s.putTxn { x with got := x.got ++ [(p, y.bytes)] }).fadd CM_CLR_T2_STAT.STAGE_HIT [x.clr] 1)
        | none => fetchPages id r (startPageRead { x with staged := false } p (s.putTxn { x with staged := false }))

def finishIfHeld (id : Nat) (s : State) : State :=
  match s.txn? id with
  | some x => if x.phase = .staging then finishPages x s else s
  | none => s

/-- A T2 read. -/
def serveT2Read (x : Txn) (s : State) : State :=
  let x := { x with phase := .staging }
  finishIfHeld x.id (fetchPages x.id (txnPages x) (s.addTxn x))

/-- A page read has ended: every request that waits for the page takes it. -/
def servePage (clr node page : Nat) (st : Status) (bs : List Byte) : List Nat → State → State
  | [], s => s
  | i :: r, s =>
    match s.txn? i with
    | some x =>
      if x.phase = .staging ∧ x.clr = clr ∧ x.node = node ∧ (txnPages x).contains page ∧ !pageSettled x page then
        servePage clr node page st bs r
          (finishPages (if st = .ok then { x with got := x.got ++ [(page, bs)] } else { x with bad := x.bad ++ [(page, st)] }) s)
      else servePage clr node page st bs r s
    | none => servePage clr node page st bs r s

/-- A page read of a tray is complete: its waiters are served, and it is staged if its window still stands (R180, R181). -/
def pageEnded (clr node page : Nat) (st : Status) (bs : List Byte) (s : State) : State :=
  let mapped := (clrWindows s.com.inForce clr).any fun w =>
    w.tier == .t2 && w.pnode == node && decide (w.pbase ≤ page * 4096) && decide (page * 4096 < w.pbase + w.bytes)
  let s := if st = .ok ∧ mapped then stagePage clr node page bs s else s
  servePage clr node page st bs (s.fab.txns.map Prod.fst) s

/-- A HINT (R179): newest first, at most 64 ranges a clearing; copies change priority at once. -/
def hint (c node page count prio : Nat) (s : State) : State :=
  let h : HintRange := { clr := c, node := node, page := page, count := count, prio := prio }
  let own : List HintRange := (h :: s.fab.hints.filter (fun (x : HintRange) => x.clr == c)).take 64
  let s := { s with fab.hints := own ++ s.fab.hints.filter (fun (x : HintRange) => x.clr != c) }
  { s with fab.staging := (s.fab.staging.map fun y => { y with prio := if y.clr == c then pagePrio s c y.node y.page else y.prio }).filter fun y => y.prio != 0 }

/-! T2 writes (R182, R183, R185). -/

def sameUnit (c node unit : Nat) (a : UnitAsm) : Bool := a.clr == c && a.node == node && a.unit == unit

/-- Would a segment open a unit beyond the quota? -/
def unitQuota (s : State) (c node unit : Nat) : Bool :=
  let q := quotaOf s.com.inForce c
  !(s.fab.units.any fun a => sameUnit c node unit a && a.sent.isNone)
    && (q.t2Open == 0 || q.t2Rate == 0 || decide (min 64 q.t2Open ≤ (s.fab.units.filter fun a => a.clr == c).length)
        || decide (SMap.get q.t2Burst s.fab.buckets c < 1))

/-- A segment joins the assembly of its unit, opening it if need be; the request is held (R182). -/
def joinUnit (x : Txn) (data : List (BitVec 128)) (s : State) : State :=
  let unit := x.off / 65536
  let seg := x.off / 256 % 256
  let x := { x with phase := .assembling }
  let s := s.addTxn x
  match s.fab.units.find? fun a => sameUnit x.clr x.node unit a && a.sent.isNone with
  | some _ =>
    { s with fab.units := s.fab.units.map fun a =>
        if sameUnit x.clr x.node unit a && a.sent.isNone then { a with segs := SMap.put a.segs seg data, waiters := a.waiters ++ [x.id] } else a }
  | none =>
    let b := SMap.get (quotaOf s.com.inForce x.clr).t2Burst s.fab.buckets x.clr
    { s with fab.units := s.fab.units ++ [{ clr := x.clr, node := x.node, unit := unit, firstAt := s.now, segs := [(seg, data)], waiters := [x.id], sent := none }],
             fab.buckets := SMap.put s.fab.buckets x.clr (b - 1) }

/-- End the requests of a unit. -/
def endWaiters (st : Status) : List Nat → State → State
  | [], s => s
  | i :: r, s => endWaiters st r (match s.txn? i with
    | some x => endTxn x st [] s
    | none => s)

/-- Send a complete unit whose earlier write has ended; copies of its pages are discarded (R181, R182, R183). -/
def sendUnit (c node unit : Nat) (s : State) : State :=
  match s.fab.units.find? fun a => sameUnit c node unit a && a.sent.isNone with
  | some a =>
    match (a.waiters.head?).bind s.txn? with
    | some w =>
      if a.segs.length = 256 ∧ !unitInFlight s c node unit then
        let id := s.fab.nextTxn
        let s := { s with
          fab.units := s.fab.units.map (fun b => if sameUnit c node unit b && b.sent.isNone then { b with sent := some id } else b),
          fab.staging := s.fab.staging.filter fun y => !(y.clr == c && y.node == node && y.page / 16 == unit) }
        startTxn { w with id := id, src := .home, kind := .unitWr unit, phase := .home, off := unit * 65536, got := [], issued := s.now }
          (s.fadd CM_CLR_T2_STAT.UNITS [c] 1)
      else s
    | none => s
  | none => s

/-- Readers that waited for a unit write go on (R183). -/
def retryPages : List Nat → State → State
  | [], s => s
  | i :: r, s =>
    match s.txn? i with
    | some x => if x.phase = .staging then retryPages r (finishIfHeld i (fetchPages i (txnPages x) s)) else retryPages r s
    | none => retryPages r s

/-- The tray has answered a unit write. -/
def unitEnded (x : Txn) (st : Status) (s : State) : State :=
  let s := s.delTxn x.id
  match s.fab.units.find? fun a => a.sent == some x.id with
  | some a =>
    let s := endWaiters st a.waiters { s with fab.units := s.fab.units.filter fun b => b.sent != some x.id }
    retryPages (s.fab.txns.map Prod.fst) s
  | none => s

/-! Parts of a GATHER over T1 and AGENT rows (R177). -/

/-- The reads of a row: BLK_RDs of whole aligned segments, LOADs of the other lines: (place, offset, segments; 0 for a line). -/
def rowReads (place off n : Nat) : List (Nat × Nat × Nat) :=
  let lo := (off + 255) / 256 * 256
  let hi := (off + n) / 256 * 256
  let lines (a b : Nat) : List (Nat × Nat × Nat) := (List.range ((b - a) / 64)).map fun i => (place + (a - off) + 64 * i, a + 64 * i, 0)
  if hi ≤ lo then lines off (off + n) else lines off lo ++ [(place + (lo - off), lo, (hi - lo) / 256)] ++ lines hi (off + n)

def startParts (x : Txn) : List (Nat × Nat × Nat) → State → State
  | [], s => s
  | (place, off, segs) :: r, s =>
    startParts x r (startTxn { x with id := s.fab.nextTxn, src := .txn x.id place, kind := if segs = 0 then .load else .blkRd segs, phase := .home, off := off, pos := place,
                                      got := [], parts := 0, counted := false, lport := none } s)

/-- A part has ended: it enters its request's answer, which ends with its last part (R177). -/
def partEnded (parent pos : Nat) (st : Status) (data : List Byte) (s : State) : State :=
  match s.txn? parent with
  | some x =>
    let x := { x with parts := x.parts - 1, got := if st = .ok then x.got ++ [(pos, data)] else x.got, bad := if st = .ok then x.bad else x.bad ++ [(pos, st)] }
    if 0 < x.parts then s.putTxn x
    else match x.bad.foldl (fun a b => match a with
          | none => some b
          | some (p, t) => if b.1 < p then some b else some (p, t)) none with
      | some b => endTxn x b.2 [] s
      | none => endTxn { x with staged := false } .ok (readBytes (x.got.foldl (fun m g => writeBytes m g.1 g.2) []) 0 ((pieces x).map fun p => p.2.2).sum) s
  | none => s

def startGather (x : Txn) (s : State) : State :=
  let rs := ((pieces x).map fun p => rowReads p.1 p.2.1 p.2.2).flatten
  startParts x rs (s.addTxn { x with phase := .parts, parts := rs.length })

/-! Checks and service of a memory request. -/

/-- The holder that an issuer is, for subscriptions, pins and prepared slots. -/
def holderOf : ReqSrc → Option Holder
  | .port lp _ => some (.port lp)
  | .strand sr _ _ _ => some (.ctx sr.copse sr.ctx)
  | .service key _ _ => some (.ctx (key / 32) (key % 32))
  | .expander sr _ _ _ _ => some (.ctx sr.copse sr.ctx)
  | _ => none

def State.pub? (s : State) (r : Nat) : Option PubRegion := s.coh.pubs.find? fun p => p.region == r

/-- The slot that a requester's access to a PUBLISHED region reaches (R214). -/
def pubSlot (p : PubRegion) (h : Option Holder) (write : Bool) : Option Nat :=
  match h with
  | none => none
  | some h =>
    match p.slots.findIdx? fun x => x == .prepared h with
    | some k => some k
    | none => if write then none else (p.pins.find? fun q => q.1 == h).map Prod.snd

def needOf : TxnKind → Right
  | .store _ | .blkWr _ => .w
  | .atomic _ _ _ _ => .a
  | _ => .r

/-- The range checked against the window (R176): the request's own bytes; a GATHER's first row is checked with its other rows. -/
def rangeOf (k : TxnKind) (off : Nat) (pages : Nat) : Nat × Nat :=
  match k with
  | .pageRd => (off / 4096 * 4096, 4096)
  | .hint => (off / 4096 * 4096, pages * 4096)
  | .gather _ _ => (off, 1)
  | k => (off, kindLen k)

/-- What a lapsed subscriber may not reach (R210). -/
def lapsed (s : State) (h : Option Holder) (region : Nat) : Bool := s.coh.subs.any fun x => x.lapsed && x.region == region && some x.who == h

/-- The role of the logical port that a request came in on; a program's request has none. -/
def srcRole (m : Canopy) : ReqSrc → Option Role
  | .port lp _ => some (portRole m lp)
  | _ => none

/-- R451: is the request that of a program delivered into a program slot? -/
def fromSlot (s : State) (src : ReqSrc) : Bool :=
  match holderOf src with
  | some (.ctx copse n) => (match s.ctx? copse n with
      | some x => (match x.by_ with
          | .slot _ => true
          | .fabric _ => false)
      | none => false)
  | _ => false

/-- Translation of a request: through its clearing's windows, or by physical address for a trunk and for a privileged program with CLR 0xFF (R159, R160); a program from
a program slot does not reach a LINK or BOUNCE clearing (R451). -/
def translateReq (s : State) (m : Canopy) (r : Req) (off n : Nat) (need : Right) : Option (Window × Nat) :=
  let a := if srcRole m r.src = some .trunk then physical m (some r.clr) r.node off n need
    else if r.fm then physical m none r.node off n need
    else translate m r.clr r.node off n need
  match a with
  | some (w, p) => if fromSlot s r.src && confOf m w.clr != 0 then none else some (w, p)
  | none => none

/-- A refused translation, counted (DENIED_WINDOW). -/
def denyWindow (r : Req) (die : Nat) (s : State) : State := endReq r.src r.clr r.epoch die .denied [] false (s.fadd CM_CLR_TXN_ERR.DENIED_WINDOW [r.clr] 1)

/-- Does a tier take a type (Table 04.10)? -/
def tierTakes (k : TxnKind) : Tier → Bool
  | .t2 => match k with
      | .store _ | .atomic _ _ _ _ => false
      | .blkWr d => d.length == 16
      | _ => true
  | _ => true

/-- Every row of a GATHER lies in the window that holds its address (R176). -/
def rowsInside (w : Window) (off p rowl : Nat) (idx : List Nat) : Bool :=
  idx.all fun i => decide (p + (i + 1) * ((rowl + 1) * 64) ≤ w.pbase + w.bytes) && decide (off ≤ off + i)

/-- A request on its tier (Table 04.10). -/
def serveTier (r : Req) (k : TxnKind) (w : Window) (p die pages : Nat) (s : State) : State :=
  let x := newTxn r k w w.pnode p die s
  match k, w.tier with
  | .hint, .t2 => endReq r.src r.clr r.epoch die .ok [] false (hint w.clr w.pnode (p / 4096) pages (r.gen) s)
  | .hint, _ => endReq r.src r.clr r.epoch die .ok [] false s
  | .gather rowl idx, .t0 =>
    let y := { x with kind := .gather rowl idx }
    if (pieces y).any fun q => t0Bad s q.2.1 q.2.2 then endReq r.src r.clr r.epoch die .poison [] false s
    else endReq r.src r.clr r.epoch die .ok (((pieces y).map fun q => readBytes s.fab.t0 q.2.1 q.2.2).flatten) false s
  | .gather _ _, .t2 => serveT2Read x s
  | .gather _ _, _ => startGather x s
  | k, .t0 => serveT0 r k p die s
  | .blkWr d, .t2 =>
    if unitQuota s w.clr w.pnode (p / 65536) then endReq r.src r.clr r.epoch die .quota [] false (s.fadd CM_CLR_TXN_ERR.QUOTA [w.clr] 1)
    else joinUnit x d s
  | _, .t2 => serveT2Read x s
  | _, _ => startTxn x s

/-- A memory request (R25, R159-R185): `narrow` marks a part-line write, `pages` the count of a HINT, whose PRIO travels in the GEN field of Req. -/
def serveMem (r : Req) (k : TxnKind) (narrow : Bool) (pages die : Nat) (s : State) : State :=
  let fin (st : Status) (s : State) : State := endReq r.src r.clr r.epoch die st [] false s
  let trunk := srcRole s.com.inForce r.src == some .trunk
  match if trunk then some s.com.inForce else s.mapAt r.epoch with
  | none => fin .staleEpoch s
  | some m =>
    let (off, n) := rangeOf k (r.line * 64) pages
    match translateReq s m r off n (needOf k) with
    | none => denyWindow r die s
    | some (w, p) =>
      let h := holderOf r.src
      let reg := regionRec m w.region
      let bad := !tierTakes k w.tier
        || (match k with
          | .gather rowl idx => trunk || !rowsInside w off p rowl idx
          | .atomic aop _ _ _ => (atomicOp aop 0 0 0).isNone
          | .blkWr d => !narrow && decide (256 < p % 256 + d.length * 16)
          | _ => false)
        || lapsed s h w.region
      match if bad then none else some (reg.bind Region.kind) with
      | none => fin .denied s
      | some (some .coherent) =>
        (match srcRole m r.src with
          | some .agentCached => fin .denied s
          | some .trunk => fin .denied s
          | _ => fin .accessClass s)
      | some (some .published) =>
        let write := needOf k == .w
        let ok := match k with
          | .atomic _ _ _ _ | .gather _ _ | .hint => false
          | _ => !trunk
        (match if ok then (s.pub? w.region).bind fun q => pubSlot q h write else none with
          | none => fin .denied s
          | some slot => if narrow then fin .size s else serveTier r k w (p + slot * (reg.map Region.stride).getD 0) die pages s)
      | some _ => if narrow then fin .size s else serveTier r k w p die pages s

/-! Responses (R168-R172). -/

def segCount : TxnKind → Nat
  | .load => 1
  | .blkRd n => n
  | .pageRd => 16
  | .atomic _ _ _ _ => 1
  | _ => 0

/-- The data of an ended request, in segment order. -/
def segData (x : Txn) : List Byte := ((List.range (segCount x.kind)).map fun i => ((x.got.find? fun g => g.1 == i).map Prod.snd).getD []).flatten

/-- The tag of a timed-out request is not reused until four times its limit has passed, or its response arrives. -/
def deadTag (x : Txn) (s : State) : State :=
  match x.lport with
  | some lp => { s with fab.deadTags := s.fab.deadTags ++ [(lp, x.tag, x.issued + 4 * tierLimit s x.tier)] }
  | none => s

/-- A CU request that ends with STALE_EPOCH is translated again under the epoch in force and sent again, up to 3 times (R492). -/
def retryEpoch (x : Txn) (s : State) : State :=
  let (off, n) := rangeOf x.kind x.loff 1
  match translate s.com.inForce x.clr x.lnode off n (needOf x.kind) with
  | some (w, p) =>
    let slot := ((s.pub? w.region).bind fun q => pubSlot q (holderOf x.src) (needOf x.kind == .w)).getD 0
    let p := p + slot * ((regionRec s.com.inForce w.region).map Region.stride).getD 0
    routeTxn { x with epoch := s.epoch, node := w.pnode, off := p, tier := w.tier, region := w.region, pos := x.pos + 1, phase := .home, got := [], bad := [], last := false,
                      parts := 0, lport := none } s
  | none => endTxn x .denied [] s

/-- Is a request a CU's own: a strand's, or a segment of a strand's block write? -/
def fromStrand (s : State) : ReqSrc → Bool
  | .strand _ _ _ _ | .service _ _ _ | .expander _ _ _ _ _ => true
  | .txn p _ => (s.txn? p).any fun x => match x.src, x.kind with
      | .strand _ _ _ _, .blkWr _ => true
      | _, _ => false
  | _ => false

/-- DONE of a spare counts the partner's segments that the spare answers with OK (R502). -/
def spareProgress (x : Txn) (s : State) : State :=
  match x.kind, x.src, (List.range 8).find? fun k => s.fget CM_SPARE.PHASE [k] == 2 && x.lport == some (s.fget CM_SPARE.SPORT [k]) with
  | .blkWr d, .port p _, some k =>
    if p ≠ s.fget CM_SPARE.PPORT [k] then s
    else
      let sp := SMap.get .reset s.com.spares k
      let n := sp.bytes + 16 * d.length
      let s := { s with com.spares := SMap.put s.com.spares k { sp with bytes := n % 65536, at_ := if 65536 ≤ n then s.now else sp.at_ } }
      s.fset CM_SPARE_LOAD.DONE [k] (s.fget CM_SPARE_LOAD.DONE [k] + n / 65536)
  | _, _, _ => s

/-- A request sent has ended with a status. -/
def endSent (x : Txn) (st : Status) (s : State) : State :=
  let s := if st = .ok then spareProgress x s else s
  if st = .staleEpoch ∧ fromStrand s x.src ∧ x.pos < 3 then retryEpoch x s
  else match x.kind with
  | .unitWr _ => unitEnded x st s
  | .atomic _ word _ _ =>
    if x.tier = .t1 ∧ st = .ok then endTxn x .ok (atomicAnswer word (((x.got.find? fun g => g.1 == 1).map Prod.snd).getD [])) s
    else endTxn x st (segData x) s
  | _ => endTxn x st (segData x) s

/-- The second half of an ATOMIC on a T1 line: the home writes the whole line back (R167). -/
def atomicStore (x : Txn) (s : State) : State :=
  match x.kind, x.lport with
  | .atomic aop word opd cmp, some lp =>
    let old := segData x
    launch { x with parts := 1, got := [(0, atomicLine aop word opd cmp old), (1, old)], last := false, lport := none } lp (s.putTxn { x with lport := none })
  | _, _ => s

/-- A response on a logical port: TAG, status code, SEG, LAST and data (R169, R172). -/
def response (lp clr tag st seg : Nat) (last : Bool) (data : List Byte) (s : State) : State :=
  match s.fab.txns.find? fun e => e.2.lport == some lp && e.2.tag == tag with
  | some (_, x) =>
    if x.ended then s.fadd CM_CLR_TXN_ERR.LATE_RSP [clr] 1
    else
      let status := Status.ofCode st
      if status ≠ .ok then endSent x status s
      else
        let half := match x.kind with
          | .atomic _ _ _ _ => x.tier == .t1 && x.parts == 1
          | _ => false
        let x := { x with got := if data = [] ∨ half then x.got else (x.got.filter fun g => g.1 != seg) ++ [(seg, data)], last := x.last || last }
        if x.last && (half || decide (segCount x.kind ≤ x.got.length) || segCount x.kind == 0) then
          match x.kind with
          | .atomic _ _ _ _ => if x.tier = .t1 ∧ x.parts = 0 then atomicStore x s else endSent x .ok s
          | _ => endSent x .ok s
        else s.putTxn x
  | none => { s with fab.deadTags := s.fab.deadTags.filter fun d => !(d.1 == lp && d.2.1 == tag) }.fadd CM_CLR_TXN_ERR.LATE_RSP [clr] 1

/-- An EPOCH_NOTE whose limit has passed or whose port is lost gives up its tag, counted nowhere (R571). -/
def dropNote (x : Txn) (s : State) : State := s.delTxn x.id

/-- A request ends at its time limit (R172). -/
def limitTxn (x : Txn) (s : State) : State :=
  match x.kind with
  | .epochNote => dropNote x s
  | .unitWr _ => unitEnded x .timeout ((deadTag x s).fadd CM_CLR_TXN_ERR.TIMEOUT [x.clr] 1)
  | _ => timeoutTxn x (deadTag x s)

/-- A request ends as its logical port leaves ACTIVE: it keeps its place and its count until its tier limit has passed (R172). -/
def cutTxn (x : Txn) (s : State) : State :=
  let keep := kindOrdered x.kind && x.phase == .sent
  match x.kind with
  | .epochNote => dropNote x s
  | .unitWr _ => unitEnded x .timeout ((deadTag x s).fadd CM_CLR_TXN_ERR.TIMEOUT [x.clr] 1)
  | _ =>
    let s := timeoutTxn x (deadTag x s)
    if keep then s.putTxn { x with phase := .timedOut, ended := true, lport := none } else s

/-- Requests that a logical port carries end with TIMEOUT. -/
def cutPort (lp : Nat) : List Nat → State → State
  | [], s => s
  | i :: r, s => cutPort lp r (match s.txn? i with
    | some x => if x.lport = some lp ∧ !x.ended then cutTxn x s else s
    | none => s)

/-- Is a partner's tag in use: an earlier request of that tag not yet ended (R170)? -/
def tagPending (s : State) (lp tag : Nat) : Bool :=
  s.fab.txns.any (fun e => e.2.src == .port lp tag && !e.2.ended)
    || s.sched.held.any (fun h => match h.what with
      | .request r _ => r.src == .port lp tag
      | _ => false)
    || s.nx.loads.any (fun l => l.src == .port lp tag)
    || s.nx.ctxs.any (fun e => e.2.rxWait.any fun m => m.src == .port lp tag)

end Sys2Proof.Machine
end

