-- ==== Sys2Proof/Machine/CohOps.lean ====
section
/-! DEFINITION. Chapter 05: subscriptions and invalidations, the Sequencer's queue, versioned publish, the coherent directory and its domains. -/

namespace Sys2Proof.Machine

/-! Shared. -/

/-- VERSION and SLOT as a data slot (R205). -/
def verSlot (v k : Nat) : List Byte := toBytesLE 4 v ++ [BitVec.ofNat 8 k] ++ List.replicate 11 0

/-- CM.COH limits in ns. -/
def snoopLimit (s : State) : Nat := max 1 (s.fget CM_COH.SNOOP_LIMIT []) * 10000
def invLimit (s : State) : Nat := max 1 (s.fget CM_COH.INV_LIMIT []) * 10000

/-- Snoop tags of a logical port that are in use (R206). -/
def snpUsed (s : State) (lp tag : Nat) : Bool :=
  s.coh.dir.any (fun e => e.snoops.any fun q => q.lp == lp && q.tag == tag)
    || s.coh.invals.any (fun v => v.awaits.any fun q => q.1 == .port lp && q.2 == tag)
    || s.coh.lateSnps.contains (lp, tag)

/-- The first of n numbers from k on that satisfies p. -/
def lowestFrom (p : Nat → Bool) : Nat → Nat → Option Nat
  | 0, _ => none
  | n + 1, k => if p k then some k else lowestFrom p n (k + 1)

/-- The lowest free snoop tag of a logical port, of 1,024. -/
def freeSnp (s : State) (lp : Nat) : Option Nat := lowestFrom (fun t => !snpUsed s lp t) 1024 0

/-- The window that a physical line of a region lies in. -/
def windowAt (m : Canopy) (c node off : Nat) : Option Window :=
  (clrWindows m c).find? fun w => w.pnode == node && decide (w.pbase ≤ off) && decide (off < w.pbase + w.bytes)

/-- A message on the SNP VC about a physical line, in the local addresses of its window. -/
def sendSnp (die lp c stype node off tag : Nat) (h2 : Option (BitVec 128)) (s : State) : State :=
  match windowAt s.com.inForce c node off with
  | some w =>
    sendCell die 2 0 lp c vcSnp
      (mkHdr (lpClr s lp) (sendEpoch s lp s.epoch) 0 vcSnp h2.isSome 0 (snpTxn stype w.lnode ((off - w.pbase + w.lbase) / 64) tag)) h2 [] none s
  | none => s

/-- The part of a request's child: its store or its read of the tray. -/
def childTxn (x : Txn) (k : TxnKind) (pos : Nat) (s : State) : State :=
  startTxn { x with id := s.fab.nextTxn, src := .txn x.id pos, kind := k, phase := .home, tier := .t1, got := [], bad := [], last := false, parts := 0, counted := false,
                    lport := none, pos := pos, issued := s.now } s

/-- What a region's operation is checked against (R205): window, physical offset and region, or the status that refuses it. -/
def regionTarget (s : State) (r : Req) (n : Nat) (need : Right) (kind : RegionKind) : Except Status (Window × Nat × Region) :=
  let trunk := srcRole s.com.inForce r.src == some .trunk
  match if trunk then some s.com.inForce else s.mapAt r.epoch with
  | none => .error .staleEpoch
  | some m =>
    match translateReq s m r (r.line * 64) n need with
    | none => .error .denied
    | some (w, p) =>
      match regionRec m w.region with
      | some g =>
        if g.kind ≠ some kind then .error .denied
        else if kind = .published ∧ trunk then .error .denied
        else .ok (w, p, g)
      | none => .error .denied

/-- Was the translation itself refused (DENIED_WINDOW)? -/
def untranslated (s : State) (r : Req) (n : Nat) (need : Right) : Bool :=
  match if srcRole s.com.inForce r.src == some .trunk then some s.com.inForce else s.mapAt r.epoch with
  | some m => (translateReq s m r (r.line * 64) n need).isNone
  | none => false

/-- Refuse an operation, counting a refused translation. -/
def refuseOp (r : Req) (n : Nat) (need : Right) (die : Nat) (st : Status) (s : State) : State :=
  if untranslated s r n need then denyWindow r die s else endReq r.src r.clr r.epoch die st [] false s

/-! The Sequencer (R199, R443). -/

/-- A new operation waits for its issuer's cycle. -/
def seqAdd (clr : Option Nat) (k : SeqKind) (s : State) : State :=
  { s with coh.seqOps := s.coh.seqOps ++ [{ id := s.coh.nextOp, clr := clr, kind := k, positioned := false, at_ := 0 }], coh.nextOp := s.coh.nextOp + 1 }

/-- The first waiting operation of an issuer takes its position, after those that have one. -/
def seqPosition (clr : Option Nat) (s : State) : State :=
  match s.coh.seqOps.find? fun o => !o.positioned && o.clr == clr with
  | some o =>
    let rest := s.coh.seqOps.filter fun p => p.id != o.id
    { s with coh.seqOps := rest.filter (fun p => p.positioned) ++ [{ o with positioned := true, at_ := s.pkg }] ++ rest.filter (fun p => !p.positioned) }
  | none => s

def seqRemove (id : Nat) (s : State) : State := { s with coh.seqOps := s.coh.seqOps.filter fun o => o.id != id }

/-! Subscriptions (R207-R211). -/

def subscribed (s : State) (region : Nat) (h : Holder) : Bool := s.coh.subs.any fun x => x.region == region && x.who == h && !x.lapsed

/-- Does an INVAL of the region stand in Sequencer order and not yet sent? -/
def invalOrdered (s : State) (region : Nat) : Bool :=
  s.coh.seqOps.any fun o => o.positioned && (match o.kind with
    | .inval t => (s.txn? t).any fun x => x.region == region
    | _ => false)

/-- A subscription is taken up. -/
def addSub (region c : Nat) (h : Holder) (s : State) : State :=
  { s with coh.subs := s.coh.subs.filter (fun x => !(x.region == region && x.who == h)) ++ [{ region := region, clr := c, who := h, lapsed := false }] }

def serveSubscribe (r : Req) (die : Nat) (s : State) : State :=
  match regionTarget s r 64 .r .plain, holderOf r.src with
  | .ok (w, p, g), some h =>
    let live := s.coh.subs.filter fun x => !x.lapsed
    if subscribed s g.region h then endReq r.src r.clr r.epoch die .ok [] false s
    else if 256 ≤ (live.filter fun x => x.region == g.region).length ∨ 4096 ≤ (live.filter fun x => x.clr == g.clr).length then
      endReq r.src r.clr r.epoch die .denied [] false s
    else if invalOrdered s g.region then s.addTxn { newTxn r .subscribe w w.pnode p die s with phase := .seq }
    else endReq r.src r.clr r.epoch die .ok [] false (addSub g.region g.clr h s)
  | .ok _, none => endReq r.src r.clr r.epoch die .denied [] false s
  | .error st, _ => refuseOp r 64 .r die st s

/-- Subscriptions that waited for INVALs to be sent. -/
def pumpSubs : List Nat → State → State
  | [], s => s
  | i :: r, s =>
    match s.txn? i with
    | some x =>
      if x.kind = .subscribe ∧ x.phase = .seq ∧ !invalOrdered s x.region then
        match holderOf x.src with
        | some h => pumpSubs r (endTxn x .ok [] (addSub x.region x.clr h s))
        | none => pumpSubs r (endTxn x .denied [] s)
      else pumpSubs r s
    | none => pumpSubs r s

def serveUnsubscribe (r : Req) (die : Nat) (s : State) : State :=
  match regionTarget s r 64 .r .plain, holderOf r.src with
  | .ok (w, _, g), some h =>
    if lapsed s (some h) w.region then endReq r.src r.clr r.epoch die .denied [] false s
    else endReq r.src r.clr r.epoch die .ok [] false { s with coh.subs := s.coh.subs.filter fun x => !(x.region == g.region && x.who == h) }
  | .ok _, none => endReq r.src r.clr r.epoch die .denied [] false s
  | .error st, _ => refuseOp r 64 .r die st s

/-- An INVAL goes to the Sequencer (Table 05.7). -/
def serveInval (r : Req) (count die : Nat) (s : State) : State :=
  match regionTarget s r (count * 64) .w .plain with
  | .ok (w, p, _) =>
    if lapsed s (holderOf r.src) w.region then endReq r.src r.clr r.epoch die .denied [] false s
    else
      let id := s.fab.nextTxn
      seqAdd (some w.clr) (.inval id) (s.addTxn { newTxn r (.invalidate count) w w.pnode p die s with phase := .seq })
  | .error st => refuseOp r (count * 64) .w die st s

/-- Lines of a range leave a copse cache: the context's copy is discarded by the CW9 itself (R209). -/
def dropLines (copse node lo hi : Nat) (s : State) : State :=
  let k : Copse := SMap.get .reset s.nx.copses copse
  let k := { k with cache := k.cache.filter fun l => l.dirty || !(l.node == node && decide (lo ≤ l.line) && decide (l.line < hi)) }
  { s with nx.copses := SMap.set Copse.reset s.nx.copses copse k }

/-- INV_RANGE to every subscriber; a program's lines are dropped at once. Answers the ports that must acknowledge. -/
def sendInvRanges (x : Txn) (count : Nat) : List Sub → State → List (Holder × Nat) × State
  | [], s => ([], s)
  | u :: r, s =>
    match u.who with
    | .ctx copse _ => sendInvRanges x count r (dropLines copse x.node (x.off / 64) (x.off / 64 + count) s)
    | .port lp =>
      match freeSnp s lp with
      | some tag =>
        let s := { s with coh.invals := s.coh.invals ++ [{ txn := x.id, region := x.region, awaits := [(.port lp, tag)], sentAt := s.now }] }
        let s := sendSnp x.die lp x.clr 2 x.node x.off tag (some (BitVec.ofNat 128 ((count - 1) * 2 ^ 104))) s
        let (as, s) := sendInvRanges x count r s
        ((.port lp, tag) :: as, s)
      | none => sendInvRanges x count r s

/-- Does every subscribed port have a snoop tag free? -/
def invalCanSend (s : State) (region : Nat) : Bool :=
  s.coh.subs.all fun u => u.region != region || u.lapsed || (match u.who with
    | .port lp => (freeSnp s lp).isSome
    | .ctx _ _ => true)

/-- An INVAL held by both Lookouts is sent (R209). -/
def inval (id : Nat) (s : State) : State :=
  match s.txn? id with
  | some x =>
    match x.kind with
    | .invalidate count =>
      let (as, s) := sendInvRanges x count (s.coh.subs.filter fun u => u.region == x.region && !u.lapsed) s
      let s := { s with coh.invals := s.coh.invals.filter fun v => v.txn != id }
      if as = [] then endTxn x .ok [] s
      else
        let s := s.putTxn { x with phase := .sent }
        { s with coh.invals := s.coh.invals ++ [{ txn := id, region := x.region, awaits := as, sentAt := s.now }] }
    | _ => s
  | none => s

/-- An INV_ACK (R209). -/
def invAck (lp tag : Nat) (s : State) : State :=
  match s.coh.invals.find? fun v => v.awaits.contains (.port lp, tag) with
  | some v =>
    let left := v.awaits.filter fun a => a != (.port lp, tag)
    let rest := s.coh.invals.filter fun u => u.txn != v.txn
    if left = [] then
      let s := { s with coh.invals := rest }
      match s.txn? v.txn with
      | some x => endTxn x .ok [] s
      | none => s
    else { s with coh.invals := s.coh.invals.map fun u => if u.txn == v.txn then { u with awaits := left } else u }
  | none => s

/-- Subscribers that did not answer an INVAL lapse, and it ends with TIMEOUT (R210). -/
def invExpire (v : InvalRun) (s : State) : State :=
  let gone := v.awaits.map Prod.fst
  let c := ((s.coh.subs.find? fun u => u.region == v.region).map Sub.clr).getD 0
  let s := { s with
    coh.subs := s.coh.subs.map (fun (u : Sub) => if u.region == v.region && gone.contains u.who then { u with lapsed := true } else u),
    coh.invals := s.coh.invals.filter fun u => u.txn != v.txn }
  let s := s.fadd CM_CLR_COH_STAT.LAPSED [c] gone.length
  match s.txn? v.txn with
  | some x => endTxn x .timeout [] s
  | none => s

def invExpireAll : List InvalRun → State → State
  | [], s => s
  | v :: r, s => invExpireAll r (if v.sentAt + invLimit s ≤ s.now then invExpire v s else s)

/-! Versioned publish (R212-R216). -/

def State.setPub (s : State) (q : PubRegion) : State := { s with coh.pubs := s.coh.pubs.map fun p => if p.region == q.region then q else p }

def PubRegion.current (q : PubRegion) : Nat := (q.slots.findIdx? fun x => x == .current).getD 0

/-- RETIRED slots that no reader has open become FREE. -/
def PubRegion.free (q : PubRegion) : PubRegion :=
  { q with slots := (List.range q.slots.length).map fun k =>
      match q.slots.getD k .free with
      | .retired => if q.pins.any fun p => p.2 == k then .retired else .free
      | x => x }

/-- Give a FREE slot to a requester. -/
def PubRegion.prepare (q : PubRegion) (h : Holder) : Option (Nat × PubRegion) :=
  (q.slots.findIdx? fun x => x == .free).map fun k => (k, { q with slots := q.slots.set k (.prepared h) })

def preparedSlot (q : PubRegion) (h : Holder) : Option Nat := q.slots.findIdx? fun x => x == .prepared h

def servePrepare (r : Req) (die : Nat) (s : State) : State :=
  match regionTarget s r 64 .w .published, holderOf r.src with
  | .ok (w, p, g), some h =>
    match s.pub? g.region with
    | some q =>
      if (preparedSlot q h).isSome ∨ s.fab.txns.any fun e => e.2.kind == .prepare && e.2.region == g.region && holderOf e.2.src == some h && !e.2.ended then
        endReq r.src r.clr r.epoch die .denied [] false s
      else match q.prepare h with
        | some (k, q') => endReq r.src r.clr r.epoch die .ok (verSlot q.version k) false (s.setPub q')
        | none => s.addTxn { newTxn r .prepare w w.pnode p die s with phase := .slotWait }
    | none => endReq r.src r.clr r.epoch die .denied [] false s
  | .ok _, none => endReq r.src r.clr r.epoch die .denied [] false s
  | .error st, _ => refuseOp r 64 .w die st s

/-- PREPAREs that wait for a FREE slot, oldest first. -/
def pumpPrepare : List Nat → State → State
  | [], s => s
  | i :: r, s =>
    match s.txn? i with
    | some x =>
      match if x.phase = .slotWait then (s.pub? x.region).bind fun q => (holderOf x.src).bind fun h => (q.prepare h).map fun a => (q, a) else none with
      | some (q, k, q') => pumpPrepare r (endTxn x .ok (verSlot q.version k) (s.setPub q'))
      | none => pumpPrepare r s
    | none => pumpPrepare r s

/-- Has a requester a write to its prepared slot outstanding (R215)? -/
def writesOut (s : State) (h : Holder) (region : Nat) : Bool :=
  s.fab.txns.any fun e => !e.2.ended && e.2.region == region && holderOf e.2.src == some h && needOf e.2.kind == .w

/-- A held PUBLISH whose writes have ended goes to the Sequencer on ORD. -/
def publishForward (x : Txn) (s : State) : State :=
  match holderOf x.src with
  | some h => if writesOut s h x.region then s else seqAdd (some x.clr) (.publish x.id) (s.putTxn { x with phase := .seq })
  | none => s

def servePublish (r : Req) (die : Nat) (s : State) : State :=
  match regionTarget s r 64 .w .published, holderOf r.src with
  | .ok (w, p, g), some h =>
    match (s.pub? g.region).bind fun q => preparedSlot q h with
    | some _ =>
      let x := { newTxn r .publish w w.pnode p die s with phase := .held }
      publishForward x (s.addTxn x)
    | none => endReq r.src r.clr r.epoch die .denied [] false s
  | .ok _, none => endReq r.src r.clr r.epoch die .denied [] false s
  | .error st, _ => refuseOp r 64 .w die st s

/-- A PUBLISH held by both Lookouts waits for the publish point. -/
def publishOrdered (id : Nat) (s : State) : State :=
  match s.txn? id with
  | some x => { s with coh.pubs := s.coh.pubs.map fun q => if q.region == x.region then { q with ordered := q.ordered ++ [id] } else q }
  | none => s

/-- The superseded publishes of a region (R215). -/
def supersede (q : PubRegion) : List Nat → State → PubRegion × State
  | [], s => (q, s)
  | i :: r, s =>
    match s.txn? i with
    | some x =>
      let q := match (holderOf x.src).bind (preparedSlot q) with
        | some k => { q with slots := q.slots.set k .free }
        | none => q
      supersede q r (endTxn x .superseded [] (s.fadd CM_CLR_COH_STAT.SUPERSEDED [x.clr] 1))
    | none => supersede q r s

/-- A publish point for one region (R215). -/
def publishPoint (q : PubRegion) (s : State) : State :=
  match q.ordered.reverse with
  | [] => s
  | last :: others =>
    let (q, s) := supersede { q with ordered := [] } others.reverse s
    match s.txn? last with
    | some x =>
      match (holderOf x.src).bind (preparedSlot q) with
      | some k =>
        let old := q.current
        let v := (q.version + 1) % 2 ^ 32
        let q := { q with version := v, slots := (q.slots.set old .retired).set k .current }.free
        endTxn x .ok (verSlot v k) (s.setPub q)
      | none => endTxn x .denied [] (s.setPub q)
    | none => s.setPub q

def publishAll : List Nat → State → State
  | [], s => s
  | r :: rs, s => publishAll rs (match s.pub? r with
    | some q => publishPoint q s
    | none => s)

def serveOpen (r : Req) (die : Nat) (s : State) : State :=
  match regionTarget s r 64 .r .published, holderOf r.src with
  | .ok (_, _, g), some h =>
    match s.pub? g.region with
    | some q =>
      let k := q.current
      let q' := PubRegion.free { q with pins := q.pins.filter (fun (p : Holder × Nat) => p.1 != h) ++ [(h, k)] }
      endReq r.src r.clr r.epoch die .ok (verSlot q.version k) false (s.setPub q')
    | none => endReq r.src r.clr r.epoch die .denied [] false s
  | .ok _, none => endReq r.src r.clr r.epoch die .denied [] false s
  | .error st, _ => refuseOp r 64 .r die st s

def serveClose (r : Req) (die : Nat) (s : State) : State :=
  match regionTarget s r 64 .r .published, holderOf r.src with
  | .ok (_, _, g), some h =>
    match s.pub? g.region with
    | some q => endReq r.src r.clr r.epoch die .ok [] false (s.setPub (PubRegion.free { q with pins := q.pins.filter fun p => p.1 != h }))
    | none => endReq r.src r.clr r.epoch die .denied [] false s
  | .ok _, none => endReq r.src r.clr r.epoch die .denied [] false s
  | .error st, _ => refuseOp r 64 .r die st s

/-- Subscriptions and pins of a holder that is gone (R211, R216). -/
def dropHolder (h : Holder) (s : State) : State :=
  { s with coh.subs := s.coh.subs.filter fun x => x.who != h,
           coh.pubs := s.coh.pubs.map fun (q : PubRegion) => PubRegion.free { q with pins := q.pins.filter fun (p : Holder × Nat) => p.1 != h } }

/-! The coherent directory (R217-R223). -/

def cohKind : TxnKind → Bool
  | .rdS | .rdM | .upg | .wb _ | .evict => true
  | _ => false

def State.entry? (s : State) (node line : Nat) : Option DirEntry := s.coh.dir.find? fun e => e.node == node && e.line == line

def State.putEntry (s : State) (e : DirEntry) : State :=
  { s with coh.dir := s.coh.dir.filter (fun f => !(f.node == e.node && f.line == e.line)) ++ [e] }

def State.delEntry (s : State) (node line : Nat) : State := { s with coh.dir := s.coh.dir.filter fun f => !(f.node == node && f.line == line) }

def domainRec (m : Canopy) (d : Nat) : Option Domain := m.domains.find? fun x => x.domain == d

def domState (s : State) (d : Nat) : Nat := s.fget CM_DOM.STATE [d]

/-- POISONED of a domain, kept beside its entries. -/
def syncPoison (d : Nat) (s : State) : State := s.fset CM_DOM.POISONED [d] (saturate 32 (s.coh.dir.filter fun e => e.domain == d && e.poisoned).length)

/-- A state change of a domain is an edge of its clearing's source (Table 14.6). -/
def domainEvent (d : Nat) (s : State) : State := match domainRec s.com.inForce d with
  | some x => pulse (1664 + x.clr) s
  | none => s

/-- End every outstanding coherent request of a domain. -/
def endDomain (d : Nat) : List Nat → State → State
  | [], s => s
  | i :: r, s =>
    match s.txn? i with
    | some x =>
      let mine := (regionRec s.com.inForce x.region).any fun g => g.domain == d && g.kind == some .coherent
      let wb := match x.kind with
        | .wb _ => true
        | _ => false
      endDomain d r (if cohKind x.kind ∧ mine ∧ !wb then endTxn x .domainDown [] s else s)
    | none => endDomain d r s

/-- A domain goes DOWN (R224-R226): `lp` is the member at fault. -/
def domainDown (d cause lp : Nat) (badLine : Option (Nat × Nat)) (s : State) : State :=
  if domState s d ≠ 1 then s
  else
    let dir := s.coh.dir.map fun e =>
      if e.domain == d then
        let mine := e.holders.contains lp
        let bad : Bool := (mine && e.state == .m) || badLine == some (e.node, e.line)
        { e with busy := none, evicting := false, poisoned := e.poisoned || bad, holders := if bad then [] else e.holders.filter (fun h => h != lp),
                 snoops := e.snoops.filter (fun q => q.lp != lp) }
      else e
    let s := { s with coh.dir := dir.filter fun e => e.poisoned || e.holders ≠ [] || e.domain != d }
    let s := syncPoison d (((s.fset CM_DOM.STATE [d] 2).fset CM_DOM.CAUSE [d] cause).fset CM_DOM.PORT [d] (if lp < 512 then lp else 0x1FF))
    domainEvent d (endDomain d (s.fab.txns.map Prod.fst) s)

/-- Every domain of which a port is a member goes DOWN. -/
def memberLost (lp cause : Nat) : List Domain → State → State
  | [], s => s
  | x :: r, s => memberLost lp cause r (if x.members.contains lp then domainDown x.domain cause lp none s else s)

/-- The set of a line in its partition: the spec gives no function, so it is a constant of Config. -/
def dirSet (node line : Nat) : Nat := Config.dirSet node line % 16384

/-- Answer of a coherent request: its line, or nothing. -/
def cohFinish (x : Txn) (e : DirEntry) (lp : Nat) (s : State) : State :=
  let holders := e.holders.filter fun h => h != lp
  let (st, hs) := match x.kind with
    | .rdS => if e.state = .s then (DirState.s, holders ++ [lp]) else (.e, [lp])
    | _ => (.m, [lp])
  let s := s.putEntry { e with state := st, holders := hs, busy := none, usedAt := s.coh.dirSeq }
  endTxn x .ok (((x.got.head?).map Prod.snd).getD []) { s with coh.dirSeq := s.coh.dirSeq + 1 }

/-- The logical port of a request's member. -/
def memberOf : ReqSrc → Nat
  | .port lp _ => lp
  | _ => 512

/-- Is a write of the line on its way to the tray? -/
def lineWriting (s : State) (node off : Nat) : Bool :=
  s.fab.txns.any fun e => e.2.node == node && e.2.off == off && !e.2.ended && (match e.2.kind with
    | .store _ => true
    | _ => false)

/-- A processed request goes on once its snoops are answered: data from the tray if none came, then the grant. -/
def cohAdvance (id : Nat) (s : State) : State :=
  match s.txn? id with
  | some x =>
    match s.entry? x.node (x.off / 64) with
    | some e =>
      let lp := memberOf x.src
      if e.busy ≠ some id ∨ e.snoops ≠ [] ∨ e.wbSince.isSome ∨ 0 < x.parts then s
      else
        let needs : Bool := (x.kind != .upg || !e.holders.contains lp) && x.got == []
        if needs then childTxn { x with parts := 1 } .load 0 (s.putTxn { x with phase := .snooping, parts := 1 })
        else if lineWriting s x.node x.off then s.putTxn { x with phase := .snooping }
        else cohFinish x e lp s
    | none => s
  | none => s

/-- Snoops to members, each with a tag. -/
def sendSnoops (x : Txn) (e : DirEntry) (share : Bool) : List Nat → State → State
  | [], s => s
  | lp :: r, s =>
    match freeSnp s lp with
    | some tag =>
      let cur := (s.entry? e.node e.line).getD e
      let s := s.putEntry { cur with snoops := cur.snoops ++ [{ lp := lp, tag := tag, share := share, sentAt := s.now }] }
      sendSnoops x e share r (sendSnp x.die lp x.clr (if share then 0 else 1) e.node (e.line * 64) tag none s)
    | none => sendSnoops x e share r s

/-- Process a request on a line whose entry is not busy (Table 05.9). -/
def cohStart (x : Txn) (e : DirEntry) (s : State) : State :=
  let lp := memberOf x.src
  let others := e.holders.filter fun h => h != lp
  let busy (e : DirEntry) (s : State) : State := (s.putEntry { e with busy := some x.id, usedAt := s.coh.dirSeq }).putTxn { x with phase := .snooping }
  let awaitWb (s : State) : State :=
    (s.putEntry { e with busy := some x.id, wbSince := some s.now }).putTxn { x with phase := .wbWait }
  if e.poisoned then
    match x.kind with
    | .wb _ => endTxn x .denied [] s
    | .evict => endTxn x .ok [] s
    | _ => endTxn x .poison [] s
  else match x.kind with
    | .wb d =>
      if e.state = .m ∧ e.holders.contains lp then
        childTxn { x with parts := 1 } (.store d) 1 ((s.delEntry e.node e.line).putTxn { x with phase := .sent, parts := 1 })
      else endTxn x .denied [] s
    | .evict =>
      if e.state = .m ∧ e.holders.contains lp then endTxn x .denied [] s
      else endTxn x .ok [] (if others = [] then s.delEntry e.node e.line else s.putEntry { e with holders := others })
    | .rdS =>
      if e.state = .s ∨ (e.state = .e ∧ others = []) then cohAdvance x.id (busy e s)
      else if others = [] then awaitWb s
      else if others.all fun h => (freeSnp s h).isSome then cohAdvance x.id (sendSnoops x e true others (busy e s)) else s
    | _ =>
      if e.state = .m ∧ others = [] ∧ e.holders ≠ [] then awaitWb s
      else if others.all fun h => (freeSnp s h).isSome then cohAdvance x.id (sendSnoops x e false others (busy e s)) else s

/-- A line without an entry takes a way of its set, evicting the least recently used line that is neither busy nor poisoned (R222). -/
def cohAllocate (x : Txn) (domain : Nat) (s : State) : State :=
  let line := x.off / 64
  let copse := homeCopse s.com.inForce x.clr x.node line
  let set := dirSet x.node line
  let ways := s.coh.dir.filter fun e => e.copse == copse && e.set == set
  if ways.length < 16 then
    let e : DirEntry := { node := x.node, line := line, copse := copse, set := set, state := .e, holders := [], domain := domain, poisoned := false, usedAt := s.coh.dirSeq,
                          busy := some x.id, snoops := [], wbSince := none, evicting := false }
    cohAdvance x.id ((s.putEntry e).putTxn { x with phase := .snooping })
  else if ways.any fun e => e.evicting then s.putTxn { x with phase := .wayWait }
  else
    match (ways.filter fun e => e.busy.isNone && !e.poisoned).foldl (fun a e => match a with
        | none => some e
        | some v => if e.usedAt < v.usedAt then some e else some v) none with
    | some v =>
      if v.holders.all fun h => (freeSnp s h).isSome then
        let s := (s.putTxn { x with phase := .wayWait }).fadd CM_CLR_COH_STAT.BACK_INV [x.clr] 1
        sendSnoops { x with clr := ((domainRec s.com.inForce v.domain).map Domain.clr).getD x.clr } v false v.holders (s.putEntry { v with evicting := true })
      else s.putTxn { x with phase := .wayWait }
    | none => s.putTxn { x with phase := .wayWait }

/-- Try a request that waits: in arrival order on its line, then as its entry allows. -/
def cohTry (x : Txn) (s : State) : State :=
  let first := !(s.fab.txns.any fun e => decide (e.1 < x.id) && cohKind e.2.kind && !e.2.ended && e.2.node == x.node && e.2.off == x.off)
  if !first then s
  else
    let d := ((regionRec s.com.inForce x.region).map Region.domain).getD 0
    match s.entry? x.node (x.off / 64) with
    | some e => if e.busy.isSome || e.evicting then s else cohStart x e s
    | none =>
      match x.kind with
      | .wb _ => endTxn x .denied [] s
      | .evict => endTxn x .ok [] s
      | _ => cohAllocate x d s

/-- Coherent requests that wait try again, oldest first. -/
def pumpCoh : List Nat → State → State
  | [], s => s
  | i :: r, s =>
    match s.txn? i with
    | some x =>
      if cohKind x.kind ∧ (x.phase = .home ∨ x.phase = .wayWait) then pumpCoh r (cohTry x s)
      else if cohKind x.kind ∧ (x.phase = .snooping ∨ x.phase = .wbWait) then pumpCoh r (cohAdvance i s)
      else pumpCoh r s
    | none => pumpCoh r s

/-- A WB that crosses a snoop or a request: it wins (R223). -/
def wbCross (x : Txn) (d : Line) (e : DirEntry) (lp : Nat) (s : State) : State :=
  let late := (e.snoops.filter fun q => q.lp == lp).map fun q => (lp, q.tag)
  let own := (e.busy.bind s.txn?).any fun y => memberOf y.src == lp
  let snoops := e.snoops.filter fun q => q.lp != lp
  let s := { s with coh.lateSnps := s.coh.lateSnps ++ late }.fadd CM_CLR_COH_STAT.WB_CROSS [x.clr] 1
  let s := if e.evicting ∧ snoops = [] then s.delEntry e.node e.line
    else s.putEntry { e with snoops := snoops, wbSince := none, holders := e.holders.filter (fun h => h != lp), state := if own then .e else .s }
  let s := match e.busy.bind s.txn? with
    | some y => if own then s else s.putTxn { y with got := [(0, lineBytes d)] }
    | none => s
  childTxn { x with parts := 1 } (.store d) 1 (s.putTxn { x with phase := .sent, parts := 1 })

/-- A coherent request (R217, R221, R225). -/
def serveCoh (r : Req) (k : TxnKind) (die : Nat) (s : State) : State :=
  let need : Right := match k with
    | .rdS | .evict => .r
    | _ => .w
  let fin (st : Status) (s : State) : State := endReq r.src r.clr r.epoch die st [] false s
  match regionTarget s r 64 need .coherent with
  | .error st => refuseOp r 64 need die st s
  | .ok (w, p, g) =>
    let lp := memberOf r.src
    let dom := domainRec s.com.inForce g.domain
    match srcRole s.com.inForce r.src with
    | some .agentCached =>
      if !(dom.any fun x => x.members.contains lp) then fin .denied s
      else
        let x := newTxn r k w w.pnode p (homeDie s.com.inForce w.clr w.pnode (p / 64)) s
        let e? := s.entry? w.pnode (p / 64)
        let mineM := e?.any fun e => e.state == .m && e.holders.contains lp && !e.poisoned
        match k with
        | .wb d =>
          if domState s g.domain ≠ 1 then
            if mineM then childTxn { x with parts := 1 } (.store d) 1 ((s.delEntry w.pnode (p / 64)).addTxn { x with phase := .sent, parts := 1 }) else fin .domainDown s
          else match e? with
            | some e =>
              if mineM && (e.wbSince.isSome || e.snoops.any (fun q => q.lp == lp)) then wbCross x d e lp (s.addTxn x) else cohTry x (s.addTxn x)
            | none => fin .denied s
        | _ =>
          if domState s g.domain ≠ 1 ∨ s.coh.absent.contains (g.domain, lp) then fin .domainDown s
          else cohTry x (s.addTxn x)
    | some .trunk => fin .denied s
    | _ => fin .accessClass s

/-- A snoop answer: now I or now S, with data or without (R221, R223). -/
def snoopAnswer (lp tag : Nat) (toI : Bool) (data : Option (Line)) (s : State) : State :=
  match s.coh.dir.find? fun e => e.snoops.any fun q => q.lp == lp && q.tag == tag with
  | none => { s with coh.lateSnps := s.coh.lateSnps.filter fun a => a != (lp, tag) }
  | some e =>
    let snoops := e.snoops.filter fun q => !(q.lp == lp && q.tag == tag)
    if data.isNone ∧ e.state = .m ∧ e.holders.contains lp ∧ domState s e.domain = 1 then
      let s := s.putEntry { e with snoops := snoops, wbSince := some s.now }
      match e.busy.bind s.txn? with
      | some y => s.putTxn { y with phase := .wbWait }
      | none => s
    else
      let holders := if toI then e.holders.filter (fun h => h != lp) else e.holders
      let done : Bool := snoops.isEmpty && e.wbSince.isNone
      let gone : Bool := (e.evicting && done) || (e.busy.isNone && !e.evicting && holders.isEmpty && !e.poisoned)
      let s := if gone then s.delEntry e.node e.line else s.putEntry { e with snoops := snoops, holders := holders, state := .s }
      match data, e.busy.bind s.txn? with
      | some d, some y =>
        childTxn { y with parts := 0 } (.store d) 1 (s.putTxn { y with got := [(0, lineBytes d)] })
      | some d, none =>
        match windowAt s.com.inForce (((domainRec s.com.inForce e.domain).map Domain.clr).getD 0) e.node (e.line * 64) with
        | some w => startTxn (newTxn { src := .home, clr := w.clr, epoch := s.epoch, gen := 0, node := w.lnode, line := (e.line * 64 - w.pbase + w.lbase) / 64 } (.store d) w e.node
                      (e.line * 64) (homeDie s.com.inForce w.clr e.node e.line) s) s
        | none => s
      | none, _ => s

/-- A read or write of the tray for a coherent request has ended. -/
def cohPart (x : Txn) (pos : Nat) (st : Status) (data : List Byte) (s : State) : State :=
  match x.kind with
  | .wb _ => endTxn x st [] s
  | _ =>
    if pos = 1 then cohAdvance x.id s
    else
      let line := x.off / 64
      let x := { x with parts := 0 }
      match st, s.entry? x.node line with
      | .ok, _ => cohAdvance x.id (s.putTxn { x with got := [(0, data)] })
      | .poison, some e => domainDown e.domain 3 512 (some (e.node, e.line)) (s.putTxn x)
      | st, some e => endTxn x st [] (if e.holders = [] then s.delEntry e.node e.line else s.putEntry { e with busy := none })
      | st, none => endTxn x st [] s

/-- A snoop or an awaited WB older than SNOOP_LIMIT (R224): the domain and the member at fault. -/
def snoopOverdue (s : State) : Option (Nat × Nat) :=
  s.coh.dir.findSome? fun e =>
    if domState s e.domain ≠ 1 then none
    else match e.snoops.find? fun q => decide (q.sentAt + snoopLimit s ≤ s.now) with
      | some q => some (e.domain, q.lp)
      | none => match e.wbSince with
        | some w => if w + snoopLimit s ≤ s.now then some (e.domain, e.holders.headD 512) else none
        | none => none

/-- Reset of a DOWN domain (Table 05.10): SNP_INV to every surviving holder. -/
def snoopDomain (c : Nat) : List DirEntry → State → State
  | [], s => s
  | e :: r, s =>
    let live := e.holders.filter fun h => s.lpActive h && (freeSnp s h).isSome
    let x : Txn := { id := 0, src := .home, kind := .evict, phase := .sent, clr := c, epoch := s.epoch, node := e.node, off := e.line * 64, lnode := 0, loff := 0, tier := .t1,
                     region := 0, die := e.copse / 16, lport := none, tag := 0, issued := s.now, got := [], staged := false, bad := [], pos := 0, last := false, parts := 0,
                     counted := false }
    snoopDomain c r (sendSnoops x e false live s)

def domainReset (d : Nat) (s : State) : State :=
  if domState s d ≠ 2 then s.fset CM_DOM.RESULT [d] 2
  else match domainRec s.com.inForce d with
    | some x =>
      let away := x.members.filter fun m => !s.lpActive m
      let s := { s.fset CM_DOM.STATE [d] 3 with
        coh.absent := s.coh.absent.filter (fun a => a.1 != d) ++ away.map (fun m => (d, m)),
        coh.resets := s.coh.resets ++ [{ domain := d, t0 := s.now, sweeping := false }] }
      snoopDomain x.clr (s.coh.dir.filter fun e => e.domain == d && !e.poisoned) s
    | none => s

/-- At t0 + SNOOP_LIMIT: M lines not answered are poisoned, and every other entry is freed. -/
def domainSweep (d : Nat) (s : State) : State :=
  let dir := s.coh.dir.map fun e => if e.domain == d && e.state == .m && e.holders ≠ [] then { e with poisoned := true, holders := [], busy := none } else e
  syncPoison d { s with
    coh.dir := (dir.filter fun e => e.domain != d || e.poisoned).map (fun e => if e.domain == d then { e with snoops := [], wbSince := none } else e),
    coh.resets := s.coh.resets.map fun r => if r.domain == d then { r with sweeping := true } else r }

def domainUp (d : Nat) (s : State) : State :=
  domainEvent d ((({ s with coh.resets := s.coh.resets.filter fun r => r.domain != d }).fset CM_DOM.STATE [d] 1).fset CM_DOM.RESULT [d] 1)

/-- A write of UNPOISON (R229). -/
def unpoison (d node line : Nat) (s : State) : State :=
  match s.coh.dir.find? fun e => e.domain == d && e.poisoned && e.node == node && e.line == line with
  | some e =>
    let s := syncPoison d (s.delEntry node line)
    match windowAt s.com.inForce (((domainRec s.com.inForce d).map Domain.clr).getD 0) node (line * 64) with
    | some w => startTxn (newTxn { src := .home, clr := w.clr, epoch := s.epoch, gen := 0, node := w.lnode, line := (line * 64 - w.pbase + w.lbase) / 64 } (.store []) w e.node
                  (line * 64) (e.copse / 16) s) s
    | none => s
  | none => s

end Sys2Proof.Machine
end

