-- ==== Sys2Proof/Machine/Ndeah.lean ====
section
/-! DEFINITION. The Ndeah instruction word, its operation tables and the checks that the loader makes on code and header (R345-R348, R354, R363, R378, R380). -/

namespace Sys2Proof.Machine

/-- An instruction word (Table 09.1). -/
structure Ins where
  cls : Nat
  op : Nat
  guard : Nat
  neg : Bool
  dst : Nat
  src1 : Nat
  src2 : Nat
  imm : Nat
deriving DecidableEq, Repr

def Ins.ofWord (w : Word) : Ins :=
  { cls := bitsOf w 63 60, op := bitsOf w 59 52, guard := bitsOf w 51 48, neg := bitsOf w 47 47 == 1, dst := bitsOf w 46 41, src1 := bitsOf w 40 35,
    src2 := bitsOf w 34 29, imm := bitsOf w 28 0 }

/-- IMM[hi:lo]. -/
def Ins.fld (i : Ins) (hi lo : Nat) : Nat := natBits i.imm hi lo

/-- IMM[hi:lo] sign-extended to 64 bits. -/
def Ins.sfld (i : Ins) (hi lo : Nat) : Int := signExt (hi + 1 - lo) (i.fld hi lo)

def Ins.staten (i : Ins) : Bool := natBit i.imm 28

/-- The register file of a register field. -/
inductive RegFile where
  | none | s | v | t | p | a | acc | seg
  | pair | triple      -- s[n], s[n + 1] and s[n], s[n + 1], s[n + 2]
  | v4                 -- v[n] to v[n + 3]
  | xs                 -- t, or 63 for the expander stream
  | stat               -- s, where STATEN = 1
deriving DecidableEq, Repr

def RegFile.ok (f : RegFile) (staten : Bool) (n : Nat) : Bool :=
  match f with
  | .none => true
  | .s | .v => decide (n < 32)
  | .t | .p | .a => decide (n < 8)
  | .acc => decide (n < 2)
  | .seg => decide (n < 4)
  | .pair => decide (n < 31)
  | .triple => decide (n < 30)
  | .v4 => decide (n < 29)
  | .xs => decide (n < 8) || n == 63
  | .stat => !staten || decide (n < 32)

/-- Register files of DST, SRC1 and SRC2, and the IMM bits that an operation uses. -/
structure OpForm where
  dst : RegFile
  src1 : RegFile
  src2 : RegFile
  imm : Nat
deriving DecidableEq, Repr

/-- Bits hi to lo as a mask. -/
def maskBits (hi lo : Nat) : Nat := 2 ^ (hi + 1) - 2 ^ lo

/-- The operation tables (Tables 09.8 to 09.19, R362, R368, R371, R374). -/
def opForm (cls op : Nat) : Option OpForm :=
  let all := maskBits 28 0
  match cls, op with
  | 0, 0 => some ⟨.none, .none, .none, 0⟩
  | 0, 0x10 => some ⟨.s, .s, .none, all⟩
  | 0, 0x12 | 0, 0x13 => some ⟨.s, .none, .none, maskBits 28 11⟩
  | 0, 0x14 => some ⟨.p, .s, .s, 7⟩
  | 0, 0x15 => some ⟨.p, .s, .none, all⟩
  | 0, 0x16 => some ⟨.p, .p, .p, 3⟩
  | 0, 0x17 | 0, 0x18 => some ⟨.s, .s, .none, 0⟩
  | 0, 0x19 => some ⟨.s, .none, .none, 0⟩
  | 0, 0x1A => some ⟨.a, .s, .none, 0⟩
  | 0, n => if n ≤ 0x0E then some ⟨.s, .s, .s, 0⟩ else none
  | 1, 0x06 => some ⟨.v, .v, .none, 0⟩
  | 1, 0x07 => some ⟨.v, .v, .v, 7⟩
  | 1, 0x10 => some ⟨.v, .s, .none, 0⟩
  | 1, 0x11 => some ⟨.s, .v, .none, 63⟩
  | 1, 0x12 => some ⟨.s, .v, .none, 0⟩
  | 1, 0x20 | 1, 0x21 => some ⟨.v, .v, .s, maskBits 28 4⟩
  | 1, 0x22 => some ⟨.acc, .s, .s, all⟩
  | 1, 0x23 | 1, 0x28 => some ⟨.none, .s, .none, 0⟩
  | 1, 0x29 => some ⟨.none, .v, .v, 0⟩
  | 1, 0x2A => some ⟨.s, .none, .none, 0⟩
  | 1, 0x2B => some ⟨.v, .v, .s, 0⟩
  | 1, 0x2C => some ⟨.none, .none, .none, 0⟩
  | 1, n => if n ≤ 0x0D then some ⟨.v, .v, .v, 0⟩ else none
  | 2, 0 => some ⟨.acc, .xs, .t, maskBits 28 7⟩
  | 2, 1 => some ⟨.acc, .none, .none, 0⟩
  | 2, 2 => some ⟨.t, .v4, .none, 0⟩
  | 2, 3 => some ⟨.v4, .t, .none, 0⟩
  | 3, 0 => some ⟨.none, .s, .s, all⟩
  | 3, 1 => some ⟨.s, .none, .none, 0⟩
  | 3, 2 => some ⟨.none, .none, .none, 0⟩
  | 4, 0 | 4, 1 | 4, 2 => some ⟨.v, .s, .stat, all⟩
  | 4, 4 => some ⟨.s, .s, .s, maskBits 28 25 + maskBits 22 0⟩
  | 4, 8 | 4, 9 => some ⟨.s, .s, .s, maskBits 28 22⟩
  | 4, 0x0A => some ⟨.s, .s, .stat, maskBits 28 22⟩
  | 4, 0x0B => some ⟨.pair, .s, .stat, maskBits 28 22 + maskBits 9 0⟩
  | 4, 0x10 | 4, 0x11 | 4, 0x16 => some ⟨.none, .s, .stat, maskBits 28 25⟩
  | 4, 0x12 | 4, 0x13 | 4, 0x14 | 4, 0x15 => some ⟨.s, .s, .stat, maskBits 28 25⟩
  | 5, 0 => some ⟨.s, .s, .s, maskBits 27 18⟩
  | 5, 1 => some ⟨.s, .s, .triple, maskBits 27 18⟩
  | 6, 0 => some ⟨.s, .s, .s, maskBits 28 25 + maskBits 15 0⟩
  | 6, 1 => some ⟨.s, .none, .s, maskBits 28 22 + maskBits 15 0⟩
  | 6, 2 => some ⟨.pair, .s, .s, maskBits 28 25⟩
  | 7, 0 => some ⟨.none, .none, .none, 7⟩
  | 7, 1 | 7, 2 => some ⟨.v, .s, .stat, all⟩
  | 7, 3 | 7, 4 => some ⟨.s, .s, .s, maskBits 28 25 + maskBits 22 0⟩
  | 7, 8 => some ⟨.none, .none, .none, 15⟩
  | 7, 9 => some ⟨.none, .none, .none, 0xFFFF⟩
  | 8, 0 => some ⟨.none, .none, .none, all⟩
  | 8, 1 => some ⟨.none, .s, .none, 0⟩
  | 8, 2 => some ⟨.s, .none, .none, all⟩
  | 8, 3 | 8, 4 | 8, 5 => some ⟨.none, .none, .none, 0⟩
  | 8, 6 => some ⟨.none, .none, .none, maskBits 10 0⟩
  | 9, 0 => some ⟨.s, .s, .none, maskBits 28 25⟩
  | 9, 1 => some ⟨.none, .s, .s, maskBits 28 25⟩
  | 9, 2 => some ⟨.s, .s, .s, maskBits 28 25⟩
  | 10, 0 => some ⟨.s, .s, .stat, maskBits 28 25 + 3⟩
  | 11, 0 | 11, 1 => some ⟨.s, .s, .none, all⟩
  | 11, 2 | 11, 3 => some ⟨.v, .s, .none, all⟩
  | 11, 4 | 11, 5 => some ⟨.t, .s, .none, all⟩
  | 11, 6 | 11, 7 => some ⟨.v, .s, .seg, all⟩
  | 11, 8 | 11, 9 => some ⟨.acc, .s, .none, all⟩
  | _, _ => none

/-- FMT encoding (Table 09.4). -/
def fmtOf : Nat → Option NFmt
  | 0 => some .fp4 | 1 => some .fp4e | 2 => some .e2m3 | 3 => some .e3m2 | 4 => some .e4m3 | 5 => some .e5m2 | 6 => some .int8 | 7 => some .bf16
  | 8 => some .t2 | 9 => some .l3 | _ => none

/-- A reserved encoding in a sub-field. -/
def subReserved (i : Ins) : Bool :=
  match i.cls, i.op with
  | 0, 0x14 | 0, 0x15 => decide (6 ≤ i.fld 2 0)
  | 1, 0x07 => decide (4 ≤ i.fld 2 0)
  | 1, 0x20 | 1, 0x21 | 1, 0x22 | 3, 0 => (fmtOf (i.fld 28 25)).isNone
  | 2, 0 => (fmtOf (i.fld 28 25)).isNone || (fmtOf (i.fld 24 21)).isNone
  | 4, 4 => decide (8 ≤ i.fld 22 19)
  | 5, _ => (fmtOf (i.fld 21 18)).isNone
  | 7, 0 | 7, 1 | 7, 2 => decide (5 ≤ i.fld 2 0)
  | 7, 3 | 7, 4 => decide (5 ≤ i.fld 2 0) || decide (8 ≤ i.fld 22 19)
  | _, _ => false

/-- Does an instruction break the encoding rules of R348? -/
def encodingBad (i : Ins) : Bool :=
  match opForm i.cls i.op with
  | none => true
  | some f =>
    !(f.dst.ok i.staten i.dst) || !(f.src1.ok i.staten i.src1) || !(f.src2.ok i.staten i.src2)
      || (List.range 29).any (fun b => natBit i.imm b && !natBit f.imm b)
      || (decide (1 ≤ i.guard) && decide (i.guard < 8)) || (i.neg && i.guard == 0) || subReserved i

/-- Element bytes that CVTN and CVTW handle (R359). -/
def cvtBytes : NFmt → Nat
  | .fp4 => 32 | .fp4e => 44 | .e2m3 | .e3m2 => 48 | .e4m3 | .e5m2 | .int8 => 64 | .bf16 => 128 | .t2 => 16 | .l3 => 24

/-- Scale bytes of 64 elements. -/
def cvtScales : NFmt → Nat
  | .bf16 => 0 | .t2 => 1 | _ => 2

/-- May a TMMA pair the formats (Table 08.5)? -/
def pairOk (a b : NFmt) : Bool :=
  let four : NFmt → Bool := fun f => f == .fp4 || f == .l3
  let eight : NFmt → Bool := fun f => f == .e2m3 || f == .e3m2 || f == .e4m3 || f == .e5m2 || f == .int8
  ((four a || a == .fp4e) && four b) || (a == .t2 && b == .t2) || (eight a && eight b) || (a == .bf16 && b == .bf16)

/-! Reasons of Table 09.22. -/

def rHeader := 0x01
def rEncoding := 0x02
def rTarget := 0x03
def rPair := 0x04
def rStrands := 0x05
def rPages := 0x06
def rWays := 0x07
def rAmax := 0x08
def rResid := 0x09
def rSorter := 0x0A
def rDesc := 0x0B
def rBounce := 0x0C
def rCode := 0x0D
def rBays := 0x0E
def rLayout := 0x0F
def rPriv := 0x20
def rPlace := 0x21
def rAccess := 0x22
def rNoBay := 0x23
def rPcRange := 0x24
def rScratch := 0x25
def rAlign := 0x26
def rStream := 0x27
def rRunLimit := 0x30

/-- The target of a branch with a displacement, as a byte address; none below 0. -/
def branchTarget (pc : Nat) (i : Ins) : Option Nat :=
  let a := (pc : Int) + 8 * i.sfld 28 0
  if a < 0 then none else some a.toNat

/-- The loader's scan of one instruction at a byte address (R380): the reason that refuses it. -/
def scanIns (h : Header) (pc : Nat) (w : Word) : Option Nat :=
  let i := Ins.ofWord w
  if encodingBad i then some rEncoding
  else match i.cls, i.op with
    | 1, 0x20 | 1, 0x21 =>
      (match fmtOf (i.fld 28 25) with
        | some f => if 256 < i.fld 11 4 + cvtBytes f ∨ 64 < i.fld 17 12 + cvtScales f then some rLayout else none
        | none => some rEncoding)
    | 2, 0 =>
      (match fmtOf (i.fld 28 25), fmtOf (i.fld 24 21) with
        | some a, some b =>
          if !pairOk a b || (a == .fp4e && i.src1 != 63) || (i.src1 != 63 && a != .bf16 && i.fld 20 16 / 16 == i.dst) || (b != .bf16 && i.fld 13 9 / 16 == i.dst)
          then some rPair else none
        | _, _ => some rEncoding)
    | 8, 0 | 8, 2 =>
      (match branchTarget pc i with
        | some a => if a ≤ h.codeLen - 8 then none else some rTarget
        | none => some rTarget)
    | 8, 4 => if h.bays = 0 then some rBays else none
    | _, _ => none

/-- The first reason in a program's code. -/
def scanCode (h : Header) : Nat → List Word → Option Nat
  | _, [] => none
  | pc, w :: ws => match scanIns h pc w with
    | some r => some r
    | none => scanCode h (pc + 8) ws

/-! Registers that an instruction names (R296). -/

def RegFile.sregs (f : RegFile) (staten : Bool) (n : Nat) : List Nat :=
  match f with
  | .s => [n]
  | .pair => [n, n + 1]
  | .triple => [n, n + 1, n + 2]
  | .stat => if staten then [n] else []
  | _ => []

def RegFile.vregs (f : RegFile) (n : Nat) : List Nat :=
  match f with
  | .v => [n]
  | .v4 => [n, n + 1, n + 2, n + 3]
  | .acc => (List.range 16).map fun k => 16 * n + k
  | _ => []

def Ins.sregs (i : Ins) : List Nat := match opForm i.cls i.op with
  | some f => f.dst.sregs i.staten i.dst ++ f.src1.sregs i.staten i.src1 ++ f.src2.sregs i.staten i.src2
  | none => []

def Ins.vregs (i : Ins) : List Nat := match opForm i.cls i.op with
  | some f =>
    f.dst.vregs i.dst ++ f.src1.vregs i.src1 ++ f.src2.vregs i.src2
      ++ (match i.cls, i.op with
        | 1, 0x20 | 1, 0x21 => [i.fld 24 20]
        | 2, 0 => [i.fld 20 16, i.fld 13 9]
        | _, _ => [])
  | none => []

/-- Does an instruction need a bay: those of the vector and tile classes, and every other that names a vector, tile or accumulator register (R302)? -/
def Ins.needsBay (i : Ins) : Bool := i.cls == 1 || i.cls == 2 || match opForm i.cls i.op with
  | some f => [f.dst, f.src1, f.src2].any fun r => r == .v || r == .t || r == .acc || r == .v4 || r == .xs
  | none => false

/-! Header and descriptors. -/

def parseDesc (bs : List Byte) : Desc :=
  { kind := field bs 0 1, rights := field bs 1 1, clr := field bs 2 1, aux := field bs 4 4, base := field bs 8 8, len := field bs 16 8,
    reserved := field bs 3 1 != 0 || decide (4 ≤ field bs 1 1) || field bs 24 8 != 0 }

/-- Words of a code region. -/
def parseWords : Nat → List Byte → List Word
  | 0, _ => []
  | n + 1, bs => BitVec.ofNat 64 (ofBytesLE (bs.take 8)) :: parseWords n (bs.drop 8)

/-- Where the residual records start: the 8-byte boundary after the stream numbers. -/
def residOff (nd na : Nat) : Nat := (0x80 + 32 * nd + 2 * na + 7) / 8 * 8

/-- The header area of a program (Table 09.20), HDR_LEN bytes. `ok` says that it is well formed apart from what fit checks by name. -/
def parseHeader (bs : List Byte) : Header :=
  let nd := field bs 0x31 1
  let na := field bs 0x32 1
  let nr := field bs 0x33 1
  let flags := field bs 6 2
  let hdrLen := field bs 0x10 4
  let codeOff := field bs 0x14 4
  let codeLen := field bs 0x18 4
  let entry := field bs 0x1C 4
  let ro := residOff nd na
  let resid := (List.range nr).map fun k => (field bs (ro + 8 * k) 2, field bs (ro + 8 * k + 4) 4)
  let amax := (List.range na).map fun k => field bs (0x80 + 32 * nd + 2 * k) 2
  { ok := field bs 0 4 == 0x4E445850 && field bs 4 2 == 1 && decide (flags < 8) && decide (256 ≤ hdrLen) && decide (hdrLen ≤ 65536) && hdrLen % 64 == 0
      && decide (hdrLen ≤ codeOff) && codeOff % 8 == 0 && field bs 0x20 4 % 8 == 0 && decide (nd ≤ 64) && decide (na ≤ 64) && decide (nr ≤ 64)
      && decide (field bs 0x30 1 ≤ 1) && decide (field bs 0x35 1 ≤ 7) && decide (field bs 0x36 2 < 2048) && field bs 0x3C 4 == 0
      && field bs 0x68 24 == 0 && decide (ro + 8 * nr ≤ hdrLen) && amax.all (fun n => decide (n < 4096))
      && (List.range nr).all (fun k => field bs (ro + 8 * k + 2) 2 == 0)
      && resid.all (fun r => decide (r.1 < 4096) && decide (1 ≤ r.2) && decide (r.2 ≤ 33554432)),
    codeOk := decide (8 ≤ codeLen) && decide (codeLen ≤ 1048576) && codeLen % 8 == 0 && entry % 8 == 0 && decide (entry < codeLen),
    priv := natBit flags 0, mgmt := natBit flags 1, plain := natBit flags 2, codeLen := codeLen, entry := entry, initLen := field bs 0x24 4,
    cus := field bs 0x28 2, strands := field bs 0x2A 2, pages := field bs 0x2C 1, bays := field bs 0x2D 1, privWays := field bs 0x2E 1,
    pinWays := field bs 0x2F 1, sorter := field bs 0x30 1, rxq := field bs 0x34 1, prio := field bs 0x35 1, state0 := field bs 0x36 2,
    runLimit := field bs 0x38 4, seed := field bs 0x40 8, lit := (List.range 4).map fun k => BitVec.ofNat 64 (field bs (0x48 + 8 * k) 8),
    descs := (List.range nd).map fun k => parseDesc ((bs.drop (0x80 + 32 * k)).take 32), amax := amax, resid := resid }

/-- desc_ok of R380. -/
def descOk (h : Header) (d : Desc) : Bool :=
  decide (d.kind ≤ 5) && !d.reserved && (d.kind == 2 && h.priv || d.clr == 0) && (d.kind == 1 || d.aux == 0)
    && (d.kind != 0 || d.base == 0)
    && (d.kind != 1 || (decide (d.base + d.len ≤ h.pages * 4096) && decide (d.aux ≤ d.len)))
    && (d.kind != 3 || d.rights == 1)

/-- RXQ names a SCRATCH descriptor or is 0xFF. -/
def rxqOk (h : Header) : Bool := h.rxq == 0xFF || (match h.descs[h.rxq]? with
  | some d => d.kind == 1
  | none => false)

end Sys2Proof.Machine
end

