-- ==== Sys2Proof/Machine/CtxOps.lean ====
section
/-! DEFINITION. Contexts and strands (chapters 08, 09, 13): registers, scratchpad, bays; ends, faults and completion records; messages; residency and switching. -/

namespace Sys2Proof.Machine

/-! Access. -/

def State.copse (s : State) (k : Nat) : Copse := SMap.get .reset s.nx.copses k

def State.setCopse (s : State) (k : Nat) (c : Copse) : State := { s with nx.copses := SMap.set .reset s.nx.copses k c }

def ctxKey (copse n : Nat) : Nat := 32 * copse + n

def State.putCtx (s : State) (copse n : Nat) (x : Ctx) : State := { s with nx.ctxs := SMap.put s.nx.ctxs (ctxKey copse n) x }

def State.modCtx (s : State) (copse n : Nat) (f : Ctx → Ctx) : State := match s.ctx? copse n with
  | some x => s.putCtx copse n (f x)
  | none => s

def strandKey (sr : StrandRef) : Nat := 1024 * sr.cu + sr.strand

def Ctx.strand (x : Ctx) (k : Nat) : Strand := SMap.get .reset x.strands k

def Ctx.setStrand (x : Ctx) (k : Nat) (st : Strand) : Ctx := { x with strands := SMap.put x.strands k st }

/-- The strand of a reference. -/
def State.strand (s : State) (sr : StrandRef) : Strand := match s.ctx? sr.copse sr.ctx with
  | some x => x.strand (strandKey sr)
  | none => .reset

def State.modStrand (s : State) (sr : StrandRef) (f : Strand → Strand) : State :=
  s.modCtx sr.copse sr.ctx fun x => x.setStrand (strandKey sr) (f (x.strand (strandKey sr)))

/-- Rank of a strand (R349). -/
def rankOf (x : Ctx) (sr : StrandRef) : Nat := (x.rankBase + sr.cu * x.hdr.strands + sr.strand) % 2 ^ 32

/-- A scalar register. -/
def Strand.s (st : Strand) (n : Nat) : Word := SMap.get 0 st.regs n

def Strand.setS (st : Strand) (n : Nat) (v : Word) : Strand := { st with regs := SMap.set 0 st.regs n v }

def State.setS (s : State) (sr : StrandRef) (n : Nat) (v : Word) : State := s.modStrand sr fun st => st.setS n v

/-- A predicate. -/
def Strand.p (st : Strand) (n : Nat) : Bool := natBit st.preds n

def Strand.setP (st : Strand) (n : Nat) (b : Bool) : Strand :=
  { st with preds := st.preds / 2 ^ (n + 1) * 2 ^ (n + 1) + boolNat b * 2 ^ n + st.preds % 2 ^ n }

/-- A descriptor index held by an a-register. -/
def Strand.a (st : Strand) (n : Nat) : Nat := SMap.get 0 st.aregs n

/-- The copse's Glade die and number on it; 8 for a management CU. -/
def copseDie (k : Nat) : Nat := if k < 128 then k / 16 else 8

def glIx (k : Nat) : List Nat := [k / 16, k % 16]

def cuIx (sr : StrandRef) : List Nat := [sr.copse / 16, sr.copse % 16, sr.cu]

/-- Bytes of a strand's bay (R303). -/
def bayBase (sr : StrandRef) (bay : Nat) : Nat := (16 * sr.cu + bay) * 2 ^ 14

def State.readBay (s : State) (sr : StrandRef) (off n : Nat) : List Byte := match s.ctx? sr.copse sr.ctx with
  | some x => (match (x.strand (strandKey sr)).bay with
      | some b => readBytes x.bays (bayBase sr b + off) n
      | none => List.replicate n 0)
  | none => List.replicate n 0

/-- Do bytes of a strand's bay read uncorrectable or poisoned (ARRAY 0b0001)? -/
def bayBad (s : State) (sr : StrandRef) (off n : Nat) : Bool :=
  decide (s.ecc.raw ≠ []) && decide (sr.copse < 128) && match (s.strand sr).bay with
    | some b => wordsBad s (2 + sr.copse / 16) 1 (16 * (sr.copse % 16) + sr.cu) ((16384 * b + off) / 32) ((16384 * b + off + n + 31) / 32)
    | none => false

def State.writeBay (s : State) (sr : StrandRef) (off : Nat) (bs : List Byte) : State :=
  let s := s.modCtx sr.copse sr.ctx fun x => match (x.strand (strandKey sr)).bay with
    | some b => { x with bays := writeBytes x.bays (bayBase sr b + off) bs }
    | none => x
  if s.ecc.raw = [] ∨ 128 ≤ sr.copse then s
  else match (s.strand sr).bay with
    | some b => clearWords (2 + sr.copse / 16) 1 (16 * (sr.copse % 16) + sr.cu) ((16384 * b + off + 31) / 32) ((16384 * b + off + bs.length) / 32) s
    | none => s

/-- Bytes of a CU's scratchpad pages of a context (R305). -/
def scratchBase (cu : Nat) : Nat := cu * 2 ^ 19

def State.readScratch (s : State) (copse n cu a len : Nat) : List Byte := match s.ctx? copse n with
  | some x => readBytes x.scratch (scratchBase cu + a) len
  | none => List.replicate len 0

/-- Where a byte of a context's page stands in the array of its CU's scratchpad. -/
def frameByte (x : Ctx) (a : Nat) : Nat := x.frames.getD (a / 4096) 128 * 4096 + a % 4096

/-- Pieces of a range that stay within a page. -/
def pagePieces : Nat → Nat → Nat → List (Nat × Nat)
  | 0, _, _ => []
  | k + 1, a, n => if n = 0 then [] else
      let m := min n (4096 - a % 4096)
      (a, m) :: pagePieces k (a + m) (n - m)

/-- Do the bytes of a scratchpad read uncorrectable or poisoned (R514, ARRAY 0b0000)? The scratchpads of management CUs lie in the Lookout's control memory. -/
def scratchBad (s : State) (copse n cu a len : Nat) : Bool :=
  decide (s.ecc.raw ≠ []) && decide (copse < 128) && match s.ctx? copse n with
    | some x => (pagePieces 130 a len).any fun p =>
        wordsBad s (2 + copse / 16) 0 (16 * (copse % 16) + cu) (frameByte x p.1 / 32) ((frameByte x p.1 + p.2 + 31) / 32)
    | none => false

/-- The whole codewords of a range of a scratchpad are written anew (R509, R521). -/
def clearScratch (copse n cu a len : Nat) (s : State) : State :=
  if s.ecc.raw = [] ∨ 128 ≤ copse then s
  else match s.ctx? copse n with
    | some x => (pagePieces 130 a len).foldl (fun (s : State) (p : Nat × Nat) =>
        clearWords (2 + copse / 16) 0 (16 * (copse % 16) + cu) ((frameByte x p.1 + 31) / 32) ((frameByte x p.1 + p.2) / 32) s) s
    | none => s

def State.writeScratch (s : State) (copse n cu a : Nat) (bs : List Byte) : State :=
  clearScratch copse n cu a bs.length (s.modCtx copse n fun x => { x with scratch := writeBytes x.scratch (scratchBase cu + a) bs })

/-! Waits and outstanding requests. -/

/-- Is a wait one of R478? -/
def Wait.blocks : Wait → Bool
  | .reg | .recv | .waitm _ | .prep | .held => true
  | _ => false

/-- Does a wait end with requests of the strand? -/
def Wait.onRequest : Wait → Bool
  | .reg | .waitm _ | .prep | .held => true
  | _ => false

def srcIs (sr : StrandRef) : ReqSrc → Bool
  | .strand q _ _ _ => q == sr
  | _ => false

def srcCtx (copse n : Nat) : ReqSrc → Bool
  | .strand q _ _ _ => q.copse == copse && q.ctx == n
  | .service key _ _ => key == 32 * copse + n
  | .expander q _ _ _ _ => q.copse == copse && q.ctx == n
  | _ => false

/-- Requests of a strand not yet ended: those on their way, and messages that wait for room (R367, R372). -/
def State.reqsOf (s : State) (p : ReqSrc → Bool) : List ReqSrc :=
  ((s.fab.txns.filter fun e => !e.2.ended && p e.2.src).map fun e => e.2.src)
    ++ ((s.nx.ctxs.map fun e => (e.2.rxWait.filter fun w => p w.src).map RxWait.src).flatten)

def outstanding (s : State) (sr : StrandRef) : Nat := (s.reqsOf (srcIs sr)).length

/-- Scalar and vector registers that a request will write. -/
def srcS : ReqSrc → List Nat
  | .strand _ ret stat _ => (match ret with
      | .sreg r | .handle r => [r]
      | _ => []) ++ (match stat with
      | some r => [r]
      | none => [])
  | _ => []

def srcV : ReqSrc → List Nat
  | .strand _ (.line v _ _ _ _ _) _ _ => [v]
  | _ => []

/-- Does an instruction name a register that waits for a request (R366)? -/
def regsBusy (s : State) (sr : StrandRef) (i : Ins) : Bool :=
  (s.reqsOf (srcIs sr)).any fun r => (srcS r).any (fun n => i.sregs.contains n) || (srcV r).any (fun n => i.vregs.contains n)

/-- Is a request of a strand a load of some kind: does it return data? -/
def returnsData : ReqSrc → Bool
  | .strand _ .none _ _ => false
  | .strand _ (.stored _ _) _ _ => false
  | .strand _ _ _ _ => true
  | _ => false

/-- The word at a strand's PC; a Grove instance, whose code the spec does not give, has none (a word of a reserved class). -/
def codeAt (x : Ctx) (pc : Nat) : Word := x.code.getD (pc / 8) 0xF000000000000000

/-! Scheduling (R483-R487). -/

def Ctx.resident (x : Ctx) : Bool := decide (x.slot < 8)

def ctxsOf (s : State) (copse : Nat) : List (Nat × Ctx) := (s.nx.ctxs.filter fun e => e.1 / 32 == copse).map fun e => (e.1 % 32, e.2)

def residents (s : State) (copse : Nat) : List (Nat × Ctx) := (ctxsOf s copse).filter fun e => e.2.resident

/-- Do contexts together leave room for one more (R483)? -/
def fitsWith (rs : List Ctx) (x : Ctx) : Bool :=
  decide (rs.length < 8) && decide ((rs.map fun y => y.hdr.pages).sum + x.hdr.pages ≤ 128) && decide ((rs.map fun y => y.hdr.strands).sum + x.hdr.strands ≤ 1024)
    && decide ((rs.map fun y => y.hdr.bays).sum + x.hdr.bays ≤ 16) && decide ((rs.map fun y => y.hdr.privWays).sum + x.hdr.privWays ≤ 15)

/-- Bytes that the switch of a context moves, without dirty lines (R484). -/
def swapBytes (x : Ctx) : Nat :=
  x.hdr.pages * 4096 * x.hdr.cus + 16384 * (x.strands.filter fun e => e.2.bay.isSome).length + 320 * (x.strands.filter fun e => e.2.live).length

/-- Time at 75 GB/s, in ns. -/
def channelTime (bytes : Nat) : Nat := (bytes + 74) / 75

def dirtyLines (s : State) (copse n : Nat) : Nat := ((s.copse copse).cache.filter fun l => l.owner == some n && l.dirty).length

def switchTime (s : State) (copse : Nat) (xs : List (Nat × Ctx)) : Nat :=
  2000 + channelTime ((xs.map fun e => swapBytes e.2 + 64 * dirtyLines s copse e.1).sum)

def restoreTime (x : Ctx) : Nat := 2000 + channelTime (swapBytes x)

/-- The lowest numbers below n that are not in a list, k of them. -/
def lowestFree (n k : Nat) (used : List Nat) : List Nat := ((List.range n).filter fun i => !used.contains i).take k

/-- Wake the copse and the CUs of a context that becomes resident (R55); they run after UNIT_WAKE. -/
def wakeUnits (copse : Nat) (x : Ctx) (s : State) : State :=
  if 128 ≤ copse then s
  else
    let cg := if SMap.get .powerGated s.pw.copseGate copse = .powerGated then SMap.put s.pw.copseGate copse .waking else SMap.put s.pw.copseGate copse
      (if SMap.get .powerGated s.pw.copseGate copse = .clockGated then .running else SMap.get .powerGated s.pw.copseGate copse)
    let cus := (List.range x.hdr.cus).map fun u => 16 * copse + u
    { s with pw.copseGate := cg,
             pw.cuGate := cus.foldl (fun m u => SMap.put m u (match SMap.get .powerGated m u with
               | .powerGated => .waking
               | .clockGated => .running
               | g => g)) s.pw.cuGate }

/-- A context takes a slot and its ways (R308); a new one copies INIT (R381), a swapped one is restored (R484). -/
def makeResident (copse n : Nat) (x : Ctx) (s : State) : State :=
  let rs := (residents s copse).map Prod.snd
  let slot := (lowestFree 8 1 (rs.map Ctx.slot)).headD 0
  let ways := lowestFree 16 x.hdr.privWays ((rs.map Ctx.ways).flatten)
  let x := { x with slot := slot, ways := ways, pins := ways.take x.hdr.pinWays,
                      frames := lowestFree 128 x.hdr.pages ((rs.map Ctx.frames).flatten), residentAt := s.now, runnable := false }
  let s := wakeUnits copse x s
  if x.state = .loading then s.putCtx copse n { x with readyAt := s.now + channelTime x.hdr.initLen }
  else
    let c := s.copse copse
    (s.setCopse copse { c with switching := true }).putCtx copse n { x with state := .restoring, readyAt := s.now + restoreTime x }

/-- Start saving a context. -/
def startSave (copse n : Nat) (at_ : Nat) (prio : Bool) (s : State) : State :=
  let s := s.modCtx copse n fun x =>
    { x with runnable := x.state == .running, state := .saving, readyAt := at_, preempts := x.preempts + 1 }
  let s := s.fadd CX_CNT.SWAP_OUT (glIx copse) 1
  if prio then s.fadd CX_CNT.PREEMPT (glIx copse) 1 else s

def startSaves (copse at_ : Nat) (prio : Bool) : List (Nat × Ctx) → State → State
  | [], s => s
  | e :: r, s => startSaves copse at_ prio r (startSave copse e.1 at_ prio s)

/-- The shortest prefix of v whose removal lets x fit. -/
def shortestPrefix (rs : List (Nat × Ctx)) (x : Ctx) (v : List (Nat × Ctx)) : Option (List (Nat × Ctx)) :=
  ((List.range (v.length + 1)).find? fun k => fitsWith ((rs.filter fun e => !(v.take k).any fun q => q.1 == e.1).map Prod.snd) x).map fun k => v.take k

/-- May a copse take up contexts now: the package runs work, and no quiesce stands? -/
def runsWork (s : State) (copse : Nat) : Bool :=
  decide (128 ≤ copse) || (s.current == 3 && !s.com.stopped && !(s.ecc.resets.any fun r => r.scope == 2 && 16 * (r.die - 2) + r.inst == copse) && (match s.pw.entry with
    | .idle | .check1 _ _ => true
    | _ => false))

/-- PRIO descending, then oldest first. -/
def candLe (a b : Nat × Ctx) : Bool := decide (b.2.hdr.prio < a.2.hdr.prio) || (a.2.hdr.prio == b.2.hdr.prio && decide (a.2.since ≤ b.2.since))

/-- schedule of R486. A management CU switches no context out. -/
def schedule (copse : Nat) (s : State) : State :=
  let c := s.copse copse
  if c.switching || !runsWork s copse then s
  else
    let all := ctxsOf s copse
    let rs := all.filter fun e => e.2.resident
    let cands := all.filter fun e => !e.2.resident && (e.2.state == .loading || (e.2.state == .swapped && e.2.runnable))
    match (sortBy candLe cands).head? with
    | none => s
    | some (n, x) =>
      if fitsWith (rs.map Prod.snd) x then makeResident copse n x s
      else if 128 ≤ copse then s
      else
        let go (v : List (Nat × Ctx)) (prio : Bool) : State :=
          let at_ := s.now + switchTime s copse v
          startSaves copse at_ prio v (s.setCopse copse { c with switching := true, entering := some n })
        let movable := rs.filter fun e => e.2.state == .running || e.2.state == .blocked
        let v := sortBy (fun a b => decide (a.2.hdr.prio < b.2.hdr.prio) || (a.2.hdr.prio == b.2.hdr.prio && decide (b.2.residentAt ≤ a.2.residentAt)))
          (movable.filter fun e => decide (e.2.hdr.prio < x.hdr.prio))
        match shortestPrefix rs x v with
        | some p => if p = [] then s else go p true
        | none =>
          if rs.all fun e => e.2.state == .blocked then
            let b := sortBy (fun a b => decide (a.2.blockedAt ≤ b.2.blockedAt)) (movable.filter fun e => decide (e.2.residentAt + 50000 ≤ s.now))
            match shortestPrefix rs x b with
            | some p => if p = [] then s else go p false
            | none => s
          else s

/-- schedule until nothing changes: at most n contexts become resident at once. -/
def scheduleAll : Nat → Nat → State → State
  | 0, _, s => s
  | n + 1, copse, s =>
    let k := (residents s copse).length
    let s' := schedule copse s
    if (residents s' copse).length = k then s' else scheduleAll n copse s'

/-- RUNNING or BLOCKED, and RUNNABLE, from the waits of the live strands (R478). -/
def reblock (copse n : Nat) (s : State) : State :=
  match s.ctx? copse n with
  | some x =>
    let live := x.strands.filter fun e => e.2.live
    let blocked := live.all fun e => e.2.wait.blocks
    match x.state with
    | .running => if blocked ∧ live ≠ [] then scheduleAll 8 copse (s.putCtx copse n { x with state := .blocked, blockedAt := s.now }) else s
    | .blocked => if blocked then s else s.putCtx copse n { x with state := .running }
    | .saving | .swapped =>
      if !x.runnable && !blocked && live.all (fun e => !e.2.wait.onRequest) then
        let c := s.copse copse
        scheduleAll 8 copse ((s.setCopse copse { c with arrivals := c.arrivals + 1 }).putCtx copse n { x with runnable := true, since := c.arrivals })
      else s
    | _ => s
  | none => s

/-- Has the wait of a strand ended? -/
def waitOver (s : State) (sr : StrandRef) (x : Ctx) (st : Strand) : Bool :=
  match st.wait with
  | .reg => !regsBusy s sr (Ins.ofWord (codeAt x st.pc))
  | .waitm n => decide (outstanding s sr ≤ n)
  | .prep => !(s.reqsOf (srcIs sr)).any fun r => match r with
      | .strand _ (.handle _) _ _ => true
      | _ => false
  | .held => outstanding s sr == 0
  | _ => false

/-- A strand whose wait has ended may go on. -/
def wakeStrand (sr : StrandRef) (s : State) : State :=
  match s.ctx? sr.copse sr.ctx with
  | some x =>
    let st := x.strand (strandKey sr)
    if st.live && waitOver s sr x st then
      reblock sr.copse sr.ctx (s.putCtx sr.copse sr.ctx (x.setStrand (strandKey sr) { st with wait := .none }))
    else s
  | none => s

/-! Ends (R350-R353, R488). -/

/-- The earlier of two causes: first in package time, then lower rank (R353). -/
def firstCause (old : Option EndCause) (c : EndCause) : EndCause :=
  match old with
  | none => c
  | some o => if c.time = o.time ∧ c.rank < o.rank ∧ !o.torn then c else o

/-- Contexts own the sorter and expander streams no longer than they run. -/
def releaseUnits (copse n : Nat) (s : State) : State :=
  let c := s.copse copse
  s.setCopse copse { c with
    sortOwner := if c.sortOwner = some n then none else c.sortOwner,
    sortL := if c.sortOwner = some n then [] else c.sortL,
    sortQ := c.sortQ.filter fun m => m != n,
    bayQ := c.bayQ.filter fun q => q.ctx != n,
    streams := c.streams.filter fun e => e.2.ctx != n }

/-- A bay that its strand gives up is zeroed and freed (R301). -/
def freeBay (sr : StrandRef) (b : Nat) (s : State) : State :=
  let c := s.copse sr.copse
  let s := s.setCopse sr.copse { c with zeroing := (sr.cu, b, s.now) :: c.zeroing.filter fun z => decide (s.now < z.2.2 + 10) }
  s.modCtx sr.copse sr.ctx fun x => { x with bays := clearRange x.bays (bayBase sr b) 16384 }

def stopStrands (x : Ctx) : Ctx := { x with strands := SMap.mapVals (fun _ st => { st with live := false, wait := .none, bay := none }) x.strands }

/-- The program ends: its strands stop, its units are released, and it waits for R188. -/
def endProgram (copse n : Nat) (c : Option EndCause) (s : State) : State :=
  match s.ctx? copse n with
  | some x =>
    let cause := match c with
      | some c => some (firstCause x.cause c)
      | none => x.cause
    let torn := (cause.map EndCause.torn).getD false
    if x.state = .ending then s.putCtx copse n { x with cause := cause }
    else
      let x := { stopStrands x with state := .ending, cause := cause, bays := [] }
      let x := if torn then { x with scratch := [] } else x
      let s := releaseUnits copse n (s.putCtx copse n x)
      let k := s.copse copse
      if torn then (s.setCopse copse { k with cache := k.cache.filter fun l => l.owner != some n }).fadd CX_CNT.TORN_DOWN (glIx copse) 1 else s
  | none => s

/-- A strand ends the program with a status (R351). -/
def endWith (sr : StrandRef) (st : Status) (reason pc : Nat) (torn : Bool) (s : State) : State :=
  match s.ctx? sr.copse sr.ctx with
  | some x => endProgram sr.copse sr.ctx (some { status := st, reason := reason, pc := pc, rank := rankOf x sr, torn := torn, time := s.pkg }) s
  | none => s

/-- A fault of a strand (R352). -/
def fault (sr : StrandRef) (reason : Nat) (s : State) : State := endWith sr .denied reason (s.strand sr).pc true s

/-- A status that reaches an instruction without STATEN (R351, R383). -/
def failWith (sr : StrandRef) (st : Status) (pc : Nat) (s : State) : State := endWith sr st (if st = .denied then rAccess else 0) pc false s

/-- A strand is over: its bay and its stream are given up, and the lowest-ranked one leaves the result (R350, R382). -/
def finishStrand (sr : StrandRef) (s : State) : State :=
  let st := s.strand sr
  let s := match st.bay with
    | some b => freeBay sr b s
    | none => s
  let s := s.modCtx sr.copse sr.ctx fun x =>
    let x := x.setStrand (strandKey sr) { st with live := false, wait := .none, bay := none }
    if strandKey sr = 0 then { x with result := some ((List.range 4).map fun k => st.s (20 + k)) } else x
  let c := s.copse sr.copse
  s.setCopse sr.copse { c with streams := c.streams.filter fun e => !(e.2.ctx == sr.ctx && e.2.owner == strandKey sr) }

/-- A strand that leaves a barrier: it goes on after it, or ends there. -/
def leaveBar (copse n codeLen : Nat) (s : State) (e : Nat × Strand) : State :=
  let sr : StrandRef := { copse := copse, ctx := n, cu := e.1 / 1024, strand := e.1 % 1024 }
  let s := (s.modCtx copse n fun x => { x with issued := x.issued + 1 }).fadd GL_CNT_ISSUE.ISSUED (cuIx sr) 1
  if e.2.pc = codeLen - 8 then finishStrand sr s else s.modStrand sr fun st => { st with wait := .none, pc := st.pc + 8 }

/-- Strands that wait at a barrier which every live strand has reached go on (R373). -/
def releaseBar (copse n : Nat) (s : State) : State :=
  match s.ctx? copse n with
  | some x =>
    let live := x.strands.filter fun e => e.2.live
    match (live.head?).map (fun e => e.2.wait) with
    | some (Wait.bar b) => if live.all fun e => e.2.wait == .bar b then live.foldl (leaveBar copse n x.hdr.codeLen) s else s
    | _ => s
  | none => s

/-- With its last strand the program ends; otherwise the context's waits are looked at again. -/
def afterStrand (copse n : Nat) (s : State) : State :=
  match s.ctx? copse n with
  | some x => if x.strands.all fun e => !e.2.live then endProgram copse n none s else reblock copse n s
  | none => s

/-- A strand ends (R350). -/
def endStrand (sr : StrandRef) (s : State) : State := afterStrand sr.copse sr.ctx (releaseBar sr.copse sr.ctx (finishStrand sr s))

/-- An instruction has issued. -/
def countIssue (sr : StrandRef) (s : State) : State :=
  (s.modCtx sr.copse sr.ctx fun x => { x with issued := x.issued + 1 }).fadd GL_CNT_ISSUE.ISSUED (cuIx sr) 1

/-- An instruction has issued and the strand goes on after it; after the last instruction the strand ends (R350). -/
def retire (sr : StrandRef) (s : State) : State :=
  let s := countIssue sr s
  match s.ctx? sr.copse sr.ctx with
  | some x =>
    let st := x.strand (strandKey sr)
    if !st.live then s
    else if st.pc = x.hdr.codeLen - 8 then endStrand sr s
    else reblock sr.copse sr.ctx (s.putCtx sr.copse sr.ctx (x.setStrand (strandKey sr) { st with pc := st.pc + 8, wait := .none }))
  | none => s

/-- A taken branch; a target outside the code is a fault (R350). -/
def branchTo (sr : StrandRef) (target : Option Nat) (s : State) : State :=
  match s.ctx? sr.copse sr.ctx, target with
  | some x, some a =>
    if a ≤ x.hdr.codeLen - 8 ∧ a % 8 = 0 then (countIssue sr s).modStrand sr fun st => { st with pc := a, wait := .none }
    else fault sr rPcRange (countIssue sr s)
  | _, _ => fault sr rPcRange (countIssue sr s)

/-- The strand waits: its instruction has not issued. -/
def waitFor (sr : StrandRef) (w : Wait) (s : State) : State := reblock sr.copse sr.ctx (s.modStrand sr fun st => { st with wait := w })

/-- May a strand issue now (R296, R351)? Bay, barrier and PREP waits end by other events. -/
def canIssue (x : Ctx) (st : Strand) : Bool :=
  (x.state == .running || x.state == .blocked) && x.started && st.live && (match st.wait with
    | .bay | .bar _ | .prep | .take => false
    | _ => true)

/-- Is the guard true (R347)? -/
def guardOn (i : Ins) (st : Strand) : Bool := i.guard < 8 || (st.p (i.guard % 8) != i.neg)

/-- The runs of its bay that an instruction reads: its sources, and its DST where that is a source too (Tables 09.11 to 09.19). -/
def Ins.bayReads (i : Ins) : List (Nat × Nat) :=
  let v (n : Nat) : Nat × Nat := (256 * n, 256)
  let seg (r m : Nat) : Nat × Nat := (256 * r + 64 * m, 64)
  match i.cls, i.op with
  | 1, 0x03 | 1, 0x08 => [v i.dst, v i.src1, v i.src2]
  | 1, 0x06 | 1, 0x11 | 1, 0x12 | 1, 0x20 => [v i.src1]
  | 1, 0x21 => [v i.src1, seg (i.fld 24 20) (i.fld 19 18)]
  | 1, 0x22 => [(4096 * i.dst, 4096)]
  | 1, 0x29 => [v i.src1, v i.src2]
  | 1, n => if n ≤ 0x0D then [v i.src1, v i.src2] else []
  | 2, 0 => [(4096 * i.dst, 4096), (8192 + 1024 * i.src2, 1024), seg (i.fld 13 9) (i.fld 8 7)]
      ++ if i.src1 = 63 then [] else [(8192 + 1024 * i.src1, 1024), seg (i.fld 20 16) (i.fld 15 14)]
  | 2, 2 => [(256 * i.src1, 1024)]
  | 2, 3 => [(8192 + 1024 * i.src1, 1024)]
  | 4, 1 | 7, 1 => [seg i.dst (i.fld 24 23)]
  | 11, 3 => [v i.dst]
  | 11, 5 => [(8192 + 1024 * i.dst, 1024)]
  | 11, 7 => [seg i.dst i.src2]
  | 11, 9 => [(4096 * i.dst, 4096)]
  | _, _ => []

/-- Does an instruction send requests? In a quiesce nothing further is admitted (R497). -/
def Ins.asks (i : Ins) : Bool := i.cls == 4 || i.cls == 10 || (i.cls == 6 && decide (i.op < 2)) || (i.cls == 7 && decide (1 ≤ i.op) && decide (i.op ≤ 4)) || (i.cls == 3 && i.op == 0)

/-- One instruction of a class and OP: issued only if it is the strand's next one and ready; a false guard has no other effect; a bay is needed first (R302). -/
def issue (cls op : Nat) (sr : StrandRef) (w : Word) (body : Ins → Strand → State → State) (s : State) : State :=
  match s.ctx? sr.copse sr.ctx with
  | some x =>
    let st := x.strand (strandKey sr)
    let i := Ins.ofWord w
    if canIssue x st && codeAt x st.pc == w && i.cls == cls && i.op == op && !(s.com.stopped && i.asks) then
      if st.wait == .acq then body i st s
      else if regsBusy s sr i then waitFor sr .reg s
      else if !guardOn i st then retire sr s
      else if i.needsBay && st.bay.isNone then fault sr rNoBay (countIssue sr s)
      else if i.bayReads.any fun p => bayBad s sr p.1 p.2 then failWith sr .poison st.pc (countIssue sr s)
      else body i st s
    else s
  | none => s

/-- A scalar operation on the strand alone. -/
def issueReg (cls op : Nat) (sr : StrandRef) (w : Word) (f : Ins → Strand → State → Strand) (s : State) : State :=
  issue cls op sr w (fun i st s => retire sr (s.modStrand sr fun _ => f i st s)) s

/-! Descriptors (R354, R355, R365). -/

/-- The descriptor that an a-register names; none if it is unusable. -/
def descOf (x : Ctx) (st : Strand) (a : Nat) : Option Desc :=
  match x.hdr.descs[st.a a]? with
  | some d => if st.a a < 64 ∧ d.kind ≠ 0 then some d else none
  | none => none

def ctxDesc (s : State) (sr : StrandRef) (a : Nat) : Option Desc := match s.ctx? sr.copse sr.ctx with
  | some x => descOf x (x.strand (strandKey sr)) a
  | none => none

/-- An access through a SCRATCH descriptor: the byte address on the CU, or the reason of the fault. -/
def scratchAt (s : State) (sr : StrandRef) (a : Nat) (off : Word) (len align : Nat) (write : Bool) : Except Nat Nat :=
  match ctxDesc s sr a, s.ctx? sr.copse sr.ctx with
  | some d, some x =>
    if d.kind ≠ 1 then .error rDesc
    else
      let addr := (d.base + off.toNat) % 2 ^ 64
      if addr % align ≠ 0 then .error rAlign
      else if d.len < off.toNat + len ∨ !natBit d.rights (boolNat write) then .error rDesc
      else if x.hdr.pages * 4096 < addr + len then .error rScratch
      else .ok addr
  | _, _ => .error rDesc

/-! Completion records (R382, R476). -/

def recordBytes (s : State) (status : Status) (reason flags handle : Nat) (tag : Word) (start : Nat) (pc rank sat promoted stall preempts issued : Nat) (result : List Word) :
    List Byte :=
  toBytesLE 4 0x4E445843 ++ [BitVec.ofNat 8 status.code, BitVec.ofNat 8 reason] ++ toBytesLE 2 flags ++ toBytesLE 8 handle ++ toBytesLE 8 tag.toNat ++ toBytesLE 8 start
    ++ toBytesLE 8 s.pkg ++ toBytesLE 4 pc ++ toBytesLE 4 rank ++ toBytesLE 4 (saturate 32 sat) ++ toBytesLE 4 (saturate 32 promoted) ++ toBytesLE 4 (saturate 32 stall)
    ++ toBytesLE 4 (saturate 32 preempts) ++ toBytesLE 8 (saturate 64 issued) ++ List.replicate 8 0 ++ (result.map fun w => toBytesLE 8 w.toNat).flatten ++ List.replicate 16 0

/-- Send a completion record to its submitter: two whole-line STOREs to CREC, or to the program slot. -/
def sendRecord (copse clr : Nat) (dest : Submitter) (bs : List Byte) (s : State) : State :=
  match dest with
  | .slot n => { s with nx.slotRecs := s.nx.slotRecs ++ [(n, bs)] }
  | .fabric a =>
    let id := s.nx.nextLoad
    let s := { s with nx.nextLoad := id + 1, nx.crecs := SMap.put s.nx.crecs id (2, false) }
    let r (line : Nat) : Req := { src := .crec copse id, clr := clr, epoch := s.epoch, gen := 0, node := a / 2 ^ 48 % 65536, line := line }
    let l := a % 2 ^ 48 / 64
    let st (line : Nat) (b : List Byte) (s : State) : State := serveMem (r line) (.store (bytesLine b)) false 1 (copseDie copse) s
    st (l + 1) (bs.drop 64) (st l (bs.take 64) s)

/-- The record of a submission refused at load. -/
def refusedRecord (copse clr : Nat) (dest : Submitter) (tag : Word) (status : Status) (reason : Nat) (s : State) : State :=
  sendRecord copse clr dest (recordBytes s status reason 0 0 tag 0 0xFFFFFFFF 0xFFFFFFFF 0 0 0 0 0 (List.replicate 4 0)) s

/-- The status of a program that ends (R335, R353). -/
def finalStatus (x : Ctx) : Status := match x.cause with
  | some c => c.status
  | none => if x.sat = 0 then .ok else .saturated

def ctxRecord (s : State) (copse n : Nat) (x : Ctx) : List Byte :=
  let st := finalStatus x
  let good := st == .ok || st == .saturated
  recordBytes s st ((x.cause.map EndCause.reason).getD 0) (boolNat ((x.cause.map EndCause.torn).getD false) + 2 * boolNat good) (ctxHandle s copse n) x.tag (x.first.getD 0)
    ((x.cause.map EndCause.pc).getD 0xFFFFFFFF) ((x.cause.map EndCause.rank).getD 0xFFFFFFFF) x.sat x.promoted x.expStall x.preempts x.issued
    (if good then x.result.getD (List.replicate 4 0) else List.replicate 4 0)

/-- Does the visibility of R188 hold for a context: no request of it is outstanding? -/
def ctxQuiet (s : State) (copse n : Nat) : Bool := (s.reqsOf (srcCtx copse n)).isEmpty

/-- Answer those whose messages wait for room in a context that ends: its handle is no longer current. -/
def dropWaiting : List RxWait → Nat → State → State
  | [], _, s => s
  | w :: r, die, s => dropWaiting r die (endReq w.src w.clr w.epoch die .staleHandle [] false s)

/-- An ending context writes its record, and its number becomes FREE (R472, R476, R477). -/
def completeCtx (copse n : Nat) (s : State) : State :=
  match s.ctx? copse n with
  | some x =>
    if x.state = .ending ∧ ctxQuiet s copse n then
      let bs := ctxRecord s copse n x
      let s := s.fadd GL_CNT_ARITH.SAT_ELEM (glIx copse) x.sat
      let c := s.copse copse
      let s := s.setCopse copse { c with cache := c.cache.filter fun l => l.owner != some n }
      let s := { s with svc := SMap.erase s.svc (ctxKey copse n), nx.ctxs := SMap.erase s.nx.ctxs (ctxKey copse n), nx.gens := SMap.set 1 s.nx.gens (ctxKey copse n) (nextGen (ctxGen s copse n)) }
      let s := dropHolder (.ctx copse n) (dropWaiting x.rxWait (copseDie copse) s)
      scheduleAll 8 copse (sendRecord copse x.clr x.by_ bs s)
    else s
  | none => s

/-- A completion record's store has ended (R476). -/
def crecEnded (copse id : Nat) (st : Status) (s : State) : State :=
  match SMap.get? s.nx.crecs id with
  | some (k, bad) =>
    let bad := bad || st != .ok
    if k ≤ 1 then
      let s := { s with nx.crecs := SMap.erase s.nx.crecs id }
      if bad then s.fadd CX_CNT.CREC_LOST (glIx copse) 1 else s
    else { s with nx.crecs := SMap.put s.nx.crecs id (k - 1, bad) }
  | none => s

/-! Messages (R371, R372, R481, R482). -/

/-- Size of a stored message. -/
def rxSize (len : Nat) : Nat := 16 + (len + 15) / 16 * 16

/-- The ring of a context (R372): descriptor RXQ. -/
def ringOf (x : Ctx) : Option Desc := if x.hdr.rxq = 0xFF then none else x.hdr.descs[x.hdr.rxq]?

/-- Bytes into a ring, wrapping at its end. -/
def writeRing (m : Store) (base len at_ : Nat) (bs : List Byte) : Store :=
  let k := len - at_ % len
  writeBytes (writeBytes m (base + at_ % len) (bs.take k)) base (bs.drop k)

def readRing (m : Store) (base len at_ n : Nat) : List Byte :=
  let k := min n (len - at_ % len)
  readBytes m (base + at_ % len) k ++ readBytes m base (n - k)

/-- Is there room for a message? A Grove instance holds its queue as data, within the same size. -/
def ringRoom (s : State) (copse n : Nat) (x : Ctx) (d : Desc) (len : Nat) : Bool :=
  let used := if x.gid = 0 then (x.rx.map fun m => rxSize m.len).sum
    else (((SMap.get .reset s.svc (ctxKey copse n)).queue.map fun m => rxSize m.bytes.length).sum)
  decide (used + rxSize len ≤ d.len)

/-- Strands in RECV go on. -/
def wakeRecv (x : Ctx) : Ctx := { x with strands := SMap.mapVals (fun _ st => if st.wait = .recv then { st with wait := .none } else st) x.strands }

/-- A message lands in a ring with room; strands in RECV go on. -/
def landMsg (copse n : Nat) (sender : Word) (tag epoch : Nat) (bs : List Byte) (s : State) : State :=
  match s.ctx? copse n with
  | some x =>
    match ringOf x with
    | some d =>
      if x.gid ≠ 0 then
        let v := SMap.get .reset s.svc (ctxKey copse n)
        let m : SvcMsg := { sender := sender, tag := tag, at_ := s.pkg, epoch := epoch, bytes := bs, done := [] }
        reblock copse n (({ s with svc := SMap.put s.svc (ctxKey copse n) { v with queue := v.queue ++ [m] } }).putCtx copse n (wakeRecv x))
      else
      let bytes := toBytesLE 8 sender.toNat ++ toBytesLE 4 bs.length ++ toBytesLE 4 tag ++ bs
      let x := { x with scratch := writeRing x.scratch (scratchBase 0 + d.base) d.len x.rxHead bytes, rx := x.rx ++ [{ at_ := x.rxHead, len := bs.length }],
                        rxHead := (x.rxHead + rxSize bs.length) % d.len }
      reblock copse n (s.putCtx copse n (wakeRecv x))
    | none => s
  | none => s

/-- A message to a context: lands, waits for room, or is refused with PREEMPTED (R481, R482). -/
def msgToCtx (copse n : Nat) (m : RxWait) (die : Nat) (s : State) : State :=
  let fin (st : Status) (s : State) : State := endReq m.src m.clr m.epoch die st [] false s
  match s.ctx? copse n with
  | some x =>
    match ringOf x with
    | none => fin .denied s
    | some d =>
      if x.state = .running ∨ x.state = .blocked ∨ x.state = .ending then
        if x.rxWait = [] ∧ ringRoom s copse n x d m.bytes.length then fin .ok (landMsg copse n m.sender m.tag m.epoch m.bytes s)
        else s.putCtx copse n { x with rxWait := x.rxWait ++ [m] }
      else
        let c := s.copse copse
        let s := if x.state = .swapped ∧ !x.runnable then
            scheduleAll 8 copse ((s.setCopse copse { c with arrivals := c.arrivals + 1 }).putCtx copse n { x with runnable := true, since := c.arrivals })
          else s
        fin .preempted s
  | none => fin .staleHandle s

/-- Messages that waited for room, oldest first. -/
def pumpRing : Nat → Nat → Nat → State → State
  | 0, _, _, s => s
  | k + 1, copse, n, s =>
    match s.ctx? copse n with
    | some x =>
      match x.rxWait, ringOf x with
      | m :: r, some d =>
        if ringRoom s copse n x d m.bytes.length then
          pumpRing k copse n (endReq m.src m.clr m.epoch (copseDie copse) .ok [] false (landMsg copse n m.sender m.tag m.epoch m.bytes (s.putCtx copse n { x with rxWait := r })))
        else s
      | _, _ => s
    | none => s

/-- A transaction that names no window: a message, a note. -/
def plainTxn (src : ReqSrc) (k : TxnKind) (clr epoch node die : Nat) (s : State) : Txn :=
  { id := s.fab.nextTxn, src := src, kind := k, phase := .home, clr := clr, epoch := epoch, node := node, off := 0, lnode := node, loff := 0, tier := .agent, region := 0,
    die := die, lport := none, tag := 0, issued := s.now, got := [], staged := false, bad := [], pos := 0, last := false, parts := 0, counted := false }

/-- A message to an object (R481). -/
def sendMessage (m : RxWait) (target : Nat) (die : Nat) (s : State) : State :=
  let fin (st : Status) (s : State) : State := endReq m.src m.clr m.epoch die st [] false s
  let h := Handle.ofNat target
  if h.type = 0 then fin .denied s
  else if !handleCurrent s h then fin .staleHandle s
  else if h.clr ≠ m.clr ∨ h.type = 4 then fin .denied s
  else
    let toPort (lp : Nat) (s : State) : State :=
      let x := { plainTxn m.src (.msg target m.tag ((m.bytes.length + 15) / 16 - 1)) m.clr m.epoch s.selfNode (if die < 8 then die else lpDie lp) s with got := [(0, m.bytes)] }
      launch x lp (s.addTxn x)
    match h.type, endpointOf s.com.inForce h.clr h.index with
    | 1, _ => msgToCtx (h.index / 65536) (h.index % 32) m die s
    | 2, some e => toPort e.lport s
    | _, some e =>
      if e.lport < 512 ∧ e.lport ≠ 0x1FF then toPort e.lport s
      else
        let c := Handle.ofNat e.ctx
        if handleCurrent s c ∧ c.type = 1 then msgToCtx (c.index / 65536) (c.index % 32) m die s else fin .staleHandle s
    | _, none => fin .staleHandle s

/-- The members of a group that a clearing may send to (R251, R252). -/
def groupMembers (m : Canopy) (mcg c : Nat) : Option (List Nat) := (m.groups.find? fun g => g.mcg == mcg && g.clr == c).map McGroup.members

/-- Multicast cells of a message, one for each 256 bytes (R253, R371). -/
def groupSegs (x : Txn) (mcg tag mlen lp0 : Nat) : Nat → Nat → List Byte → State → State
  | 0, _, _, s => s
  | n + 1, i, bs, s =>
    let seg := slotsOf (bs.take 256)
    let c : Cell := { clr := x.clr, cls := 0, vc := vcBulk, dkind := 0, ddie := x.die, dest := lp0, skind := 2, sdie := x.die, src := 0, seq := 0, mcg := mcg, void := false,
                      poison := false, tstamp := 0, hdr1 := mkHdr x.clr x.epoch 0 vcBulk true seg.length (reqTxn x.node 0 x.tag),
                      hdr2 := some (mkHdr2 0x20 (i * 2 ^ 50 + tag * 2 ^ 34 + mlen * 2 ^ 22)), data := seg, txn := some x.id }
    groupSegs x mcg tag mlen lp0 n (i + 1) (bs.drop 256) (mcEnter c s)

/-- A message to every member port of a group: it ends when the last member copy has left its port (R371). -/
def sendGroup (m : RxWait) (mcg die : Nat) (s : State) : State :=
  match groupMembers s.com.inForce mcg m.clr with
  | none => endReq m.src m.clr m.epoch die .denied [] false s
  | some lps =>
    if lps = [] then endReq m.src m.clr m.epoch die .ok [] false s
    else
      let segs := (m.bytes.length + 255) / 256
      let mlen := (m.bytes.length + 15) / 16 - 1
      let x := { plainTxn m.src (.msg 0 m.tag mlen) m.clr m.epoch s.selfNode die s with phase := .parts, parts := segs * lps.length, got := [] }
      groupSegs x mcg m.tag mlen (lps.headD 0) segs 0 m.bytes (s.addTxn x)

/-! Switches (R484-R487). -/

/-- The save of a context is complete: it is SWAPPED, its private ways are freed, and its streams go with it (R310, R432). -/
def saved (copse n : Nat) (s : State) : State :=
  match s.ctx? copse n with
  | some x =>
    let c := s.copse copse
    let mine := c.streams.filter fun e => e.2.ctx == n
    let s := s.setCopse copse { c with cache := c.cache.filter (fun l => l.owner != some n || l.dirty), streams := c.streams.filter fun e => e.2.ctx != n,
                                       arrivals := c.arrivals + 1 }
    s.putCtx copse n { x with state := .swapped, slot := 8, ways := [], pins := [], frames := [], streams := mine, since := c.arrivals }
  | none => s

def savedAll (copse : Nat) : List (Nat × Ctx) → State → State
  | [], s => s
  | e :: r, s => savedAll copse r (saved copse e.1 s)

/-- A restored stream decodes its open block again from the start (R432). -/
def againBlock (b : XBlock) (phase : Nat) : XBlock := { b with phase := phase, status := 0, raw := [], lines := [], asked := [] }

def againStream (x : XStream) : XStream := { x with opened := againBlock x.opened 1, queued := x.queued.map fun b => againBlock b 0 }

/-- The restore of a context is complete. -/
def restored (copse n : Nat) (s : State) : State :=
  match s.ctx? copse n with
  | some x =>
    let c := s.copse copse
    let s := s.setCopse copse { c with switching := false, streams := x.streams.foldl (fun m e => SMap.put m e.1 (againStream e.2)) c.streams }
    reblock copse n (s.putCtx copse n { x with state := .running, streams := [] })
  | none => s

/-- A context that has ended its INIT copy starts its strands at ENTRY (R349). -/
def startCtx (copse n : Nat) (x : Ctx) (s : State) : State :=
  let h := x.hdr
  let st (u k : Nat) : Strand :=
    let sr : StrandRef := { copse := copse, ctx := n, cu := u, strand := k }
    let rank := rankOf x sr
    let regs := [(0, BitVec.ofNat 64 rank), (1, BitVec.ofNat 64 u), (2, BitVec.ofNat 64 k)] ++ (List.range 4).map (fun j => (24 + j, x.args.getD j 0))
      ++ (List.range 4).map fun j => (28 + j, h.lit.getD j 0)
    { Strand.reset with
      regs := regs.foldl (fun m r => SMap.set 0 m r.1 r.2) [], pc := h.entry, aregs := (List.range 8).foldl (fun m j => SMap.set 0 m j j) [],
      rmode := natBits h.state0 1 0, smode := natBits h.state0 3 2, promoEn := natBit h.state0 4, promoN := natBits h.state0 10 5,
      srState := startState h.seed rank, live := true }
  let keys := ((List.range h.cus).map fun u => (List.range h.strands).map fun k => (u, k)).flatten
  s.putCtx copse n { x with
    state := .running, started := true, first := some s.pkg, strands := keys.map fun e => (1024 * e.1 + e.2, st e.1 e.2),
    scratch := (List.range h.cus).foldl (fun m u => writeBytes m (scratchBase u) x.init) [] }

/-- Every resident context of a copse is swapped out at once: its save is over (Table 01.12, Table 13.9). -/
def swapOutCopse (copse : Nat) (s : State) : State :=
  let rs := (residents s copse).filter fun e => e.2.state != .ending
  let s := startSaves copse s.now false (rs.filter fun e => e.2.state == .running || e.2.state == .blocked) s
  let s := savedAll copse (rs.filter fun e => e.2.state != .loading) s
  let s := { s with nx.ctxs := s.nx.ctxs.map fun (e : Nat × Ctx) => if e.1 / 32 == copse && e.2.state == CtxState.loading then (e.1, { e.2 with slot := 8, ways := [], pins := [], frames := [] }) else e }
  let c := s.copse copse
  s.setCopse copse { c with switching := false, entering := none }

end Sys2Proof.Machine
end

