-- ==== Sys2Proof/Machine/CopseOps.lean ====
section
/-! DEFINITION. The copse cache (R307-R310), the fabric accesses of strands (R354, R355, R366-R371), fences (R189-R192) and the delivery of a request's end to its strand
(R351, R485). -/

namespace Sys2Proof.Machine

/-! The copse cache. A STL is sent at once, and its line stands in the cache as dirty until that STORE has ended (a way that R189 allows: "or has passed it"; log 12). -/

def cacheSet (node line : Nat) : Nat := (line % 8192) ^^^ (line / 8192 % 8192) ^^^ (node % 8192)

def findLine (c : Copse) (node line : Nat) : Option CLine := c.cache.find? fun l => l.node == node && l.line == line

def touchLine (copse node line : Nat) (s : State) : State :=
  let c := s.copse copse
  s.setCopse copse { c with cache := c.cache.map (fun l => if l.node == node && l.line == line then { l with usedAt := c.useSeq } else l), useSeq := c.useSeq + 1 }

/-- Ways private to some resident context of a copse. -/
def privateWays (s : State) (copse : Nat) : List Nat := ((residents s copse).map fun e => e.2.ways).flatten

/-- The ways that an ordinary fill of a context may use (R309). -/
def fillWays (s : State) (copse n : Nat) : List Nat × Option Nat :=
  let own := match s.ctx? copse n with
    | some x => x.ways.filter fun w => !x.pins.contains w
    | none => []
  if own ≠ [] then (own, some n) else ((List.range 16).filter fun w => !(privateWays s copse).contains w, none)

/-- Fill a line into the cache (R309); a line already held takes the data. -/
def fillLine (copse n node line : Nat) (d : Line) (pin viaW dirty : Bool) (s : State) : State :=
  if 128 ≤ copse then s
  else
    let c := s.copse copse
    match findLine c node line with
    | some _ =>
      s.setCopse copse { c with cache := c.cache.map (fun l => if l.node == node && l.line == line then
        { l with data := d, dirty := l.dirty || dirty, viaW := l.viaW || viaW, usedAt := c.useSeq } else l), useSeq := c.useSeq + 1 }
    | none =>
      let set := cacheSet node line
      let here := c.cache.filter fun l => cacheSet l.node l.line == set
      let freeOf (ws : List Nat) : Option Nat := ws.find? fun w => !here.any fun l => l.way == w
      let add (way : Nat) (owner : Option Nat) (s : State) : State :=
        let c := s.copse copse
        s.setCopse copse { c with
          cache := { node := node, line := line, way := way, owner := owner, data := d, dirty := dirty, viaW := viaW, usedAt := c.useSeq } ::
            c.cache.filter fun l => !(cacheSet l.node l.line == set && l.way == way), useSeq := c.useSeq + 1 }
      let ordinary (s : State) : State :=
        let (ws, owner) := fillWays s copse n
        match freeOf ws with
        | some w => add w owner s
        | none =>
          match (here.filter fun l => ws.contains l.way).foldl (fun a l => match a with
              | none => some l
              | some v => if l.usedAt < v.usedAt then some l else some v) none with
          | some v => add v.way owner s
          | none => s
      if pin then
        let pins := match s.ctx? copse n with
          | some x => x.pins
          | none => []
        match freeOf pins with
        | some w => add w (some n) s
        | none => ordinary (s.fadd GL_CNT_ARITH.PIN_FULL (glIx copse) 1)
      else ordinary s

/-- A scrub of a copse that writes back counts a line (R464): DIRTY_WB, or DIRTY_LOST for one that is discarded. -/
def countScrub (copse : Nat) (ok : Bool) (n : Nat) (s : State) : State :=
  let one (x : Scrub) : Scrub := if x.unit = copse ∧ x.phase = .writeback then (if ok then { x with wb := x.wb + n } else { x with lost := x.lost + n }) else x
  { s with clr.scrubs := s.clr.scrubs.map one }

/-- Has every STORE of a dirty line ended? A STORE that fails discards its line. -/
def cleanLine (copse node line : Nat) (ok : Bool) (s : State) : State :=
  let c := s.copse copse
  let more := (s.reqsOf fun r => match r with
    | .strand q (.stored a b) _ _ => q.copse == copse && a == node && b == line
    | _ => false) ≠ []
  if !(c.cache.any fun l => l.node == node && l.line == line && l.dirty) then s
  else if !ok then countScrub copse false 1 (s.setCopse copse { c with cache := c.cache.filter fun l => !(l.node == node && l.line == line) })
  else if more then s
  else countScrub copse true 1 (s.setCopse copse { c with cache := c.cache.map fun l => if l.node == node && l.line == line then { l with dirty := false } else l })

/-- Drop the lines that came through a window granting W (R191). -/
def dropWritable (copse : Nat) (s : State) : State :=
  let c := s.copse copse
  s.setCopse copse { c with cache := c.cache.filter fun l => !l.viaW || l.dirty }

/-! Fabric accesses. -/

/-- A fabric range through a descriptor: the descriptor and the fabric address, or the reason of the fault. -/
def fabAt (s : State) (sr : StrandRef) (a : Nat) (off len : Nat) (rd wr : Bool) : Except Nat (Desc × Nat) :=
  match ctxDesc s sr a with
  | some d =>
    if d.kind ≠ 2 ∧ !(d.kind = 3 ∧ !wr) then .error rDesc
    else if d.len < off + len ∨ (rd && !natBit d.rights 0) ∨ (wr && !natBit d.rights 1) then .error rDesc
    else .ok (d, (d.base + off) % 2 ^ 64)
  | none => .error rDesc

/-- The request of a strand at a fabric address. -/
def strandReq (s : State) (sr : StrandRef) (d : Desc) (addr : Nat) (ret : RetData) (stat : Option Nat) (gen : Nat) : Req :=
  match s.ctx? sr.copse sr.ctx with
  | some x =>
    let fm := x.hdr.priv && d.kind == 2
    { src := .strand sr ret stat (x.strand (strandKey sr)).pc, clr := if fm then d.clr else x.clr, epoch := s.epoch, gen := gen, node := addr / 2 ^ 48 % 65536,
      line := addr % 2 ^ 48 / 64, fm := fm && d.clr == 255 }
  | none => { src := .strand sr ret stat 0, clr := 0, epoch := 0, gen := 0, node := 0, line := 0 }

/-- STATEN: the register that takes the status. -/
def statOf (i : Ins) (r : Nat) : Option Nat := if i.staten then some r else none

/-- End a request of a strand at once. -/
def endNow (r : Req) (st : Status) (s : State) : State := endReq r.src r.clr r.epoch 0 st [] false s

/-- The die that translates a copse's requests. -/
def reqDie (sr : StrandRef) : Nat := copseDie sr.copse

/-- Serve a strand's memory request. A TRAIL descriptor reads the partition of the clearing's ring on its die (R355). -/
def serveStrand (sr : StrandRef) (d : Desc) (r : Req) (k : TxnKind) (pages : Nat) (s : State) : State :=
  if d.kind = 3 then
    match lowChannel s.com.inForce d.base r.clr with
    | some ch =>
      let off := chKey ch (0x50000000 + r.line * 64)
      let runs := match k with
        | .gather rowl idx => idx.map fun j => (off + j * (64 * (rowl + 1)), 64 * (rowl + 1))
        | _ => [(off, kindLen k)]
      if runs.any fun q => t0Bad s q.1 q.2 then endNow r .poison s
      else endReq r.src r.clr r.epoch 0 .ok ((runs.map fun q => readBytes s.fab.t0 q.1 q.2).flatten) false s
    | none => endNow r .denied s
  else serveMem r k false pages (reqDie sr) s

/-- Where an access of a clearing lands: physical NodeID and line, and whether its window grants W; for the copse cache. -/
def landing (s : State) (r : Req) : Option (Nat × Nat × Bool) :=
  match s.mapAt r.epoch with
  | some m =>
    match translateReq s m r (r.line * 64) 64 .r with
    | some (w, p) =>
      let g := regionRec m w.region
      let slot := ((s.pub? w.region).bind fun q => pubSlot q (holderOf r.src) false).getD 0
      some (w.pnode, (p + slot * (g.map Region.stride).getD 0) / 64, w.w)
    | none => none
  | none => none

/-- May a clearing's own copy in the cache serve a load: plain memory, or a version that the context has open? -/
def cacheServes (s : State) (r : Req) : Bool :=
  match (s.mapAt r.epoch).bind fun m => (translateReq s m r (r.line * 64) 64 .r).map fun a => (m, a.1) with
  | some (m, w) =>
    !lapsed s (holderOf r.src) w.region && (match (regionRec m w.region).bind Region.kind with
      | some .coherent => false
      | some .published => ((s.pub? w.region).bind fun q => pubSlot q (holderOf r.src) false).isSome
      | _ => true)
  | none => false

/-- LDL and PLD: segment m of v from a line, through the copse cache (R366). -/
def loadLine (sr : StrandRef) (i : Ins) (offMask : Nat) (pin : Bool) (st : Strand) (s : State) : State :=
  let off := (st.s i.src1).toNat + 64 * offMask
  match fabAt s sr (i.fld 27 25) off 64 true false with
  | .error e => fault sr e s
  | .ok (d, addr) =>
    let r0 := strandReq s sr d addr .none (statOf i i.src2) 0
    match if d.kind = 2 ∧ cacheServes s r0 then landing s r0 else none with
    | some (node, line, viaW) =>
      match findLine (s.copse sr.copse) node line with
      | some l =>
        let s := (touchLine sr.copse node line s).writeBay sr (256 * i.dst + 64 * i.fld 24 23) (lineBytes l.data)
        if i.staten then s.setS sr i.src2 0 else s
      | none => serveStrand sr d (strandReq s sr d addr (.line i.dst (i.fld 24 23) node line pin viaW) (statOf i i.src2) 0) .load 1 s
    | none => serveStrand sr d (strandReq s sr d addr (.line i.dst (i.fld 24 23) 0x10000 0 false false) (statOf i i.src2) 0) .load 1 s

/-- STL: a line from segment m of v. -/
def storeLine (sr : StrandRef) (i : Ins) (offMask : Nat) (st : Strand) (s : State) : State :=
  let off := (st.s i.src1).toNat + 64 * offMask
  match fabAt s sr (i.fld 27 25) off 64 false true with
  | .error e => fault sr e s
  | .ok (d, addr) =>
    let data := bytesLine (s.readBay sr (256 * i.dst + 64 * i.fld 24 23) 64)
    let r0 := strandReq s sr d addr .none (statOf i i.src2) 0
    match landing s r0 with
    | some (node, line, viaW) =>
      let s := if cacheServes s r0 && viaW then fillLine sr.copse sr.ctx node line data false viaW true s else s
      serveStrand sr d (strandReq s sr d addr (.stored node line) (statOf i i.src2) 0) (.store data) 1 s
    | none => serveStrand sr d r0 (.store data) 1 s

/-- ATOM: an atomic on one word (R366); it needs R and W. -/
def atomWord (sr : StrandRef) (i : Ins) (words : Nat) (st : Strand) (s : State) : State :=
  let off := (st.s i.src1).toNat + 8 * words
  match fabAt s sr (i.fld 27 25) off 8 true true with
  | .error e => fault sr e s
  | .ok (d, addr) =>
    serveStrand sr d (strandReq s sr d addr (.sreg i.dst) (statOf i i.src2) 0)
      (.atomic (i.fld 22 19) (addr / 8 % 8) (st.s i.dst).toNat (st.s i.src2).toNat) 1 s

/-- A request of a strand that reads a block into its scratchpad: BRD and PRD. -/
def readBlock (sr : StrandRef) (i : Ins) (len : Nat) (page : Bool) (stat : Option Nat) (st : Strand) (s : State) : State :=
  let off := (st.s i.src1).toNat
  let len' := if page then 4096 else len
  match ctxDesc s sr (i.fld 27 25) with
  | none => fault sr rDesc (countIssue sr s)
  | some d =>
    let off' := if page then (d.base + off) / 4096 * 4096 - d.base else off
    if page ∧ (d.base + off) / 4096 * 4096 < d.base then fault sr rDesc (countIssue sr s)
    else match fabAt s sr (i.fld 27 25) off' len' true false, scratchAt s sr (i.fld 24 22) (st.s i.dst) len' 1 true with
      | .error e, _ => fault sr e (countIssue sr s)
      | _, .error e => fault sr e (countIssue sr s)
      | .ok (d, addr), .ok dest =>
        retire sr (serveStrand sr d (strandReq s sr d addr (.scratch dest len') stat 0) (if page then .pageRd else .blkRd (len / 256)) 1 s)

/-- Segments of a block write that do not cross 256-byte boundaries: place, bytes. -/
def blockSegs : Nat → Nat → Nat → List (Nat × Nat)
  | 0, _, _ => []
  | n + 1, addr, left => if left = 0 then [] else
      let k := min left (256 - addr % 256)
      (addr, k) :: blockSegs n (addr + k) (left - k)

def sendSegs (sr : StrandRef) (d : Desc) (r : Req) (parent : Nat) (data : List Byte) (base : Nat) : List (Nat × Nat) → State → State
  | [], s => s
  | (a, k) :: rest, s =>
    let q := { r with src := .txn parent (a - base), node := a / 2 ^ 48 % 65536, line := a % 2 ^ 48 / 64 }
    sendSegs sr d r parent data base rest (serveStrand sr d q (.blkWr (slotsOf ((data.drop (a - base)).take k))) 1 s)

/-- BWR: a block from the scratchpad, as segments under one request of the strand. -/
def writeBlock (sr : StrandRef) (i : Ins) (stat : Option Nat) (st : Strand) (s : State) : State :=
  let len := (st.s i.src2).toNat
  let off := (st.s i.src1).toNat
  match fabAt s sr (i.fld 27 25) off len false true, scratchAt s sr (i.fld 24 22) (st.s i.dst) len 1 false with
  | .error e, _ => fault sr e (countIssue sr s)
  | _, .error e => fault sr e (countIssue sr s)
  | .ok (d, addr), .ok from_ =>
    let data := s.readScratch sr.copse sr.ctx sr.cu from_ len
    let base := addr / 64 * 64
    let segs := blockSegs 258 base len
    let r := strandReq s sr d base .none stat 0
    if scratchBad s sr.copse sr.ctx sr.cu from_ len then retire sr (endNow r .poison s) else
    let x := { plainTxn r.src (.blkWr []) r.clr r.epoch r.node (reqDie sr) s with phase := .parts, parts := segs.length }
    retire sr (sendSegs sr d r x.id data base segs (s.addTxn x))

/-- GATH: rows by index into the scratchpad. -/
def gatherRows (sr : StrandRef) (i : Ins) (st : Strand) (s : State) : State :=
  let rowl := i.fld 3 0
  let count := i.fld 9 4 + 1
  let off := (st.s i.src1).toNat
  match scratchAt s sr (i.fld 24 22) (st.s (i.dst + 1)) (4 * count) 1 false, scratchAt s sr (i.fld 24 22) (st.s i.dst) (count * (rowl + 1) * 64) 1 true with
  | .error e, _ => fault sr e (countIssue sr s)
  | _, .error e => fault sr e (countIssue sr s)
  | .ok ia, .ok dest =>
    let idx := (List.range count).map fun k => ofBytesLE (s.readScratch sr.copse sr.ctx sr.cu (ia + 4 * k) 4)
    let top := idx.foldl max 0
    match fabAt s sr (i.fld 27 25) off ((top + 1) * ((rowl + 1) * 64)) true false with
    | .error e => fault sr e (countIssue sr s)
    | .ok (d, addr) =>
      if scratchBad s sr.copse sr.ctx sr.cu ia (4 * count) then retire sr (endNow (strandReq s sr d addr .none (statOf i i.src2) 0) .poison s) else
      retire sr (serveStrand sr d (strandReq s sr d addr (.scratch dest (count * (rowl + 1) * 64)) (statOf i i.src2) 0) (.gather rowl idx) 1 s)

/-- A request about the region of the window that holds an offset. -/
def regionReq (sr : StrandRef) (i : Ins) (wr : Bool) (lines : Nat) (ret : RetData) (st : Strand) (s : State) : Except Nat Req :=
  match fabAt s sr (i.fld 27 25) (st.s i.src1).toNat (if lines = 0 then 1 else 64 * lines) (!wr) wr with
  | .error e => .error e
  | .ok (d, addr) => if d.kind = 2 then .ok (strandReq s sr d addr ret (statOf i i.src2) 0) else .error rDesc

/-! Fences (R190-R192). -/

/-- Has a FENCE of a scope come to its end: loads returned, and from GLADE on every request ended and no line of the cache dirty? -/
def fenceDone (s : State) (sr : StrandRef) (scope : Nat) : Bool :=
  if scope < 2 then !(s.reqsOf (srcIs sr)).any returnsData
  else (s.reqsOf (srcIs sr)).isEmpty && !(s.copse sr.copse).cache.any (fun l => l.dirty)

/-- The end of a FENCE: from GLADE on the copse cache drops its writable lines. -/
def fenceEnd (sr : StrandRef) (scope : Nat) (s : State) : State := if scope < 2 then s else dropWritable sr.copse s

/-- FENCE, then something. -/
def fenceThen (sr : StrandRef) (scope : Nat) (k : State → State) (s : State) : State :=
  if fenceDone s sr scope then k (fenceEnd sr scope s) else waitFor sr .fence s

/-- Something, then FENCE: the load or atomic goes out first, and the instruction issues when the FENCE ends. -/
def thenFence (sr : StrandRef) (scope : Nat) (st : Strand) (k : State → State) (s : State) : State :=
  if st.wait = .acq then (if fenceDone s sr scope then retire sr (fenceEnd sr scope s) else s)
  else
    let s := k s
    if !(s.strand sr).live then countIssue sr s
    else if fenceDone s sr scope then retire sr (fenceEnd sr scope s) else waitFor sr .acq s

/-! The end of a strand's request (R351, R357, R485). -/

def writeBack (sr : StrandRef) (ret : RetData) (data : List Byte) (s : State) : State :=
  match ret with
  | .none | .stored _ _ => s
  | .sreg r => s.setS sr r (BitVec.ofNat 64 (ofBytesLE (data.take 8)))
  | .handle r => s.setS sr r (BitVec.ofNat 64 (ofBytesLE (data.take 5)))
  | .scratch a n => s.writeScratch sr.copse sr.ctx sr.cu a (data.take n)
  | .line v m node line pin viaW =>
    let s := s.writeBay sr (256 * v + 64 * m) (data.take 64)
    if node < 65536 then fillLine sr.copse sr.ctx node line (bytesLine data) pin viaW false s else s

/-- The end of a request reaches its strand. -/
def deliverStrand (sr : StrandRef) (ret : RetData) (stat : Option Nat) (pc : Nat) (st : Status) (data : List Byte) (s : State) : State :=
  let s : State := match ret with
    | .stored node line => cleanLine sr.copse node line (st == .ok) s
    | _ => s
  match s.ctx? sr.copse sr.ctx with
  | some x =>
    if (x.cause.map EndCause.torn).getD false then s
    else
      let s := if st = .ok ∧ x.state ≠ .ending then writeBack sr ret data s else s
      let s : State := match stat with
        | some r => if x.state ≠ .ending then s.setS sr r (BitVec.ofNat 64 st.code) else s
        | none => if st = .ok then s else failWith sr st pc s
      wakeStrand sr s
  | none => s

end Sys2Proof.Machine
end

