-- ==== Sys2Proof/Machine/NarrowOps.lean ====
section
/-! DEFINITION. Conversions of whole vectors (R326-R335, R359-R362), chunks (R369), amax streams (R331) and the residual step (R337). -/

namespace Sys2Proof.Machine

/-! Blocks. -/

/-- Elements of a block of a format. -/
def NFmt.block : NFmt → Nat
  | .t2 => 64
  | _ => 32

/-- Bytes of a block's elements. -/
def NFmt.blockBytes (f : NFmt) : Nat := f.block * f.width / 8

/-- Has a block a scale byte? -/
def NFmt.scaled (f : NFmt) : Bool := f != .bf16

/-- May a conversion to the format promote (R333)? -/
def NFmt.promotes : NFmt → Bool
  | .fp4 | .fp4e | .e2m3 | .e3m2 | .t2 | .l3 => true
  | _ => false

/-- The settings of a conversion. -/
structure ConvSet where
  fmt : NFmt
  smode : Nat
  rmode : Nat
  promoEn : Bool
  promoN : Nat
  delayed : Option F32       -- amax_d where a stream with a history is used
deriving DecidableEq, Repr

/-- A block of an output. -/
structure OutBlock where
  scale : Nat
  codes : List Nat
  outliers : List (Nat × Nat)    -- position and BF16 value
  clamped : Nat                  -- clamped elements of the main output
  promo : List NBlock            -- the MXFP8 copy of a promoted block
deriving DecidableEq, Repr

/-- What a conversion gives. -/
structure ConvOut where
  blocks : List OutBlock
  rng : Rng
  pcur : Nat
  sat : Nat
  promoted : Nat
deriving DecidableEq, Repr

/-- Elements beyond 6.0 × scale: at most two, largest |x| first, then lowest position (R360). -/
def outliersOf (scale : Nat) (xs : List F32) : List Nat :=
  match NFmt.fp4.scaleNum scale with
  | .fin _ sm se =>
    let far (x : F32) : Bool := match f32num x with
      | .nan => false
      | .inf _ => true
      | .fin _ m e => let (num, den) := fraction m e sm se; decide (NFmt.fp4.mag 7 * den < num)
    let is := (List.range xs.length).filter fun i => far (xs.getD i 0)
    (sortBy (fun i j => decide ((xs.getD j 0).toNat % 2 ^ 31 < (xs.getD i 0).toNat % 2 ^ 31)
      || ((xs.getD j 0).toNat % 2 ^ 31 == (xs.getD i 0).toNat % 2 ^ 31 && decide (i ≤ j))) is).take 2
  | _ => []

/-- The scale byte that a block takes. -/
def blockScale (c : ConvSet) (xs : List F32) : Nat :=
  match c.smode, c.delayed with
  | 2, some a => scaleByte c.fmt true a
  | 2, none => scaleByte c.fmt true (amaxOf xs)
  | 1, _ => scaleByte c.fmt true (amaxOf xs)
  | _, _ => scaleByte c.fmt false (amaxOf xs)

/-- One block in the main output. -/
def mainBlock (c : ConvSet) (xs : List F32) (r : Rng) : OutBlock × Rng :=
  let scale := blockScale c xs
  let out := if c.fmt = .fp4e then outliersOf scale xs else []
  let ys := (List.range xs.length).map fun i => if out.contains i then (0 : F32) else xs.getD i 0
  let (b, r) := convertScaled c.fmt c.rmode scale ys r
  ({ scale := b.scale, codes := b.codes, outliers := out.map fun i => (i, bf16rne (f32num (xs.getD i 0))), clamped := b.clamped, promo := [] }, r)

/-- The MXFP8 E4M3 copy of a block, scales by FIT. -/
def promoBlocks (rmode : Nat) : List (List F32) → Rng → List NBlock × Rng
  | [], r => ([], r)
  | xs :: rest, r =>
    let (b, r) := convertBlock .e4m3 1 rmode none xs r
    let (bs, r) := promoBlocks rmode rest r
    (b :: bs, r)

/-- Blocks in order; `room` is the size of the promotion area, none where no area is named. -/
def convertAll (c : ConvSet) (room : Option Nat) : List (List F32) → ConvOut → ConvOut
  | [], o => o
  | xs :: rest, o =>
    let (b, r) := mainBlock c xs o.rng
    let size := 33 * (c.fmt.block / 32)
    let fits := match room with
      | some n => decide (o.pcur + size ≤ n)
      | none => false
    if c.fmt.promotes && c.promoEn && decide (c.promoN < b.clamped) && fits then
      let (ps, r) := promoBlocks c.rmode (piecesOf 32 2 xs) r
      convertAll c room rest { blocks := o.blocks ++ [{ b with promo := ps }], rng := r, pcur := o.pcur + size, sat := o.sat, promoted := o.promoted + 1 }
    else convertAll c room rest { blocks := o.blocks ++ [b], rng := r, pcur := o.pcur, sat := o.sat + b.clamped, promoted := o.promoted }

/-- Bytes of a block's elements. -/
def OutBlock.elems (f : NFmt) (b : OutBlock) : List Byte := packBits f.width b.codes

/-- The two outlier records of a block (R322). -/
def OutBlock.records (b : OutBlock) : List Byte :=
  ((List.range 2).map fun k => match b.outliers[k]? with
    | some (p, v) => BitVec.ofNat 8 (128 + p) :: toBytesLE 2 v
    | none => [0, 0, 0]).flatten

/-- The entry of a promoted block (R334). -/
def OutBlock.entry (b : OutBlock) : List Byte :=
  (b.promo.map fun p => BitVec.ofNat 8 p.scale :: p.codes.map fun c => BitVec.ofNat 8 c).flatten

/-- The value of each element of a block as its reader sees it; a promoted block by its MXFP8 copy (R337). -/
def OutBlock.values (f : NFmt) (b : OutBlock) : List Num :=
  if b.promo ≠ [] then (b.promo.map fun p => p.nums .e4m3).flatten
  else (List.range b.codes.length).map fun i =>
    match b.outliers.find? fun o => o.1 == i with
    | some o => bf16num o.2
    | none => if f = .bf16 then f.num (b.codes.getD i 0) else (f.num (b.codes.getD i 0)).mul (f.scaleNum b.scale)

/-- Scale bytes of blocks. -/
def scalesOf (f : NFmt) (bs : List OutBlock) : List Byte := if f.scaled then bs.map fun b => BitVec.ofNat 8 b.scale else []

/-- Outlier records of blocks. -/
def recordsOf (f : NFmt) (bs : List OutBlock) : List Byte := if f = .fp4e then (bs.map OutBlock.records).flatten else []

/-! Widening. -/

/-- The values of a block from its element bytes, its scale byte and its outlier records. -/
def widenBlock (f : NFmt) (elems : List Byte) (scale : Nat) (recs : List Byte) : List F32 :=
  let codes := unpackBits f.width f.block elems
  let rec_ (k : Nat) : Option (Nat × Nat) :=
    let b := (recs.getD (3 * k) 0).toNat
    if f = .fp4e ∧ 128 ≤ b then some (b % 32, ofBytesLE ((recs.drop (3 * k + 1)).take 2)) else none
  (List.range f.block).map fun i =>
    let own := match rec_ 0, rec_ 1 with
      | some (p, v), o => if p = i then some v else (match o with
          | some (q, w) => if q = i then some w else none
          | none => none)
      | none, some (q, w) => if q = i then some w else none
      | none, none => none
    match own with
    | some v => widen v
    | none => if f = .bf16 then f32of (f.num (codes.getD i 0)) else f32of ((f.num (codes.getD i 0)).mul (f.scaleNum scale))

/-! Chunks (R369). -/

def NFmt.chunkElems (f : NFmt) : Nat := 16 * f.block

def NFmt.chunkBytes (f : NFmt) : Nat := (if f.scaled then 16 else 0) + 16 * f.blockBytes + (if f = .fp4e then 96 else 0)

def packChunk (f : NFmt) (bs : List OutBlock) : List Byte := scalesOf f bs ++ (bs.map (OutBlock.elems f)).flatten ++ recordsOf f bs

/-- Blocks as chunks. -/
def packChunks (f : NFmt) (bs : List OutBlock) : List Byte := ((piecesOf 16 (bs.length / 16 + 1) bs).map (packChunk f)).flatten

/-- n whole blocks with their scales first, then their elements, then their records: a chunk, or a row (R404). -/
def widenBlocks (f : NFmt) (n : Nat) (bs : List Byte) : List F32 :=
  let sc := if f.scaled then n else 0
  ((List.range n).map fun j =>
    widenBlock f ((bs.drop (sc + j * f.blockBytes)).take f.blockBytes) (bs.getD j 0).toNat ((bs.drop (sc + n * f.blockBytes + 6 * j)).take 6)).flatten

/-- Bytes of n blocks laid out so. -/
def NFmt.rowBytes (f : NFmt) (n : Nat) : Nat := (if f.scaled then n else 0) + n * f.blockBytes + (if f = .fp4e then 6 * n else 0)

/-- The blocks of a vector, as such a row. -/
def packRow (f : NFmt) (bs : List OutBlock) : List Byte := packChunk f bs

def widenChunks (f : NFmt) (bs : List Byte) : List F32 :=
  ((piecesOf f.chunkBytes (bs.length / f.chunkBytes + 1) bs).map (widenBlocks f 16)).flatten

/-- FP32 codes in bytes. -/
def f32Bytes (xs : List F32) : List Byte := (xs.map fun x => toBytesLE 4 x.toNat).flatten

def bytesF32 (n : Nat) (bs : List Byte) : List F32 := (List.range n).map fun i => BitVec.ofNat 32 (ofBytesLE ((bs.drop (4 * i)).take 4))

/-- Element-wise FP32 sum of two vectors. -/
def addVec : List F32 → List F32 → List F32
  | x :: xs, y :: ys => f32add x y :: addVec xs ys
  | _, _ => []

/-! amax streams (R331, R332). -/

/-- The amax entry of a stream of a clearing on a copse: entries of a copse belong to the one clearing that holds it. -/
def amaxEnt (c : Copse) (stream : Nat) : Option (Nat × AmaxEnt) := c.amax.find? fun e => e.2.stream == stream

/-- amax_d: the largest value of a history; none while it is empty. -/
def amaxD (c : Copse) (stream : Nat) : Option F32 := match amaxEnt c stream with
  | some (_, e) => if e.hist = [] then none else some (e.hist.foldl f32maxMag 0)
  | none => none

/-- A conversion that names a stream. -/
def amaxUpdate (copse stream : Nat) (a : F32) (s : State) : State :=
  let c := s.copse copse
  s.setCopse copse { c with amax := SMap.mapVals (fun _ e => if e.stream == stream then { e with cur := f32maxMag e.cur a } else e) c.amax }

/-- A roll of a stream. -/
def amaxRoll (copse stream : Nat) (s : State) : State :=
  let c := s.copse copse
  s.setCopse copse { c with amax := SMap.mapVals (fun _ e => if e.stream == stream then
    { e with hist := (e.hist ++ [e.cur]).drop (e.hist.length + 1 - 16), rolls := (e.rolls + 1) % 16, cur := 0 } else e) c.amax }

/-! Conversions of a strand. -/

/-- The fields of a conversion word (Table 09.13). -/
structure ConvWord where
  stream : Nat
  sv : Bool
  pa : Nat
  pv : Bool
  blk : Nat
  pcur : Nat
deriving DecidableEq, Repr

def ConvWord.of (w : Word) : ConvWord :=
  { stream := bitsOf w 63 52, sv := natBit w.toNat 51, pa := bitsOf w 50 48, pv := natBit w.toNat 47, blk := bitsOf w 46 24, pcur := bitsOf w 23 0 }

/-- The word with BLK and PCUR advanced. -/
def ConvWord.advance (w : Word) (blocks pcur : Nat) : Word := setBits (setBits w 46 24 (bitsOf w 46 24 + blocks)) 23 0 pcur

/-- The stream that a conversion uses: declared by the program. -/
def usedStream (x : Ctx) (w : ConvWord) : Option Nat := if w.sv && x.hdr.amax.contains w.stream then some w.stream else none

/-- The tag bits of n blocks from number blk on, at byte address `at_` of a CU's scratchpad. -/
def writeTags (copse n cu at_ : Nat) : List Bool → Nat → State → State
  | [], _, s => s
  | t :: ts, blk, s =>
    let a := at_ + blk / 8
    let old := ofBytesLE (s.readScratch copse n cu a 1)
    let v := if t then old ||| 2 ^ (blk % 8) else if natBit old (blk % 8) then old - 2 ^ (blk % 8) else old
    writeTags copse n cu at_ ts (blk + 1) (s.writeScratch copse n cu a (toBytesLE 1 v))

/-- A promotion area in use: its address on the CU, AUX and the room after it; none where it is not named; an error where its descriptor is not usable for the tag bits. -/
def promoArea (s : State) (sr : StrandRef) (w : ConvWord) (blocks : Nat) : Except Nat (Option (Nat × Nat × Nat)) :=
  if !w.pv then .ok none
  else match ctxDesc s sr w.pa with
    | some d =>
      let lo := w.blk / 8
      let n := (w.blk + blocks + 7) / 8 - lo
      (match scratchAt s sr w.pa (BitVec.ofNat 64 lo) n 1 true with
        | .ok a => .ok (some (a - lo, d.aux, d.len - d.aux))
        | .error e => .error e)
    | none => .error rDesc

/-- A conversion by a strand (R326-R335, R361): its output, and the state after its streams, promotion area, generator, counts and conversion word are updated. -/
def convertFor (sr : StrandRef) (f : NFmt) (wordReg : Nat) (blocks : List (List F32)) (s : State) : Except Nat (ConvOut × State) :=
  match s.ctx? sr.copse sr.ctx with
  | none => .error rDesc
  | some x =>
    let st := x.strand (strandKey sr)
    let word := st.s wordReg
    let w := ConvWord.of word
    match promoArea s sr w blocks.length with
    | .error e => .error e
    | .ok area =>
      let stream := usedStream x w
      let c : ConvSet := { fmt := f, smode := st.smode, rmode := st.rmode, promoEn := st.promoEn, promoN := st.promoN,
                           delayed := stream.bind (amaxD (s.copse sr.copse)) }
      let o := convertAll c (area.map fun a => a.2.2) blocks { blocks := [], rng := { state := st.srState, byte := st.srByte }, pcur := w.pcur, sat := 0, promoted := 0 }
      let s := match stream with
        | some n => amaxUpdate sr.copse n (amaxOf blocks.flatten) s
        | none => s
      let s := match area with
        | some (a, aux, _) =>
          (writeTags sr.copse sr.ctx sr.cu a (o.blocks.map fun (b : OutBlock) => decide (b.promo ≠ [])) w.blk s).writeScratch sr.copse sr.ctx sr.cu (a + aux + w.pcur)
            ((o.blocks.map OutBlock.entry).flatten)
        | none => s
      let s := (s.fadd GL_CNT_ARITH.PROMOTED (glIx sr.copse) o.promoted).modCtx sr.copse sr.ctx fun x => { x with sat := x.sat + o.sat, promoted := x.promoted + o.promoted }
      .ok (o, s.modStrand sr fun st => { st.setS wordReg (ConvWord.advance word blocks.length o.pcur) with srState := o.rng.state, srByte := o.rng.byte })

/-! Residual streams (R336-R338). -/

def residEnt (c : Copse) (stream : Nat) : Option (Nat × ResidEnt) := c.resid.find? fun e => e.2.stream == stream

/-- The place of element i of a stream in the T0 store. -/
def residAddr (copse : Nat) (e : ResidEnt) (i : Nat) : Nat := chKey copse (0x52400000 + e.units.getD (i / 32768) 0 * 65536 + 2 * (i % 32768))

/-- Runs of elements within the units of a stream: unit by unit, as (first element, count). -/
def residRuns (n : Nat) : List (Nat × Nat) := (List.range ((n + 32767) / 32768)).map fun k => (32768 * k, min 32768 (n - 32768 * k))

def readResid (copse : Nat) (e : ResidEnt) (n : Nat) (s : State) : List Nat :=
  ((residRuns n).map fun r => let bs := readBytes s.fab.t0 (residAddr copse e r.1) (2 * r.2)
                              (List.range r.2).map fun i => ofBytesLE ((bs.drop (2 * i)).take 2)).flatten

def residBad (copse : Nat) (e : ResidEnt) (n : Nat) (s : State) : Bool := (residRuns n).any fun r => t0Bad s (residAddr copse e r.1) (2 * r.2)

def writeResid (copse : Nat) (e : ResidEnt) (vs : List Nat) : List (Nat × Nat) → State → State
  | [], s => s
  | (i, n) :: rest, s => writeResid copse e vs rest (t0Write (residAddr copse e i) (((vs.drop i).take n).map (toBytesLE 2)).flatten s)

/-- The residual that an element leaves (R337). -/
def residOf (y : F32) (q : Num) : Nat := match (f32num y).add q.neg with
  | .fin a m e => bf16rne (.fin a m e)
  | _ => 0

/-- Replace the entry at a place. -/
def setResid (copse k : Nat) (e : ResidEnt) (s : State) : State :=
  let c := s.copse copse
  s.setCopse copse { c with resid := SMap.put c.resid k e }

/-- A residual restarts, counted (R337, R338). -/
def countRestart (copse : Nat) (again : Bool) (s : State) : State := if again then s.fadd GL_CNT_ARITH.RESID_RESET (glIx copse) 1 else s

/-- Before the conversion of a step: the vector y, whether the residual restarted, or none where the residual reads uncorrectable, which restarts it. -/
def residStart (copse : Nat) (stream : Option Nat) (step n : Nat) (x : List F32) (s : State) : Option (List F32 × Bool) × State :=
  match stream.bind (residEnt (s.copse copse)) with
  | some (k, e) =>
    if e.valid ∧ step = (e.step + 1) % 2 ^ 32 ∧ n = e.n then
      if residBad copse e n s then (none, countRestart copse true (setResid copse k { e with valid := false } s))
      else (some (addVec x ((readResid copse e n s).map widen), false), s)
    else (some (addVec x (List.replicate n 0), step != 0), countRestart copse (step != 0) s)
  | none => (some (addVec x (List.replicate n 0), step != 0), countRestart copse (step != 0) s)

/-- After the conversion: the residual is stored and the step kept. -/
def residEnd (copse : Nat) (stream : Option Nat) (step n : Nat) (y : List F32) (qs : List Num) (s : State) : State :=
  match stream.bind (residEnt (s.copse copse)) with
  | some (k, e) =>
    let vs := (y.zip qs).map fun p => residOf p.1 p.2
    setResid copse k { e with step := step, valid := true } (writeResid copse e vs (residRuns (min n (32768 * e.units.length))) s)
  | none => s

end Sys2Proof.Machine
end

