-- ==== Sys2Proof/Machine/TileOps.lean ====
section
/-! DEFINITION. Operand panels and the tile multiply (R311-R317, Tables 08.5 and 08.6). -/

namespace Sys2Proof.Machine

/-- Groups of a row of a panel. -/
def NFmt.groups (f : NFmt) : Nat := f.k / f.group

def NFmt.panelElems (f : NFmt) : Nat := 32 * (f.k * f.width / 8)

def NFmt.panelScales (f : NFmt) : Nat := if f.scaled then 32 * f.groups else 0

/-- Bytes of a panel (Table 08.6). -/
def NFmt.panelBytes (f : NFmt) : Nat := f.panelElems + f.panelScales + (if f = .fp4e then 384 else 0)

/-- An operand of a TMMA: element, scale and outlier regions. -/
structure Panel where
  fmt : NFmt
  elems : List Byte
  scales : List Byte
  recs : List Byte
deriving DecidableEq, Repr

/-- A panel from its bytes. -/
def Panel.ofBytes (f : NFmt) (bs : List Byte) : Panel :=
  { fmt := f, elems := bs.take f.panelElems, scales := (bs.drop f.panelElems).take f.panelScales, recs := bs.drop (f.panelElems + f.panelScales) }

/-- Row i of A or column i of B: the groups, each as its scale and its elements. -/
def Panel.row (p : Panel) (i : Nat) : List (Num × List Num) :=
  let f := p.fmt
  let rb := f.k * f.width / 8
  let codes := unpackBits f.width f.k ((p.elems.drop (rb * i)).take rb)
  (List.range f.groups).map fun b =>
    let sc := if f.scaled then f.scaleNum (p.scales.getD (f.groups * i + b) 0).toNat else .fin false 1 0
    (sc, (List.range f.group).map fun k => f.num (codes.getD (f.group * b + k) 0))

/-- The outliers of a group of a row: position and value; record 0 wins a position that both name (R322). -/
def Panel.outliers (p : Panel) (i b : Nat) : List (Nat × Num) :=
  if p.fmt = .fp4e then
    let at_ (k : Nat) : Option (Nat × Num) :=
      let o := 3 * (2 * (2 * i + b) + k)
      let h := (p.recs.getD o 0).toNat
      if 128 ≤ h then some (h % 32, bf16num (ofBytesLE ((p.recs.drop (o + 1)).take 2))) else none
    match at_ 0, at_ 1 with
    | some a, some c => if a.1 = c.1 then [a] else [a, c]
    | some a, none => [a]
    | none, some c => [c]
    | none, none => []
  else []

/-- The exact sum of products. -/
def dotExact : List Num → List Num → Num
  | x :: xs, y :: ys => (x.mul y).add (dotExact xs ys)
  | _, _ => .fin false 0 0

/-- The exact scaled sum of one group (R311): outliers take the place of their elements and are not multiplied by the scale of A. -/
def groupTerm (sa sb : Num) (as bs : List Num) (outs : List (Nat × Num)) : Num :=
  let as' := (List.range as.length).map fun k => if outs.any (fun o => o.1 == k) then Num.fin false 0 0 else as.getD k (.fin false 0 0)
  let base := (sa.mul sb).mul (dotExact as' bs)
  outs.foldl (fun t o => t.add (sb.mul (o.2.mul (bs.getD o.1 (.fin false 0 0))))) base

/-- The groups of an element of the accumulator, in ascending order: its new value and how many adds overflowed. -/
def tileElem (a : List (Num × List Num)) (b : List (Num × List Num)) (outs : List (List (Nat × Num))) (acc : F32) : F32 × Nat :=
  (List.range a.length).foldl (fun (r : F32 × Nat) g =>
    let x := a.getD g (.nan, [])
    let y := b.getD g (.nan, [])
    let (v, o) := fusedAdd r.1 (groupTerm x.1 y.1 x.2 y.2 (outs.getD g []))
    (v, r.2 + boolNat o)) (acc, 0)

/-- A TMMA on an accumulator of 1,024 elements, row by row (R311, R312): the new accumulator and the overflows. -/
def tileMul (a b : Panel) (acc : List F32) : List F32 × Nat :=
  let cols := (List.range 32).map b.row
  let rows := (List.range 32).map fun i =>
    let r := a.row i
    let outs := (List.range a.fmt.groups).map (a.outliers i)
    (List.range 32).map fun j => tileElem r (cols.getD j []) outs (acc.getD (32 * i + j) 0)
  let es := rows.flatten
  (es.map Prod.fst, (es.map Prod.snd).sum)

end Sys2Proof.Machine
end

