-- ==== Sys2Proof/Machine/GroveOps.lean ====
section
/-! DEFINITION. Grove instances (chapter 10): configuration records, the service messages' common part, sends and reads, statistics. -/

namespace Sys2Proof.Machine

/-! Access. -/

def State.svcOf (s : State) (key : Nat) : Svc := SMap.get .reset s.svc key

def State.setSvc (s : State) (key : Nat) (v : Svc) : State := { s with svc := SMap.put s.svc key v }

def State.modSvc (s : State) (key : Nat) (f : Svc → Svc) : State := match SMap.get? s.svc key with
  | some v => s.setSvc key (f v)
  | none => s

def Svc.num (v : Svc) (off n : Nat) : Nat := field v.conf off n
def Svc.gid (v : Svc) : Nat := v.num 4 2
def Svc.svcNo (v : Svc) : Nat := v.num 8 4
def Svc.c (v : Svc) : Nat := v.num 0x0C 1
def Svc.resid (v : Svc) : Bool := natBit (v.num 0x0D 1) 0
def Svc.p (v : Svc) : Nat := v.num 0x0E 2
def Svc.stats (v : Svc) : Nat := v.num 0x10 8
def Svc.mcg (v : Svc) : Nat := v.num 0x1C 2
def Svc.state0 (v : Svc) : Nat := v.num 0x1E 2
def Svc.amax (v : Svc) : Option Nat := if v.num 0x20 2 = 0xFFFF then none else some (v.num 0x20 2)
def Svc.fmt (v : Svc) (off : Nat) : NFmt := (fmtOf (v.num off 1)).getD .bf16

/-- LIMIT in ns, 0 acting as 1. -/
def Svc.limit (v : Svc) : Nat := max 1 (v.num 0x18 4) * 10000

/-- Package time since an instant. -/
def since (s : State) (t : Nat) : Nat := (s.pkg + 2 ^ 64 - t) % 2 ^ 64

/-- A number of bytes padded to a multiple of 16, as messages are (R371). -/
def pad16 (n : Nat) : Nat := (n + 15) / 16 * 16

def padBytes (bs : List Byte) : List Byte := bs ++ List.replicate (pad16 bs.length - bs.length) 0

/-! Configuration records (Tables 10.1, 10.2, R385). -/

/-- Bytes of a record up to the end of its body's fields. -/
def confBytes (gid : Nat) : Nat := match gid with
  | 4 => 0x50
  | 5 => 0x60
  | 6 => 0x4C
  | 7 => 0x68
  | _ => 0x48

/-- Segments of a collective. -/
def segTotal (n : Nat) : Nat := (n + 4095) / 4096

/-- Elements of a segment. -/
def segElems (n sg : Nat) : Nat := min 4096 (n - 4096 * sg)

/-- The segments of CU u of instance i. -/
def cuSegs (n c i u : Nat) : List Nat := (List.range (segTotal n)).filter fun sg => sg % c == i && sg / c % 16 == u

def cuElems (n c i u : Nat) : Nat := ((cuSegs n c i u).map (segElems n)).sum

/-- Is a configuration record well formed for a Grove program and an instance index (R385, R393, R397, R401, R404, R407, R412)? -/
def confOk (gid : Nat) (conf : List Byte) (i : Nat) : Bool :=
  let f (off n : Nat) : Nat := field conf off n
  let c := f 0x0C 1
  let p := f 0x0E 2
  let resid := f 0x0D 1
  let am := f 0x20 2
  let collective : Bool := decide (1 ≤ gid) && decide (gid ≤ 3)
  let fm (off : Nat) : Bool := (fmtOf (f off 1)).isSome
  let ff (off : Nat) : NFmt := (fmtOf (f off 1)).getD .bf16
  f 0 4 == 0x4E444743 && f 4 2 == gid && f 6 2 == 1 && decide (1 ≤ c) && decide (c ≤ 16) && decide (i < c) && decide (1 ≤ p) && decide (p ≤ 512)
    && decide (resid ≤ boolNat collective) && decide (f 0x1E 2 < 2048) && (decide (am < 4096) || am == 0xFFFF) && f 0x24 4 == 0 && f 0x30 16 == 0
    && (resid == 0 || decide (f 0x22 2 + 16 * c ≤ 4096))
    && (match gid with
      | 1 | 2 | 3 =>
        let n := f 0x40 4
        n % 1024 == 0 && decide (1024 ≤ n) && decide (n ≤ 268435456) && fm 0x44 && fm 0x45 && (gid != 1 || decide (f 0x46 2 < p))
          && (gid != 3 || f 0x1C 2 != 0) && (resid == 0 || decide (n ≤ c * 524288))
      | 4 =>
        let mwin := if f 0x41 1 = 0 then 256 else f 0x41 1
        c == 1 && f 0x1C 2 != 0 && decide (1 ≤ f 0x40 1) && decide (f 0x40 1 ≤ mwin)
      | 5 =>
        let d := f 0x50 2
        let rowb := f 0x4C 2
        decide (64 ≤ rowb) && decide (rowb ≤ 1024) && rowb % 64 == 0 && fm 0x4E && decide (f 0x4F 1 ≤ 2) && d % 32 == 0 && fm 0x52 && f 0x53 13 == 0
          && decide ((ff 0x4E).rowBytes ((d + (ff 0x4E).block - 1) / (ff 0x4E).block) ≤ rowb)
      | 6 =>
        let di := f 0x42 2
        let do_ := f 0x44 2
        f 0x40 2 != 0 && di % 32 == 0 && do_ % 32 == 0 && decide (di ≤ 8192) && decide (do_ ≤ 8192) && fm 0x46 && fm 0x47 && decide (1 ≤ f 0x48 1)
          && decide (f 0x48 1 ≤ 8) && decide (1 ≤ f 0x49 1) && decide (1 ≤ f 0x4A 2) && decide (f 0x4A 2 ≤ 1000)
      | 7 =>
        let nb := f 0x50 4
        let bt := f 0x54 2
        let ds := f 0x56 2
        let kvb := f 0x5C 4
        decide (nb ≤ 1048576) && [16, 32, 64, 128, 256, 512, 1024].contains bt && decide (nb * bt ≤ 16777216) && fm 0x58 && fm 0x59
          && ff 0x58 != .fp4e && ff 0x59 != .fp4e && pairOk (ff 0x59) (ff 0x58) && decide (ds ≤ 1024) && ds % (ff 0x58).k == 0 && decide (f 0x5A 1 ≤ 1)
          && f 0x5B 1 == 0 && kvb % 256 == 0 && decide (kvb ≤ 65536)
      | _ => false)

/-- The ring of an instance's receive queue: the spec gives Grove programs no RXQ, so its size is the model's. -/
def groveRing (gid : Nat) : Nat := if gid = 4 then 32768 else 131072

/-- The header of a Grove program (Table 10.1), with the declarations that its record completes. -/
def groveHeader (gid : Nat) (conf : List Byte) (i : Nat) : Header :=
  let v : Svc := { Svc.reset with conf := conf, idx := i }
  let (cus, strands, pages, bays, sorter) : Nat × Nat × Nat × Nat × Nat := match gid with
    | 4 => (1, 4, 16, 0, 0)
    | 5 => (16, 64, 64, 4, 0)
    | 6 => (16, 128, 128, 4, 0)
    | 7 => (16, 32, 128, 4, 1)
    | _ => (16, 64, 128, 4, 0)
  { ok := true, codeOk := true, priv := false, mgmt := false, plain := gid != 4, codeLen := 8, entry := 0, initLen := 0, cus := cus, strands := strands, pages := pages,
    bays := bays, privWays := 0, pinWays := 0, sorter := sorter, rxq := 0, prio := 0, state0 := v.state0, runLimit := 0, seed := 0, lit := List.replicate 4 0,
    descs := [{ kind := 1, rights := 3, clr := 0, aux := 0, base := 0, len := groveRing gid, reserved := false }],
    amax := match v.amax with
      | some a => [a]
      | none => [],
    resid := if v.resid then (List.range 16).map fun u => (v.num 0x22 2 + 16 * i + u, cuElems (v.num 0x40 4) v.c i u) else [] }

/-! Work under way. -/

/-- A new piece of work with a number of pieces. -/
def newJob (key : Nat) (k : SvcJobKind) (left : Nat) (s : State) : Nat × State :=
  let v := s.svcOf key
  (v.nextJob, s.setSvc key { v with jobs := SMap.put v.jobs v.nextJob { kind := k, left := left, got := [], bad := [] }, nextJob := v.nextJob + 1 })

def dropJob (key j : Nat) (s : State) : State := s.modSvc key fun v => { v with jobs := SMap.erase v.jobs j }

def svcReq (s : State) (key j piece : Nat) (addr : Nat) : Req :=
  let clr := match s.ctx? (key / 32) (key % 32) with
    | some x => x.clr
    | none => 0
  { src := .service key j piece, clr := clr, epoch := s.epoch, gen := 0, node := addr / 2 ^ 48 % 65536, line := addr % 2 ^ 48 / 64 }

def svcDie (key : Nat) : Nat := copseDie (key / 32)

/-- Read n lines from the line of an address on, as pieces from p on. -/
def readLines (key j addr : Nat) : Nat → Nat → State → State
  | 0, _, s => s
  | n + 1, p, s => readLines key j (addr + 64) n (p + 1) (serveMem (svcReq s key j p addr) .load false 1 (svcDie key) s)

/-- Lines that hold n bytes from an address on. -/
def linesOf (addr n : Nat) : Nat := if n = 0 then 0 else (addr % 64 + n + 63) / 64

/-- The bytes that such lines hold, from pieces p on. -/
def lineData (got : SMap (List Byte)) (addr n p : Nat) : List Byte :=
  ((((List.range (linesOf addr n)).map fun k => SMap.get [] got (p + k)).flatten).drop (addr % 64)).take n

/-- A whole-line store of an instance. -/
def svcStore (key addr : Nat) (bs : List Byte) (s : State) : State :=
  let (j, s) := newJob key .write 1 s
  serveMem (svcReq s key j 0 addr) (.store (bytesLine bs)) false 1 (svcDie key) s

/-- A service header (Table 10.3). -/
def svcHeader (v : Svc) (sop fmt status flags step rank count first aux tag0 : Nat) : List Byte :=
  [BitVec.ofNat 8 sop, BitVec.ofNat 8 fmt, BitVec.ofNat 8 status, BitVec.ofNat 8 flags] ++ toBytesLE 4 v.svcNo ++ toBytesLE 4 step ++ toBytesLE 2 rank
    ++ toBytesLE 2 count ++ toBytesLE 4 first ++ toBytesLE 4 aux ++ toBytesLE 8 tag0

def svcMsgTo (s : State) (key j : Nat) (bs : List Byte) : RxWait :=
  let r := svcReq s key j 0 0
  { sender := BitVec.ofNat 64 (ctxHandle s (key / 32) (key % 32)), tag := 0, bytes := padBytes bs, src := r.src, clr := r.clr, epoch := r.epoch }

/-- Send a message to a handle; one longer than a SEND carries is refused as a SEND is (R371, R388). -/
def svcSend (key : Nat) (k : SvcJobKind) (target : Nat) (bs : List Byte) (s : State) : State :=
  let (j, s) := newJob key k 1 (s.modSvc key fun v => { v with bytesOut := v.bytesOut + bs.length })
  let m := svcMsgTo s key j bs
  if 65536 < m.bytes.length then endReq m.src m.clr m.epoch (svcDie key) .denied [] false s else sendMessage m target (svcDie key) s

/-- Send a message to the group of the participants. -/
def svcSendGroup (key : Nat) (bs : List Byte) (s : State) : State :=
  let (j, s) := newJob key .result 1 (s.modSvc key fun v => { v with bytesOut := v.bytesOut + bs.length })
  sendGroup (svcMsgTo s key j bs) (s.svcOf key).mcg (svcDie key) s

/-- The return handle of a rank. -/
def retOf (v : Svc) (rank : Nat) : Nat := (v.ret.getD rank 0).toNat

/-- A result send (R391). -/
def svcResult (key rank : Nat) (bs : List Byte) (s : State) : State := svcSend key .result (retOf (s.svcOf key) rank) bs s

/-- May an instance run now? -/
def svcRuns (s : State) (key : Nat) : Bool := (s.ctx? (key / 32) (key % 32)).any fun x =>
  (x.state == .running || x.state == .blocked) && x.started && x.gid != 0 && !s.com.stopped

/-- The statistics record (Table 10.5). -/
def statsRecord (s : State) (key : Nat) : List Byte :=
  let v := s.svcOf key
  let (sat, promoted) := match s.ctx? (key / 32) (key % 32) with
    | some x => (x.sat, x.promoted)
    | none => (0, 0)
  toBytesLE 8 s.pkg ++ toBytesLE 8 v.done ++ toBytesLE 4 v.bad ++ toBytesLE 4 v.dup ++ toBytesLE 4 v.late ++ toBytesLE 4 v.timeouts ++ toBytesLE 4 v.sendFail
    ++ toBytesLE 4 sat ++ toBytesLE 4 promoted ++ toBytesLE 4 v.residReset ++ toBytesLE 8 v.bytesIn ++ toBytesLE 8 v.bytesOut

/-- Write the statistics record (R392). -/
def svcStats (key : Nat) (s : State) : State :=
  let v := s.svcOf key
  svcStore key (v.stats + 64 * v.idx) (statsRecord s key) s

/-! Conversions of an instance. -/

/-- Blocks of a vector in a format; the last block is filled with zeros. -/
def toBlocks (f : NFmt) (xs : List F32) : List (List F32) :=
  let n := (xs.length + f.block - 1) / f.block
  piecesOf f.block n (xs ++ List.replicate (n * f.block - xs.length) 0)

/-- Convert under STATE0 and AMAX (R395); with a promotion area large enough, or none. -/
def svcConvert (key : Nat) (f : NFmt) (promo : Bool) (xs : List F32) (s : State) : ConvOut × State :=
  let v := s.svcOf key
  let copse := key / 32
  let st := v.state0
  let c : ConvSet := { fmt := f, smode := natBits st 3 2, rmode := natBits st 1 0, promoEn := natBit st 4, promoN := natBits st 10 5,
                       delayed := v.amax.bind (amaxD (s.copse copse)) }
  let blocks := toBlocks f xs
  let o := convertAll c (if promo then some (66 * blocks.length) else none) blocks
    { blocks := [], rng := { state := v.rng.1, byte := v.rng.2 }, pcur := 0, sat := 0, promoted := 0 }
  let s := match v.amax with
    | some n => amaxUpdate copse n (amaxOf xs) s
    | none => s
  let s := (s.fadd GL_CNT_ARITH.PROMOTED (glIx copse) o.promoted).modCtx copse (key % 32) fun x => { x with sat := x.sat + o.sat, promoted := x.promoted + o.promoted }
  (o, s.modSvc key fun v => { v with rng := (o.rng.state, o.rng.byte) })

/-- The tag map of blocks. -/
def tagMap (bs : List OutBlock) : List Byte :=
  toBytesLE ((bs.length + 7) / 8) ((List.range bs.length).foldl (fun a k => if ((bs.getD k { scale := 0, codes := [], outliers := [], clamped := 0, promo := [] }).promo) ≠ [] then a + 2 ^ k else a) 0)

/-! Messages. -/

/-- A field of a message's service header. -/
def SvcMsg.num (m : SvcMsg) (off n : Nat) : Nat := field m.bytes off n
def SvcMsg.sop (m : SvcMsg) : Nat := m.num 0 1
def SvcMsg.step (m : SvcMsg) : Nat := m.num 8 4
def SvcMsg.rank (m : SvcMsg) : Nat := m.num 0x0C 2
def SvcMsg.count (m : SvcMsg) : Nat := m.num 0x0E 2
def SvcMsg.first (m : SvcMsg) : Nat := m.num 0x10 4

/-- Bytes of a segment in a format. -/
def segBytes (f : NFmt) (elems : Nat) : Nat := elems / f.chunkElems * f.chunkBytes

/-- Bytes of a vector of d elements in whole blocks. -/
def vecBytes (f : NFmt) (d : Nat) : Nat := f.rowBytes ((d + f.block - 1) / f.block)

/-- The segments of a contribution. -/
def contribSegs (v : Svc) (m : SvcMsg) : List Nat := (List.range m.count).map fun k => m.first + k * v.c

/-- The bags of a request: number of indices, BAGID, indices and weights; none if the bytes do not hold them. -/
def parseBags (wsum : Bool) : Nat → List Byte → Option (List (Nat × Nat × List Nat × List Nat) × List Byte)
  | 0, bs => some ([], bs)
  | n + 1, bs =>
    let k := field bs 0 2
    let size := 4 + 4 * k + (if wsum then (2 * k + 3) / 4 * 4 else 0)
    if k = 0 ∨ 1024 < k ∨ bs.length < size then none
    else
      let idx := (List.range k).map fun i => field bs (4 + 4 * i) 4
      let ws := if wsum then (List.range k).map fun i => field bs (4 + 4 * k + 2 * i) 2 else []
      match parseBags wsum n (bs.drop size) with
      | some (r, rest) => some ((k, field bs 2 2, idx, ws) :: r, rest)
      | none => none

/-- The payload length that SOP and COUNT give, if the message's other fields admit one (R389). -/
def expectedLen (v : Svc) (m : SvcMsg) : Option Nat :=
  match m.sop with
  | 1 =>
    let n := v.num 0x40 4
    let sg := contribSegs v m
    if m.count = 0 ∨ sg.any (fun x => decide (segTotal n ≤ x) || x % v.c != v.idx) then none
    else some (32 + (sg.map fun x => segBytes (v.fmt 0x44) (segElems n x)).sum)
  | 5 => match parseBags (v.num 0x4F 1 == 2) m.count (m.bytes.drop 32) with
    | some (_, rest) => if rest.length < 16 then some m.bytes.length else none
    | none => none
  | 7 => some (32 + m.count * (40 + vecBytes (v.fmt 0x46) (v.num 0x42 2)))
  | 9 => some (32 + m.count * (8 + vecBytes (v.fmt 0x47) (v.num 0x44 2)))
  | 0x0B => some (48 + v.num 0x56 2 / (v.fmt 0x59).k * (v.fmt 0x59).panelBytes)
  | _ => some 32

/-- The format that a service expects of a message's data, if it has data of a format. -/
def expectedFmt (v : Svc) (m : SvcMsg) : Option Nat := match m.sop with
  | 1 => some (v.num 0x44 1)
  | 7 => some (v.num 0x46 1)
  | 9 => some (v.num 0x47 1)
  | 0x0B => some (v.num 0x59 1)
  | _ => none

/-- The codes that a program takes. -/
def sopTaken (v : Svc) (sop : Nat) : Bool :=
  sop == 0x0E || (match v.gid with
    | 1 | 2 | 3 => sop == 1
    | 4 => sop == 3
    | 5 => sop == 5
    | 6 => sop == 7 || sop == 9
    | 7 => sop == 0x0B && v.idx == 0
    | _ => false)

/-- Is a filter request refused as BAD (R413)? -/
def filterBad (m : SvcMsg) : Bool :=
  let q := m.num 32 1
  m.count == 0 || decide (4096 < m.count) || q == 0 || decide (32 < q) || decide (m.count < m.num 34 1 + m.num 35 1) || decide (16777216 < m.num 40 4)

/-- R389. -/
def msgBad (v : Svc) (m : SvcMsg) : Bool :=
  decide (m.bytes.length < 32) || !sopTaken v m.sop || m.num 4 4 != v.svcNo || decide (v.p ≤ m.rank)
    || (match expectedFmt v m with
      | some f => m.num 1 1 != f
      | none => false)
    || (match expectedLen v m with
      | some n => pad16 n != m.bytes.length
      | none => true)
    || (m.sop == 0x0B && filterBad m)

/-! Collectives: where a segment stands (R394, R396, R397). -/

inductive SegWay where
  | late | dup | add | open_ | wait
deriving DecidableEq, Repr

def segWay (v : Svc) (sg step rank : Nat) : SegWay :=
  if v.emitted.contains (sg, step) then .late
  else match v.segs.find? fun o => o.seg == sg with
    | some o => if o.step = step ∧ !o.timedOut then (if o.ranks.contains rank then .dup else .add) else .wait
    | none =>
      let cu := sg / v.c % 16
      let mine := v.segs.filter fun o => o.seg / v.c % 16 == cu
      if v.stopping then .wait
      else if v.resid then (if mine.any fun o => o.step != step then .wait else .open_)
      else if 16 ≤ mine.length then .wait else .open_

/-- Can an instance do something with a message now? -/
def msgReady (v : Svc) (m : SvcMsg) : Bool :=
  msgBad v m || (match m.sop with
    | 1 => (contribSegs v m).any fun sg => !m.done.contains sg && segWay v sg m.step m.rank != .wait
    | 3 => m.step != v.cur + 1 && !(v.stopping && v.arrived == [] && m.step == v.cur)
    | 5 => !v.stopping
    | 7 => !v.stopping && decide (v.tokens.length + m.count ≤ 6291456 / (4 * max 1 (v.num 0x44 2)))
    | 0x0B => !v.stopping && v.filtering.isNone
    | 0x0E => !v.stopping
    | _ => true)

/-- The first message of the queue with which something can be done. -/
def nextMsg (v : Svc) : Option (Nat × SvcMsg) := (v.queue.findIdx? (msgReady v)).bind fun k => (v.queue[k]?).map fun m => (k, m)

/-- A message leaves the queue; one that waited for room takes its place. -/
def takeMsg (key k : Nat) (s : State) : State :=
  let s := s.modSvc key fun v => { v with queue := v.queue.eraseIdx k, bytesIn := v.bytesIn + ((v.queue[k]?).map fun m => m.bytes.length).getD 0 }
  pumpRing 64 (key / 32) (key % 32) s

/-- Strands of an instance with nothing to do wait in RECV. -/
def svcRest (key : Nat) (s : State) : State :=
  if (nextMsg (s.svcOf key)).isSome then s
  else reblock (key / 32) (key % 32) (s.modCtx (key / 32) (key % 32) fun x =>
    { x with strands := SMap.mapVals (fun _ st => if st.live then { st with wait := .recv } else st) x.strands })

/-- Has a stopping instance finished the work that it accepted (R390)? -/
def svcIdle (v : Svc) : Bool :=
  v.segs == [] && v.arrived == [] && v.tokens == [] && v.batches == [] && v.outs == [] && v.filtering.isNone && v.jobs == []

/-- The end of a stopping instance: statistics, result, end (R390, R392). -/
def svcEnd (key : Nat) (s : State) : State :=
  let v := s.svcOf key
  if v.stopping && svcIdle v && svcRuns s key then
    let s := svcStats key s
    let r : List Word := [BitVec.ofNat 64 v.done, BitVec.ofNat 64 (v.bad + v.dup + v.late), BitVec.ofNat 64 v.timeouts, BitVec.ofNat 64 v.sendFail]
    endProgram (key / 32) (key % 32) none (s.modCtx (key / 32) (key % 32) fun x => { x with result := some r })
  else s

end Sys2Proof.Machine
end

