-- ==== Sys2Proof/Machine/SchedOps.lean ====
section
/-! DEFINITION. Operations of the egress scheduler: scheduling length, shapers and policers (R270, R274, R275, R282-R284), gate lists (R277-R281), eligibility and
deficit round robin (R271-R273). -/

namespace Sys2Proof.Machine

/-- The indices of a logical port in the SC block. -/
def scIx (lp : Nat) : List Nat := [lpDie lp, lp]

def clsIx (lp k : Nat) : List Nat := [lpDie lp, lp, k]

/-- L of a transaction of n slots on a logical port (R270). -/
def schedLen (s : State) (lp n : Nat) : Nat := max 16 ((16 * n : Nat) + max (-64) (signExt 8 (s.fget SC_SCHED.OVH (scIx lp)))).toNat

/-! Shapers: number 17 × logical port + class, class 16 being the port shaper. -/

def shaperKey (lp k : Nat) : Nat := 17 * lp + k

/-- The settings that a shaper's words hold. -/
def shaperWords (s : State) (lp k : Nat) : OldShaper :=
  if k < 16 then
    { mode := s.fget SC_CLASS_CFG.SH_EN (clsIx lp k), rate := s.fget SC_CLASS_CFG.RATE (clsIx lp k), burst := s.fget SC_CLASS_CFG.BURST (clsIx lp k) }
  else { mode := s.fget SC_SCHED.PSH_EN (scIx lp), rate := s.fget SC_SCHED.PRATE (scIx lp), burst := s.fget SC_SCHED.PBURST (scIx lp) }

/-- The settings in force (R275). -/
def shaperNow (s : State) (lp k : Nat) : OldShaper := SMap.get (shaperWords s lp k) s.sched.oldShapers (shaperKey lp k)

def OldShaper.rateOf (o : OldShaper) : Nat := max 1 o.rate

def OldShaper.burstOf (o : OldShaper) : Nat := max 512 o.burst

def shaperTokens (s : State) (lp k : Nat) : Nat := if k < 16 then s.fget SC_CLASS_STATE.TOKENS (clsIx lp k) else s.fget SC_PSTATE.PTOKENS (scIx lp)

def setTokens (lp k n : Nat) (s : State) : State := if k < 16 then s.fset SC_CLASS_STATE.TOKENS (clsIx lp k) n else s.fset SC_PSTATE.PTOKENS (scIx lp) n

def setShaperPending (lp k n : Nat) (s : State) : State := if k < 16 then s.fset SC_CLASS_CFG.PENDING (clsIx lp k) n else s.fset SC_SCHED.PENDING (scIx lp) n

/-- A write to a shaper's settings waits for the next refill: those in force until now stay so (R275). -/
def shaperWritten (lp k : Nat) (was : OldShaper) (s : State) : State :=
  let s := setShaperPending lp k 1 s
  if (SMap.get? s.sched.oldShapers (shaperKey lp k)).isSome then s else { s with sched.oldShapers := SMap.put s.sched.oldShapers (shaperKey lp k) was }

/-- Tokens after a refill: a shaper just enabled holds BURST (R274). -/
def refilled (was new : OldShaper) (tokens : Nat) : Nat :=
  let t := if was.mode = 0 ∧ new.mode ≠ 0 then new.burstOf else tokens
  min (t + new.rateOf) new.burstOf

/-- The refill of one shaper: pending settings are installed first (R274, R275). -/
def refillShaper (lp k : Nat) (s : State) : State :=
  let was := shaperNow s lp k
  let s := setShaperPending lp k 0 { s with sched.oldShapers := SMap.erase s.sched.oldShapers (shaperKey lp k) }
  setTokens lp k (refilled was (shaperWords s lp k) (shaperTokens s lp k)) s

def refillPort (lp : Nat) (s : State) : State := (List.range 17).foldl (fun s k => refillShaper lp k s) s

/-- Every bucket of a logical port that reaches ACTIVE is full (R274). -/
def fillTokens (lp : Nat) (s : State) : State := (List.range 17).foldl (fun s k => setTokens lp k (shaperNow s lp k).burstOf s) s

/-! Policers: number (128g + c) × 16 + i. -/

def polIx (key : Nat) : List Nat := [key / 2048, key / 16 % 128, key % 16]

/-- The policer of a VC of a logical port (R282). -/
def polOf (s : State) (lp vc : Nat) : Option Nat :=
  let i := bitsOf (s.word .SC_POLMAP (scIx lp)) (63 - 4 * vc) (60 - 4 * vc)
  if i = 15 ∨ 127 < lpClr s lp then none else some ((128 * lpDie lp + lpClr s lp) * 16 + i)

def polWords (s : State) (key : Nat) : OldShaper :=
  { mode := s.fget SC_POL_CFG.MODE (polIx key), rate := s.fget SC_POL_CFG.RATE (polIx key), burst := s.fget SC_POL_CFG.BURST (polIx key) }

def polNow (s : State) (key : Nat) : OldShaper := SMap.get (polWords s key) s.sched.oldPols key

def polTokens (s : State) (key : Nat) : Nat := SMap.get 0 s.sched.polTokens key

def setPolTokens (key n : Nat) (s : State) : State := { s with sched.polTokens := SMap.set 0 s.sched.polTokens key n }

def polWritten (key : Nat) (was : OldShaper) (s : State) : State :=
  let s := s.fset SC_POL_CFG.PENDING (polIx key) 1
  if (SMap.get? s.sched.oldPols key).isSome then s else { s with sched.oldPols := SMap.put s.sched.oldPols key was }

def refillPol (key : Nat) (s : State) : State :=
  let was := polNow s key
  let s := ({ s with sched.oldPols := SMap.erase s.sched.oldPols key }).fset SC_POL_CFG.PENDING (polIx key) 0
  setPolTokens key (refilled was (polWords s key) (polTokens s key)) s

def refillClr (g c : Nat) (s : State) : State := (List.range 15).foldl (fun s i => refillPol ((128 * g + c) * 16 + i) s) s

/-- The microseconds of HOLD_US up to now are counted: those since the last one counted while a transaction was held, else the one that has begun. -/
def countHold (key : Nat) (through : Bool) (s : State) : State :=
  let us := s.pkg / 1000
  let last := SMap.get? s.sched.polUs key
  let n := if last = some us then 0 else if through then us - last.getD us else 1
  ({ s with sched.polUs := SMap.put s.sched.polUs key us }).fadd SC_POL_CNT.HOLD_US (polIx key) n

/-- A transaction of n slots meets its policer (Table 07.2): does it pass? `again` says that it has been counted in EXCEED. -/
def police (key lp n : Nat) (again : Bool) (s : State) : Bool × State :=
  let o := polNow s key
  let l := schedLen s lp n
  if o.mode = 0 then (true, s)
  else if l ≤ polTokens s key then (true, setPolTokens key (polTokens s key - l) s)
  else (o.mode == 1, if again then s else s.fadd SC_POL_CNT.EXCEED (polIx key) 1)

/-! Gate lists. -/

def State.schedPort (s : State) (lp : Nat) : SchedPort := SMap.get .reset s.sched.ports lp

def State.setSchedPort (s : State) (lp : Nat) (p : SchedPort) : State := { s with sched.ports := SMap.set .reset s.sched.ports lp p }

def gateList (s : State) (lp : Nat) : Nat := s.fget SC_GATE_CTRL.ACTIVE (scIx lp)

def gateMask (s : State) (lp b i : Nat) : Nat := s.fget SC_GATE_ENTRY.GATES [lpDie lp, lp, b, i]

def gateDur (s : State) (lp b i : Nat) : Nat := max 64 (s.fget SC_GATE_ENTRY.DURATION [lpDie lp, lp, b, i])

/-- ns into the cycle of the list in force (R278). -/
def gatePhase (s : State) (lp : Nat) : Nat := (s.pkg - s.fget SC_GATE_TS.TS (scIx lp)) % max 1 (s.schedPort lp).cycle

/-- The entry at a place of the cycle: entries i and later of at most n, the list starting at `start`. -/
def entryAt (s : State) (lp b phase : Nat) : Nat → Nat → Nat → Nat
  | 0, i, _ => i
  | n + 1, i, start => if n = 0 ∨ phase < start + gateDur s lp b i then i else entryAt s lp b phase n (i + 1) (start + gateDur s lp b i)

/-- The end of entry i of the list in force, in ns of the cycle: the last entry holds to the end of the cycle, and one that runs past it is cut there (R278). -/
def entryEnd (s : State) (lp i : Nat) : Nat :=
  let b := gateList s lp
  let cyc := (s.schedPort lp).cycle
  if s.fget SC_GATE_CTRL.ACOUNT (scIx lp) ≤ i + 1 then cyc else min cyc (((List.range (i + 1)).map (gateDur s lp b)).sum)

/-- Does the gate of a class read open? -/
def gateReads (s : State) (lp k : Nat) : Bool :=
  s.fget SC_GATE_CTRL.EN (scIx lp) == 0 || natBit (gateMask s lp (gateList s lp) (s.fget SC_GATE_CTRL.INDEX (scIx lp))) k

/-- Time to the end of the entry in force, and the mask of the next entry (R279, R280). -/
def gateNext (s : State) (lp : Nat) : Nat × Nat :=
  let b := gateList s lp
  let i := s.fget SC_GATE_CTRL.INDEX (scIx lp)
  let e := entryEnd s lp i
  let left := e - gatePhase s lp
  let nx := gateMask s lp b (if e < (s.schedPort lp).cycle then i + 1 else 0)
  match (s.schedPort lp).switchAt with
  | some ts => if ts - s.pkg ≤ left then (ts - s.pkg, gateMask s lp (1 - b) 0) else (left, nx)
  | none => (left, nx)

/-- The guard of R279 in hundredths of a ns: two flit times of the logical port's width. -/
def guardOf (s : State) (lp : Nat) : Nat := 1024 / max 1 (s.fget FR_SUB_STATUS.WIDTH (lpIx lp))

/-- May a cell of a class start: is its gate open and not in its guard? -/
def gateOpen (s : State) (lp k : Nat) : Bool :=
  s.fget SC_GATE_CTRL.EN (scIx lp) == 0
    || (gateReads s lp k && !(decide ((gateNext s lp).1 * 100 < guardOf s lp) && !natBit (gateNext s lp).2 k))

/-- GATE of every class follows the entry in force. -/
def refreshGates (lp : Nat) (s : State) : State :=
  (List.range 16).foldl (fun s k => s.fset SC_CLASS_STATE.GATE (clsIx lp k) (boolNat (gateReads s lp k))) s

/-- The entry that the grid gives for the time is in force (R278, R281). -/
def gateTick (lp : Nat) (s : State) : State :=
  let i := entryAt s lp (gateList s lp) (gatePhase s lp) (s.fget SC_GATE_CTRL.ACOUNT (scIx lp)) 0 0
  refreshGates lp (s.fset SC_GATE_CTRL.INDEX (scIx lp) i)

/-- COMMIT of a shadow list (R280, R281). -/
def gateCommit (lp : Nat) (s : State) : State :=
  let ix := scIx lp
  if s.fget SC_GATE_CTRL.PENDING ix = 1 then s.fset SC_GATE_CTRL.RESULT ix 3
  else
    let n := s.fget SC_GATE_CTRL.COUNT ix
    let cyc := s.fget SC_GATE_CYCLE.CYCLE ix
    let base := s.fget SC_GATE_BASE.BASE ix
    if n = 0 ∨ 1024 < n ∨ cyc < 1000 then s.fset SC_GATE_CTRL.RESULT ix 2
    else
      let ts := base + (s.pkg + 10000 - base + cyc - 1) / cyc * cyc
      (s.setSchedPort lp { s.schedPort lp with switchAt := some ts, pendCycle := cyc }).fset SC_GATE_CTRL.PENDING ix 1

/-- CANCEL of a pending switch (R281). -/
def gateCancel (lp : Nat) (s : State) : State :=
  if s.fget SC_GATE_CTRL.PENDING (scIx lp) = 1 then
    ((s.setSchedPort lp { s.schedPort lp with switchAt := none }).fset SC_GATE_CTRL.PENDING (scIx lp) 0).fset SC_GATE_CTRL.RESULT (scIx lp) 4
  else s

/-- At TS the shadow takes over (Table 07.1). -/
def gateSwitch (lp : Nat) (s : State) : State :=
  let p := s.schedPort lp
  let ix := scIx lp
  match p.switchAt with
  | some ts =>
    let s := s.setSchedPort lp { p with switchAt := none, cycle := p.pendCycle }
    let s := (s.fset SC_GATE_CTRL.ACTIVE ix (1 - gateList s lp)).fset SC_GATE_CTRL.ACOUNT ix (s.fget SC_GATE_CTRL.COUNT ix)
    gateTick lp (((s.fset SC_GATE_TS.TS ix ts).fset SC_GATE_CTRL.PENDING ix 0).fset SC_GATE_CTRL.RESULT ix 1)
  | none => s

/-! Selection. -/

/-- Is the head cell of a class eligible (R271)? -/
def headEligible (s : State) (lp k : Nat) : Bool :=
  match (s.egQ lp k).cells with
  | [] => false
  | q :: _ =>
    let l := schedLen s lp q.cell.nslot
    let fits (i : Nat) : Bool := (shaperNow s lp i).mode == 0 || decide (l ≤ shaperTokens s lp i)
    gateOpen s lp k && fits k && fits 16 && decide (q.cell.nslot ≤ SMap.get 0 (s.lport lp).credits q.cell.vc)

def isStrict (s : State) (lp k : Nat) : Bool := s.fget SC_CLASS_CFG.MODE (clsIx lp k) == 1

/-- A DRR class whose head is eligible joins the active list at its tail (R273). -/
def joinClass (lp k : Nat) (s : State) : State :=
  let p := s.schedPort lp
  if p.active.contains k ∨ isStrict s lp k ∨ !headEligible s lp k then s else s.setSchedPort lp { p with active := p.active ++ [k] }

/-- Every class of every queue that holds cells. -/
def joinAll (s : State) : State := s.fwd.egress.foldl (fun (s : State) (e : Nat × EgressQ) => if s.lpActive (e.1 / 16) then joinClass (e.1 / 16) (e.1 % 16) s else s) s

/-- A class that has moved to STRICT leaves the active list with no deficit and no credit (R273). -/
def leaveStrict (lp k : Nat) (s : State) : State :=
  let p := s.schedPort lp
  if isStrict s lp k then
    (s.setSchedPort lp { p with active := p.active.filter fun x => x != k, credited := p.credited.filter fun x => x != k }).fset SC_CLASS_STATE.DEFICIT (clsIx lp k) 0
  else s

/-- The class that deficit round robin returns (R273), with its deficit lowered by the length of its head: at most n visits. -/
def selectDrr (lp : Nat) : Nat → State → Option Nat × State
  | 0, s => (none, s)
  | n + 1, s =>
    let p := s.schedPort lp
    match p.active with
    | [] => (none, s)
    | k :: rest =>
      let ix := clsIx lp k
      let s := if p.credited.contains k then s
        else (s.setSchedPort lp { p with credited := p.credited ++ [k] }).fset SC_CLASS_STATE.DEFICIT ix
          (s.fget SC_CLASS_STATE.DEFICIT ix + max 512 (s.fget SC_CLASS_CFG.QUANTUM ix))
      let p := s.schedPort lp
      let l := match (s.egQ lp k).cells with
        | q :: _ => schedLen s lp q.cell.nslot
        | [] => 0
      let el := headEligible s lp k
      if el ∧ l ≤ s.fget SC_CLASS_STATE.DEFICIT ix then (some k, s.fset SC_CLASS_STATE.DEFICIT ix (s.fget SC_CLASS_STATE.DEFICIT ix - l))
      else if (s.egQ lp k).cells = [] ∧ (s.egQ lp k).ovf = [] then
        selectDrr lp n ((s.setSchedPort lp { p with active := rest, credited := p.credited.filter fun x => x != k }).fset SC_CLASS_STATE.DEFICIT ix 0)
      else if el then selectDrr lp n (s.setSchedPort lp { p with active := rest ++ [k], credited := p.credited.filter fun x => x != k })
      else selectDrr lp n (s.setSchedPort lp { p with active := rest })

/-- The class that the scheduler selects (R272). -/
def selectClass (lp : Nat) (s : State) : Option Nat × State :=
  let s := (List.range 16).foldl (fun s k => joinClass lp k (leaveStrict lp k s)) s
  match ((List.range 16).reverse.filter fun k => isStrict s lp k && headEligible s lp k) with
  | k :: _ => (some k, s)
  | [] => selectDrr lp 40 s

end Sys2Proof.Machine
end

