-- ==== Sys2Proof/Machine/PortState.lean ====
section
/-! DEFINITION. A logical port leaves ACTIVE or reaches it: the ends of its requests (R172), the discards of R250, its subscriptions, pins and domains (R211, R216, R224),
training attempts (R132), and EPOCH_NOTE (R571). -/

namespace Sys2Proof.Machine

/-- Member copies of a group message have left their ports, or are lost: the message ends with the last one (R371, R250). -/
def copyGone (id n : Nat) (lost : Option Status) (s : State) : State :=
  match s.txn? id with
  | some x =>
    if x.phase ≠ .parts then s
    else
      let x := { x with parts := x.parts - n, bad := x.bad ++ (lost.toList.map fun st => (0, st)) }
      if 0 < x.parts then s.putTxn x
      else
        match x.bad with
        | [] => endTxn x .ok [] s
        | (_, .timeout) :: _ => timeoutTxn x s
        | (_, st) :: _ => endTxn x st [] s
  | none => s

/-- Member copies that a multicast cell on a die still stands for: one once the die has spread it, its members on the destination die before. -/
def copiesOf (s : State) (die : Nat) (held : Bool) (c : Cell) : Nat :=
  if c.mcg = 0 then 0 else if die = c.ddie ∧ !held then 1 else (mcMembers s.com.inForce c.mcg c.ddie).length

/-- A queued cell gives up what it was charged to. -/
def uncharge (g : Nat) (q : QCell) (s : State) : State :=
  match q.charge with
  | .copy id => dropPointer id s
  | ch => dropCharge g q.cell.clr q.cell.vc q.cell.units ch s

/-- CAUSE of a DROP record (Table 06.8), by the field of CNT_DROP. -/
def dropCause (f : Fld) : Nat :=
  if f = FW_CLR_CNT_DROP.PORT_DOWN then 1 else if f = FW_CLR_CNT_DROP.STANDBY then 2 else if f = FW_CLR_CNT_DROP.POISON then 3 else 4

/-- A cell is discarded from a queue of so many units, counted in a field of CNT_DROP (R250). -/
def dropCell (f : Fld) (g : Nat) (held : Bool) (qlen : Nat) (c : Cell) (s : State) : State :=
  let s := trail g (cellEvent 4 (if g = c.ddie ∧ !held then c.dest else 0x1FF) qlen (dropCause f) c s) (s.fadd f [g, c.clr] 1)
  match c.txn with
  | some id => if c.mcg ≠ 0 then copyGone id (copiesOf s g held c) (some .timeout) s else s
  | none => s

def dropQueued (f : Fld) (g : Nat) : List QCell → State → State
  | [], s => s
  | q :: r, s => dropQueued f g r (dropCell f g false (qUnits (q :: r)) q.cell (uncharge g q s))

def dropCells (f : Fld) (g : Nat) (held : Bool) : List Cell → State → State
  | [], s => s
  | c :: r, s => dropCells f g held r (dropCell f g held 0 c s)

/-- The cells of egress queues are discarded: buffer, overflow, and those refused admission at the queue. -/
def dropEgress (f : Fld) (lp : Nat) : List Nat → State → State
  | [], s => s
  | cls :: r, s =>
    let q := s.egQ lp cls
    dropEgress f lp r (dropCells f (lpDie lp) false q.ovf (dropQueued f (lpDie lp) q.cells (s.setEgQ lp cls .reset)))

def dropPortCells (f : Fld) (lp : Nat) (s : State) : State :=
  let mine (r : Nat × Cell) : Bool := r.1 == r.2.ddie && r.2.dest == lp
  let gone := (s.fwd.refused.filter mine).map Prod.snd
  dropCells f (lpDie lp) false gone (dropEgress f lp (List.range 16) { s with fwd.refused := s.fwd.refused.filter fun c => !mine c })

/-- An INVAL no longer waits for a subscriber whose subscription has ended (R211). -/
def dropAwait (lp : Nat) : List InvalRun → State → State
  | [], s => s
  | v :: r, s => dropAwait lp r ((v.awaits.filter fun a => a.1 == .port lp).foldl (fun s a => invAck lp a.2 s) s)

/-- A logical port leaves ACTIVE for good (R172, R211, R216, R224, R250), with its event (Table 14.6) unless the loss was expected (R143). -/
def leftActive (lp : Nat) (event : Bool) (s : State) : State :=
  let s := cutPort lp (s.fab.txns.map Prod.fst) s
  let s := dropPortCells FW_CLR_CNT_DROP.PORT_DOWN lp s
  let s := dropHolder (.port lp) (dropAwait lp s.coh.invals s)
  let s := memberLost lp 1 s.com.inForce.domains { s with nx.msgs := s.nx.msgs.filter fun m => m.lp != lp }
  if event then pulse (lpSource lp) s else s

/-- Does an SPDM session of a logical port run, or stand (R150)? -/
def hasSession (s : State) (lp : Nat) : Bool := (s.link.sessions.take 32).contains lp || (s.lport lp).keysHeld

def State.lane (s : State) (l : Nat) : Lane := SMap.get .reset s.link.lanes l

def State.setLane (s : State) (l : Nat) (x : Lane) : State := { s with link.lanes := SMap.set .reset s.link.lanes l x }

/-- The indices of a lane, 64f + l, in the FR block. -/
def laneIx (l : Nat) : List Nat := [l / 64, l % 64]

/-- The lane that carries a lane's blocks: itself, or its spare. -/
def servingLane (s : State) (l : Nat) : Nat :=
  match (s.lane l).onSpare with
  | some n => 64 * (l / 64) + 32 + n
  | none => l

/-- The indices of a spare of a Fringe die, by a lane of the die. -/
def spareIx (l n : Nat) : List Nat := [l / 64, n]

/-- A spare that serves no lane any more goes back to STANDBY. -/
def freeSpareLane (l n : Nat) (s : State) : State :=
  ((s.fset FR_SPARE.STATE (spareIx l n) 1).fset FR_SPARE.LANE (spareIx l n) 0x3F).fset FR_SPARE.USE (spareIx l n) 0

/-- A swap that is still asked for is abandoned (R138); a recalibration that waited for it fails. -/
def abandonSwap (l : Nat) (s : State) : State :=
  let x := s.lane l
  match x.spareAsked with
  | some n =>
    let lent := s.fget FR_SPARE.USE (spareIx l n) == 1
    let s := freeSpareLane l n (s.setLane l { x with spareAsked := none, recal := if lent then none else x.recal })
    if lent then (s.fset FR_LANE_STATUS.RECAL_RESULT (laneIx l) 3).fset FR_LANE_STATUS.ROLE (laneIx l) 0 else s
  | none => s.setLane l { x with narrowAsked := false }

/-- The link layer of a logical port goes to a state in which it is not up: unacknowledged flits are dropped and counted, keys are zeroed, and work on it ends. -/
def linkFalls (event : Bool) (lp st : Nat) (s : State) : State :=
  let was := portHolds s lp
  let p := s.lport lp
  let s := if hasSession s lp then pulse 70 s else s
  let s := (lpLanes (s.modeOf lp) lp).foldl (fun s l => abandonSwap l s) s
  let s := s.fadd FR_SUB_CNT_DROP.DROPPED (lpIx lp) p.txBuf.length
  let s := ((s.fset FR_SUB_STATUS.STATE (lpIx lp) st).fset FR_SUB_STATUS.WIDTH (lpIx lp) 0).fset FR_SUB_STATUS.ENC (lpIx lp) 0
  let s := { s.setLport lp .reset with link.sessions := s.link.sessions.filter fun x => x != lp }
  if was then leftActive lp event s else s

def linkDown (lp st : Nat) (s : State) : State := linkFalls true lp st s

/-! Training. -/

/-- Is light present on every lane of a logical port? -/
def portLight (s : State) (lp : Nat) : Bool := (lpLanes (s.modeOf lp) lp).all fun l => (s.lane (servingLane s l)).light

def ppFld (s : State) (f : Fld) (lp : Nat) : Nat := s.fget f (ppIx lp)

/-- A lane enters a training attempt and asks for transmitter taps (R132): in its own place, unless a spare carries it. -/
def trainLane (l : Nat) (s : State) : State :=
  let x := s.lane l
  let s := s.setLane l { x with taps := false, narrowAsked := false, restoreAsked := false }
  let s := (s.fset FR_LANE_STATUS.PORT (laneIx l) (l % 64 / 4)).fset FR_LANE_STATUS.POS (laneIx l) (l % 4)
  sendLane (servingLane s l) 1 0 0 (if x.onSpare.isNone then s.fset FR_LANE_STATUS.ROLE (laneIx l) 0 else s)

/-- A training attempt starts: t0 of Table 03.9. -/
def startTraining (lp : Nat) (s : State) : State :=
  if s.fget CM_UNIT.STATE [384 + lp / 4] = 3 then s
  else
  let p := s.lport lp
  let s := (lpLanes (s.modeOf lp) lp).foldl (fun s l => trainLane l s) s
  (s.setLport lp { p with trainAt := some s.now, eqDone := false, params := false, retryAt := none }).fset FR_SUB_STATUS.STATE (lpIx lp) 1

/-- An attempt fails (R132): the port returns to DOWN, and a retrain under R130 gives up what it kept. -/
def trainFails (lp : Nat) (s : State) : State :=
  let s := linkDown lp 0 (s.fadd FR_SUB_CNT_LINK.TRAIN_FAIL (lpIx lp) 1)
  s.setLport lp { s.lport lp with retryAt := some (s.now + 1000000) }

/-- The MODE of CFG comes in force at a physical port's training (R117). -/
def takeMode (p : Nat) (s : State) : State := { s with link.modes := SMap.set 0 s.link.modes p (actingMode (s.fget FR_PORT_CFG.MODE [p / 8, p % 8])) }

def trainLit : List Nat → State → State
  | [], s => s
  | lp :: r, s => trainLit r (if portLight s lp && ppFld s FR_PORT_CFG.EN lp == 1 then startTraining lp s else s)

/-- Every logical port of a physical port trains anew: each goes DOWN, MODE comes in force, and those with light start (R117, R132). -/
def trainAgain (p : Nat) (s : State) : State :=
  let s := (List.range 4).foldl (fun s k => if s.lpState (4 * p + k) = 0 then s else linkDown (4 * p + k) 0 s) s
  let s := takeMode p s
  trainLit ((modeSubs (s.modeOf (4 * p))).map fun k => 4 * p + k) s

/-! EPOCH_NOTE (R571). -/

/-- An EPOCH_NOTE leaves on a logical port under a tag of its own; with every tag in use it waits as requests do. -/
def sendNote (src : ReqSrc) (lp : Nat) (s : State) : State :=
  let x := { plainTxn src .epochNote (lpClr s lp) s.epoch s.selfNode (lpDie lp) s with lnode := s.selfNode }
  launch x lp (s.addTxn x)

/-- An agent's port that is ACTIVE learns the epoch in force. -/
def notePort (lp : Nat) (s : State) : State := if s.lpActive lp && (portRole s.com.inForce lp).isAgent then sendNote (.note lp) lp s else s

def noteAll : List Nat → State → State
  | [], s => s
  | lp :: r, s => noteAll r (notePort lp s)

/-- A logical port reaches ACTIVE at full width. A retrain under R130 resumes from ACK + 1 (R130). -/
def becomeActive (lp : Nat) (s : State) : State :=
  let p := s.lport lp
  let s := (s.fset FR_SUB_STATUS.STATE (lpIx lp) 3).fset FR_SUB_STATUS.WIDTH (lpIx lp) (modeWidth (s.modeOf lp))
  let s := fillTokens lp (s.setLport lp { p with trainAt := none, kept := none, secureSince := none, activeAt := s.now, replayRuns := 0, pausedBy := false })
  let s := if p.kept.isSome then resend lp s else s
  notePort lp s

end Sys2Proof.Machine
end

