-- ==== Sys2Proof/Machine/EventOps.lean ====
section
/-! DEFINITION. The event controllers: delivery, claims and end-of-event writes (R526-R534). -/

namespace Sys2Proof.Machine

/-- Has a source an input (Table 14.6)? -/
def sourceExists (n : Nat) : Bool :=
  if n < 7 then true
  else if n < 32 then false
  else if n < 72 then true
  else if n < 128 then false
  else if n < 384 then decide ((n - 128) % 32 < 19)
  else if n < 1408 then decide ((n - 384) % 64 < 34)
  else if n < 1536 then true
  else if n < 1600 then decide ((n - 1536) % 32 < 2)
  else decide (n < 2048)

/-- Is a source an edge source, or a level source (Table 14.7)? -/
def isEdge (s : State) (n : Nat) : Bool := decide (2 ≤ s.fget EV_SRC_CFG.SENSE [0, n]) && decide (s.fget EV_SRC_CFG.SENSE [0, n] ≤ 4)
def isLevel (s : State) (n : Nat) : Bool := decide (s.fget EV_SRC_CFG.SENSE [0, n] < 2)

/-- The priority stack of management CU[t] of Lookout k. -/
def State.evStack (s : State) (k t : Nat) : List (Nat × Nat) := SMap.get [] s.ecc.evStacks (4 * k + t)

def State.setStack (s : State) (k t : Nat) (st : List (Nat × Nat)) : State := { s with ecc.evStacks := SMap.set [] s.ecc.evStacks (4 * k + t) st }

/-- Is a source deliverable to CU[t] of Lookout k (R530)? -/
def deliverable (s : State) (k t n : Nat) : Bool :=
  let w := s.word .EV_SRC_STATE [k, n]
  bitsOf w 63 63 == 1 && bitsOf w 62 62 == 0 && bitsOf w 60 60 == 0 && s.fget EV_SRC_CFG.EN [0, n] == 1 && s.fget EV_SRC_CFG.TARGET [0, n] == t
    && decide (s.fget EV_SRC_CFG.SENSE [0, n] ≤ 4)
    && (s.evStack k t).head?.all fun top => decide (top.1 < s.fget EV_SRC_CFG.PRIO [0, n])

/-- The best deliverable source below n. -/
def bestBelow (s : State) (k t : Nat) : Nat → Option Nat
  | 0 => none
  | n + 1 =>
    if deliverable s k t n then
      match bestBelow s k t n with
      | none => some n
      | some b => if s.fget EV_SRC_CFG.PRIO [0, b] < s.fget EV_SRC_CFG.PRIO [0, n] then some n else some b
    else bestBelow s k t n

/-- The deliverable source with the highest PRIO, the lowest number among equals (R531). -/
def bestSource (s : State) (k t : Nat) : Option Nat := bestBelow s k t 2048

/-- The word that a claim returns. -/
def takeWord (s : State) (k n : Nat) : Word :=
  let w := setBits (setBits (0 : Word) 63 63 1) 57 54 (s.fget EV_SRC_CFG.PRIO [0, n])
  setBits (setBits (setBits w 53 43 n) 42 35 (s.fget EV_SRC_STATE.ACC [k, n])) 34 19 (s.fget EV_SRC_STATE.LOST [k, n])

/-- The claim of a source (R531). -/
def claimSource (k t n : Nat) (s : State) : State :=
  let s := s.setStack k t ((s.fget EV_SRC_CFG.PRIO [0, n], n) :: s.evStack k t)
  let s := ((s.fset EV_SRC_STATE.ACTIVE [k, n] 1).fset EV_SRC_STATE.ACC [k, n] 0).fset EV_SRC_STATE.LOST [k, n] 0
  let s := s.setEvAux k n { s.evAux k n with first := none }
  if isEdge s n then s.fset EV_SRC_STATE.PENDING [k, n] 0 else s

/-- A waiting read of TAKE is answered: by the register of its strand, or as a control-space access. -/
def answerClaim (c : Claim) (v : Word) (s : State) : State :=
  match c.strand with
  | some (sr, r) => retire sr (s.setS sr r v)
  | none => s.done .ok v

/-- Is the reader of a waiting claim still there? -/
def claimLives (s : State) (c : Claim) : Bool :=
  match c.strand with
  | some (sr, _) => (s.strand sr).live && (s.strand sr).wait == .take
  | none => true

/-- Waiting claims that a source is deliverable to end. -/
def serveClaims : List Claim → State → State
  | [], s => s
  | c :: r, s =>
    let rest := { s with ecc.claims := s.ecc.claims.filter fun d => d != c }
    if !claimLives s c then serveClaims r rest
    else if c.cu / 4 ≠ s.activeLookout then serveClaims r s
    else match bestSource s (c.cu / 4) (c.cu % 4) with
      | some n => serveClaims r (answerClaim c (takeWord s (c.cu / 4) n) (claimSource (c.cu / 4) (c.cu % 4) n rest))
      | none => serveClaims r s

/-- MASK, STUCK and their counts are mirrored (R534). -/
def setMask (n mask stuck : Nat) (s : State) : State :=
  [0, 1].foldl (fun s k => (s.fset EV_SRC_STATE.MASK [k, n] mask).fset EV_SRC_STATE.STUCK [k, n] stuck) s

/-- An end-of-event write that found the input of a level source active: the fourth within STUCK_LIMIT of the first masks it (R533). -/
def stuckWrite (k n : Nat) (s : State) : State :=
  let a := s.evAux k n
  let ts := (s.now :: a.stuck).take 4
  let limit := s.fget EV_CTRL.STUCK_LIMIT [k] * 1000000
  if ts.length = 4 ∧ s.now ≤ ts.getD 3 0 + limit then
    pulse 71 ((setMask n 1 1 (s.setEvAux k n { a with stuck := [] })).fadd EV_CTRL.STUCK_CNT [k] 1)
  else s.setEvAux k n { a with stuck := ts }

/-- The end-of-event write of the active Lookout reaches the standby controller, which clears the source's pending state (R534). -/
def standbyEnds (k n : Nat) (s : State) : State :=
  let o := 1 - k
  let s := ((s.setEvAux o n { s.evAux o n with first := none }).fset EV_SRC_STATE.ACC [o, n] 0).fset EV_SRC_STATE.LOST [o, n] 0
  if isEdge s n then s.fset EV_SRC_STATE.PENDING [o, n] 0 else s

/-- A write to EOE (R532). -/
def endOfEvent (k t : Nat) (s : State) : State :=
  match s.evStack k t with
  | [] => s.fadd EV_CTRL.EOE_EMPTY [k] 1
  | (_, n) :: rest =>
    let s := (s.setStack k t rest).fset EV_SRC_STATE.ACTIVE [k, n] 0
    let s := if isLevel s n && s.fget EV_SRC_STATE.PENDING [k, n] == 1 then stuckWrite k n s else s
    if k = s.activeLookout then standbyEnds k n s else s

/-- MASK = 0 written: the source is unmasked and its stuck count starts again (R533). -/
def unmask (n : Nat) (s : State) : State :=
  [0, 1].foldl (fun s k => (s.fset EV_SRC_STATE.MASK [k, n] 0).setEvAux k n { s.evAux k n with stuck := [] }) s

/-- One edge or level of an input as the controllers sample it, with the counter of its origin (R528): merged edges count in LOST. -/
def sourceEdge (n : Nat) (level : Bool) (origin : Nat) (s : State) : State :=
  [0, 1].foldl (fun s k =>
    let t := sampleSource k n level s
    if t.fget EV_SRC_STATE.EDGES [k, n] = s.fget EV_SRC_STATE.EDGES [k, n] then t
    else
      let lost := (origin + 512 - (s.evAux k n).origin - 1) % 256
      (t.fadd EV_SRC_STATE.LOST [k, n] lost).setEvAux k n { t.evAux k n with origin := origin % 256 }) s

/-- TIME us after the first occurrence not yet claimed (R529). -/
def coalesced (s : State) (k n : Nat) : Bool :=
  isEdge s n && s.fget EV_SRC_STATE.PENDING [k, n] == 0
    && (s.evAux k n).first.any fun t => decide (t + 1000 * max 1 (s.fget EV_SRC_CFG.TIME [0, n]) ≤ s.now)

end Sys2Proof.Machine
end

