-- ==== Sys2Proof/Machine/ExpOps.lean ====
section
/-! DEFINITION. Compressed operand blocks and the expander (chapter 11): CRC-32C, the codecs, the checks of Table 11.3, streams and their panels. -/

namespace Sys2Proof.Machine

/-- What a decoder answers: the output, or the check of Table 11.3 that failed. -/
inductive Decoded where
  | ok (out : List Byte) (left : Nat)    -- the output, and payload bytes beyond the last one read
  | code                                 -- order 4
  | longer                               -- order 5
  | shorter                              -- order 6
deriving DecidableEq, Repr

/-- ZRL tokens (R421): `need` bytes of output are still to come; at most n tokens. -/
def zrl : Nat → Nat → List Byte → List Byte → Decoded
  | 0, need, out, bs => if need = 0 then .ok out bs.length else .shorter
  | n + 1, need, out, bs =>
    if need = 0 then .ok out bs.length
    else match bs with
      | [] => .shorter
      | t :: r =>
        if t.toNat < 128 then
          let k := t.toNat + 1
          if need < k then .longer
          else if r.length < k then .shorter
          else zrl n (need - k) (out ++ r.take k) (r.drop k)
        else
          let k := t.toNat - 127
          if need < k then .longer else zrl n (need - k) (out ++ List.replicate k 0) r

/-- Code lengths of NH4 (R422). -/
def nhLen (table : List Byte) (n : Nat) : Nat := let b := (table.getD (n / 2) 0).toNat; if n % 2 = 0 then b % 16 else b / 16

/-- Canonical codes in the order of length and symbol: (length, code, symbol). -/
def nhCodes (table : List Byte) : List (Nat × Nat × Nat) :=
  let syms := ((List.range 15).map fun l => ((List.range 16).filter fun n => nhLen table n == l + 1).map fun n => (l + 1, n)).flatten
  (syms.foldl (fun (a : List (Nat × Nat × Nat) × Nat × Nat) p =>
    let code := a.2.1 * 2 ^ (p.1 - a.2.2)
    (a.1 ++ [(p.1, code, p.2)], code + 1, p.1)) ([], 0, 0)).1

/-- Is a table bad: no code, or lengths that oversubscribe? -/
def nhBad (table : List Byte) : Bool :=
  let ls := (List.range 16).map (nhLen table)
  let sum := (ls.map fun l => if l = 0 then 0 else 2 ^ (15 - l)).sum
  sum == 0 || decide (2 ^ 15 < sum)

/-- The code that the bits from position k on spell: its length and symbol. -/
def nhNext (codes : List (Nat × Nat × Nat)) (bits : Nat) (k : Nat) : Option (Nat × Nat) :=
  (codes.find? fun c => (List.range c.1).all fun j => natBit bits (k + j) == natBit c.2.1 (c.1 - 1 - j)).map fun c => (c.1, c.2.2)

/-- Do the bits that remain begin a longer code? -/
def nhPartial (codes : List (Nat × Nat × Nat)) (bits k left : Nat) : Bool :=
  codes.any fun c => decide (left < c.1) && (List.range left).all fun j => natBit bits (k + j) == natBit c.2.1 (c.1 - 1 - j)

/-- Nibbles from a code stream of `total` bits: at most n steps. -/
def nh4 (codes : List (Nat × Nat × Nat)) (bits total : Nat) : Nat → Nat → Nat → List Nat → Decoded ⊕ (List Nat × Nat)
  | 0, need, k, out => if need = 0 then .inr (out, k) else .inl .shorter
  | n + 1, need, k, out =>
    if need = 0 then .inr (out, k)
    else match nhNext codes bits k with
      | some (l, sym) => if total < k + l then .inl .shorter else nh4 codes bits total n (need - 1) (k + l) (out ++ [sym])
      | none => if nhPartial codes bits k (total - k) then .inl .shorter else .inl .code

def nibbleBytes (hi : Bool) : List Nat → List Byte
  | a :: b :: r => BitVec.ofNat 8 (if hi then a * 16 + b else b * 16 + a) :: nibbleBytes hi r
  | _ => []

/-- Decode a payload (R420-R422). -/
def decodeBlock (codec : Nat) (hi : Bool) (raw : Nat) (payload : List Byte) : Decoded :=
  match codec with
  | 0 => .ok payload 0
  | 1 => zrl raw raw [] payload
  | _ =>
    let table := payload.take 8
    if payload.length < 8 then .shorter
    else if nhBad table then .code
    else
      let stream := payload.drop 8
      match nh4 (nhCodes table) (ofBytesLE stream) (8 * stream.length) (2 * raw) (2 * raw) 0 [] with
      | .inl d => d
      | .inr (ns, k) => .ok (nibbleBytes hi ns) (stream.length - (k + 7) / 8)

/-- Checks 1 and 2 on a header: the status of the first that fails. -/
def headerDamage (h : List Byte) : Option Status :=
  let codec := field h 2 1
  let flags := field h 3 1
  let raw := field h 4 4
  let clen := field h 8 4
  if field h 0 2 ≠ 0x4E42 ∨ 2 < codec ∨ 2 ≤ flags ∨ (flags = 1 ∧ codec ≠ 2) then some .dataCode
  else if raw % 512 ≠ 0 ∨ raw < 4096 ∨ 65536 < raw ∨ clen = 0 ∨ 65536 < clen ∨ (codec = 0 ∧ clen ≠ raw) then some .dataLength
  else none

/-- Checks 3 to 7 on a payload: the output, or the status of the first that fails (R424). -/
def payloadCheck (h payload : List Byte) : Except Status (List Byte) :=
  if crc32c payload ≠ field h 12 4 then .error .dataCode
  else match decodeBlock (field h 2 1) (natBit (field h 3 1) 0) (field h 4 4) payload with
    | .code => .error .dataCode
    | .longer | .shorter => .error .dataLength
    | .ok out left => if left = 0 then .ok out else .error .dataLength

/-! Streams (R364, R429-R432). -/

def ownerOf (copse cu : Nat) (x : XStream) : StrandRef := { copse := copse, ctx := x.ctx, cu := cu, strand := x.owner % 1024 }

def State.stream (s : State) (copse cu : Nat) : Option XStream := SMap.get? (s.copse copse).streams cu

def State.setStream (s : State) (copse cu : Nat) (x : XStream) : State :=
  let c := s.copse copse
  s.setCopse copse { c with streams := SMap.put c.streams cu x }

def State.dropStream (s : State) (copse cu : Nat) : State :=
  let c := s.copse copse
  s.setCopse copse { c with streams := SMap.erase c.streams cu }

def blockDesc (s : State) (copse : Nat) (x : XStream) (b : XBlock) : Option Desc := match s.ctx? copse x.ctx with
  | some c => c.hdr.descs[b.desc]?
  | none => none

/-- Bytes of a block at an offset from its start, as read so far: from the scratchpad at once, from fabric memory out of the lines held. -/
def blockBytes (s : State) (copse cu : Nat) (x : XStream) (b : XBlock) (off n : Nat) : Option (List Byte) :=
  match blockDesc s copse x b with
  | some d =>
    let a := d.base + b.off + off
    if d.kind = 1 then some (s.readScratch copse x.ctx cu a n)
    else
      let ks := (List.range ((a + n + 63) / 64 - a / 64)).map fun k => a / 64 + k
      if ks.all fun k => (SMap.get? b.lines k).isSome then
        some (((((ks.map fun k => SMap.get [] b.lines k).flatten)).drop (a % 64)).take n)
      else none
  | none => none

/-- Bytes that a block's decode needs, as far as they are known: its header, then its payload within the descriptor. -/
def blockNeeds (s : State) (copse cu : Nat) (x : XStream) (b : XBlock) : Nat :=
  match blockBytes s copse cu x b 0 16, blockDesc s copse x b with
  | some h, some d => if (headerDamage h).isSome ∨ d.len < b.off + 16 + field h 8 4 then 16 else 16 + field h 8 4
  | _, _ => 16

/-- Put a block back: the open one, or the queued one. -/
def putBlock (copse cu : Nat) (queued : Bool) (b : XBlock) (s : State) : State := match s.stream copse cu with
  | some x => s.setStream copse cu (if queued then { x with queued := some b } else { x with opened := b })
  | none => s

/-- The block being decoded, and whether it is the queued one. -/
def decodingBlock (x : XStream) : Option (XBlock × Bool) :=
  if x.opened.phase = 1 then some (x.opened, false)
  else match x.queued with
    | some b => if b.phase = 1 then some (b, true) else none
    | none => none

/-- Fetch the next lines that a decoding block in fabric memory needs, through the copse cache. -/
def fetchLines (sr : StrandRef) (d : Desc) : List Nat → State → State
  | [], s => s
  | k :: r, s =>
    match (s.stream sr.copse sr.cu).bind fun x => (decodingBlock x).map fun b => b with
    | some (b, q) =>
      if b.asked.contains k || (SMap.get? b.lines k).isSome then fetchLines sr d r s
      else
        let r0 := { strandReq s sr d (k * 64) .none none 0 with src := .expander sr k 65536 0 false }
        match if cacheServes s r0 then landing s r0 else none with
        | some (node, line, viaW) =>
          match findLine (s.copse sr.copse) node line with
          | some l => fetchLines sr d r ((touchLine sr.copse node line s) |> putBlock sr.copse sr.cu q { b with lines := SMap.put b.lines k (lineBytes l.data) })
          | none =>
            let s := putBlock sr.copse sr.cu q { b with asked := b.asked ++ [k] } s
            fetchLines sr d r (serveStrand sr d { r0 with src := .expander sr k node line viaW } .load 1 s)
        | none =>
          let s := putBlock sr.copse sr.cu q { b with asked := b.asked ++ [k] } s
          fetchLines sr d r (serveStrand sr d r0 .load 1 s)
    | none => s

/-- Ask for what the decoding block of a CU still needs. -/
def expFetch (copse cu : Nat) (s : State) : State :=
  match s.stream copse cu with
  | some x =>
    match decodingBlock x with
    | some (b, _) =>
      match blockDesc s copse x b with
      | some d =>
        if d.kind = 1 then s
        else
          let a := d.base + b.off
          let n := blockNeeds s copse cu x b
          fetchLines (ownerOf copse cu x) d ((List.range ((a + n + 63) / 64 - a / 64)).map fun k => a / 64 + k) s
      | none => s
    | none => s
  | none => s

/-- Start the decode of the open block, or of the queued one. -/
def startDecode (copse cu : Nat) (queued : Bool) (s : State) : State :=
  match s.stream copse cu with
  | some x =>
    match if queued then x.queued else some x.opened with
    | some b =>
      let s := putBlock copse cu queued { b with phase := 1 } s
      expFetch copse cu (expFetch copse cu s)
    | none => s
  | none => s

/-- Panels of a stream whose header was damaged or could not be read (R430). -/
def wantOr1 (b : XBlock) : Nat := if b.want = 0 then 1 else b.want

/-- A line of a block has come, or its read has failed (R427). -/
def expLine (sr : StrandRef) (k node line : Nat) (viaW : Bool) (st : Status) (data : List Byte) (s : State) : State :=
  let s := if st = .ok ∧ node < 65536 then fillLine sr.copse sr.ctx node line (bytesLine data) false viaW false s else s
  match s.stream sr.copse sr.cu with
  | some x =>
    match decodingBlock x with
    | some (b, q) =>
      if x.ctx = sr.ctx ∧ b.asked.contains k then
        if st = .ok then
          expFetch sr.copse sr.cu (putBlock sr.copse sr.cu q { b with lines := SMap.put b.lines k data, asked := b.asked.filter fun j => j != k } s)
        else putBlock sr.copse sr.cu q { b with phase := 3, status := st.code, panels := wantOr1 b, asked := [] } s
      else s
    | none => s
  | none => s

/-- The format of a stream's panels. -/
def XBlock.nfmt (b : XBlock) : NFmt := (fmtOf b.fmt).getD .fp4

/-- The panels that a block yields once its length is known (R430). -/
def panelCount (b : XBlock) (raw : Nat) : Nat := let k := raw / b.nfmt.panelBytes; if b.want = 0 then k else min b.want k

def expIx (copse cu : Nat) : List Nat := [copse / 16, copse % 16, cu]

/-- A block is damaged: its panels are poisoned and it is counted (R425, R426). -/
def damage (copse cu : Nat) (queued : Bool) (b : XBlock) (st : Status) (panels : Nat) (s : State) : State :=
  let s := putBlock copse cu queued { b with phase := 3, status := st.code, panels := panels } s
  s.fadd (if st = .dataLength then XP_CNT.BAD_LEN else XP_CNT.BAD_CODE) (expIx copse cu) 1

/-- The decode of a block ends, once every byte that it needs has been read (R424, R433). -/
def decodeDone (copse cu : Nat) (s : State) : State :=
  match s.stream copse cu with
  | some x =>
    match decodingBlock x with
    | some (b, q) =>
      match blockBytes s copse cu x b 0 16, blockDesc s copse x b with
      | some h, some d =>
        match headerDamage h with
        | some st => damage copse cu q b st (wantOr1 b) s
        | none =>
          let clen := field h 8 4
          let raw := field h 4 4
          if d.len < b.off + 16 + clen then fault (ownerOf copse cu x) rDesc s
          else match blockBytes s copse cu x b 16 clen with
            | none => s
            | some payload =>
              let n := panelCount b raw
              match payloadCheck h payload with
              | .error st => damage copse cu q b st n s
              | .ok out => (putBlock copse cu q { b with phase := 2, panels := n, raw := out, lines := [] } s).fadd XP_CNT.BLOCKS (expIx copse cu) 1
      | _, _ => s
    | none => s
  | none => s

/-- A panel leaves the stream: with the last one of the open block the queued block takes its place, or the stream closes. -/
def drawPanel (copse cu : Nat) (s : State) : State :=
  match s.stream copse cu with
  | some x =>
    let b := { x.opened with drawn := x.opened.drawn + 1 }
    if b.drawn < b.panels then s.setStream copse cu { x with opened := b }
    else match x.queued with
      | some q => s.setStream copse cu { x with opened := q, queued := none }
      | none => s.dropStream copse cu
  | none => s

/-- Panels of a block not yet drawn. -/
def XBlock.left (b : XBlock) : Nat := (if b.phase < 2 then (if b.want = 0 then 0 else b.want) else b.panels) - b.drawn

end Sys2Proof.Machine
end

