-- ==== Sys2Proof/Machine/GroveWork.lean ====
section
/-! DEFINITION. What Grove instances do (R390-R416): collectives, barriers, embedding bags, MoE dispatch, the context filter, and the ends of their reads and sends. -/

namespace Sys2Proof.Machine

/-! Start (R387, R403). -/

/-- An instance starts: it reads its return table, and a barrier its tracker lines. -/
def svcStart (key : Nat) (s : State) : State :=
  let v := s.svcOf key
  let nRet := linesOf (v.num 0x28 8) (8 * v.p)
  let nTrack := if v.gid = 4 then linesOf (v.num 0x48 8) (64 * v.p) else 0
  let rank0 := match s.ctx? (key / 32) (key % 32) with
    | some x => startState x.hdr.seed x.rankBase
    | none => 1
  let (j, s) := newJob key .start (nRet + nTrack) (s.modSvc key fun v => { v with rng := (rank0, 0) })
  readLines key j (v.num 0x48 8) nTrack nRet (readLines key j (v.num 0x28 8) nRet 0 s)

/-- The table and the lines have come. -/
def startDone (key : Nat) (job : SvcJob) (s : State) : State :=
  match job.bad.head? with
  | some (_, st) =>
    endProgram (key / 32) (key % 32) (some { status := st, reason := if st = .denied then rAccess else 0, pc := 0, rank := 0, torn := false, time := s.pkg }) s
  | none =>
    s.modSvc key fun v =>
      let nRet := linesOf (v.num 0x28 8) (8 * v.p)
      { v with ready := true, ret := parseWords v.p (lineData job.got (v.num 0x28 8) (8 * v.p) 0),
               hist := if v.gid = 4 then
                   let bs := lineData job.got (v.num 0x48 8) (64 * v.p) nRet
                   (List.range v.p).map fun r => (r, field bs (64 * r) 32)
                 else [] }

/-! Collectives (R394-R398). -/

/-- The rank whose share holds a segment (R395). -/
def shareRank (ns p sg : Nat) : Nat := ((List.range p).find? fun r => decide (r * ns / p ≤ sg) && decide (sg < (r + 1) * ns / p)).getD 0

/-- A RESULT goes to its receivers. -/
def sendSegResult (key sg step status flags tag0 : Nat) (data : List Byte) (s : State) : State :=
  let v := s.svcOf key
  let rank := match v.gid with
    | 1 => v.num 0x46 2
    | 2 => shareRank (segTotal (v.num 0x40 4)) v.p sg
    | _ => 0
  let bs := svcHeader v 2 (v.num 0x45 1) status flags step rank 1 sg 0 tag0 ++ data
  if v.gid = 3 then svcSendGroup key bs s else svcResult key rank bs s

/-- A segment is emitted: it is counted, and the step with its last segment. -/
def emitted (key sg step : Nat) (s : State) : State :=
  s.modSvc key fun v =>
    let e := v.emitted ++ [(sg, step)]
    let mine := (List.range (segTotal (v.num 0x40 4))).filter fun x => x % v.c == v.idx
    { v with emitted := e, segs := v.segs.filter fun o => !(o.seg == sg && o.step == step),
             done := if mine.all fun x => e.contains (x, step) then (v.done + 1) % 2 ^ 64 else v.done }

/-- Blocks of a segment as the data of a RESULT, with its promotion output where promotion occurred (R334, R395). -/
def segData2 (f : NFmt) (bs : List OutBlock) : List Byte × Bool × Bool :=
  let promo := bs.any fun b => b.promo != []
  let sat := bs.any fun b => b.promo == [] && b.clamped != 0
  (packChunks f bs ++ (if promo then tagMap bs ++ (bs.map OutBlock.entry).flatten else []), promo, sat)

def sendBlocks (key sg step : Nat) (f : NFmt) (bs : List OutBlock) (s : State) : State :=
  let (data, promo, sat) := segData2 f bs
  sendSegResult key sg step (if sat then Status.saturated.code else 0) (boolNat promo) 0 data (emitted key sg step s)

/-- A complete segment without residual: CVTN and RESULT. -/
def emitSeg (key : Nat) (o : SvcSeg) (s : State) : State :=
  let f := (s.svcOf key).fmt 0x45
  let (c, s) := svcConvert key f true o.area s
  sendBlocks key o.seg o.step f c.blocks s

/-- The blocks of each segment, in order, from the blocks of all. -/
def sendSegs2 (key step : Nat) (f : NFmt) (n : Nat) : List Nat → List OutBlock → State → State
  | [], _, s => s
  | sg :: r, bs, s =>
    let k := segElems n sg / f.block
    sendSegs2 key step f n r (bs.drop k) (sendBlocks key sg step f (bs.take k) s)

def timeoutSegs (key step status tag0 : Nat) : List Nat → State → State
  | [], s => s
  | sg :: r, s => timeoutSegs key step status tag0 r (sendSegResult key sg step status 0 tag0 [] (emitted key sg step s))

/-- The RSTEP of a CU once all its segments of a step are complete or timed out (R337, R338, R397, R398). -/
def residStep (key cu step : Nat) (s : State) : State :=
  let v := s.svcOf key
  let n := v.num 0x40 4
  let all := cuSegs n v.c v.idx cu
  let here := all.filterMap fun sg => v.segs.find? fun o => o.seg == sg && o.step == step
  if here.length = all.length ∧ here.all fun o => o.timedOut || o.ranks.length == v.p then
    if here.any fun o => o.timedOut then
      let rest := (here.filter fun o => !o.timedOut).map fun o => o.seg
      let s := timeoutSegs key step Status.timeout.code 0 rest s
      s.modSvc key fun v => { v with segs := v.segs.filter fun o => !(all.contains o.seg && o.step == step) }
    else
      let copse := key / 32
      let x := (here.map fun o => o.area).flatten
      let stream := v.num 0x22 2 + 16 * v.idx + cu
      let f := v.fmt 0x45
      match residStart copse (some stream) step x.length x s with
      | (none, s) => timeoutSegs key step Status.poison.code 0 all s
      | (some (y, restarted), s) =>
        let s := if restarted then s.modSvc key fun v => { v with residReset := v.residReset + 1 } else s
        let (c, s) := svcConvert key f true y s
        let s := residEnd copse (some stream) step x.length y ((c.blocks.map (OutBlock.values f)).flatten) s
        sendSegs2 key step f n all c.blocks s
  else s

/-- A segment that has what it needs is emitted. -/
def trySeg (key sg step : Nat) (s : State) : State :=
  let v := s.svcOf key
  match v.segs.find? fun o => o.seg == sg && o.step == step with
  | some o =>
    if v.resid then residStep key (sg / v.c % 16) step s
    else if o.ranks.length = v.p then emitSeg key o s else s
  | none => s

/-- Add a segment of a contribution (R394). -/
def addSeg (key sg : Nat) (m : SvcMsg) (bs : List Byte) (s : State) : State :=
  let v := s.svcOf key
  let n := segElems (v.num 0x40 4) sg
  let xs := (widenChunks (v.fmt 0x44) bs).take n
  let o : SvcSeg := (v.segs.find? fun o => o.seg == sg && o.step == m.step).getD
    { seg := sg, step := m.step, at_ := m.at_, ranks := [], area := List.replicate n 0, timedOut := false }
  let o := { o with ranks := o.ranks ++ [m.rank], area := addVec o.area xs }
  trySeg key sg m.step (s.setSvc key { v with segs := v.segs.filter (fun q => !(q.seg == sg && q.step == m.step)) ++ [o] })

/-- The segments of a contribution that can be handled now, in order. -/
def contribute (key k : Nat) (m : SvcMsg) : List Nat → List Byte → State → State
  | [], _, s => s
  | sg :: r, bs, s =>
    let v := s.svcOf key
    let len := segBytes (v.fmt 0x44) (segElems (v.num 0x40 4) sg)
    let mark (s : State) : State := s.modSvc key fun v =>
      { v with queue := (List.range v.queue.length).zip v.queue |>.map fun e => if e.1 = k then { e.2 with done := e.2.done ++ [sg] } else e.2 }
    let s := if m.done.contains sg then s
      else match segWay v sg m.step m.rank with
        | .wait => s
        | .late => mark (s.modSvc key fun v => { v with late := v.late + 1 })
        | .dup => mark (s.modSvc key fun v => { v with dup := v.dup + 1 })
        | _ => addSeg key sg m (bs.take len) (mark s)
    contribute key k m r (bs.drop len) s

/-- Handle a CONTRIB at a place of the queue; with its last segment it leaves the queue. -/
def handleContrib (key k : Nat) (m : SvcMsg) (s : State) : State :=
  let sg := contribSegs (s.svcOf key) m
  let s := contribute key k m sg (m.bytes.drop 32) s
  match (s.svcOf key).queue[k]? with
  | some m' => if sg.all m'.done.contains then takeMsg key k s else s
  | none => s

/-- The contributions that entered before an instant, one after another: at most n of them. -/
def contribBefore (key limit : Nat) : Nat → State → State
  | 0, s => s
  | n + 1, s =>
    let v := s.svcOf key
    match v.queue.findIdx? fun m => m.sop == 1 && !msgBad v m && decide (since s limit ≤ since s m.at_) && msgReady v m with
    | some k => match v.queue[k]? with
        | some m => contribBefore key limit n (handleContrib key k m s)
        | none => s
    | none => s

/-- The lowest rank missing. -/
def lowestMissing (p : Nat) (ranks : List Nat) : Nat := ((List.range p).find? fun r => !ranks.contains r).getD 0

/-- Segments past their limit are emitted with TIMEOUT (R398). -/
def expireSegs (key : Nat) : List SvcSeg → State → State
  | [], s => s
  | o :: r, s =>
    let v := s.svcOf key
    let s := match v.segs.find? fun q => q.seg == o.seg && q.step == o.step && !q.timedOut with
      | some q =>
        if q.ranks.length < v.p ∧ v.limit ≤ since s q.at_ then
          let s := s.modSvc key fun v => { v with timeouts := v.timeouts + 1 }
          let s := sendSegResult key q.seg q.step Status.timeout.code 0 (lowestMissing v.p q.ranks) [] (emitted key q.seg q.step s)
          if v.resid then residStep key (q.seg / v.c % 16) q.step (s.modSvc key fun v => { v with segs := v.segs ++ [{ q with timedOut := true }] }) else s
        else s
      | none => s
    expireSegs key r s

def segTimeouts (key : Nat) (s : State) : State :=
  let v := s.svcOf key
  let due := v.segs.filter fun o => !o.timedOut && decide (o.ranks.length < v.p) && decide (v.limit ≤ since s o.at_)
  let s := due.foldl (fun s o => contribBefore key ((o.at_ + v.limit) % 2 ^ 64) (v.queue.length * 17) s) s
  expireSegs key due s

/-! Barriers (R401-R403). -/

def setBitsCount (n k : Nat) : Nat := ((List.range k).filter fun i => natBit n i).length

/-- The ranks in the arrival order, the missing ones after them in ascending order. -/
def barrierOrder (p : Nat) (arrived : List Nat) : List Nat := arrived ++ (List.range p).filter fun r => !arrived.contains r

/-- The spares armed for a step of a barrier instance (R504). -/
def armedSpares (s : State) (key step : Nat) : List Nat :=
  (List.range 8).filter fun k => s.fget CM_SPARE.PHASE [k] == 4 && (SMap.get SpareSt.reset s.com.spares k).release.isNone
    && (s.word .CM_SPARE_BAR [k]).toNat == ctxHandle s (key / 32) (key % 32) && s.fget CM_SPARE_ADMIT.STEP [k] == step

/-- A RELEASE leaves, unless admissions are armed for its step: then they are issued, and the last of them holds it (R504). -/
def sendRelease (key step : Nat) (bs : List Byte) (s : State) : State :=
  match (armedSpares s key step).reverse with
  | [] => svcSendGroup key bs s
  | last :: more =>
    let hold (k : Nat) (b : List Byte) (s : State) : State :=
      seqAdd none (.admission k) { s with com.spares := SMap.put s.com.spares k { SMap.get SpareSt.reset s.com.spares k with release := some (key, b) } }
    hold last bs (more.reverse.foldl (fun s k => hold k [] s) s)

/-- Release the barrier in progress. -/
def releaseBarrier (key : Nat) (st : Status) (s : State) : State :=
  let v := s.svcOf key
  let p := v.p
  let missing := (List.range p).filter fun r => !v.arrived.contains r
  let lastRank := if missing = [] then v.arrived.getLastD 0 else missing.headD 0
  let mwin := if v.num 0x41 1 = 0 then 256 else v.num 0x41 1
  let isLast (r : Nat) : Bool := missing.contains r || (missing == [] && r == lastRank)
  let hist := (List.range p).map fun r => (r, (SMap.get 0 v.hist r * 2) % 2 ^ 256 + boolNat (isLast r))
  let suspect (r : Nat) : Bool := decide (v.num 0x40 1 ≤ setBitsCount (SMap.get 0 hist r) mwin)
  let line (r : Nat) : List Byte := toBytesLE 32 (SMap.get 0 hist r) ++ toBytesLE 2 (setBitsCount (SMap.get 0 hist r) mwin)
    ++ [BitVec.ofNat 8 (boolNat (suspect r)), 0] ++ toBytesLE 4 v.cur ++ List.replicate 24 0
  let s := s.setSvc key { v with hist := hist, cur := (v.cur + 1) % 2 ^ 32, arrived := [], done := v.done + 1,
                                 timeouts := v.timeouts + boolNat (st != .ok) }
  let s := (List.range p).foldl (fun s r => svcStore key (v.num 0x48 8 + 64 * r) (line r) s) s
  let mask (q : Nat → Bool) : List Byte := toBytesLE 64 ((List.range p).foldl (fun a r => if q r then a + 2 ^ r else a) 0)
  sendRelease key v.cur (svcHeader v 4 0 st.code 0 v.cur 0 0 0 lastRank 0 ++ mask suspect ++ mask (fun r => missing.contains r)
    ++ ((barrierOrder p v.arrived).map (toBytesLE 2)).flatten) s

/-- Record an arrival. -/
def handleArrive (key k : Nat) (m : SvcMsg) (s : State) : State :=
  let v := s.svcOf key
  let s := takeMsg key k s
  if m.step = v.cur then
    if v.arrived.contains m.rank then s.modSvc key fun v => { v with dup := v.dup + 1 }
    else
      let s := s.modSvc key fun v => { v with arrived := v.arrived ++ [m.rank], first := if v.arrived = [] then m.at_ else v.first }
      if v.arrived.length + 1 = v.p then releaseBarrier key .ok s else s
  else if m.step < v.cur then s.modSvc key fun v => { v with late := v.late + 1 }
  else s.modSvc key fun v => { v with bad := v.bad + 1 }

/-- Arrivals at the barrier in progress that stand in the queue. -/
def arrivals (key : Nat) : Nat → State → State
  | 0, s => s
  | n + 1, s =>
    let v := s.svcOf key
    match v.queue.findIdx? fun m => m.sop == 3 && !msgBad v m && m.step == v.cur && v.arrived != [] && decide (since s ((v.first + v.limit) % 2 ^ 64) ≤ since s m.at_) with
    | some k => match v.queue[k]? with
        | some m => arrivals key n (handleArrive key k m s)
        | none => s
    | none => s

def barrierTimeout (key : Nat) (s : State) : State :=
  let v := s.svcOf key
  if v.arrived ≠ [] ∧ v.limit ≤ since s v.first then
    let s := arrivals key v.queue.length s
    if (s.svcOf key).cur = v.cur then releaseBarrier key .timeout s else s
  else s

/-! Embedding bags (R404, R405). -/

/-- 1 / n rounded to FP32. -/
def recip32 (n : Nat) : F32 := f32of (.fin false (2 ^ 100 / n * 2 + (if 2 ^ 100 % n = 0 then 0 else 1)) (-101))

def emBags (v : Svc) (m : SvcMsg) : List (Nat × Nat × List Nat × List Nat) := ((parseBags (v.num 0x4F 1 == 2) m.count (m.bytes.drop 32)).map Prod.fst).getD []

/-- The rows read for a request, bag by bag. -/
def bagRows (v : Svc) (bags : List (Nat × Nat × List Nat × List Nat)) : List Nat :=
  (bags.map fun b => if b.2.2.1.any fun i => decide (v.num 0x48 4 ≤ i) then [] else b.2.2.1).flatten

/-- GATHERs of up to 64 rows. -/
def gatherRuns (key j : Nat) : List (List Nat) → Nat → State → State
  | [], _, s => s
  | rows :: r, p, s =>
    let v := s.svcOf key
    gatherRuns key j r (p + 1) (serveMem (svcReq s key j p (v.num 0x40 8)) (.gather (v.num 0x4C 2 / 64 - 1) rows) false 1 (svcDie key) s)

/-- One bag reduced in FP32 (R405, step 3). -/
def reduceBag (v : Svc) (rows : List (List F32)) (ws : List Nat) : List F32 :=
  let d := v.num 0x50 2
  let zero : List F32 := List.replicate d 0
  let sum := match v.num 0x4F 1 with
    | 2 => (List.range rows.length).foldl (fun acc i => (acc.zip (rows.getD i zero)).map fun p => f32fma p.2 (widen (ws.getD i 0)) p.1) zero
    | _ => rows.foldl addVec zero
  if v.num 0x4F 1 = 1 then sum.map fun x => f32mul x (recip32 rows.length) else sum

/-- The entries of a BAG_RSP: each bag from row p of the request on. -/
def bagEntries (key : Nat) (v : Svc) (job : SvcJob) : List (Nat × Nat × List Nat × List Nat) → Nat → State → List (List Byte) × State
  | [], _, s => ([], s)
  | (k, id, idx, ws) :: r, p, s =>
    let head (st : Status) : List Byte := toBytesLE 2 id ++ [BitVec.ofNat 8 st.code, 0]
    if idx.any fun i => decide (v.num 0x48 4 ≤ i) then
      let (es, s) := bagEntries key v job r p s
      (head .denied :: es, s)
    else
      let rowb := v.num 0x4C 2
      let f := v.fmt 0x4E
      match (List.range k).findSome? fun i => SMap.get? job.bad ((p + i) / 64) with
      | some st =>
        let (es, s) := bagEntries key v job r (p + k) s
        (head st :: es, s)
      | none =>
        let d := v.num 0x50 2
        let row (i : Nat) : List F32 :=
          (widenBlocks f ((d + f.block - 1) / f.block) (((SMap.get [] job.got ((p + i) / 64)).drop ((p + i) % 64 * rowb)).take rowb)).take d
        let g := v.fmt 0x52
        let (c, s) := svcConvert key g false (reduceBag v ((List.range k).map row) ws) s
        let (es, s) := bagEntries key v job r (p + k) s
        ((head (if c.sat = 0 then .ok else .saturated) ++ packRow g c.blocks) :: es, s)

/-- Entries as messages of at most 65,536 bytes: each message's entries, in order. -/
def splitEntries : List (List Byte) → List (List (List Byte))
  | [] => []
  | e :: r => match splitEntries r with
    | g :: gs => if 32 + e.length + (g.map List.length).sum ≤ 65536 then (e :: g) :: gs else [e] :: g :: gs
    | [] => [[e]]

def sendBagRsps (key : Nat) (m : SvcMsg) : List (List (List Byte)) → Nat → State → State
  | [], _, s => s
  | g :: r, k, s =>
    let v := s.svcOf key
    sendBagRsps key m r (k + g.length) (svcResult key m.rank (svcHeader v 6 (v.num 0x52 1) 0 0 m.step m.rank g.length k 0 0 ++ g.flatten) s)

def bagsDone (key : Nat) (m : SvcMsg) (job : SvcJob) (s : State) : State :=
  let v := s.svcOf key
  let (es, s) := bagEntries key v job (emBags v m) 0 s
  sendBagRsps key m (splitEntries es) 0 (s.modSvc key fun v => { v with done := v.done + m.count })

def handleBags (key k : Nat) (m : SvcMsg) (s : State) : State :=
  let v := s.svcOf key
  let rows := bagRows v (emBags v m)
  let runs := piecesOf 64 (rows.length / 64 + 1) rows
  let s := takeMsg key k s
  if runs = [] then bagsDone key m { kind := .bags m, left := 0, got := [], bad := [] } s
  else
    let (j, s) := newJob key (.bags m) runs.length s
    gatherRuns key j runs 0 s

/-! MoE (R406-R411). -/

/-- The replica handles of an expert under a map, nonzero ones; none if the expert is not below NEXP. -/
def replicas (s : State) (key epoch e : Nat) : List Nat :=
  let v := s.svcOf key
  let clr := match s.ctx? (key / 32) (key % 32) with
    | some x => x.clr
    | none => 0
  match (((s.mapAt epoch).getD s.com.inForce).experts.find? fun m => m.map == v.num 0x40 2 && m.clr == clr).bind fun m => m.experts[e]? with
  | some hs => hs.filter fun h => h != 0
  | none => []

/-- Send a batch (R408). -/
def sendBatch (key id : Nat) (s : State) : State :=
  let v := s.svcOf key
  match v.batches.find? fun b => b.id == id with
  | some b =>
    let s := s.modSvc key fun v => { v with batches := v.batches.map fun (q : SvcBatch) => if q.id == id then { q with phase := 1 } else q }
    let body := (b.entries.map fun e => toBytesLE 4 e.token ++ toBytesLE 2 e.rank ++ toBytesLE 2 b.expert ++ e.data).flatten
    svcSend key (.expertIn id) b.handle (svcHeader v 8 (v.num 0x46 1) 0 0 0 0 b.entries.length 0 0 0 ++ body) s
  | none => s

/-- A token joins the batch of a replica and expert. -/
def joinBatch (key handle expert : Nat) (e : SvcEntry) (again : Bool) (s : State) : State :=
  let v := s.svcOf key
  let size := 8 + e.data.length
  let open? := v.batches.find? fun b => b.phase == 0 && b.handle == handle && b.expert == expert && b.again == again
  let s := match open? with
    | some b => if 65536 < 32 + (b.entries.length + 1) * size then sendBatch key b.id s else s
    | none => s
  let v := s.svcOf key
  match v.batches.find? fun b => b.phase == 0 && b.handle == handle && b.expert == expert && b.again == again with
  | some b =>
    let s := s.modSvc key fun v => { v with batches := v.batches.map fun (q : SvcBatch) => if q.id == b.id then { q with entries := q.entries ++ [e] } else q }
    if v.num 0x49 1 ≤ b.entries.length + 1 then sendBatch key b.id s else s
  | none =>
    let b : SvcBatch := { id := v.nextBatch, handle := handle, expert := expert, entries := [e], at_ := s.pkg, tried := [handle], again := again, phase := 0, status := .ok, since := 0 }
    let s := s.setSvc key { v with batches := v.batches ++ [b], nextBatch := v.nextBatch + 1 }
    if v.num 0x49 1 ≤ 1 then sendBatch key b.id s else s

/-- Send a rank's COMBINED entries. -/
def sendOut (key rank : Nat) (s : State) : State :=
  let v := s.svcOf key
  match v.outs.find? fun o => o.rank == rank with
  | some o =>
    svcResult key rank (svcHeader v 0x0A (v.num 0x47 1) 0 0 0 rank o.count 0 0 0 ++ o.bytes) (s.setSvc key { v with outs := v.outs.filter fun q => q.rank != rank })
  | none => s

/-- A COMBINED entry joins its rank's message. -/
def joinOut (key rank : Nat) (e : List Byte) (s : State) : State :=
  let v := s.svcOf key
  let s := match v.outs.find? fun o => o.rank == rank with
    | some o => if 65536 < 32 + o.bytes.length + e.length then sendOut key rank s else s
    | none => s
  let v := s.svcOf key
  let o : SvcOut := (v.outs.find? fun o => o.rank == rank).getD { rank := rank, count := 0, at_ := s.pkg, bytes := [] }
  let o : SvcOut := { o with count := o.count + 1, bytes := o.bytes ++ e }
  let s := s.setSvc key { v with outs := v.outs.filter (fun (q : SvcOut) => q.rank != rank) ++ [o] }
  if v.num 0x49 1 ≤ o.count then sendOut key rank s else s

/-- Answer a token: TOKEN, STATUS and the output where there is one. -/
def answerToken (key : Nat) (t : SvcToken) (forced : Option Status) (s : State) : State :=
  let s := s.modSvc key fun v => { v with tokens := v.tokens.filter fun q => !(q.rank == t.rank && q.token == t.token), done := v.done + 1 }
  let head (st : Status) : List Byte := toBytesLE 4 t.token ++ [BitVec.ofNat 8 st.code, 0, 0, 0]
  match forced with
  | some st => joinOut key t.rank (head st) s
  | none =>
    match t.choices.find? fun c => c.state == 2 with
    | some c => joinOut key t.rank (head c.status) s
    | none =>
      let f := (s.svcOf key).fmt 0x47
      let (c, s) := svcConvert key f false t.acc s
      joinOut key t.rank (head (if c.sat = 0 then .ok else .saturated) ++ packRow f c.blocks) s

/-- A pending token takes its new form; with every choice resolved it is answered. -/
def putToken (key : Nat) (t : SvcToken) (s : State) : State :=
  if t.choices.all fun c => c.state != 0 then answerToken key t none s
  else s.modSvc key fun v => { v with tokens := v.tokens.map fun q => if q.rank == t.rank && q.token == t.token then t else q }

/-- A pending choice fails. -/
def failChoice (key rank token expert : Nat) (st : Status) (s : State) : State :=
  match (s.svcOf key).tokens.find? fun t => t.rank == rank && t.token == token with
  | some t => match t.choices.findIdx? fun c => c.expert == expert && c.state == 0 with
    | some k => putToken key { t with choices := t.choices.modify k fun c => { c with state := 2, status := st } } s
    | none => s
  | none => s

/-- Resolve a choice against a map: to a batch, or failed (R407, R408). -/
def resolveChoice (key epoch expert : Nat) (e : SvcEntry) (again : Bool) (s : State) : State :=
  let hs := replicas s key epoch expert
  match hs[(e.token ^^^ e.rank) % hs.length]? with
  | some h => if hs = [] then failChoice key e.rank e.token expert .denied s else joinBatch key h expert e again s
  | none => failChoice key e.rank e.token expert .denied s

def resolveAll (key epoch : Nat) (e : SvcEntry) : List Nat → State → State
  | [], s => s
  | x :: r, s => resolveAll key epoch e r (resolveChoice key epoch x e false s)

/-- The token records of a DISPATCH. -/
def dispatchTokens (key : Nat) (m : SvcMsg) : List (List Byte) → State → State
  | [], s => s
  | b :: r, s =>
    let v := s.svcOf key
    let token := field b 0 4
    let k := field b 4 1
    let s :=
      if v.tokens.any fun t => t.rank == m.rank && t.token == token then s.modSvc key fun v => { v with dup := v.dup + 1 }
      else if k = 0 ∨ v.num 0x48 1 < k then s.modSvc key fun v => { v with bad := v.bad + 1 }
      else
        let cs := (List.range k).map fun i => ({ expert := field b (8 + 4 * i) 2, weight := field b (10 + 4 * i) 2, state := 0, status := .ok } : SvcChoice)
        let t : SvcToken := { rank := m.rank, token := token, at_ := m.at_, choices := cs, acc := List.replicate (v.num 0x44 2) 0 }
        resolveAll key m.epoch { token := token, rank := m.rank, data := b.drop 40 } (cs.map SvcChoice.expert) (s.setSvc key { v with tokens := v.tokens ++ [t] })
    dispatchTokens key m r s

def handleDispatch (key k : Nat) (m : SvcMsg) (s : State) : State :=
  let v := s.svcOf key
  let size := 40 + vecBytes (v.fmt 0x46) (v.num 0x42 2)
  dispatchTokens key m (piecesOf size m.count (m.bytes.drop 32)) (takeMsg key k s)

/-- The entries of an EXPERT_OUT (R410). -/
def expertEntries (key : Nat) : List (List Byte) → State → State
  | [], s => s
  | b :: r, s =>
    let v := s.svcOf key
    let token := field b 0 4
    let rank := field b 4 2
    let expert := field b 6 2
    let f := v.fmt 0x47
    let d := v.num 0x44 2
    let s := match v.tokens.find? fun t => t.rank == rank && t.token == token with
      | some t =>
        (match t.choices.findIdx? fun c => c.expert == expert && c.state == 0 with
          | some i =>
            let w := widen ((t.choices[i]?).map SvcChoice.weight |>.getD 0)
            let ys := (widenBlocks f ((d + f.block - 1) / f.block) (b.drop 8)).take d
            putToken key { t with choices := t.choices.modify i (fun c => { c with state := 1 }), acc := (t.acc.zip ys).map fun p => f32fma w p.2 p.1 } s
          | none =>
            if t.choices.any fun c => c.expert == expert && c.state == 1 then s.modSvc key fun v => { v with dup := v.dup + 1 }
            else s.modSvc key fun v => { v with late := v.late + 1 })
      | none => s.modSvc key fun v => { v with late := v.late + 1 }
    expertEntries key r s

def handleExpertOut (key k : Nat) (m : SvcMsg) (s : State) : State :=
  let v := s.svcOf key
  expertEntries key (piecesOf (8 + vecBytes (v.fmt 0x47) (v.num 0x44 2)) m.count (m.bytes.drop 32)) (takeMsg key k s)

/-- Batches whose waiting time has passed are sent (R408). -/
def batchSend (key : Nat) (s : State) : State :=
  let v := s.svcOf key
  let wait := v.num 0x4A 2 * 1000
  let s := ((v.batches.filter fun b => b.phase == 0 && decide (wait ≤ since s b.at_)).map SvcBatch.id).foldl (fun s i => sendBatch key i s) s
  ((v.outs.filter fun o => decide (wait ≤ since s o.at_)).map SvcOut.rank).foldl (fun s r => sendOut key r s) s

def dropBatch (key id : Nat) (s : State) : State := s.modSvc key fun v => { v with batches := v.batches.filter fun b => b.id != id }

def countResend (key : Nat) (s : State) : State := s.modSvc key fun v => { v with sendFail := v.sendFail + 1 }

/-- The completion of an EXPERT_IN send decides what happens next (R409). -/
def expertInDone (key id : Nat) (s : State) : State :=
  let v := s.svcOf key
  match v.batches.find? fun b => b.id == id && b.phase == 2 with
  | some b =>
    let fail (st : Status) (s : State) : State := b.entries.foldl (fun s e => failChoice key e.rank e.token b.expert st s) (dropBatch key id s)
    match b.status with
    | .ok => dropBatch key id s
    | .staleHandle =>
      (match (replicas s key s.epoch b.expert).find? fun h => !b.tried.contains h with
        | some h =>
          sendBatch key id (countResend key (s.modSvc key fun v => { v with batches := v.batches.map fun (q : SvcBatch) => if q.id == id then { q with handle := h, tried := q.tried ++ [h] } else q }))
        | none => fail .staleHandle s)
    | .staleEpoch =>
      if b.again then fail .staleEpoch s
      else
        let s := b.entries.foldl (fun s e => resolveChoice key s.epoch b.expert e true s) (countResend key (dropBatch key id s))
        (((s.svcOf key).batches.filter fun q => q.phase == 0 && q.again).map SvcBatch.id).foldl (fun s i => sendBatch key i s) s
    | .preempted =>
      countResend key (s.modSvc key fun v => { v with batches := v.batches.map fun (q : SvcBatch) => if q.id == id then { q with phase := 3, since := s.now } else q })
    | st => fail st s
  | none => s

/-- 10 µs after PREEMPTED (R409). -/
def expertInRetry (key id : Nat) (s : State) : State :=
  match (s.svcOf key).batches.find? fun b => b.id == id && b.phase == 3 with
  | some b => if b.since + 10000 ≤ s.now then sendBatch key id s else s
  | none => s

/-- Tokens past their limit (R410). -/
def tokenTimeouts (key : Nat) (s : State) : State :=
  let v := s.svcOf key
  (v.tokens.filter fun t => decide (v.limit ≤ since s t.at_)).foldl
    (fun s t => answerToken key t (some .timeout) (s.modSvc key fun v => { v with timeouts := v.timeouts + 1 })) s

/-! Context filter (R412-R416). -/

/-- The blocks of instance i. -/
def partLo (v : Svc) (i : Nat) : Nat := i * v.num 0x50 4 / v.c

/-- Is a block eligible for a request? -/
def eligible (v : Svc) (m : SvcMsg) (b : Nat) : Bool :=
  let bt := v.num 0x54 2
  decide (b * bt < m.num 40 4) && decide (m.num 36 4 < (b + 1) * bt) && decide (m.num 36 4 < m.num 40 4)

def eligibleBlocks (v : Svc) (m : SvcMsg) : List Nat := (List.range (v.num 0x50 4)).filter (eligible v m)

/-- The partition and group of a block, and its column. -/
def placeOf (v : Svc) (b : Nat) : Nat × Nat × Nat :=
  let i := ((List.range v.c).find? fun i => decide (partLo v i ≤ b) && decide (b < partLo v (i + 1))).getD 0
  (i, (b - partLo v i) / 32, (b - partLo v i) % 32)

/-- Bytes of a group's panels. -/
def groupBytes (v : Svc) : Nat := v.num 0x56 2 / (v.fmt 0x58).k * (v.fmt 0x58).panelBytes

def groupAddr (v : Svc) (i g : Nat) : Nat := (v.num 0x40 8 + i * v.num 0x48 8 + g * groupBytes v) % 2 ^ 64

/-- Groups with an eligible block. -/
def groupsRead (v : Svc) (m : SvcMsg) : List (Nat × Nat) := ((eligibleBlocks v m).map fun b => ((placeOf v b).1, (placeOf v b).2.1)).eraseDups

/-- Pieces of a group's lines. -/
def groupPiece (i g : Nat) : Nat := (i * 2 ^ 16 + g) * 2 ^ 12

/-- Open, or close, the PUBLISHED regions in which partitions lie (R416). -/
def filterRegions (key : Nat) (open_ : Bool) (s : State) : State :=
  let v := s.svcOf key
  (List.range v.c).foldl (fun s i =>
    let r := svcReq s key (2 ^ 40) 0 (groupAddr v i 0)
    match translateReq s s.com.inForce r (r.line * 64) 64 .r with
    | some (w, _) =>
      if (regionRec s.com.inForce w.region).any fun g => g.kind == some .published then
        (if open_ then serveOpen r (svcDie key) s else serveClose r (svcDie key) s)
      else s
    | none => s) s

def handleFilter (key k : Nat) (m : SvcMsg) (s : State) : State :=
  let v := s.svcOf key
  let gs := groupsRead v m
  let n := (gs.map fun g => linesOf (groupAddr v g.1 g.2) (groupBytes v)).sum
  let s := filterRegions key true (takeMsg key k s)
  let (j, s) := newJob key (.filter m) n s
  let s := s.modSvc key fun v => { v with filtering := some j }
  gs.foldl (fun s g => readLines key j (groupAddr v g.1 g.2) (linesOf (groupAddr v g.1 g.2) (groupBytes v)) (groupPiece g.1 g.2) s) s

/-- The query panels of a request. -/
def queryPanels (v : Svc) (m : SvcMsg) : List Panel :=
  let f := v.fmt 0x59
  (piecesOf f.panelBytes (v.num 0x56 2 / f.k) (m.bytes.drop 48)).map (Panel.ofBytes f)

/-- The FP32 results of a group: 32 × 32, and the overflows (R414). -/
def groupScores (v : Svc) (m : SvcMsg) (job : SvcJob) (i g : Nat) : List F32 × Nat :=
  let f := v.fmt 0x58
  let bs := lineData job.got (groupAddr v i g) (groupBytes v) (groupPiece i g)
  let ps := (piecesOf f.panelBytes (v.num 0x56 2 / f.k) bs).map (Panel.ofBytes f)
  ((queryPanels v m).zip ps).foldl (fun (a : List F32 × Nat) p => let r := tileMul p.1 p.2 a.1; (r.1, a.2 + r.2)) (List.replicate 1024 0, 0)

/-- The aggregate of a column over the query rows. -/
def aggregate (agg q : Nat) (xs : List F32) (col : Nat) : F32 :=
  let rows := (List.range q).map fun i => xs.getD (32 * i + col) 0
  match rows with
  | [] => 0
  | a :: r => if agg = 0 then r.foldl f32max a else r.foldl f32add a

/-- The order of the sorter (R339). -/
def rankLe (a b : F32 × Nat) : Bool := f32lt b.1 a.1 || (f32eq a.1 b.1 && decide (a.2 ≤ b.2))

/-- Scores of the eligible blocks, in block order, and the overflows. -/
def filterScores (v : Svc) (m : SvcMsg) (job : SvcJob) : List (F32 × Nat) × Nat :=
  let gs := (groupsRead v m).map fun g => (g, groupScores v m job g.1 g.2)
  let el := eligibleBlocks v m
  let nf := m.num 34 1
  let nl := m.num 35 1
  ((List.range el.length).map (fun k =>
    let b := el.getD k 0
    let (i, g, c) := placeOf v b
    let sc := if k < nf ∨ el.length ≤ k + nl then (0x7F800000 : F32)
      else match gs.find? fun e => e.1 == (i, g) with
        | some e => aggregate (v.num 0x5A 1) (m.num 32 1) e.2.1 c
        | none => 0
    (sc, b)), (gs.map fun e => e.2.2).sum)

/-- Read the key-value blocks of one KV_DATA message. -/
def startKv (key rank step first : Nat) (bs : List Nat) (s : State) : State :=
  let v := s.svcOf key
  let (j, s) := newJob key (.kv rank step first bs) bs.length s
  (List.range bs.length).foldl (fun s k =>
    let a := v.num 0x60 8 + bs.getD k 0 * v.num 0x5C 4
    serveMem (svcReq s key j k a) (.blkRd (v.num 0x5C 4 / 256)) false 1 (svcDie key) s) s

def startKvs (key rank step : Nat) : List (List Nat) → Nat → State → State
  | [], _, s => s
  | bs :: r, first, s => startKvs key rank step r (first + bs.length) (startKv key rank step first bs s)

/-- A FILTER_RSP, with which the request is answered. -/
def filterAnswer (key : Nat) (m : SvcMsg) (st : Status) (sel : List (F32 × Nat)) (s : State) : State :=
  let s := filterRegions key false s
  let s := s.modSvc key fun v => { v with filtering := none, done := v.done + 1 }
  let v := s.svcOf key
  svcResult key m.rank (svcHeader v 0x0C 0 st.code 0 m.step m.rank sel.length 0 0 0 ++ (sel.map fun p => toBytesLE 4 p.2 ++ toBytesLE 4 p.1.toNat).flatten) s

/-- Every panel has come: score, select, answer, and read the key-value blocks (R414, R415). -/
def filterDone (key : Nat) (m : SvcMsg) (job : SvcJob) (s : State) : State :=
  let v := s.svcOf key
  match job.bad.head? with
  | some (_, st) => filterAnswer key m st [] s
  | none =>
    let (scores, due) := filterScores v m job
    let good := scores.filter fun p => !(f32num p.1).isNan
    let sel := (sortBy rankLe good).take m.count
    let s := s.modCtx (key / 32) (key % 32) fun x => { x with sat := x.sat + due + (scores.length - good.length) }
    let s := filterAnswer key m .ok sel s
    let kvb := v.num 0x5C 4
    if natBit (m.num 33 1) 0 ∧ kvb ≠ 0 then startKvs key m.rank m.step (piecesOf (max 1 (65504 / kvb)) (sel.length + 1) (sel.map Prod.snd)) 0 s else s

def kvDone (key rank step first : Nat) (bs : List Nat) (job : SvcJob) (s : State) : State :=
  let v := s.svcOf key
  match job.bad.head? with
  | some (_, st) => svcResult key rank (svcHeader v 0x0D 0 st.code 0 step rank bs.length first 0 0) s
  | none => svcResult key rank (svcHeader v 0x0D 0 0 0 step rank bs.length first 0 0 ++ ((List.range bs.length).map fun k => SMap.get [] job.got k).flatten) s

/-- A filter request past its limit (R416). -/
def filterTimeout (key : Nat) (s : State) : State :=
  let v := s.svcOf key
  let late (m : SvcMsg) : Bool := decide (v.limit ≤ since s m.at_)
  let count (s : State) : State := s.modSvc key fun v => { v with timeouts := v.timeouts + 1 }
  match v.filtering.bind fun j => (SMap.get? v.jobs j).map fun (b : SvcJob) => (j, b.kind) with
  | some (j, .filter m) => if late m then filterAnswer key m .timeout [] (count (dropJob key j s)) else s
  | _ =>
    match v.queue.findIdx? fun m => m.sop == 0x0B && !msgBad v m && late m with
    | some k => match v.queue[k]? with
      | some m => filterAnswer key m .timeout [] (count (takeMsg key k s))
      | none => s
    | none => s

/-! Ends of reads and sends. -/

/-- Finish a piece of work whose last piece has come. -/
def finishJob (key j : Nat) (job : SvcJob) (s : State) : State :=
  let s := dropJob key j s
  match job.kind with
  | .start => startDone key job s
  | .bags m => bagsDone key m job s
  | .filter m => filterDone key m job s
  | .kv rank step first bs => kvDone key rank step first bs job s
  | .result => if job.bad = [] then s else countResend key s
  | .expertIn b => s.modSvc key fun v =>
      { v with batches := v.batches.map fun (q : SvcBatch) => if q.id == b then { q with phase := 2, status := (job.bad.head?.map Prod.snd).getD .ok } else q }
  | .write => s

/-- Work that is complete is finished while the instance runs. -/
def svcPump (key : Nat) : List Nat → State → State
  | [], s => s
  | j :: r, s =>
    if svcRuns s key then
      match SMap.get? (s.svcOf key).jobs j with
      | some job => svcPump key r (if job.left = 0 then finishJob key j job s else s)
      | none => svcPump key r s
    else s

/-- What follows every event of an instance: complete work is finished, a stopping instance ends, an instance with nothing to do waits. -/
def svcAfter (key : Nat) (s : State) : State :=
  if (SMap.get? s.svc key).isNone then s
  else
    let s := svcPump key ((s.svcOf key).jobs.map Prod.fst) s
    if svcRuns s key then svcRest key (svcEnd key s) else s

/-- The end of a read, store or send of an instance. -/
def svcEnded (key j piece : Nat) (st : Status) (data : List Byte) (s : State) : State :=
  match (SMap.get? s.svc key).bind fun v => SMap.get? v.jobs j with
  | some job =>
    let job := { job with left := job.left - 1, got := if st = .ok then SMap.put job.got piece data else job.got, bad := if st = .ok then job.bad else job.bad ++ [(piece, st)] }
    svcAfter key (s.modSvc key fun v => { v with jobs := SMap.put v.jobs j job })
  | none => s

end Sys2Proof.Machine
end

