-- ==== Sys2Proof/Machine/Loader.lean ====
section
/-! DEFINITION. The loader (R380, R381, R385, R475-R479): reading a program through its clearing's windows, the fit check, and placement. -/

namespace Sys2Proof.Machine

/-! Submissions. -/

/-- The fields of a submission record (Table 13.4). -/
structure Submission where
  gid : Nat
  copse : Nat
  rankBase : Nat
  prog : Nat
  tag : Word
  crec : Nat
  args : List Word
deriving DecidableEq, Repr

/-- A submission record; none if it is malformed. -/
def parseSubmission (bs : List Byte) : Option Submission :=
  let gid := field bs 4 2
  let prog := field bs 0x10 8
  if field bs 0 4 = 0x4E445853 ∧ field bs 7 1 = 0 ∧ field bs 0x0C 4 = 0 ∧ field bs 0x48 8 = 0 ∧ gid ≤ 7 ∧ (gid = 0 ∨ prog = 0) ∧ field bs 0x20 8 % 64 = 0 then
    some { gid := gid, copse := field bs 6 1, rankBase := field bs 8 4, prog := prog, tag := BitVec.ofNat 64 (field bs 0x18 8), crec := field bs 0x20 8,
           args := parseWords 4 (bs.drop 0x28) }
  else none

/-- The stages of a submission: it waits its turn, its program or record is read, or it waits for a context number (R479). -/
def stQueued := 0
def stHeader := 1
def stRest := 2
def stConf := 3
def stWait := 9

def loadOf (s : State) (id : Nat) : Option Loading := s.nx.loads.find? fun l => l.id == id

def putLoad (l : Loading) (s : State) : State := { s with nx.loads := s.nx.loads.map fun q => if q.id == l.id then l else q }

def dropLoad (id : Nat) (s : State) : State := { s with nx.loads := s.nx.loads.filter fun q => q.id != id }

def loadDie (l : Loading) : Nat := copseDie l.copse

/-! The fit check (R380). -/

/-- Does a program need plaintext (R450)? -/
def needsPlaintext (h : Header) (code : List Word) : Bool :=
  h.plain || h.sorter == 1 || h.amax != [] || h.resid != [] || code.any fun w =>
    let i := Ins.ofWord w
    i.cls == 2 || i.cls == 3 || i.cls == 5 || (i.cls == 1 && ((0x20 ≤ i.op && i.op ≤ 0x23) || (0x28 ≤ i.op && i.op ≤ 0x2C)))

/-- Streams of a list that have no entry yet, each once. -/
def newStreams (have_ : List Nat) (want : List Nat) : List Nat := (want.filter fun n => !have_.contains n).eraseDups

def residUnits (n : Nat) : Nat := (n + 32767) / 32768

def newResid (c : Copse) (h : Header) : List (Nat × Nat) :=
  (newStreams (c.resid.map fun e => e.2.stream) (h.resid.map Prod.fst)).map fun q => (q, ((h.resid.find? fun r => r.1 == q).map Prod.snd).getD 0)

def usedUnits (c : Copse) : List Nat := (c.resid.map fun e => e.2.units).flatten

/-- Has a commit that takes a copse from its clearing its Sequencer position (R381)? -/
def copseLeaving (s : State) (copse c : Nat) : Bool :=
  match s.com.phase, s.com.next with
  | .positioned, some m | .held, some m => copseClr m copse != some c
  | _, _ => false

/-- The first check that fails. -/
def fitCheck (h : Header) (code : List Word) (l : Loading) (s : State) : Option (Status × Nat) :=
  let c := s.copse l.copse
  let descBad := h.descs.findSome? fun d => if d.kind == 4 && !h.priv then some (Status.denied, rPriv) else if !descOk h d then some (.refusedLoad, rDesc) else none
  if !h.ok then some (.refusedLoad, rHeader)
  else if !h.codeOk then some (.refusedLoad, rCode)
  else if h.priv && !l.priv then some (.denied, rPriv)
  else if h.priv != h.mgmt then some (.refusedLoad, rHeader)
  else if h.mgmt && (h.cus != 1 || decide (0 < h.privWays) || h.sorter == 1 || h.amax != [] || h.resid != []) then some (.refusedLoad, rHeader)
  else if !h.mgmt && (copseClr s.com.inForce l.copse != some l.clr || copseLeaving s l.copse l.clr) then some (.denied, rPlace)
  else if h.cus < 1 ∨ 16 < h.cus ∨ h.strands < 1 ∨ 1024 < h.strands then some (.refusedLoad, rStrands)
  else if 128 < h.pages ∨ 4096 * h.pages < h.initLen then some (.refusedLoad, rPages)
  else if h.sorter = 1 ∧ h.pages < 8 then some (.refusedLoad, rSorter)
  else if h.privWays < h.pinWays ∨ 15 < h.privWays then some (.refusedLoad, rWays)
  else if 16 < h.bays then some (.refusedLoad, rBays)
  else if descBad.isSome then descBad
  else if !rxqOk h then some (.refusedLoad, rDesc)
  else match scanCode h 0 code with
    | some r => some (.refusedLoad, r)
    | none =>
      if 64 < c.amax.length + (newStreams (c.amax.map fun e => e.2.stream) h.amax).length then some (.refusedLoad, rAmax)
      else if 64 < c.resid.length + (newResid c h).length ∨ 1024 < (usedUnits c).length + ((newResid c h).map fun r => residUnits r.2).sum then some (.refusedLoad, rResid)
      else if confOf s.com.inForce l.clr = 2 ∧ needsPlaintext h code then some (.refusedLoad, rBounce)
      else none

/-! Placement. -/

/-- Entries of a program's streams on its copse (R332, R336). -/
def addAmax (copse : Nat) : List Nat → State → State
  | [], s => s
  | q :: r, s =>
    let c := s.copse copse
    let k := (lowestFree 64 1 (c.amax.map Prod.fst)).headD 0
    addAmax copse r (s.setCopse copse { c with amax := SMap.put c.amax k { stream := q, cur := 0, hist := [], rolls := 0 } })

def addResid (copse : Nat) : List (Nat × Nat) → State → State
  | [], s => s
  | (q, n) :: r, s =>
    let c := s.copse copse
    let k := (lowestFree 64 1 (c.resid.map Prod.fst)).headD 0
    let units := lowestFree 1024 (residUnits n) (usedUnits c)
    addResid copse r (s.setCopse copse { c with resid := SMap.put c.resid k { stream := q, n := n, step := 0, valid := false, units := units } })

/-- Bytes of a context's swap reservation (R479). -/
def reservation (h : Header) : Nat :=
  (h.codeLen + 4095) / 4096 * 4096 + 4096 + h.pages * 4096 * h.cus + h.bays * 16384 * h.cus + 320 * h.strands * h.cus + 32 * h.cus

def swapArea : Nat := 156 * 2 ^ 20

/-- A free context number with room for the reservation. -/
def freeNumber (s : State) (copse : Nat) (h : Header) : Option Nat :=
  let all := ctxsOf s copse
  if copse < 128 ∧ swapArea < (all.map fun e => reservation e.2.hdr).sum + reservation h then none
  else (lowestFree 32 1 (all.map Prod.fst)).head?

/-- A program that passed: its streams' entries, its context, and SUBMIT's answer; it waits while no number or too little room is free. -/
def placeLoad (l : Loading) (h : Header) (code : List Word) (init : List Byte) (s : State) : State :=
  match freeNumber s l.copse h with
  | none => putLoad { l with stage := stWait } s
  | some n =>
    let c0 := s.copse l.copse
    let s := addResid l.copse (newResid c0 h) (addAmax l.copse (newStreams (c0.amax.map fun e => e.2.stream) h.amax) s)
    let seed := if h.seed = 0 then Config.freeNat s.draws % 2 ^ 64 else h.seed
    let s := if h.seed = 0 then s.draw else s
    let c := s.copse l.copse
    let key := ctxKey l.copse n
    let s := { s with nx.gens := SMap.set 1 s.nx.gens key (nextGen (ctxGen s l.copse n)) }
    let x : Ctx :=
      { state := .loading, clr := l.clr, gid := l.gid, hdr := { h with seed := seed }, code := code, init := init, args := l.args, rankBase := l.rankBase, by_ := l.by_,
        tag := l.tag, strands := [], scratch := [], bays := [], started := false, rxHead := 0, rx := [], rxWait := [], runnable := false, since := c.arrivals,
        residentAt := 0, blockedAt := 0, readyAt := 0, slot := 8, ways := [], pins := [], frames := [], first := none, cause := none, streams := [], result := none, sat := 0,
        promoted := 0, expStall := 0, preempts := 0, issued := 0 }
    let s := (s.setCopse l.copse { c with arrivals := c.arrivals + 1 }).putCtx l.copse n x
    let s := if l.gid = 0 then s else s.setSvc key { Svc.reset with conf := l.conf, idx := (l.args.getD 1 0).toNat }
    let data := toBytesLE 8 (ctxHandle s l.copse n) ++ List.replicate 8 0
    scheduleAll 8 l.copse (endReq l.src l.clr l.epoch (loadDie l) .ok data false (dropLoad l.id s))

/-- A submission that is refused: SUBMIT's answer and its completion record. -/
def refuseLoad (l : Loading) (st : Status) (reason : Nat) (s : State) : State :=
  refusedRecord l.copse l.clr l.by_ l.tag st reason (endReq l.src l.clr l.epoch (loadDie l) st [] false (dropLoad l.id s))

/-- The header, code and INIT of a submission whose bytes are here. -/
def loadImage (l : Loading) : Header × List Word × List Byte :=
  if l.gid ≠ 0 then (groveHeader l.gid l.conf (l.args.getD 1 0).toNat, [], [])
  else
    let h := parseHeader l.got
    let codeOff := field l.got 0x14 4
    (h, parseWords (h.codeLen / 8) (l.got.drop codeOff), ((l.got.drop (field l.got 0x20 4)).take h.initLen))

/-- Decide a submission whose bytes are here. -/
def decideLoad (l : Loading) (s : State) : State :=
  let (h, code, init) := loadImage l
  if l.gid ≠ 0 && !confOk l.gid l.conf (l.args.getD 1 0).toNat then refuseLoad l .refusedLoad rHeader s
  else match fitCheck h code l s with
    | some (st, r) => refuseLoad l st r s
    | none => placeLoad l h code init s

/-! Reading. -/

/-- The next read of a submission. -/
def issueRead (l : Loading) (s : State) : State :=
  match l.plan with
  | (a, n) :: _ =>
    let r : Req := { src := .loader l.id, clr := l.clr, epoch := s.epoch, gen := 0, node := a / 2 ^ 48 % 65536, line := a % 2 ^ 48 / 64 }
    serveMem r (if n = 0 then .load else .blkRd n) false 1 (loadDie l) (putLoad l s)
  | [] => putLoad l s

/-- BLK_RDs of at most 64 KiB. -/
def chunkPlan (a : Nat) : Nat → Nat → List (Nat × Nat)
  | 0, _ => []
  | k + 1, n => if n = 0 then [] else (a, min 256 n) :: chunkPlan (a + 65536) k (n - 256)

/-- A submission's turn comes. -/
def beginLoad (l : Loading) (s : State) : State :=
  match l.by_ with
  | .slot _ => if l.gid = 0 then decideLoad l s else
      let a := (l.args.getD 0 0).toNat
      issueRead { l with stage := stConf, plan := (List.range (linesOf a (confBytes l.gid))).map fun k => (a / 64 * 64 + 64 * k, 0) } s
  | .fabric _ =>
    if l.gid = 0 then issueRead { l with stage := stHeader, plan := [(l.prog, 1)] } s
    else
      let a := (l.args.getD 0 0).toNat
      issueRead { l with stage := stConf, plan := (List.range (linesOf a (confBytes l.gid))).map fun k => (a / 64 * 64 + 64 * k, 0) } s

/-- The last program image that the loader takes: 4 MiB. -/
def imageMax : Nat := 4194304

/-- The bytes planned have been read. -/
def stageDone (l : Loading) (s : State) : State :=
  if l.stage = stConf then
    let a := (l.args.getD 0 0).toNat
    decideLoad { l with conf := (l.got.drop (a % 64)).take (confBytes l.gid) } s
  else if l.stage = stHeader then
    let total := max (field l.got 0x10 4) (max (field l.got 0x14 4 + field l.got 0x18 4) (field l.got 0x20 4 + field l.got 0x24 4))
    if field l.got 0 4 ≠ 0x4E445850 ∨ imageMax < total then refuseLoad l .refusedLoad rHeader s
    else if total ≤ 256 then decideLoad l s
    else
      let segs := (total - 256 + 255) / 256
      issueRead { l with stage := stRest, plan := chunkPlan (l.prog + 256) (segs / 256 + 1) segs } s
  else decideLoad l s

/-- A read of the loader has ended (R475). -/
def loaderRead (id : Nat) (st : Status) (data : List Byte) (s : State) : State :=
  match loadOf s id with
  | some l =>
    if st ≠ .ok then refuseLoad l st (if st = .denied then rAccess else 0) s
    else
      let l := { l with got := l.got ++ data, plan := l.plan.tail }
      if l.plan = [] then stageDone l s else issueRead l s
  | none => s

/-- Loads that can go on, one per copse at a time, in order of arrival (R381): at most n steps. -/
def pumpLoads : Nat → State → State
  | 0, s => s
  | n + 1, s =>
    let first (l : Loading) : Bool := (s.nx.loads.find? fun q => q.copse == l.copse).any fun q => q.id == l.id
    match s.nx.loads.find? fun l => first l && (l.stage == stQueued
        || (l.stage == stWait && (let i := loadImage l; (freeNumber s l.copse i.1).isSome))) with
    | some l => pumpLoads n (if l.stage = stQueued then beginLoad l s else let i := loadImage l; placeLoad l i.1 i.2.1 i.2.2 s)
    | none => s

/-- A submission arrives. -/
def addLoad (src : ReqSrc) (clr epoch : Nat) (u : Submission) (by_ : Submitter) (priv : Bool) (image : List Byte) (s : State) : State :=
  let id := s.nx.nextLoad
  let l : Loading := { id := id, src := src, clr := clr, epoch := epoch, copse := u.copse, gid := u.gid, rankBase := u.rankBase, prog := u.prog, tag := u.tag, by_ := by_,
                       args := u.args, priv := priv, plan := [], got := image, conf := [], stage := stQueued }
  { s with nx.loads := s.nx.loads ++ [l], nx.nextLoad := id + 1 }

end Sys2Proof.Machine
end

