-- ==== Sys2Proof/Machine/Settle.lean ====
section
/-! DEFINITION. What follows every command: the ends of requests reach those who issued them, and whatever waited for them goes on. -/

namespace Sys2Proof.Machine

/-- A part of another request has ended. -/
def txnPart (parent pos : Nat) (st : Status) (data : List Byte) (s : State) : State :=
  match s.txn? parent with
  | some x => if cohKind x.kind then cohPart x pos st data s else partEnded parent pos st data s
  | none => s

/-- An EPOCH_NOTE to a spare in its test has ended (R501). -/
def spareNote (k : Nat) (st : Status) (s : State) : State :=
  if st = .ok then { s with com.spares := SMap.put s.com.spares k { SMap.get SpareSt.reset s.com.spares k with noteOk := true } } else s

/-- One end reaches its issuer. -/
def deliver (e : Ended) (s : State) : State :=
  match e.src with
  | .port _ _ | .home | .note _ | .cacheFill _ => s
  | .strand sr ret stat pc => deliverStrand sr ret stat pc e.status e.data s
  | .txn parent pos => txnPart parent pos e.status e.data s
  | .loader id => loaderRead id e.status e.data s
  | .crec copse id => crecEnded copse id e.status s
  | .service key job piece => svcEnded key job piece e.status e.data s
  | .expander sr k node line viaW => expLine sr k node line viaW e.status e.data s
  | .page clr node page => pageEnded clr node page e.status e.data s
  | .spare k => spareNote k e.status s

/-- Cells queued for logical ports that do not carry traffic are discarded (R250). -/
def sweepPorts (s : State) : State :=
  s.fwd.egress.foldl (fun (s : State) (e : Nat × EgressQ) => if portHolds s (e.1 / 16) then s else dropPortCells FW_CLR_CNT_DROP.PORT_DOWN (e.1 / 16) s) s

/-- Requests that wait at their home, at a directory entry, for the Sequencer or for a slot, and loads, try again. -/
def pumpAll (s : State) : State :=
  let ids (s : State) : List Nat := s.fab.txns.map Prod.fst
  let s := pumpHome (ids s) s
  let s := pumpCoh (ids s) s
  let s := pumpSubs (ids s) s
  let s := pumpPrepare (ids s) s
  sweepPorts (pumpLoads 64 s)

/-- Deliver ends and retry waiters until nothing is left: at most n rounds. Ends that remain are delivered by the next command. -/
def settleN : Nat → State → State
  | 0, s => s
  | n + 1, s =>
    match s.fab.ended with
    | e :: r => settleN n (deliver e { s with fab.ended := r })
    | [] =>
      let s' := pumpAll s
      if s'.fab.ended = [] then s' else settleN n s'

/-- What follows every command that may end a request. -/
def settle (s : State) : State :=
  let s := joinAll (settleN 100000 s)
  serveClaims s.ecc.claims s

end Sys2Proof.Machine
end

