-- ==== Sys2Proof/Machine/CommitOps.lean ====
section
/-! DEFINITION. Canopy commits (R489-R497), the units that they move (R463, R494, R495), the ownership ledger (R498, R499), and spares (R500-R504). -/

namespace Sys2Proof.Machine

/-! Units. -/

/-- CM.UNIT[u] and, for a share, FW[g].SHARE[k]: a quarantined share reads scrubbing there (R469). -/
def setUnit (u clr st : Nat) (s : State) : State :=
  let s := (s.fset CM_UNIT.CLR [u] clr).fset CM_UNIT.STATE [u] st
  if 128 ≤ u ∧ u < 384 then
    let ix := [(u - 128) / 32, (u - 128) % 32]
    (s.fset FW_SHARE.CLR ix (if st = 1 then clr else 0xFF)).fset FW_SHARE.STATE ix (min st 3)
  else s

/-- A unit at the switch from one map to the next: given to a clearing, or leaving its own. -/
def switchUnit (old new : Canopy) (u : Nat) (s : State) : State :=
  match unitClr old u, unitClr new u with
  | o, some c => if o = some c then s else setUnit u c 1 s
  | some c, none => setUnit u c 2 s
  | none, none => s

/-- CLR of a physical port follows the map; a port newly given to a clearing trains again (R464). -/
def switchPort (old new : Canopy) (p : Nat) (s : State) : State :=
  let o := unitClr old (384 + p)
  let n := unitClr new (384 + p)
  if o = n then s
  else
    let s := s.fset FR_PORT_CFG.CLR [p / 8, p % 8] (n.getD 0xFF)
    if n.isSome then trainAgain p s else s

/-! What a new map changes. -/

/-- What an endpoint record stands for: TYPE and target (R472). -/
def Endpoint.target (e : Endpoint) : Nat × Nat × Nat := (e.type, e.lport, e.ctx)

/-- Does the record at an index appear, disappear, or change its TYPE or target? -/
def endpointMoves (old new : Canopy) (c i : Nat) : Bool := (endpointOf old c i).map Endpoint.target != (endpointOf new c i).map Endpoint.target

/-- The generations after such changes (R472). -/
def switchGens (old new : Canopy) (s : State) : State :=
  let keys := ((old.endpoints ++ new.endpoints).map fun e => 1024 * e.clr + e.index).eraseDups
  keys.foldl (fun (s : State) k =>
    if endpointMoves old new (k / 1024) (k % 1024) then { s with com.epGens := SMap.set 1 s.com.epGens k (nextGen (epGen s (k / 1024) (k % 1024))) } else s) s

/-- Is the POOL of a handle removed or rebound between two maps? -/
def poolMoves (old new : Canopy) (h : Nat) : Bool := endpointMoves old new (Handle.ofNat h).clr (Handle.ofNat h).index

/-- An entry returns to OWNED by its source, counted (R499, Table 13.11). -/
def revertEntry (e : LedgerEntry) : LedgerEntry := { e with moving := none, lapsed := e.moving.map Prod.fst }

def countReverts : List LedgerEntry → State → State
  | [], s => s
  | e :: r, s => countReverts r (pulse 66 (s.fadd CM_LEDGER.REVERTED [e.clr] 1))

/-- Entries that move to a POOL which a map removes or rebinds revert. -/
def revertToward (old new : Canopy) (s : State) : State :=
  let hit (e : LedgerEntry) : Bool := match e.moving with
    | some (d, _) => poolMoves old new d
    | none => false
  countReverts (s.com.ledger.filter hit) { s with com.ledger := s.com.ledger.map fun e => if hit e then { e with moving := none } else e }

/-- Entries whose OWNER's POOL record is rebound take its new handle. -/
def rebindOwners (old new : Canopy) (s : State) : State :=
  { s with com.ledger := s.com.ledger.map fun e =>
      match endpointOf new (Handle.ofNat e.owner).clr (Handle.ofNat e.owner).index with
      | some p => if poolMoves old new e.owner ∧ p.type = 4 then { e with owner := epHandle s p } else e
      | none => e }

/-- A PUBLISHED region that stays keeps its versions; a new one starts with slot 0 CURRENT at version 0 (R212). -/
def pubOf (old new : Canopy) (s : State) (r : Region) : PubRegion :=
  let fresh : PubRegion := { region := r.region, version := 0, slots := .current :: List.replicate (r.nslot - 1) .free, pins := [], ordered := [] }
  match s.pub? r.region, regionRec old r.region, regionRec new r.region with
  | some q, some a, some b => if a.kind = some .published ∧ a.clr = b.clr ∧ a.nslot = b.nslot then q else fresh
  | _, _, _ => fresh

/-- Does a region stay, of one clearing and kind? -/
def regionStays (old new : Canopy) (r : Nat) : Bool := ((regionRec old r).map fun x => (x.clr, x.kind)) == ((regionRec new r).map fun x => (x.clr, x.kind)) && (regionRec new r).isSome

/-- Versions, pins and subscriptions under a new map (R211, R212, R216). -/
def switchRegions (old new : Canopy) (s : State) : State :=
  let s := { s with coh.pubs := (new.regions.filter fun (r : Region) => r.kind == some RegionKind.published).map (pubOf old new s) }
  let due := s.coh.invals.filter fun (v : InvalRun) => !regionStays old new v.region
  let s := { s with coh.subs := s.coh.subs.filter fun u => regionStays old new u.region }
  due.foldl (fun (s : State) (v : InvalRun) => v.awaits.foldl (fun (s : State) (a : Holder × Nat) => match a.1 with
    | .port lp => invAck lp a.2 s
    | .ctx _ _ => s) s) s

/-- A domain appears UP, or disappears. -/
def switchDomain (old new : Canopy) (d : Nat) (s : State) : State :=
  match (domainRec old d).map Domain.clr, (domainRec new d).map Domain.clr with
  | o, some c => if o = some c then s else (s.setWord .CM_DOM [d] (CW.resetWord .CM_DOM [d])).fset CM_DOM.STATE [d] 1
  | some _, none => s.setWord .CM_DOM [d] (CW.resetWord .CM_DOM [d])
  | none, none => s

/-- Directory entries whose line no COHERENT window of the new map covers are freed. -/
def switchDirectory (new : Canopy) (s : State) : State :=
  { s with coh.dir := s.coh.dir.filter fun e =>
      new.windows.any fun w => w.valid && w.coh && w.pnode == e.node && decide (w.pbase ≤ e.line * 64) && decide (e.line * 64 < w.pbase + w.bytes) }

/-- Staging copies stay while their window stays (R181). -/
def copyStays (old new : Canopy) (y : StageCopy) : Bool :=
  let at_ (m : Canopy) := (clrWindows m y.clr).find? fun w => w.tier == .t2 && w.pnode == y.node && decide (w.pbase ≤ y.page * 4096) && decide (y.page * 4096 < w.pbase + w.bytes)
  match at_ old, at_ new with
  | some a, some b => a.raw == b.raw
  | _, _ => false

/-- A clearing keeps no more staging copies than its pool; the copies to be replaced first go first. -/
def trimStage (c : Nat) : Nat → State → State
  | 0, s => s
  | n + 1, s =>
    if (s.fab.staging.filter fun y => y.clr == c).length ≤ stagePool s c then s
    else match stageVictim s c 3 with
      | some v => trimStage c n { s with fab.staging := s.fab.staging.filter fun z => !sameCopy v.clr v.node v.page z }
      | none => s

def switchStaging (old new : Canopy) (s : State) : State :=
  let s := { s with fab.staging := s.fab.staging.filter (copyStays old new), fab.buckets := [] }
  (List.range 128).foldl (fun s c => trimStage c s.fab.staging.length s) s

/-- The bytes of a clearing's records, in the order of R460. -/
def clrBytes (m : Canopy) (c : Nat) : List Byte :=
  let pick {α : Type} (f : α → Nat) (g : α → List Byte) (l : List α) : List Byte := ((l.filter fun x => f x == c).map g).flatten
  pick ClrRec.clr ClrRec.raw m.clearings ++ pick Slice.clr Slice.raw m.slices ++ pick PortRec.clr PortRec.raw m.ports ++ pick Route.clr Route.raw m.routes
    ++ pick Window.clr Window.raw m.windows ++ pick Region.clr Region.raw m.regions ++ pick Domain.clr Domain.raw m.domains ++ pick McGroup.clr McGroup.raw m.groups
    ++ pick ExpertMap.clr ExpertMap.raw m.experts ++ pick QuotaRec.clr QuotaRec.raw m.quotas ++ pick Endpoint.clr Endpoint.raw m.endpoints

/-- CM.CLR[c].CONF: the mode of the map in force, and MAPGEN after a change of the records (R460). -/
def switchConf (old new : Canopy) (c : Nat) (s : State) : State :=
  let s := s.fset CM_CLR_CONF.CONF [c] (confOf new c)
  if clrBytes old c = clrBytes new c then s else s.fwrap CM_CLR_CONF.MAPGEN [c] 1

/-- A commit that assigns the copse of a die's TRAIL_FM.CFG.CH clears its EN, with an event (R262). -/
def switchTrail (new : Canopy) (g : Nat) (s : State) : State :=
  if s.fget FW_TRAILFM_CFG.EN [g] = 1 ∧ (copseClr new (s.fget FW_TRAILFM_CFG.CH [g])).isSome then (s.fset FW_TRAILFM_CFG.EN [g] 0).emit (.event (.trailDisabled g)) else s

/-- The map in force becomes another, as epoch E + 1 (Table 13.7, tc); `drain` opens a drain window for the old one. -/
def switchMap (new : Canopy) (drain : Bool) (s : State) : State :=
  let old := s.com.inForce
  let s := switchGens old new s
  let s := { s with com.inForce := new, com.prev := if drain then some old else none, com.node := s.fget CM_SELF.NODE [], fwd.meshOwed := true }
  let s := ((s.fwrap CM_EPOCH.EPOCH [] 1).fset CM_EPOCH.DRAIN [] (boolNat drain)).fset CM_EPOCH.TC [] s.pkg
  let s := (List.range 512).foldl (fun s u => switchUnit old new u s) s
  let s := (List.range 128).foldl (fun s c => switchConf old new c s) (rebindOwners old new s)
  let s := (List.range 256).foldl (fun s d => switchDomain old new d s) (switchDirectory new (switchRegions old new s))
  let s := (List.range 8).foldl (fun s g => switchTrail new g s) (switchStaging old new s)
  (List.range 128).foldl (fun s p => switchPort old new p s) s

/-! The end of a drain window. -/

/-- A context of a copse that has left its clearing ends with SERVICE_INTERRUPTED, without TORN_DOWN (R495). -/
def interruptCtx (copse n : Nat) (s : State) : State :=
  endProgram copse n (some { status := .serviceInterrupted, reason := 0, pc := 0xFFFFFFFF, rank := 0xFFFFFFFF, torn := false, time := s.pkg }) s

def interruptAll (copse : Nat) : List (Nat × Ctx) → State → State
  | [], s => s
  | (n, x) :: r, s => interruptAll copse r (if x.state = .ending then s else interruptCtx copse n s)

/-- Contexts of copses that their clearing no longer holds end. -/
def leaveCopse (k : Nat) (s : State) : State :=
  let gone := (ctxsOf s k).filter fun e => copseClr s.com.inForce k != some e.2.clr
  if gone = [] then s
  else
    let s := interruptAll k gone s
    s.setCopse k { s.copse k with switching := false, entering := none }

/-- A unit that leaves has left its clearing: its scrub is owed (R463). -/
def leaveUnit (u : Nat) (s : State) : State :=
  if s.fget CM_UNIT.STATE [u] = 2 then
    let c := s.fget CM_UNIT.CLR [u]
    setUnit u 0xFF 2 { s with clr.leftAt := SMap.set 0 s.clr.leftAt u s.clr.made, clr.owed := s.clr.owed ++ [(u, c, 1, s.epoch)] }
  else s

/-- Cells of clearings that hold no slice on a die any more (R245, R250). -/
def leftDie (s : State) (g c : Nat) : Bool := !(clrDies s.com.inForce c).contains g

def leaveEgress (e : Nat × EgressQ) (s : State) : State :=
  let lp := e.1 / 16
  let g := lpDie lp
  let goneQ := e.2.cells.filter fun q => leftDie s g q.cell.clr
  let goneO := e.2.ovf.filter fun c => leftDie s g c.clr
  if goneQ = [] ∧ goneO = [] then s
  else
    let q : EgressQ := { cells := e.2.cells.filter fun q => !leftDie s g q.cell.clr, ovf := e.2.ovf.filter fun c => !leftDie s g c.clr }
    dropCells FW_CLR_CNT_DROP.LEFT g false goneO (dropQueued FW_CLR_CNT_DROP.LEFT g goneQ (s.setEgQ lp (e.1 % 16) q))

def leaveFlow (e : Nat × MeshFlow) (s : State) : State :=
  let c := e.1 / 8 % 128
  let sdie := e.1 / 8 / 128 / 8
  let ddie := e.1 / 8 / 128 % 8
  let s := if leftDie s sdie c then
      dropQueued FW_CLR_CNT_DROP.LEFT sdie (s.flow e.1).queue (s.setFlow e.1 { s.flow e.1 with queue := [] })
    else s
  if leftDie s ddie c then dropCells FW_CLR_CNT_DROP.LEFT ddie true (s.flow e.1).held (s.setFlow e.1 { s.flow e.1 with held := [] }) else s

/-- What leaves with the old map: units, contexts and cells (R245, R463, R495). -/
def leaveAll (s : State) : State :=
  let s := (List.range 512).foldl (fun s u => leaveUnit u s) s
  let s := (List.range 128).foldl (fun s k => leaveCopse k s) s
  let s := s.fwd.egress.foldl (fun s e => leaveEgress e s) s
  let s := s.fwd.flows.foldl (fun s e => leaveFlow e s) s
  let gone := s.fwd.refused.filter fun (r : Nat × Cell) => leftDie s r.1 r.2.clr
  gone.foldl (fun s r => dropCell FW_CLR_CNT_DROP.LEFT r.1 false 0 r.2 s) { s with fwd.refused := s.fwd.refused.filter fun (r : Nat × Cell) => !leftDie s r.1 r.2.clr }

/-! The commit. -/

/-- A commit ends: PHASE idle, RESULT and REASON, and source 65. -/
def endCommit (result reason : Nat) (s : State) : State :=
  pulse 65 ((({ s with com.phase := .idle, com.next := none }.fset CM_COMMIT.PHASE [] 0).fset CM_COMMIT.RESULT [] result).fset CM_COMMIT.REASON [] reason)

/-- A write of GO (R489, R497): BUSY while PHASE is not idle. -/
def commitGo (s : State) : State :=
  if s.com.phase ≠ .idle then s.fset CM_COMMIT.RESULT [] 3
  else
    let s := ((s.fset CM_COMMIT.PHASE [] 1).fset CM_COMMIT.RESULT [] 0).fset CM_COMMIT.REASON [] 0
    if s.fget CM_COMMIT.QUIESCE [] = 1 then { s with com.phase := .quiescing s.now, com.stopped := true } else { s with com.phase := .checking }

/-- The end of the check: refused with a REASON, or on to the Sequencer (R493). -/
def commitChecked (s : State) : State :=
  match checkShadow s with
  | .error r => endCommit 2 r s
  | .ok m => seqAdd none .commit { s with com.phase := .ordered, com.next := some m }

/-- The first waiting operation of an issuer takes its position; a commit is checked against rule 5 there (R466). -/
def positionOp (clr : Option Nat) (s : State) : State :=
  match s.coh.seqOps.find? fun o => !o.positioned && o.clr == clr with
  | some o =>
    if o.kind = .commit then
      match s.com.next with
      | some m =>
        if scrubsOk s m then (seqPosition clr { s with com.phase := .positioned }).fset CM_COMMIT.PHASE [] 2
        else endCommit 2 9 (seqRemove o.id s)
      | none => seqRemove o.id s
    else seqPosition clr s
  | none => s

/-- Both Lookouts hold the commit. -/
def commitHeld (s : State) : State :=
  match s.com.next with
  | some m => revertToward s.com.inForce m { s with com.phase := .held }
  | none => s

/-- tc of Table 13.7. -/
def commitSwitch (s : State) : State :=
  match s.com.phase, s.com.next with
  | .held, some m => noteAll allLports ((switchMap m true { s with com.phase := .draining s.now, com.next := none }).fset CM_COMMIT.PHASE [] 3)
  | _, _ => s

/-- tc + 500 us. -/
def drainEnd (s : State) : State := endCommit 1 0 (leaveAll ({ s with com.prev := none }.fset CM_EPOCH.DRAIN [] 0))

/-- Is anything outstanding (Table 13.9)? -/
def quiet (s : State) : Bool := s.fab.txns.all fun e => e.2.ended

def quiesceDrained (s : State) : State := (List.range 128).foldl (fun s k => swapOutCopse k s) { s with com.phase := .drained }

/-- The map is checked and, if accepted, installed without a drain window. -/
def quiesceInstall (s : State) : State :=
  match checkShadow s with
  | .error r => ({ s with com.phase := .installed false }.fset CM_COMMIT.REASON [] r).fset CM_COMMIT.PHASE [] 2
  | .ok m => (leaveAll (switchMap m false (revertToward s.com.inForce m { s with com.phase := .installed true }))).fset CM_COMMIT.PHASE [] 2

/-! The ledger. -/

def State.ledgerEntry (s : State) (c req : Nat) : Option LedgerEntry := s.com.ledger.find? fun e => e.clr == c && e.reqId == req

def State.putLedger (s : State) (e : LedgerEntry) : State :=
  { s with com.ledger := s.com.ledger.filter (fun x => !(x.clr == e.clr && x.reqId == e.reqId)) ++ [e] }

/-- A LEDGER's response data: OWNER handle and STATE (Table 13.6). -/
def ledgerReport (e : Option LedgerEntry) : List Byte :=
  match e with
  | some e => toBytesLE 8 e.owner ++ [if e.moving.isSome then 2 else 1] ++ List.replicate 7 0
  | none => List.replicate 16 0

/-- An operation of the ledger at its position (Tables 13.10, 13.11): by the POOL of its port, on a request ID; package time `at_` of the position starts a BEGIN's deadline. -/
def ledgerOp (c me lop req dest at_ : Nat) (s : State) : Status × State :=
  let e? := s.ledgerEntry c req
  match lop, e? with
  | 0, none =>
    if 2048 ≤ (s.com.ledger.filter fun e => e.clr == c).length then (.denied, s)
    else (.ok, s.putLedger { reqId := req, clr := c, owner := me, moving := none, lapsed := none })
  | 1, some e =>
    let h := Handle.ofNat dest
    if e.owner = me ∧ e.moving.isNone ∧ h.type = 4 ∧ h.clr = c ∧ handleCurrent s h ∧ dest ≠ me then
      (.ok, s.putLedger { e with moving := some (dest, (at_ + 1000000) % 2 ^ 64), lapsed := none })
    else (.denied, s)
  | 2, some e =>
    if e.moving.any fun d => d.1 == me then (.ok, (s.putLedger { e with owner := me, moving := none, lapsed := none }).fadd CM_LEDGER.ACCEPTED [c] 1)
    else (if e.lapsed = some me then .timeout else .denied, s)
  | 3, some e => if e.owner = me ∧ e.moving.isSome then (.ok, s.putLedger { e with moving := none, lapsed := none }) else (.denied, s)
  | 4, some e =>
    if e.owner = me ∧ e.moving.isNone then (.ok, { s with com.ledger := s.com.ledger.filter fun x => !(x.clr == c && x.reqId == req) }) else (.denied, s)
  | 5, _ => (.ok, s)
  | _, _ => (.denied, s)

/-- A LEDGER transaction held by both Lookouts takes effect. -/
def ledgerEffect (id lop req dest lp at_ : Nat) (s : State) : State :=
  match s.txn? id, poolOf s.com.inForce lp with
  | some x, some p =>
    let (st, s) := ledgerOp x.clr (epHandle s p) lop req dest at_ s
    endTxn x st (if st = .ok then ledgerReport (s.ledgerEntry x.clr req) else []) s
  | some x, none => endTxn x .denied [] s
  | none, _ => s

/-- Has a MOVING entry's deadline passed? -/
def deadlinePast (s : State) (e : LedgerEntry) : Bool := e.moving.any fun d => decide ((s.pkg + 2 ^ 64 - d.2) % 2 ^ 64 < 2 ^ 63)

/-- A revert at its privileged cycle (R499). -/
def revertEffect (c req : Nat) (s : State) : State :=
  match s.ledgerEntry c req with
  | some e => if deadlinePast s e then countReverts [e] (s.putLedger (revertEntry e)) else s
  | none => s

/-- At resumption after STANDBY every MOVING entry reverts (Table 13.11). -/
def revertMoving (s : State) : State :=
  let hit := s.com.ledger.filter fun e => e.moving.isSome
  countReverts hit { s with com.ledger := s.com.ledger.map fun e => if e.moving.isSome then revertEntry e else e }

/-! Spares. -/

def State.spare (s : State) (k : Nat) : SpareSt := SMap.get .reset s.com.spares k

def State.setSpare (s : State) (k : Nat) (x : SpareSt) : State := { s with com.spares := SMap.put s.com.spares k x }

/-- PHASE and RESULT of a spare; a change of PHASE is source 68. -/
def sparePhase (k phase result : Nat) (s : State) : State :=
  let was := s.fget CM_SPARE.PHASE [k]
  let s := (s.fset CM_SPARE.PHASE [k] phase).fset CM_SPARE.RESULT [k] result
  if was = phase then s else pulse 68 s

/-- The counts that a test watches: CRC_ERR, REPLAY and TRAIN_FAIL of the port, UNCORR of its lanes (R501). -/
def spareCounts (s : State) (lp : Nat) : List Nat :=
  [s.fget FR_SUB_CNT_LINK.CRC_ERR (lpIx lp), s.fget FR_SUB_CNT_LINK.REPLAY (lpIx lp), s.fget FR_SUB_CNT_LINK.TRAIN_FAIL (lpIx lp)]
    ++ (lpLanes (s.modeOf lp) lp).map fun l => s.fget FR_LANE_FEC.UNCORR [l / 64, l % 64]

/-- Generations of the endpoint records bound to a logical port. -/
def portGens (s : State) (lp : Nat) : List Nat := (s.com.inForce.endpoints.filter fun e => e.lport == lp).map fun e => 2 ^ 24 * (1024 * e.clr + e.index) + epGen s e.clr e.index

/-- A CMD written (R500-R504); one that PHASE does not accept reads BAD_CMD. -/
def spareCmd (k cmd : Nat) (s : State) : State :=
  let phase := s.fget CM_SPARE.PHASE [k]
  let sport := s.fget CM_SPARE.SPORT [k]
  match cmd with
  | 0 => s
  | 1 =>
    if phase = 0 ∨ phase = 6 then
      let s := (sparePhase k 1 0 s).setSpare k { SpareSt.reset with at_ := s.now, snapAt := s.now, snap := spareCounts s sport }
      if s.lpActive sport then sendNote (.spare k) sport s else s
    else s.fset CM_SPARE.RESULT [k] 5
  | 2 =>
    if phase = 1 ∧ s.fget CM_SPARE.RESULT [k] = 1 then
      (sparePhase k 2 0 (s.fset CM_SPARE_LOAD.DONE [k] 0)).setSpare k { s.spare k with at_ := s.now, bytes := 0, gens := portGens s (s.fget CM_SPARE.PPORT [k]) }
    else s.fset CM_SPARE.RESULT [k] 5
  | _ =>
    let h := Handle.ofNat (s.word .CM_SPARE_BAR [k]).toNat
    let key := 32 * (h.index / 65536) + h.index % 32
    let barrier := (s.ctx? (h.index / 65536) (h.index % 32)).any fun x => x.gid == 4
    if phase ≠ 3 ∨ !(handleCurrent s h && h.type == 1 && barrier) then s.fset CM_SPARE.RESULT [k] 5
    else if s.fget CM_SPARE_ADMIT.STEP [k] < (s.svcOf key).cur then s.fset CM_SPARE.RESULT [k] 4
    else (sparePhase k 4 0 s).setSpare k { s.spare k with release := none }

/-- A test that goes on or ends (R501): `clean` for 1 ms at full width with the note answered is OK; at 10 ms it has failed. -/
def spareTestEnd (k : Nat) (s : State) : State :=
  let sp := s.spare k
  let lp := s.fget CM_SPARE.SPORT [k]
  let steady := s.lpActive lp && s.fget FR_SUB_STATUS.WIDTH (lpIx lp) == modeWidth (s.modeOf lp) && spareCounts s lp == sp.snap
  let sp := if steady then sp else { sp with snapAt := s.now, snap := spareCounts s lp }
  let s := s.setSpare k sp
  let from_ := max sp.snapAt (s.lport lp).activeAt
  if steady && sp.noteOk && decide (from_ + 1000000 ≤ s.now) && decide (s.now ≤ sp.at_ + 10000000) then (s.fset CM_SPARE.RESULT [k] 1)
  else if sp.at_ + 10000000 ≤ s.now then sparePhase k 6 2 s
  else s

/-- LOAD ends without success (R503). -/
def spareStall (k : Nat) (s : State) : State :=
  let sp := s.spare k
  let pport := s.fget CM_SPARE.PPORT [k]
  let limit := max 1 (s.fget CM_SPARE_ADMIT.STALL [k]) * 1000000
  if !s.lpActive (s.fget CM_SPARE.SPORT [k]) then sparePhase k 6 2 s
  else if !s.lpActive pport || portGens s pport != sp.gens || decide (sp.at_ + limit ≤ s.now) then (sparePhase k 6 3 s).emit (.event (.partnerLost k))
  else s

/-- The RELEASE held for an admission leaves (R504). -/
def letRelease (k : Nat) (s : State) : State :=
  let rel := (s.spare k).release
  let s := s.setSpare k { s.spare k with release := none }
  match rel with
  | some (key, bs) => if bs = [] then s else svcSendGroup key bs s
  | none => s

/-- The admission held by both Lookouts (R504): the role rebinds to the spare port, its generation advances, the ledger follows, the quarantine ends and the RELEASE leaves. -/
def admissionEffect (k : Nat) (s : State) : State :=
  let sport := s.fget CM_SPARE.SPORT [k]
  let role := s.fget CM_SPARE.ROLE [k]
  let old := s.com.inForce
  let c := ((portRec old sport).map PortRec.clr).getD 0xFF
  let s := match endpointOf old c role with
    | some e =>
      let raw := e.raw.take 4 ++ toBytesLE 2 sport ++ (e.raw.drop 6).take 2 ++ List.replicate 8 0
      let new := { old with endpoints := old.endpoints.map fun (x : Endpoint) => if x.clr == c && x.index == role then { x with lport := sport, ctx := 0, raw := raw } else x }
      let s := switchGens old new (revertToward old new s)
      sparePhase k 5 1 (rebindOwners old new { s with com.inForce := new })
    | none => sparePhase k 6 2 s
  letRelease k s

/-! The Sequencer's effects. -/

/-- The first operation in order, held by both Lookouts, takes effect (R111, R199). -/
def holdOp (s : State) : State :=
  match s.coh.seqOps.head? with
  | some o =>
    if !o.positioned then s
    else
      let t := seqRemove o.id s
      match o.kind with
      | .inval id => if (s.txn? id).any fun x => !invalCanSend s x.region then s else inval id t
      | .publish id => publishOrdered id t
      | .commit => commitHeld t
      | .ledger id lop req dest lp => ledgerEffect id lop req dest lp o.at_ t
      | .ledgerRevert c req => revertEffect c req t
      | .admission k => admissionEffect k t
  | none => s

end Sys2Proof.Machine
end

