-- ==== Sys2Proof/Machine/UpdateOps.lean ====
section
/-! DEFINITION. Live updates and reloads (R104-R110), handover and failover of the Lookouts (R111-R115), and the resets of the words that a die holds (R523). -/

namespace Sys2Proof.Machine

/-! What a die holds. -/

/-- The words that a scope resets take their factory values, then the NV image (R97, R523). -/
def resetWords (p : CW → List Nat → Bool) (s : State) : State :=
  let stays (a : Nat) (_ : Word) : Bool := match holdsAt a with
    | .word w ix => !p w ix
    | _ => true
  applyNv p { s with ctl := SMap.keep stays s.ctl }

/-- The live words of Fringe[f]: its CNT words keep their values (R131). -/
def fringeWord (f : Nat) (w : CW) (ix : List Nat) : Bool :=
  match w with
  | .FR_PORT_CFG | .FR_SUB_STATUS | .FR_SPARE | .FR_LANE_STATUS => ix.head? == some f
  | _ => false

/-- The transmitters of every enabled port of a Fringe die turn on (R132). -/
def lightFringe (f : Nat) (s : State) : State :=
  (List.range 8).foldl (fun s j => { s with link.txOn := SMap.set false s.link.txOn (8 * f + j) (s.fget FR_PORT_CFG.EN [f, j] == 1) }) s

/-- A Fringe die stops: its ports go DOWN, its transmitters off, the keys zeroed (R107, R131, R146). -/
def stopFringe (f : Nat) (s : State) : State :=
  let s := (List.range 32).foldl (fun s k => linkDown (32 * f + k) 0 s) s
  { s with
    link.txOn := SMap.keep (fun p _ => p / 8 != f) s.link.txOn
    link.lanes := SMap.keep (fun l _ => l / 64 != f) s.link.lanes }

/-- A Fringe die starts again: its live words are reset, CLR stays as the map has it, and its transmitters turn on. -/
def startFringe (f : Nat) (s : State) : State :=
  let clrs := (List.range 8).map fun j => s.fget FR_PORT_CFG.CLR [f, j]
  let s := resetWords (fringeWord f) s
  lightFringe f ((List.range 8).foldl (fun s j => s.fset FR_PORT_CFG.CLR [f, j] (clrs.getD j 0xFF)) s)

/-- Gap timers stop, or go on (R257, R258). -/
def suspendGaps (s : State) : State := { s with fwd.gapSusp := some (s.fwd.gapSusp.getD s.now) }

def resumeGaps (s : State) : State :=
  match s.fwd.gapSusp with
  | some t => { s with fwd.gapSusp := none, fwd.gapLost := s.fwd.gapLost + (s.now - t) }
  | none => s

/-- Is the switch core of a Glade die frozen by an update (R108), or resetting (Table 14.3)? -/
def coreFrozen (s : State) (g : Nat) : Bool :=
  (s.fget LK_UPD.PHASE [0] == 3 && s.boot.update.any fun u => u.dtype == 1 && u.index == g) || s.ecc.resets.any fun r => r.scope == 4 && r.die == 2 + g

/-! Lookouts. -/

/-- The other Lookout. -/
def otherLookout (k : Nat) : Nat := 1 - k

def lookoutServes (s : State) (k : Nat) : Bool := s.boot.lookoutUp.contains k

/-- The privileged programs of a lost Lookout end with SERVICE_INTERRUPTED. -/
def endMgmt (s : State) : State :=
  (List.range 4).foldl (fun s t => (ctxsOf s (128 + t)).foldl (fun s e =>
    endProgram (128 + t) e.1 (some { status := .serviceInterrupted, reason := 0, pc := 0xFFFFFFFF, rank := 0xFFFFFFFF, torn := false, time := s.pkg }) s) s) s

/-- A Lookout's event controller gives up its stacks and claims (R534). -/
def clearClaims (k : Nat) (s : State) : State :=
  let s := { s with ecc.evStacks := SMap.keep (fun n _ => n / 4 != k) s.ecc.evStacks, ecc.claims := s.ecc.claims.filter fun c => c.cu / 4 != k }
  (List.range 2048).foldl (fun s n => if s.fget EV_SRC_STATE.ACTIVE [k, n] = 1 then s.fset EV_SRC_STATE.ACTIVE [k, n] 0 else s) s

/-- A Lookout that becomes active: LAST and TIME of HANDOVER, and source 69. -/
def becomeActiveLookout (k last : Nat) (s : State) : State :=
  pulse 69 (((s.fset LK_BOOT.ACTIVE [0] k).fset LK_HANDOVER.LAST [k] last).fset LK_HANDOVER.TIME [k] (s.aoTicks % 2 ^ 32))

/-- The Glade die of a scrub unit (Table 12.11). -/
def unitDie (u : Nat) : Nat := if u < 128 then u / 16 else if u < 384 then (u - 128) / 32 else (u - 384) / 16

/-- Scrubs without a record run again from their start, and RESTARTED counts them (R467). -/
def restartScrubs (p : Nat → Bool) (s : State) : State :=
  let again (x : Scrub) : Scrub :=
    if p x.unit then { x with phase := .writeback, since := s.now, started := s.pkg, retries := 0, failed := false } else x
  ({ s with clr.scrubs := s.clr.scrubs.map again }).fadd CM_SCRUB_CNT.RESTARTED [] (s.clr.scrubs.filter fun (x : Scrub) => p x.unit).length

/-- The active Lookout is declared lost and fenced (Table 02.8, t0 + 6 us). With no other Lookout in service the package waits for a reload (R115). -/
def loseActive (t0 : Nat) (s : State) : State :=
  let a := s.activeLookout
  let s := { s with boot.lookoutUp := s.boot.lookoutUp.filter fun k => k != a, boot.fenced := a :: s.boot.fenced.filter fun k => k != a,
                    boot.seqRuns := false, boot.handover := .lost t0 a }
  evidenceChanged (clearClaims a (endMgmt (s.fset AT_DIE_INFO.STATE [a] dieResetting)))

/-- An operation held by the lost Lookout alone has no effect; its issuer receives SERVICE_INTERRUPTED (Table 02.8, Table 13.11). -/
def interruptOp (o : SeqOp) (s : State) : State :=
  let s := seqRemove o.id s
  match o.kind with
  | .inval id | .publish id | .ledger id _ _ _ _ =>
    match s.txn? id with
    | some x => endTxn x .serviceInterrupted [] s
    | none => s
  | .commit => endCommit 4 0 s
  | .ledgerRevert _ _ => s
  | .admission k => letRelease k (sparePhase k 6 2 s)

def interruptOps : List SeqOp → State → State
  | [], s => s
  | o :: r, s => interruptOps r (if o.positioned then interruptOp o s else s)

/-- A commit that both Lookouts do not hold yet has no effect (R496); a quiesce that it started ends. -/
def interruptCommit (s : State) : State :=
  let drop (s : State) : State := endCommit 4 0 { s with coh.seqOps := s.coh.seqOps.filter fun o => o.kind != .commit }
  match s.com.phase with
  | .checking | .ordered | .positioned => drop s
  | .quiescing _ | .drained => (List.range 128).foldl (fun s k => scheduleAll 32 k s) (drop { s with com.stopped := false })
  | _ => s

/-- The new active Lookout resumes the Sequencer (Table 02.8, t0 + 8 us). -/
def resumeSequencer (s : State) : State :=
  let s := interruptCommit { s with boot.seqRuns := true }
  interruptOps s.coh.seqOps s

/-- A Lookout returns to service after a reload; if none served, it becomes active and raises every latched event (R115). -/
def lookoutBack (k : Nat) (s : State) : State :=
  let alone := s.boot.lookoutUp = []
  let s := { s with boot.lookoutUp := s.boot.lookoutUp ++ (if s.boot.lookoutUp.contains k then [] else [k]), boot.fenced := s.boot.fenced.filter fun x => x != k }
  if alone then { becomeActiveLookout k 2 (resumeSequencer s) with boot.handover := .idle, boot.lastBeat := s.now } else s

/-! Updates. -/

/-- A copy that passed its check: the slot is GOOD. -/
def goodVerdict : Verdict := { rsaKey := true, slhKey := true, rsaSig := true, slhSig := true, digest := true }

/-- The precondition of Table 02.6. -/
def updatePrecondition (s : State) (d i : Nat) : Bool :=
  match d with
  | 0 => lookoutServes s (otherLookout i) && dieState s (otherLookout i) == dieSteady
  | 1 => (List.range 16).all fun c => copseClr s.com.inForce (16 * i + c) == none && (ctxsOf s (16 * i + c)).isEmpty
  | 4 => !s.boot.seedDown.contains (otherLookout i) && s.boot.unsync == []
  | _ => true

/-- A planned handover starts (R112): the active Lookout stops accepting Sequencer operations. -/
def startHandover (s : State) : State := { s with boot.handover := .planned s.now, boot.seqRuns := false }

/-- An update or reload begins: the image loads (R107). An update of the active Lookout hands over first. -/
def beginUpdate (d i slot : Nat) (s : State) : State :=
  let n := dieEntry d i
  let s := { s with boot.update := some { dtype := d, index := i, slot := slot, oldSlot := s.fget AT_DIE_INFO.SLOT [n] }, boot.updateAt := s.now }
  let s := evidenceChanged (s.fset AT_DIE_INFO.STATE [n] dieSwitching)
  if d = 0 ∧ s.activeLookout = i ∧ lookoutServes s i then startHandover (s.fset LK_UPD.PHASE [0] 2) else s.fset LK_UPD.PHASE [0] 1

/-- A write of GO to the active Lookout's UPD, its fields already written (R105, R107, R110): BUSY, BAD_TARGET, then PRECONDITION. -/
def updateGo (s : State) : State :=
  let d := s.fget LK_UPD.DTYPE [0]
  let i := s.fget LK_UPD.INDEX [0]
  let slot := s.fget LK_UPD.SLOT [0]
  if s.fget LK_UPD.PHASE [0] ≠ 0 then s.fset LK_UPD.RESULT [0] 2
  else if dieCount d ≤ i ∨ s.fget (goodFld slot) [0, d] = 0 then s.fset LK_UPD.RESULT [0] 4
  else if !updatePrecondition s d i then s.fset LK_UPD.RESULT [0] 3
  else beginUpdate d i slot s

/-- The interruption of Table 02.6 starts. -/
def startSwitching (d i : Nat) (s : State) : State :=
  match d with
  | 0 => { s with boot.lookoutUp := s.boot.lookoutUp.filter fun k => k != i }
  | 1 => suspendGaps s
  | 2 => stopFringe i s
  | 4 => { s with boot.seedDown := i :: s.boot.seedDown.filter fun k => k != i }
  | _ => s

/-- The interruption ends. -/
def endSwitching (d i : Nat) (s : State) : State :=
  match d with
  | 0 => lookoutBack i s
  | 1 => restartScrubs (fun u => unitDie u == i) (resumeGaps s)
  | 2 => startFringe i s
  | 4 => { s with boot.seedDown := s.boot.seedDown.filter fun k => k != i }
  | _ => s

/-- The body has streamed (R108). -/
def updateLoaded (s : State) : State :=
  match s.boot.update with
  | some u => startSwitching u.dtype u.index (s.fset LK_UPD.PHASE [0] 3)
  | none => s

/-- The die runs a slot again: a new measurement, GEN + 1, STEADY (R107); PHASE idle. The die leaves STAGED as it switches to the image staged for it (R104). -/
def endUpdate (u : Update) (slot result : Nat) (s : State) : State :=
  let n := dieEntry u.dtype u.index
  let s := startImage n slot (slotHdr s u.dtype slot goodVerdict).svn (measure s u.dtype slot goodVerdict) { s with boot.notStarted := s.boot.notStarted.filter fun x => x != n }
  let s := if SMap.get? s.boot.staged u.dtype = some slot then s.fset AT_DIE_INFO.STATE [n] dieSteady else s
  endSwitching u.dtype u.index ((({ s with boot.update := none }).fset LK_UPD.PHASE [0] 0).fset LK_UPD.RESULT [0] result)

end Sys2Proof.Machine
end

