-- ==== Sys2Proof/Machine/EccOps.lean ====
section
/-! DEFINITION. Stored-data protection: the code (R506-R509), the arrays (R514, R572), reads of words in error (R515-R517), ECC_DIAG (R520, R521) and the reset scopes
(R522-R525). -/

namespace Sys2Proof.Machine

/-! The code. -/

/-- The 16-bit values with exactly three bits set, in ascending order: the first 256. -/
def hTerms : List Nat :=
  (((List.range 16).map fun a => ((List.range a).map fun b => (List.range b).map fun c => 2 ^ a + 2 ^ b + 2 ^ c).flatten).flatten).take 256

/-- The 16-bit values with exactly two bits set, in ascending order: the first 32. -/
def gTerms : List Nat := (((List.range 16).map fun a => (List.range a).map fun b => 2 ^ a + 2 ^ b).flatten).take 32

/-- XOR of the terms whose bit is set, bit 0 first. -/
def xorTerms : List Nat → Nat → Nat
  | [], _ => 0
  | t :: ts, n => (if n % 2 = 1 then t else 0) ^^^ xorTerms ts (n / 2)

/-- The check bits of 32 data bytes at word index A (R507). -/
def checkBits (data : List Byte) (a : Nat) : Nat := xorTerms hTerms (ofBytesLE data) ^^^ xorTerms gTerms a

/-- The classes of Table 14.1. -/
inductive SynClass where
  | clean | poisoned | checkBit | dataBit (j : Nat) | uncorrectable
deriving DecidableEq, Repr

def synClass (s : Nat) : SynClass :=
  if s = 0 then .clean
  else if s = 0xFFFF then .poisoned
  else if (List.range 16).any (fun i => s == 2 ^ i) then .checkBit
  else if hTerms.contains s then .dataBit (hTerms.findIdx fun h => h == s)
  else .uncorrectable

def SynClass.correctable : SynClass → Bool
  | .checkBit | .dataBit _ => true
  | _ => false

/-- Data as delivered: bit j inverted (Table 14.1). -/
def SynClass.correct (c : SynClass) (data : List Byte) : List Byte :=
  match c with
  | .dataBit j => toBytesLE 32 (ofBytesLE data ^^^ 2 ^ j)
  | _ => data

/-! The arrays (Table 14.2, R572). -/

/-- Instances of an array on a die, by die entry; 0 if the die has none. -/
def arrayInsts (die array : Nat) : Nat :=
  match dieType die, array with
  | 0, 13 | 0, 14 => 1
  | 0, 15 => if die = 0 then 1 else 0
  | 1, 0 | 1, 1 | 1, 4 => 256
  | 1, 2 | 1, 3 | 1, 5 | 1, 6 => 16
  | 1, 7 | 1, 8 => 1
  | 2, 9 | 2, 10 => 1
  | 3, 11 => 32
  | 3, 12 => 1
  | 4, 15 => 1
  | _, _ => 0

/-- Codewords of an instance. -/
def arrayWords (die array : Nat) : Nat :=
  match array with
  | 0 => 16384 | 1 => 8192 | 2 => 262144 | 3 => 36864 | 4 => 4096 | 5 => 131072 | 6 => 8192 | 7 => 2097152 | 8 => 1048576 | 9 => 131072 | 10 => 32768
  | 11 => 50331648 | 12 => 32768 | 13 => 16777216 | 14 => 1048576
  | _ => if die = 0 then 128 else 2048

/-- Spare rows of an instance. -/
def spareRows (array : Nat) : Nat :=
  match array with
  | 0 => 8 | 2 => 32 | 4 => 2 | 7 => 256 | 8 => 16 | 9 => 16 | 11 => 512 | 13 => 16 | 14 => 8 | 15 => 2 | _ => 4

def wordExists (die array inst word : Nat) : Bool := decide (die < 32) && decide (inst < arrayInsts die array) && decide (word < arrayWords die array)

def retiredKey (die array inst : Nat) : Nat := (die * 16 + array) * 256 + inst

/-- The copse of an instance on a Glade die. -/
def instCopse (die array inst : Nat) : Nat := 16 * (die - 2) + (if array = 0 ∨ array = 1 ∨ array = 4 then inst / 16 else inst)

/-- The logical port that owns a word of a replay buffer (R572). -/
def replayPort (s : State) (die word : Nat) : Nat :=
  let p := 8 * (die - 10) + word / 16384
  let n := (modeSubs (s.modeOf (4 * p))).length
  4 * p + word % 16384 / (16384 / n)

/-- The scrub unit that a word lies in (Table 12.11). -/
def wordUnit (die array inst word : Nat) : Option Nat :=
  if array ≤ 6 then some (instCopse die array inst)
  else if array = 7 then some (128 + 32 * (die - 2) + word / 65536)
  else if array = 9 then some (384 + 8 * (die - 10) + word / 16384)
  else if array = 11 then some (32 * (die - 26) + inst)
  else none

/-- Is a word in a unit held by a LINK or BOUNCE clearing (R520)? -/
def diagDenied (s : State) (die array inst word : Nat) : Bool :=
  match wordUnit die array inst word with
  | some u => s.fget CM_UNIT.CLR [u] < 128 && confOf s.com.inForce (s.fget CM_UNIT.CLR [u]) != 0
  | none => false

/-! Contents that the state holds byte by byte: channels, scratchpads and bays. -/

/-- The context that holds a page of a CU's scratchpad, and its own number of that page. -/
def pageOwner (s : State) (copse cu frame : Nat) : Option (Nat × Nat) :=
  ((residents s copse).filterMap fun e => if cu < e.2.hdr.cus ∧ e.2.frames.contains frame then some (e.1, e.2.frames.findIdx fun f => f == frame) else none).head?

/-- The context that holds a bay of a CU. -/
def bayOwner (s : State) (copse cu bay : Nat) : Option Nat :=
  ((residents s copse).filter fun e => e.2.strands.any fun t => t.1 / 1024 == cu && t.2.bay == some bay).map Prod.fst |>.head?

/-- The 32 bytes of a word, where the state holds them. -/
def wordBytes (s : State) (die array inst word : Nat) : Option (List Byte) :=
  if array = 11 then some (readBytes s.fab.t0 (chKey (32 * (die - 26) + inst) (32 * word)) 32)
  else if array = 0 then
    (pageOwner s (instCopse die 0 inst) (inst % 16) (word / 128)).map fun o =>
      s.readScratch (instCopse die 0 inst) o.1 (inst % 16) (4096 * o.2 + word % 128 * 32) 32
  else if array = 1 then
    (bayOwner s (instCopse die 1 inst) (inst % 16) (word / 512)).bind fun n => (s.ctx? (instCopse die 1 inst) n).map fun x =>
      readBytes x.bays ((16 * (inst % 16) + word / 512) * 2 ^ 14 + word % 512 * 32) 32
  else none

/-- The data that a word delivers takes its place in the state. -/
def setWordBytes (die array inst word : Nat) (bs : List Byte) (s : State) : State :=
  if array = 11 then { s with fab.t0 := writeBytes s.fab.t0 (chKey (32 * (die - 26) + inst) (32 * word)) bs }
  else if array = 0 then
    match pageOwner s (instCopse die 0 inst) (inst % 16) (word / 128) with
    | some o => s.modCtx (instCopse die 0 inst) o.1 fun x =>
        { x with scratch := writeBytes x.scratch (scratchBase (inst % 16) + 4096 * o.2 + word % 128 * 32) bs }
    | none => s
  else if array = 1 then
    match bayOwner s (instCopse die 1 inst) (inst % 16) (word / 512) with
    | some n => s.modCtx (instCopse die 1 inst) n fun x =>
        { x with bays := writeBytes x.bays ((16 * (inst % 16) + word / 512) * 2 ^ 14 + word % 512 * 32) bs }
    | none => s
  else s

def rawAt (s : State) (die array inst word : Nat) : Option RawWord :=
  s.ecc.raw.find? fun w => w.die == die && w.array == array && w.inst == inst && w.word == word

/-- A word's entry in the list of words stored as they are, with MARKS. -/
def putRaw (w : RawWord) (s : State) : State :=
  let rest := s.ecc.raw.filter fun x => !(x.die == w.die && x.array == w.array && x.inst == w.inst && x.word == w.word)
  ({ s with ecc.raw := rest ++ [w] }).fset EC_DIAG_CTRL.MARKS [] ((rest ++ [w]).filter RawWord.marked).length

/-- A poison codeword (R509). -/
def poisonWord (die array inst word : Nat) (s : State) : State :=
  putRaw { die := die, array := array, inst := inst, word := word, data := List.replicate 32 0, check := checkBits (List.replicate 32 0) word ^^^ 0xFFFF, marked := false, bad := true } s

/-! Scope resets. -/

/-- Scopes of Table 14.3. -/
inductive Scope where
  | line | context | copse | port | core | die | lookout | package
deriving DecidableEq, Repr

def Scope.code : Scope → Nat
  | .line => 0 | .context => 1 | .copse => 2 | .port => 3 | .core => 4 | .die => 5 | .lookout => 6 | .package => 7

/-- A line of the copse cache at a word of its data array; the array holds the ways one after the other, by set. -/
def cacheLineAt (s : State) (copse word : Nat) : Option CLine :=
  (s.copse copse).cache.find? fun l => l.way == word / 2 / 8192 && cacheSet l.node l.line == word / 2 % 8192

/-- The context whose swap reservation holds a byte of a channel; the reservations stand in the swap area in order of context number. -/
def reservationOwner (byte : Nat) : Nat → List (Nat × Ctx) → Option Nat
  | _, [] => none
  | start, (n, x) :: r =>
    let size := reservation x.hdr
    if start ≤ byte ∧ byte < start + size then some n else reservationOwner byte (start + size) r

def swapBase : Nat := 0x56400000

/-- The scope that a word without a requester resets, and the context that it names (Table 14.2). -/
def wordScope (s : State) (die array inst word : Nat) : Scope × Option Nat :=
  match array with
  | 0 => (.context, (pageOwner s (instCopse die 0 inst) (inst % 16) (word / 128)).map Prod.fst)
  | 1 => (.context, bayOwner s (instCopse die 1 inst) (inst % 16) (word / 512))
  | 2 => match cacheLineAt s (instCopse die 2 inst) word with
    | some l => if !l.dirty then (.line, none) else if (privateWays s (instCopse die 2 inst)).contains l.way then (.context, l.owner) else (.copse, none)
    | none => (.line, none)
  | 3 | 5 | 6 => (.copse, none)
  | 8 => (.core, none)
  | 9 => (.port, none)
  | 10 | 12 => (.die, none)
  | 11 => match reservationOwner (32 * word) swapBase (ctxsOf s (32 * (die - 26) + inst)) with
    | some n => (.context, some n)
    | none => (.line, none)
  | 13 | 14 => (.lookout, none)
  | 15 => if die = 0 then (.package, none) else (.die, none)
  | _ => (.line, none)

/-- A context is torn down with POISON. -/
def tearDown (copse n : Nat) (s : State) : State :=
  endProgram copse n (some { status := .poison, reason := 0, pc := 0xFFFFFFFF, rank := 0xFFFFFFFF, torn := true, time := s.pkg }) s

/-- The words of GL and XP of a copse (Table 14.4). -/
def copseWord (k : Nat) (w : CW) (ix : List Nat) : Bool :=
  match w with
  | .GL_WAYS | .GL_AMAX | .GL_AMAX_HIST | .GL_RESID_CFG | .GL_RESID_STEP | .GL_CNT_ARITH | .GL_CNT_ISSUE | .XP_STREAM | .XP_CNT => ix.take 2 == [k / 16, k % 16]
  | _ => false

/-- COPSE: its contexts end, its arrays are zeroed, its entries are freed, and domains with lines in its directory partition go DOWN (Table 14.3). -/
def resetCopse (k : Nat) (s : State) : State :=
  let s := (ctxsOf s k).foldl (fun s e => tearDown k e.1 s) s
  let doms := (s.coh.dir.filter fun e => e.copse == k).map DirEntry.domain
  let s := (List.range 256).foldl (fun s d => if doms.contains d then domainDown d 3 0x1FF none s else s) s
  let s := { s with coh.dir := s.coh.dir.filter fun e => e.copse != k }
  let c := s.copse k
  resetWords (copseWord k) (s.setCopse k { Copse.reset with useSeq := c.useSeq, arrivals := c.arrivals })

/-- The requests among discarded cells complete with SERVICE_INTERRUPTED; every cell counts in POISON of CNT_DROP (Table 14.3, SWITCH_CORE). -/
def interruptCell (g : Nat) (c : Cell) (s : State) : State :=
  let s := s.fadd FW_CLR_CNT_DROP.POISON [g, c.clr] 1
  match c.txn with
  | some id => if c.mcg ≠ 0 then copyGone id (copiesOf s g false c) (some .serviceInterrupted) s
      else match s.txn? id with
        | some x => if c.vc = vcRsp then s else endTxn x .serviceInterrupted [] s
        | none => s
  | none => s

def interruptCells (g : Nat) : List Cell → State → State
  | [], s => s
  | c :: r, s => interruptCells g r (interruptCell g c s)

/-- Every cell in the cell buffer and overflow of a die. -/
def coreCells (s : State) (g : Nat) : List Cell :=
  ((s.fwd.egress.filter fun e => e.1 / 16 / 64 == g).map fun e => e.2.cells.map QCell.cell ++ e.2.ovf).flatten
    ++ ((s.fwd.flows.filter fun e => e.1 / 1024 / 8 == g).map fun e => e.2.queue.map QCell.cell).flatten
    ++ ((s.fwd.flows.filter fun e => e.1 / 1024 % 8 == g).map fun e => e.2.held).flatten
    ++ (s.fwd.refused.filter fun r => r.1 == g).map Prod.snd

/-- SWITCH_CORE: every cell of the die is discarded (Table 14.3). -/
def resetCore (g : Nat) (s : State) : State :=
  let cells := coreCells s g
  let s := suspendGaps { s with
    fwd.egress := SMap.keep (fun k _ => k / 16 / 64 != g) s.fwd.egress
    fwd.flows := SMap.mapVals (fun k f =>
      let f := if k / 1024 / 8 = g then { f with queue := [] } else f
      if k / 1024 % 8 = g then { f with held := [], since := none } else f) s.fwd.flows
    fwd.refused := s.fwd.refused.filter fun r => r.1 != g
    fwd.use := SMap.keep (fun k _ => k / 128 != g) s.fwd.use
    fwd.copies := s.fwd.copies.filter fun m => m.die != g }
  interruptCells g cells (evidenceChanged (s.fset AT_DIE_INFO.STATE [2 + g] dieResetting))

/-- Is the other Lookout reloading? -/
def lookoutReloads (s : State) (k : Nat) : Bool :=
  (s.boot.update.any fun u => u.dtype == 0 && u.index == k) || s.ecc.resets.any fun r => r.scope == 6 && r.die == k

/-- LOOKOUT: a failover, or a reload of the standby; a full reset if the other Lookout neither serves nor reloads (R522). -/
def resetLookout (k : Nat) (s : State) : State :=
  let o := otherLookout k
  if !lookoutServes s o && !lookoutReloads s o then fullReset 8 s
  else if s.activeLookout = k then loseActive s.now s
  else evidenceChanged ({ s with boot.lookoutUp := s.boot.lookoutUp.filter fun x => x != k }.fset AT_DIE_INFO.STATE [k] dieResetting)

/-- Does a reset in progress enclose a scope? -/
def enclosed (s : State) (sc : Scope) (die array inst : Nat) : Bool :=
  s.ecc.resets.any fun r =>
    (r.scope == 2 && r.die == die && array ≤ 6 && 16 * (r.die - 2) + r.inst == instCopse die array inst)
      || (r.scope == 4 && r.die == die && (sc == .core || array == 7))
      || (r.scope == 5 && r.die == die)
      || (r.scope == 6 && r.die == die)

/-- A die in SWITCHING: its SWITCH_CORE or DIE reset merges into the update's reload (R525). -/
def mergesInUpdate (s : State) (sc : Scope) (die : Nat) : Bool := (sc == .core || sc == .die) && dieState s die == dieSwitching

/-- Which scope instance a reset takes time for: the number of the copse, port or Lookout in its die. -/
def scopeInst (sc : Scope) (die array inst : Nat) : Nat := if sc = .copse then instCopse die array inst % 16 else inst

/-- EC.RESET.LAST, RESETS and the source of the die (R522). -/
def recordReset (sc : Scope) (die array inst : Nat) (s : State) : State :=
  let s := ((s.fset EC_RESET_LAST.SCOPE [] sc.code).fset EC_RESET_LAST.DIE [] die).fset EC_RESET_LAST.INST [] inst
  let s := (s.fset EC_RESET_LAST.ARRAY [] array).fset EC_RESET_LAST.TIME [] (s.aoTicks % 2 ^ 32)
  pulse (1632 + die) (s.fadd EC_DIE_CNT.RESETS [die] 1)

/-- The scope resets (Table 14.3). -/
def actReset (sc : Scope) (ctx : Option Nat) (die array inst word : Nat) (s : State) : State :=
  let begin_ (s : State) : State := { s with ecc.resets := s.ecc.resets ++ [{ scope := sc.code, die := die, inst := scopeInst sc die array inst, at_ := s.now }] }
  match sc with
  | .line =>
    if array = 2 then
      match cacheLineAt s (instCopse die 2 inst) word with
      | some l => let c := s.copse (instCopse die 2 inst)
        s.setCopse (instCopse die 2 inst) { c with cache := c.cache.filter fun x => !(x.node == l.node && x.line == l.line) }
      | none => s
    else poisonWord die array inst (word / 2 * 2) (poisonWord die array inst (word / 2 * 2 + 1) s)
  | .context => match ctx with
    | some n => tearDown (if array = 11 then 32 * (die - 26) + inst else instCopse die array inst) n s
    | none => clearWords die array inst word (word + 1) s
  | .copse => begin_ (resetCopse (instCopse die array inst) s)
  | .port => trainLit [replayPort s die word] (linkDown (replayPort s die word) 0 s)
  | .core => begin_ (resetCore (die - 2) s)
  | .die => begin_ (evidenceChanged ((startSwitching (dieType die) (dieIndex die) s).fset AT_DIE_INFO.STATE [die] dieResetting))
  | .lookout => if s.activeLookout = die then resetLookout die s else begin_ (resetLookout die s)
  | .package => fullReset 9 s

/-- A lasting uncorrectable word without a requester resets its scope (R522, R525). -/
def resetScope (die array inst word : Nat) (s : State) : State :=
  let (sc, ctx) := wordScope s die array inst word
  if s.ecc.resets.any (fun r => r.scope == sc.code && r.die == die && r.inst == scopeInst sc die array inst) ∨ mergesInUpdate s sc die then
    s.fadd EC_RESET_LAST.MERGED [] 1
  else if enclosed s sc die array inst then s
  else
    let inner (r : ScopeReset) : Bool := r.die == die && decide (r.scope < sc.code)
    actReset sc ctx die array inst word (recordReset sc die array inst { s with ecc.resets := s.ecc.resets.filter fun r => !inner r })

/-- The scope returns to service: firmware reloaded, and, for a die that signs, GEN + 1 (Table 14.3). -/
def endReset (r : ScopeReset) (s : State) : State :=
  let s := { s with ecc.resets := s.ecc.resets.filter fun x => x != r }
  let again (d i : Nat) (s : State) : State :=
    let n := dieEntry d i
    let slot := s.fget AT_DIE_INFO.SLOT [n]
    startImage n slot (slotHdr s d slot goodVerdict).svn (measure s d slot goodVerdict) s
  match r.scope with
  | 4 => again 1 (r.die - 2) (if s.ecc.resets.any (fun x => x.scope == 4) then s else resumeGaps s)
  | 5 => endSwitching (dieType r.die) (dieIndex r.die) (again (dieType r.die) (dieIndex r.die) s)
  | 6 => lookoutBack r.die (again 0 r.die s)
  | _ => s

/-! Reads of words in error (R515-R517). -/

/-- What a read delivers. -/
inductive ReadResult where
  | data | poison
deriving DecidableEq, Repr

/-- EC.DIE[n].LAST. -/
def recordLast (die array inst word syn cls : Nat) (s : State) : State :=
  (((s.fset EC_DIE_LAST.ARRAY [die] array).fset EC_DIE_LAST.INST [die] inst).fset EC_DIE_LAST.SYNDROME [die] syn).fset EC_DIE_LAST.CLASS [die] cls |>.fset EC_DIE_LAST.WORD [die] word

/-- With no spare row free, an uncorrectable word takes its unit out of service (R517). -/
def outOfService (die array inst word : Nat) (s : State) : State :=
  match wordUnit die array inst word with
  | some u => pulse 67 (setUnit u (s.fget CM_UNIT.CLR [u]) 4 s)
  | none =>
    if array = 13 ∨ array = 14 then
      if !lookoutServes s (otherLookout die) && !lookoutReloads s (otherLookout die) then fullReset 8 s
      else { s with boot.lookoutUp := s.boot.lookoutUp.filter fun k => k != die, boot.fenced := die :: s.boot.fenced.filter fun k => k != die }
    else if array = 15 ∧ die = 0 then s
    else leaveNotStarted die s

/-- A row is retired, if its instance has a spare row free (R516, R517). -/
def retireRow (die array inst word : Nat) (ue : Bool) (s : State) : State :=
  let k := retiredKey die array inst
  let n := SMap.get 0 s.ecc.retired k
  if n < spareRows array then ({ s with ecc.retired := SMap.set 0 s.ecc.retired k (n + 1) }).fadd EC_DIE_CNT.RETIRED [die] 1
  else if ue then outOfService die array inst word s
  else s

/-- read_word of R515 on a word whose three reads give the syndromes s1, s2 and s3. A marked word counts in DIAG_HITS alone and retires no row (R521). -/
def readWord (die array inst word s1 s2 s3 : Nat) (marked : Bool) (s : State) : ReadResult × State :=
  let count (f : Fld) (s : State) : State := if marked then s else s.fadd f [die] 1
  let s := if marked then s.fadd EC_DIE_CNT.DIAG_HITS [die] 1 else s
  match synClass s1 with
  | .clean => (.data, s)
  | .poisoned => (.poison, s)
  | _ =>
    match synClass s2 with
    | .clean => (.data, count EC_DIE_CNT.TRANSIENT s)
    | .checkBit | .dataBit _ =>
      let s := clearWords die array inst word (word + 1) s
      if s3 = 0 then (.data, recordLast die array inst word s2 1 (count EC_DIE_CNT.TRANSIENT s))
      else
        let s := recordLast die array inst word s2 2 (count EC_DIE_CNT.LASTING_CE s)
        (.data, if marked then s else pulse (1600 + die) (retireRow die array inst word false s))
    | _ =>
      let s := recordLast die array inst word s2 3 (count EC_DIE_CNT.LASTING_UE s)
      (.poison, if marked then s else pulse (1600 + die) (retireRow die array inst word true (poisonWord die array inst word s)))

/-- A read by the CW9's own machinery: without data the scope resets. A poison codeword found so is no new error (R509). -/
def machineRead (die array inst word s1 s2 s3 : Nat) (marked : Bool) (s : State) : State :=
  let (r, t) := readWord die array inst word s1 s2 s3 marked s
  if r = .poison ∧ synClass s1 ≠ .poisoned then resetScope die array inst word t else t

/-! ECC_DIAG (R520, R521). -/

def diagResult (n : Nat) (s : State) : State := s.fset EC_DIAG_CTRL.RESULT [] n

/-- Is the codeword one that ECC_DIAG may act on? The RESULT that refuses it, if any. -/
def diagRefuses (s : State) (die array inst word : Nat) : Option Nat :=
  if !wordExists die array inst word then some 4 else if diagDenied s die array inst word then some 2 else none

/-- WRITE_RAW: the word holds data and check bits as given. -/
def writeRaw (die array inst word : Nat) (data : List Byte) (check : Nat) (s : State) : State :=
  match diagRefuses s die array inst word with
  | some r => diagResult r s
  | none =>
    let marked := s.ecc.raw.filter fun w => w.marked && !(w.die == die && w.array == array && w.inst == inst && w.word == word)
    if 16 ≤ marked.length then diagResult 3 s
    else
      let cls := synClass (check % 65536 ^^^ checkBits data word)
      let s := setWordBytes die array inst word (cls.correct data) s
      diagResult 1 (putRaw { die := die, array := array, inst := inst, word := word, data := data, check := check % 65536, marked := true,
                             bad := cls == .uncorrectable || cls == .poisoned } s)

/-- EC.DIAG.DATA and CHECK take a codeword. -/
def loadDiag (data : List Byte) (check : Nat) (s : State) : State :=
  let s := (List.range 4).foldl (fun s i => s.setWord .EC_DIAG_DATA [i] (BitVec.ofNat 64 (field data (8 * i) 8))) s
  s.fset EC_DIAG_CTRL.CHECK [] check

/-- READ_RAW: the codeword without correction. What the state does not hold byte by byte reads as a free value. -/
def readRaw (die array inst word : Nat) (s : State) : State :=
  match diagRefuses s die array inst word with
  | some r => diagResult r s
  | none =>
    match rawAt s die array inst word with
    | some w => diagResult 1 (loadDiag w.data w.check s)
    | none =>
      match wordBytes s die array inst word with
      | some bs => diagResult 1 (loadDiag bs (checkBits bs word) s)
      | none =>
        let bs := toBytesLE 32 (Config.freeNat s.draws)
        diagResult 1 (loadDiag bs (checkBits bs word) s.draw)

/-- CLEAR: the word holds DATA with its computed check. -/
def clearRaw (die array inst word : Nat) (data : List Byte) (s : State) : State :=
  match diagRefuses s die array inst word with
  | some r => diagResult r s
  | none => diagResult 1 (setWordBytes die array inst word data (clearWords die array inst word (word + 1) s))

end Sys2Proof.Machine
end

