-- ==== Sys2Proof/Machine/MeshOps.lean ====
section
/-! DEFINITION. The package mesh: paths and spray (R255, R256), edge selection (R285-R289), the resequencer (R259-R261), wire repair (R257), and cells leaving their egress
queues (R249, R272). -/

namespace Sys2Proof.Machine

/-! Edges (Table 06.6). -/

def edgeOff (e : Nat) : Nat :=
  match e with
  | 0 => 1
  | 1 => 2
  | 2 => 6
  | _ => 7

def farDie (g e : Nat) : Nat := (g + edgeOff e) % 8

/-- The far die's edge that leads back. -/
def backEdge (e : Nat) : Nat := 3 - e

/-- The edge of a die that reaches another in one hop. -/
def edgeTo (g d : Nat) : Option Nat :=
  match (d + 8 - g) % 8 with
  | 1 => some 0
  | 2 => some 1
  | 6 => some 2
  | 7 => some 3
  | _ => none

def State.edge (s : State) (g e : Nat) : EdgeDir := SMap.get .reset s.fwd.edges (4 * g + e)

def State.setEdge (s : State) (g e : Nat) (x : EdgeDir) : State := { s with fwd.edges := SMap.set .reset s.fwd.edges (4 * g + e) x }

def edgeUp (s : State) (g e : Nat) : Bool := s.fget FW_EDGE_STATUS.OUT [g, e] == 0

/-- A spray entry's path: first edge, and the edge of the second hop if there is one; none if the entry is invalid or its path is not usable (R256, R258). -/
def sprayPath (s : State) (g ddie i : Nat) : Option (Nat × Option Nat) :=
  let n := bitsOf (s.word .FW_SPRAY [g, (ddie + 8 - g) % 8]) (63 - 4 * i) (60 - 4 * i)
  let e := n % 4
  let far := farDie g e
  if n < 8 ∨ (s.edge g e).skipped then none
  else if far = ddie then some (e, none)
  else
    match edgeTo far ddie with
    | some e2 => if coreFrozen s far ∨ (s.edge far e2).skipped then none else some (e, some e2)
    | none => none

/-- A flow's next usable entry, from its turn on: entry and path. -/
def nextSpray (s : State) (g ddie spray : Nat) : Option (Nat × Nat × Option Nat) :=
  ((List.range 4).filterMap fun k => (sprayPath s g ddie ((spray + k) % 4)).map fun p => ((spray + k) % 4, p.1, p.2)).head?

/-! Mesh credit. -/

def clrFlows (sdie ddie c : Nat) : List Nat := (List.range 5).map (flowKey sdie ddie c)

/-- Units of the mesh pool of (sdie, ddie, clearing) in use: cells sent and not yet released, and released cells refused admission (R242, R259). -/
def meshUsed (s : State) (sdie ddie c : Nat) : Nat :=
  ((clrFlows sdie ddie c).map fun k =>
    let f := s.flow k
    ((f.sent.filter fun e => !f.notices.contains e.1).map fun e => e.2.units).sum).sum
    + ((s.fwd.refused.filter fun r => r.1 == ddie && r.2.ddie == ddie && r.2.sdie == sdie && r.2.clr == c).map fun r => r.2.units).sum

def meshPool (s : State) (ddie c : Nat) : Nat := max 1 (s.fget FW_CLR_BUF.MESH_POOL [ddie, c])

/-! Selection on an edge direction. -/

/-- What an edge direction can carry next: a cell in transit, by the edge that it came on and its place there, or the head of a mesh queue, by flow, spray entry and second hop. -/
inductive MeshPick where
  | transit (edge idx : Nat) (c : MeshCell)
  | fresh (flow entry : Nat) (hop2 : Option Nat) (c : Cell)
deriving DecidableEq, Repr

def MeshPick.units : MeshPick → Nat
  | .transit _ _ c => c.cell.units
  | .fresh _ _ _ c => c.units

/-- The oldest cell of a clearing in transit on die g for its edge e. -/
def transitPick (s : State) (g e c : Nat) : Option MeshPick :=
  ((List.range 4).map fun k =>
    let src := 4 * ((g + 8 - edgeOff k) % 8) + k
    let d := SMap.get EdgeDir.reset s.fwd.edges src
    if d.holding then []
    else (((List.range d.flying.length).zip d.flying).filter fun (x : Nat × MeshCell) => x.2.hop2 == some e && x.2.cell.clr == c).map fun (x : Nat × MeshCell) => MeshPick.transit src x.1 x.2).flatten.head?

/-- The head of a mesh queue, if it is ready for edge e (R236, R256, R259). -/
def freshPick (s : State) (g e c vc ddie : Nat) : Option MeshPick :=
  let k := flowKey g ddie c vc
  let f := s.flow k
  match f.queue, nextSpray s g ddie f.spray with
  | q :: _, some (i, e1, hop2) =>
    if e1 = e ∧ f.sent.length < 4096 ∧ meshUsed s g ddie c + q.cell.units ≤ meshPool s ddie c ∧ !coreFrozen s ddie then some (.fresh k i hop2 q.cell) else none
  | _, _ => none

def turnKey (g e c : Nat) : Nat := 2 ^ 20 + (4 * g + e) * 128 + c

/-- The next cell of a clearing: one in transit first, then the mesh queues round robin by VC (R289). -/
def clrPick (s : State) (g e c : Nat) : Option MeshPick :=
  match transitPick s g e c with
  | some p => some p
  | none =>
    let last := SMap.get 39 s.fwd.meshTurn (turnKey g e c)
    ((List.range 5).map fun v => ((List.range 8).filterMap fun d => freshPick s g e c ((last / 8 + 1 + v) % 5) ((last % 8 + 1 + d) % 8))).flatten.head?

/-- The wheel slot of the package time (R285). -/
def wheelSlot (s : State) : Nat := s.pkg % 640 / 20

/-- The sealed clearing that owns a slot on a die, of those in force. -/
def slotOwner (s : State) (g i : Nat) : Option Nat :=
  lowestFrom (fun c => s.fget SC_MESH.MODE [g, c] == 1 && natBit (s.fget SC_MESH.SLOTS [g, c]) i) 128 0

def meshDefKey (g e c : Nat) : Nat := (4 * g + e) * 128 + c

/-- Deficit round robin over units among the open clearings with a cell ready (R288): the clearing served goes on while its deficit lasts. -/
def openPick (g e : Nat) (s : State) : Option MeshPick × State :=
  let ready := (List.range 128).filter fun c => s.fget SC_MESH.MODE [g, c] == 0 && (clrPick s g e c).isSome
  let s := { s with fwd.meshDef := SMap.keep (fun k _ => k / 128 != 4 * g + e || ready.contains (k % 128)) s.fwd.meshDef }
  let serve (c : Nat) (s : State) : Option MeshPick × State :=
    match clrPick s g e c with
    | some p => (some p, { s with
        fwd.meshDef := SMap.set 0 s.fwd.meshDef (meshDefKey g e c) (SMap.get 0 s.fwd.meshDef (meshDefKey g e c) - p.units)
        fwd.meshTurn := SMap.put s.fwd.meshTurn (4 * g + e) c })
    | none => (none, s)
  let next (after : Nat) (s : State) : Option MeshPick × State :=
    match (ready.filter fun c => after < c) ++ ready with
    | c :: _ => serve c { s with
        fwd.meshDef := SMap.set 0 s.fwd.meshDef (meshDefKey g e c) (SMap.get 0 s.fwd.meshDef (meshDefKey g e c) + 32 * max 1 (s.fget SC_MESH.WEIGHT [g, c])) }
    | [] => (none, s)
  match SMap.get? s.fwd.meshTurn (4 * g + e) with
  | some c =>
    match clrPick s g e c with
    | some p => if ready.contains c ∧ p.units ≤ SMap.get 0 s.fwd.meshDef (meshDefKey g e c) then serve c s else next c s
    | none => next c s
  | none =>
    match ready with
    | c :: _ => serve c { s with
        fwd.meshDef := SMap.set 0 s.fwd.meshDef (meshDefKey g e c) (SMap.get 0 s.fwd.meshDef (meshDefKey g e c) + 32 * max 1 (s.fget SC_MESH.WEIGHT [g, c])) }
    | [] => (none, s)

/-- The cell that an edge direction starts in the running slot (R287, R288). -/
def meshPick (g e : Nat) (s : State) : Option MeshPick × State :=
  match slotOwner s g (wheelSlot s) with
  | some c => (clrPick s g e c, s)
  | none => openPick g e s

/-- The transaction of a cell that is lost to an uncorrectable read completes with POISON, if its header is readable and its VC is REQ, ORD or BULK (R249). -/
def poisonTxn (g : Nat) (header : Bool) (c : Cell) (s : State) : State :=
  match c.txn with
  | some id =>
    if c.mcg ≠ 0 then copyGone id (copiesOf s g false c) (some .poison) s
    else if !header ∨ c.vc = vcRsp ∨ c.vc = vcSnp then s
    else match s.txn? id with
      | some x => endTxn x .poison [] s
      | none => s
  | none => s

/-- A cell read back from its buffer reads uncorrectable (R249): counted, recorded, and gone. -/
def loseCell (g : Nat) (qlen : Nat) (header : Bool) (c : Cell) (s : State) : State :=
  poisonTxn g header c (trail g (cellEvent 4 (if g = c.ddie then c.dest else 0x1FF) qlen 3 c s) (s.fadd FW_CLR_CNT_DROP.POISON [g, c.clr] 1))

/-- The die reads a cell back from its buffer: does it read uncorrectable? The error takes its course (R515, R522). -/
def readCell (g : Nat) (rd : CellRead) (s : State) : Bool × State :=
  let m := (rawAt s (2 + g) 7 0 rd.word).any RawWord.marked
  (decide ((readWord (2 + g) 7 0 rd.word rd.s1 rd.s2 rd.s3 m s).1 = .poison), machineRead (2 + g) 7 0 rd.word rd.s1 rd.s2 rd.s3 m s)

/-- The cell that carries no transaction and only advances its flow. -/
def Cell.toVoid (c : Cell) : Cell := { c with void := true, hdr2 := none, data := [], txn := none }

/-- A picked cell starts on an edge direction. -/
def startOn (g e : Nat) (p : MeshPick) (rd : CellRead) (s : State) : State :=
  match p with
  | .transit src i c =>
    let d := SMap.get EdgeDir.reset s.fwd.edges src
    let s := { s with fwd.edges := SMap.set .reset s.fwd.edges src { d with flying := d.flying.eraseIdx i } }
    s.setEdge g e { s.edge g e with flying := (s.edge g e).flying ++ [{ c with hop2 := none }] }
  | .fresh k i hop2 c =>
    let f := s.flow k
    match f.queue with
    | q :: rest =>
      let (bad, s) := readCell g rd (uncharge g q s)
      let s := if bad then loseCell g (qUnits f.queue) rd.header c s else s
      let c := if bad then c.toVoid else c
      let s := s.setFlow k { s.flow k with queue := rest, spray := (i + 1) % 4, sent := f.sent ++ [(c.seq, c)] }
      let s := { s with fwd.meshTurn := SMap.put s.fwd.meshTurn (turnKey g e c.clr) (8 * c.vc + c.ddie) }
      s.setEdge g e { s.edge g e with flying := (s.edge g e).flying ++ [{ flow := k, cell := c, hop2 := hop2 }] }
    | [] => s

/-- An edge direction that can start a cell does so, if one fits before the slot ends (R285). -/
def meshSelect (g e : Nat) (rd : CellRead) (s : State) : State :=
  if !edgeUp s g e ∨ (s.edge g e).holding ∨ coreFrozen s g then s
  else
    match meshPick g e s with
    | (some p, t) =>
      if p.units ≤ 25 * (20 - s.pkg % 20) then
        startOn g e p rd ((t.addTotal (ownTotal totUnits (8 * g + 2 * e + 1)) p.units).addTotal (ownTotal totUnits (8 * farDie g e + 2 * backEdge e)) p.units)
      else s
    | (none, t) => t

/-! The resequencer. -/

/-- Timer time: device time less the suspensions of the gap timers (R260). -/
def timerTime (s : State) : Nat := s.now - s.fwd.gapLost - (match s.fwd.gapSusp with
  | some t => s.now - t
  | none => 0)

/-- A released cell is admitted at its destination die (R243, R250, R253). -/
def releaseCell (c : Cell) (s : State) : State :=
  if c.mcg ≠ 0 then mcLocal c.ddie c s
  else if !portHolds s c.dest then dropCell FW_CLR_CNT_DROP.PORT_DOWN c.ddie false 0 c s
  else if waitsBehind c.ddie c s.fwd.refused then refuseCell c.ddie c s
  else (admitEgress c.dest c s).getD (refuseCell c.ddie c s)

/-- release(f) of R260: at most n cells. -/
def release (k : Nat) : Nat → State → State
  | 0, s => s
  | n + 1, s =>
    let f := s.flow k
    match f.held.find? fun c => c.seq == f.exp with
    | some c =>
      let s := s.setFlow k { f with held := f.held.filter fun x => x.seq != f.exp, notices := f.notices ++ [f.exp], exp := (f.exp + 1) % 65536 }
      release k n (if c.void then s else releaseCell c s)
    | none => s

/-- The gap timer runs while a cell is held. -/
def restartGap (k : Nat) (s : State) : State :=
  let f := s.flow k
  s.setFlow k { f with since := if f.held = [] then none else some (timerTime s) }

/-- arrive(f, c) of R260. -/
def meshArrive (k : Nat) (c : Cell) (s : State) : State :=
  let f := s.flow k
  if 4096 ≤ (c.seq + 65536 - f.exp) % 65536 then s.fadd FW_CNT_MESH.LATE_CELL [c.ddie] 1
  else
    let s := s.setFlow k { f with held := f.held ++ [c], since := some (f.since.getD (timerTime s)) }
    if c.seq = f.exp then restartGap k (release k 4096 s) else s

/-- The oldest cell that ends its path on an edge direction arrives at the far die. -/
def edgeArrive (g e : Nat) (s : State) : State :=
  let d := s.edge g e
  if d.holding ∨ !edgeUp s g e then s
  else
    match d.flying.findIdx? fun x => x.hop2 == none with
    | some i =>
      match d.flying[i]? with
      | some m => meshArrive m.flow m.cell (s.setEdge g e { d with flying := d.flying.eraseIdx i })
      | none => s
    | none => s

/-- tick(f) of R260: a gap of 2 us of timer time is skipped, counted and recorded; the range goes back to the ingress die. -/
def gapTimeout (sdie ddie c vc : Nat) (s : State) : State :=
  let k := flowKey sdie ddie c vc
  let f := s.flow k
  let dist (x : Cell) : Nat := (x.seq + 65536 - f.exp) % 65536
  match f.since with
  | some t =>
    if timerTime s - t < 2000 then s
    else
      let n := f.held.foldl (fun m x => min m (dist x)) 65536
      let next := (f.exp + n) % 65536
      let ev : TrailEv := { kind := 5, clr := c, port := 0x1FF, sdie := sdie, ddie := ddie, vc := vc, cls := 0, seq := f.exp, hdr1 := 0, hdr2 := 0, qlen := n, lat := 0, cause := 0 }
      let s := pulse (128 + 32 * ddie + 18) (trail ddie ev (s.fadd FW_CNT_MESH.GAP_SKIP [ddie] n))
      restartGap k (release k 4096 (s.setFlow k { s.flow k with exp := next, skips := f.skips ++ [(f.exp, n)] }))
  | none => s

/-- What a skipped cell ends (R261). -/
def skipCell (c : Cell) (s : State) : State :=
  match c.txn with
  | some id =>
    if c.mcg ≠ 0 then copyGone id (copiesOf s c.sdie false c) (some .serviceInterrupted) s
    else if c.vc = vcReq ∨ c.vc = vcOrd ∨ c.vc = vcBulk then
      match s.txn? id with
      | some x => endTxn x .serviceInterrupted [] s
      | none => s
    else s
  | none =>
    if c.vc = vcRsp then
      respond c.sdie c.dest c.clr (natBits c.hdr1.toNat 119 104) (natBits c.hdr1.toNat 70 58) .serviceInterrupted (natBits c.hdr1.toNat 49 42) true false [] s
    else s

def skipCells : List Cell → State → State
  | [], s => s
  | c :: r, s => skipCells r (skipCell c s)

/-- The ingress die takes the oldest skipped range of a flow (R261). -/
def skipNotice (k : Nat) (s : State) : State :=
  let f := s.flow k
  match f.skips with
  | (a, n) :: rest =>
    let inRange (q : Nat) : Bool := decide ((q + 65536 - a) % 65536 < n)
    let gone := f.sent.filter fun e => inRange e.1
    skipCells (gone.map Prod.snd) (s.setFlow k { f with skips := rest, sent := f.sent.filter fun e => !inRange e.1 })
  | [] => s

/-- The ingress die takes the oldest release notice of a flow (R259). -/
def releaseNotice (k : Nat) (s : State) : State :=
  let f := s.flow k
  match f.notices with
  | q :: rest => s.setFlow k { f with notices := rest, sent := f.sent.filter fun e => e.1 != q }
  | [] => s

/-! Wire repair (Table 06.7). -/

/-- OUT of an edge direction, and IN of the far die's end of it. -/
def setEdgeState (g e st : Nat) (s : State) : State :=
  (s.fset FW_EDGE_STATUS.OUT [g, e] st).fset FW_EDGE_STATUS.IN [farDie g e, backEdge e] st

/-- The wire is located at t0 + 0.2 us: REPAIR, and the cells are held. -/
def wireFail (g e : Nat) (s : State) : State :=
  if edgeUp s g e then setEdgeState g e 1 (s.setEdge g e { s.edge g e with failAt := some (s.now - 200), holding := true }) else s

/-- t0 + 0.5 us: entries that use the edge direction are skipped, gap timers suspended. -/
def spraySuspend (g e : Nat) (s : State) : State :=
  if (s.edge g e).holding then suspendGaps (s.setEdge g e { s.edge g e with skipped := true }) else s

/-- Cells of a DOWN edge direction are lost, those in transit for it too. -/
def dropEdge (g e : Nat) (s : State) : State :=
  let s := s.setEdge g e { s.edge g e with flying := [], holding := false }
  (List.range 4).foldl (fun s k =>
    let src := (g + 8 - edgeOff k) % 8
    let d := s.edge src k
    s.setEdge src k { d with flying := d.flying.filter fun m => m.hop2 != some e }) s

/-- t0 + 14 us: the spare wire is in use, or the edge direction goes DOWN, with its event. -/
def spareWire (g e : Nat) (s : State) : State :=
  let far := [farDie g e, backEdge e]
  if !(s.edge g e).holding then s
  else if 0 < s.fget FW_EDGE_STATUS.SPARES far then
    (s.fset FW_EDGE_STATUS.SPARES far (s.fget FW_EDGE_STATUS.SPARES far - 1)).fadd FW_CNT_MESH.EDGE_REPAIR [g] 1
  else pulse (128 + 32 * g + 17) (setEdgeState g e 2 (dropEdge g e s))

/-- t0 + 16 us: the held cells are sent again. -/
def heldResend (g e : Nat) (s : State) : State := if s.fget FW_EDGE_STATUS.OUT [g, e] = 1 then s.setEdge g e { s.edge g e with holding := false } else s

/-- t0 + 18 us: the edge direction is UP. -/
def edgeBack (g e : Nat) (s : State) : State :=
  if s.fget FW_EDGE_STATUS.OUT [g, e] = 1 then setEdgeState g e 0 (s.setEdge g e { s.edge g e with holding := false, skipped := false }) else s

/-- t0 + 20 us: the gap timers resume, unless another repair or an update still suspends them. -/
def gapResume (g e : Nat) (s : State) : State :=
  let s := s.setEdge g e { s.edge g e with failAt := none }
  if s.fwd.edges.any (fun d => d.2.failAt.isSome && d.2.skipped) ∨ (List.range 8).any (fun k => coreFrozen s k) then s else resumeGaps s

/-- The wheel boundary after an epoch came into force: modes and slot sets of the map in force, on every die (R290). -/
def wheelBoundary (s : State) : State :=
  let m := s.com.inForce
  let one (g c : Nat) (s : State) : State :=
    let sealed := (sealedClrs m).contains c
    (s.fset SC_MESH.MODE [g, c] (boolNat sealed)).fset SC_MESH.SLOTS [g, c] (if sealed then (slotSet m c).foldl (fun a k => a + 2 ^ k) 0 else 0)
  if s.fwd.meshOwed then
    (List.range 8).foldl (fun s g => (List.range 128).foldl (fun s c => one g c s) s) { s with fwd.meshOwed := false }
  else s

/-! Queues. -/

/-- Every refused cell of a clearing on a die is offered admission again, oldest first; none passes another of its queue (R243). -/
def retryCells (g c : Nat) : List (Nat × Cell) → State → State
  | [], s => s
  | (d, x) :: r, s =>
    if d = g ∧ x.clr = c ∧ !waitsBehind g x s.fwd.refused then
      let entry := x.ddie != g || x.sdie == x.ddie
      let t := if entry ∧ x.mcg = 0 then tryEnter x s else if x.ddie = g then admitEgress x.dest x s else admitMesh x s
      retryCells g c r (t.getD { s with fwd.refused := s.fwd.refused ++ [(d, x)] })
    else retryCells g c r { s with fwd.refused := s.fwd.refused ++ [(d, x)] }

def admitRetry (g c : Nat) (s : State) : State := retryCells g c s.fwd.refused { s with fwd.refused := [] }

/-- The head of a queue's overflow returns to the cell buffer when admission accepts it (R247, R248). -/
def overflowRefill (lp cls : Nat) (s : State) : State :=
  let q := s.egQ lp cls
  let g := lpDie lp
  match q.ovf with
  | c :: rest =>
    let frozen : Bool := match lowChannel s.com.inForce g c.clr with
      | some ch => understoryFrozen s (ch / 32)
      | none => true
    match if frozen then none else admitCharge s g c.clr c.vc (classAlpha s g c.clr c.cls) (qUnits q.cells) c.units with
    | some ch => (addCharge g c.clr c.vc c.units ch s).setEgQ lp cls { cells := q.cells ++ [{ cell := c, charge := ch }], ovf := rest }
    | none => s
  | [] => s

/-- Can a logical port start a transaction? -/
def portStarts (s : State) (lp : Nat) : Bool :=
  let p := s.lport lp
  s.lpActive lp && !p.pausedBy && p.txWait == [] && decide (p.txBuf.length < bufferShare (s.modeOf lp)) && !s.pw.forwardingStopped && !s.pw.transmittersOff
    && !coreFrozen s (lpDie lp)

/-- The selected cell leaves (R249, R253, R272): charged to the shapers, sent, and its copy's count lowered. -/
def egressSend (lp k : Nat) (rd : CellRead) (s : State) : State :=
  let q := s.egQ lp k
  let g := lpDie lp
  match q.cells with
  | x :: rest =>
    let c := x.cell
    let l := schedLen s lp c.nslot
    let s := setTokens lp k (shaperTokens s lp k - l) s
    let s := setTokens lp 16 (shaperTokens s lp 16 - l) s
    let (bad, s) := readCell g rd (uncharge g x (s.setEgQ lp k { q with cells := rest }))
    if bad then loseCell g (qUnits q.cells) rd.header c s
    else
      let p := s.lport lp
      let s := s.setLport lp { p with credits := SMap.set 0 p.credits c.vc (SMap.get 0 p.credits c.vc - c.nslot) }
      let s := trail g (cellEvent 2 lp (qUnits q.cells) 0 c s) s
      let s := (s.addTotal (ownTotal totBytes (16 * lp + k)) l).addTotal (ownTotal totCells (16 * lp + k)) 1
      let s := sendSlots lp c.hdr2.isSome ([c.hdr1] ++ c.hdr2.toList ++ c.data) s
      match c.txn with
      | some id => if c.mcg ≠ 0 then copyGone id 1 none s else s
      | none => s
  | [] => s

/-- The port selects a cell, if it can start one (R272). -/
def egressSelect (lp : Nat) (rd : CellRead) (s : State) : State :=
  if portStarts s lp then
    match selectClass lp s with
    | (some k, s) => egressSend lp k rd s
    | (none, s) => s
  else s

end Sys2Proof.Machine
end

