-- ==== Sys2Proof/Machine/PortOps.lean ====
section
/-! DEFINITION. Transactions that arrive on logical ports: the CLR check (R151), landing and policing (R242, R283, R284), the port's own refusals (R158, R170, R500), and the
transaction's effect. -/

namespace Sys2Proof.Machine

def PortReq.req (q : PortReq) : Req := { src := .port q.lp q.tag, clr := q.clr, epoch := q.epoch, gen := q.gen, node := q.node, line := q.line }

/-- The pre-execution checks of a transaction that names a handle, up to STALE_HANDLE (R25, R473); a trunk's epoch is not checked (R492). -/
def handleStatus (s : State) (r : Req) (lp : Nat) (pool : Bool) : Option Status :=
  if portRole s.com.inForce lp ≠ .trunk ∧ (s.mapAt r.epoch).isNone then some .staleEpoch
  else if genStale s lp r.gen pool then some .staleHandle
  else none

/-- The handle of a message's sender: the record bound to its port that GEN names, else the first one (Table 09.18). -/
def senderHandle (s : State) (lp gen : Nat) : Word :=
  let es := s.com.inForce.endpoints.filter fun e => e.lport == lp && (e.type == 2 || e.type == 3)
  match (es.filter fun e => epGen s e.clr e.index == gen) ++ es with
  | e :: _ => BitVec.ofNat 64 (epHandle s e)
  | [] => 0

/-- A SUBMIT (R475). -/
def arriveSubmit (r : Req) (lp : Nat) (record : List Byte) (s : State) : State :=
  let fin (st : Status) (s : State) : State := endReq r.src r.clr r.epoch (lpDie lp) st [] false s
  match handleStatus s r lp false with
  | some st => fin st s
  | none =>
    if portRole s.com.inForce lp = .trunk then fin .denied s
    else match parseSubmission record with
      | some u => addLoad r.src r.clr r.epoch u (.fabric u.crec) false [] s
      | none => fin .denied s

/-- A LEDGER transaction waits for its Sequencer cycle (R498). -/
def arriveLedger (r : Req) (lp lop : Nat) (slot : List Byte) (s : State) : State :=
  let fin (st : Status) (s : State) : State := endReq r.src r.clr r.epoch (lpDie lp) st [] false s
  match handleStatus s r lp true with
  | some st => fin st s
  | none =>
    if (poolOf s.com.inForce lp).isNone ∨ 5 < lop then fin .denied s
    else
      let x := { plainTxn r.src .ledger r.clr r.epoch s.selfNode (lpDie lp) s with phase := .seq }
      seqAdd (some r.clr) (.ledger x.id lop (field slot 0 8) (field slot 8 8) lp) (s.addTxn x)

/-- A whole message (R481). -/
def arriveMsg (r : Req) (lp target mtag : Nat) (bytes : List Byte) (s : State) : State :=
  match handleStatus s r lp false with
  | some st => endReq r.src r.clr r.epoch (lpDie lp) st [] false s
  | none => sendMessage { sender := senderHandle s lp r.gen, tag := mtag, bytes := bytes, src := r.src, clr := r.clr, epoch := r.epoch } target (lpDie lp) s

/-- Does a port answer every request with DENIED: no requests under its ROLE, a partner of another NodeID, or a quarantined spare (R158, R500)? -/
def portDenies (s : State) (lp : Nat) : Bool :=
  let role := portRole s.com.inForce lp
  !(role.isAgent || role == .trunk) || (portRec s.com.inForce lp).map PortRec.pnode != some (s.fget FR_SUB_STATUS.PARTNER (lpIx lp))

/-- A request takes effect. -/
def serveRequest (r : Req) (lp : Nat) (a : Ask) (s : State) : State :=
  let die := lpDie lp
  let fin (st : Status) (s : State) : State := endReq r.src r.clr r.epoch die st [] false s
  if portDenies s lp ∨ tagPending s lp (match r.src with
      | .port _ t => t
      | _ => 0) ∨ quarantined s lp then fin .denied s
  else match a with
    | .mem k narrow pages => serveMem r k narrow pages die s
    | .inval n => serveInval r n die s
    | .subscribe => serveSubscribe r die s
    | .unsubscribe => serveUnsubscribe r die s
    | .prepare => servePrepare r die s
    | .publish => servePublish r die s
    | .openPin => serveOpen r die s
    | .closePin => serveClose r die s
    | .coh k => serveCoh r k die s
    | .submit record => arriveSubmit r lp record s
    | .ledger lop slot => arriveLedger r lp lop slot s
    | .msg target mtag bytes => arriveMsg r lp target mtag bytes s
    | .refused st => if portRole s.com.inForce lp ≠ .trunk ∧ (s.mapAt r.epoch).isNone then fin .staleEpoch s else fin st s

/-- Bytes that the segments of a message hold, in SEG order. -/
def segBytesOf (n : Nat) (segs : SMap (List (BitVec 128))) : List Byte := ((List.range n).map fun i => slotsBytes (SMap.get [] segs i)).flatten

/-- A MSG segment joins its message; with the last one the message is here (R481). Segments of wrong lengths or numbers end it with DENIED. -/
def arriveSeg (r : Req) (lp tag target seg mtag mlen : Nat) (data : List (BitVec 128)) (s : State) : State :=
  let mine (m : PartMsg) : Bool := m.lp == lp && m.tag == tag
  let n := (mlen + 16) / 16
  let segs := SMap.put (((s.nx.msgs.find? mine).map PartMsg.segs).getD []) seg data
  let want := if seg + 1 < n then 16 else mlen + 1 - 16 * (n - 1)
  let rest := s.nx.msgs.filter fun m => !mine m
  if n ≤ seg ∨ data.length ≠ want then serveRequest r lp (.refused .denied) { s with nx.msgs := rest }
  else if segs.length < n then { s with nx.msgs := rest ++ [{ lp := lp, tag := tag, segs := segs }] }
  else serveRequest r lp (.msg target mtag (segBytesOf n segs)) { s with nx.msgs := rest }

/-- A transaction that has passed landing takes effect. -/
def takeArrival (lp : Nat) (a : Arrival) (s : State) : State :=
  match a with
  | .request r ask => serveRequest r lp ask s
  | .response tag st seg last data => response lp (lpClr s lp) tag st seg last data s
  | .snoop tag toI data => snoopAnswer lp tag toI data s
  | .invAck tag => invAck lp tag s
  | .msgSeg r tag target seg mtag mlen data => arriveSeg r lp tag target seg mtag mlen data s
  | .discard => s

/-- A transaction leaves landing: its credit returns (R242), and it takes effect. -/
def leaveLanding (lp vc slots : Nat) (a : Arrival) (s : State) : State := takeArrival lp a (returnCredit lp vc slots s)

/-- Does landing hold every transaction of a port: in a quiesce, or while its switch core is frozen (R108, R497)? -/
def landingHeld (s : State) (lp : Nat) : Bool := s.com.stopped || coreFrozen s (lpDie lp)

def queuedAt (hs : List HeldReq) (lp vc : Nat) : Bool := hs.any fun h => h.lp == lp && h.vc == vc

/-- Landing (R283, R284): a transaction meets its policer, unless it waits behind another of its port and VC. -/
def land (lp vc slots : Nat) (a : Arrival) (s : State) : State :=
  let hold (pol : Option Nat) (s : State) : State := { s with sched.held := s.sched.held ++ [{ lp := lp, vc := vc, slots := slots, pol := pol, what := a }] }
  if landingHeld s lp ∨ queuedAt s.sched.held lp vc then hold none s
  else
    match polOf s lp vc with
    | none => leaveLanding lp vc slots a s
    | some key =>
      match police key lp slots false s with
      | (true, s) => leaveLanding lp vc slots a s
      | (false, s) => hold (some key) (if s.sched.held.any (fun h => h.pol == some key) then s else countHold key false s)

/-- The held transactions, oldest first: each that is the first of its port and VC meets its policer again and passes if it may. -/
def passHeld : List HeldReq → State → State
  | [], s => s
  | h :: r, s =>
    let keep (pol : Option Nat) (s : State) : State := { s with sched.held := s.sched.held ++ [{ h with pol := pol }] }
    if landingHeld s h.lp ∨ queuedAt s.sched.held h.lp h.vc then passHeld r (keep h.pol s)
    else
      match (match h.pol with
        | some k => some k
        | none => polOf s h.lp h.vc) with
      | none => passHeld r (leaveLanding h.lp h.vc h.slots h.what s)
      | some key =>
        match police key h.lp h.slots h.pol.isSome s with
        | (true, s) => passHeld r (leaveLanding h.lp h.vc h.slots h.what s)
        | (false, s) => passHeld r (keep (some key) s)

/-- Every held transaction tries to pass. -/
def retryHeld (s : State) : State := passHeld s.sched.held { s with sched.held := [] }

/-- DENIED for a request whose CLR does not match, sent by the Fringe die itself (R151, R168). -/
def mismatchAnswer (lp clr epoch tag : Nat) (s : State) : State :=
  sendSlots lp false [mkHdr clr epoch 0 vcRsp false 0 (rspTxn tag Status.denied.code 0 true false)] s

/-- The tag and epoch that a request carries. -/
def Arrival.answer : Arrival → Option (Nat × Nat)
  | .request r _ | .msgSeg r _ _ _ _ _ _ => (match r.src with
      | .port _ t => some (r.epoch, t)
      | _ => none)
  | _ => none

/-- A transaction of so many slots arrives on a logical port with a CLR in its header (R151, R234). Nothing arrives on a port that is not ACTIVE. -/
def arrive (lp clr vc slots : Nat) (a : Arrival) (s : State) : State :=
  if !s.lpActive lp ∨ s.pw.ingressStopped then s
  else if lpClr s lp = 0xFF ∨ clr ≠ lpClr s lp then
    let s := returnCredit lp vc slots (s.fadd FR_SUB_CNT_DROP.CLR_MISMATCH (lpIx lp) 1)
    match a.answer with
    | some (e, tag) => if vc = vcReq then mismatchAnswer lp clr e tag s else s
    | none => s
  else land lp vc slots a s

/-- A command that stands for one request of a partner. -/
def arriveReq (t vc slots : Nat) (q : PortReq) (a : Ask) (s : State) : Out := ok (settle (arrive q.lp q.clr vc slots (.request q.req a) (s.upTo t)))

end Sys2Proof.Machine
end

