-- ==== Sys2Proof/Machine/AskOps.lean ====
section
/-! DEFINITION. What the requests of partners ask for, by their encodings (Tables 04.5, 04.6, 05.4, 13.6). -/

namespace Sys2Proof.Machine

/-- A REQ without a second header slot (Table 04.5). -/
def askReq (data : List (BitVec 128)) : Ask :=
  match data.length with
  | 0 => .mem .load false 0
  | 1 | 2 | 3 => .mem (.store []) true 0
  | 4 => .mem (.store (bytesLine (slotsBytes data))) false 0
  | _ => .refused .denied

/-- A BULK without a second header slot (Table 04.5). -/
def askBulk (data : List (BitVec 128)) : Ask :=
  if data = [] ∨ 16 < data.length then .refused .denied else .mem (.blkWr data) (data.length % 4 != 0) 0

/-- COUNT + 1 row indices out of their slots. -/
def gatherIdx (count : Nat) (data : List (BitVec 128)) : List Nat :=
  (List.range (count + 1)).map fun i => ofBytesLE (((slotsBytes data).drop (4 * i)).take 4)

def askGather (rowl count : Nat) (data : List (BitVec 128)) : Ask :=
  if data.length = (count + 4) / 4 then .mem (.gather (rowl % 16) (gatherIdx (count % 64) data)) false 0 else .refused .denied

def askAtomic (aop word : Nat) (data : List (BitVec 128)) : Ask :=
  match data with
  | [d] => .mem (.atomic (aop % 16) (word % 8) (ofBytesLE ((slotBytes d).take 8)) (ofBytesLE ((slotBytes d).drop 8))) false 0
  | _ => .refused .denied

/-- A request with a second header slot, by VC, OP, fields and data (Tables 04.6, 05.4, 13.6). -/
def askOp (vc op fields : Nat) (data : List (BitVec 128)) : Ask :=
  let none_ (a : Ask) : Ask := if data = [] then a else .refused .denied
  if vc = vcReq then
    match op with
    | 0x01 => none_ (.mem (.blkRd (natBits fields 121 114 + 1)) false 0)
    | 0x02 => none_ (.mem .pageRd false 0)
    | 0x03 => askGather (natBits fields 121 118) (natBits fields 117 112) data
    | 0x04 => none_ (.mem .hint false (natBits fields 119 96 + 1))
    | 0x05 => askAtomic (natBits fields 121 118) (natBits fields 117 115) data
    | 0x10 => none_ .subscribe
    | 0x11 => none_ .unsubscribe
    | 0x13 => none_ .prepare
    | 0x15 => none_ .openPin
    | 0x16 => none_ .closePin
    | 0x17 => none_ (.coh .rdS)
    | 0x18 => none_ (.coh .rdM)
    | 0x19 => none_ (.coh .upg)
    | 0x1B => none_ (.coh .evict)
    | 0x21 => if data.length = 5 then .submit (slotsBytes data) else .refused .denied
    | _ => .refused .denied
  else if vc = vcOrd then
    match op with
    | 0x12 => none_ (.inval (natBits fields 121 98 + 1))
    | 0x14 => none_ .publish
    | 0x22 => if data.length = 1 then .ledger (natBits fields 121 118) (slotsBytes data) else .refused .denied
    | _ => .refused .denied
  else if vc = vcBulk then
    match op with
    | 0x1A => if data.length = 4 then .coh (.wb (bytesLine (slotsBytes data))) else .refused .denied
    | _ => .refused .denied
  else .refused .denied

/-- PRIO of a HINT travels in the GEN field of its request. -/
def hintReq (prio : Nat) (q : PortReq) : PortReq := { q with gen := prio % 4 }

end Sys2Proof.Machine
end

