-- ==== Sys2Proof/Machine/Coherent.lean ====
section
/-! DEFINITION. The commands of chapter 05: subscriptions, the Sequencer, versioned publish, the coherent directory and its domains. -/

namespace Sys2Proof.Machine

def execSubscribe (t : Nat) (q : PortReq) (s : State) : Out := arriveReq t vcReq 2 q .subscribe s

def execUnsubscribe (t : Nat) (q : PortReq) (s : State) : Out := arriveReq t vcReq 2 q .unsubscribe s

/-- COUNT + 1 lines. -/
def execInval (t : Nat) (q : PortReq) (count : Nat) (s : State) : Out := arriveReq t vcOrd 2 q (.inval (count % 2 ^ 24 + 1)) s

/-- The first operation of the Sequencer's order is held by both Lookouts, or by the only one in service (R111). -/
def execSequencerHold (t : Nat) (s : State) : Out := ok (settle (holdOp (s.upTo t)))

/-- The cycle of a clearing, or a privileged one (none), admits its first waiting operation (R443), while the Sequencer accepts operations (R112). -/
def execSequencerAdmit (t : Nat) (clr : Option Nat) (s : State) : Out :=
  let s := s.upTo t
  whenever s.boot.seqRuns s (settle (positionOp clr s))

def execInvAck (t lp clr tag : Nat) (s : State) : Out := ok (settle (arrive lp clr vcSnp 1 (.invAck tag) (s.upTo t)))

def execInvLimitExpiry (t id : Nat) (s : State) : Out :=
  let s := s.upTo t
  match s.coh.invals.find? fun v => v.txn == id with
  | some v => whenever (decide (v.sentAt + invLimit s ≤ s.now)) s (settle (invExpire v s))
  | none => ok s

def execPrepare (t : Nat) (q : PortReq) (s : State) : Out := arriveReq t vcReq 2 q .prepare s

def execPrepareTimeout (t id : Nat) (s : State) : Out :=
  let s := s.upTo t
  match s.txn? id with
  | some x => if x.phase = .slotWait ∧ x.issued + tierLimit s x.tier ≤ s.now then ok (settle (timeoutTxn x s)) else ok s
  | none => ok s

def execPublish (t : Nat) (q : PortReq) (s : State) : Out := arriveReq t vcOrd 2 q .publish s

/-- A held PUBLISH whose requester's writes have ended goes on ORD to the Sequencer (R215). -/
def execPublishForward (t id : Nat) (s : State) : Out :=
  let s := s.upTo t
  match s.txn? id with
  | some x => if x.phase = .held ∧ x.kind = .publish then ok (settle (publishForward x s)) else ok s
  | none => ok s

/-- A publish point of the 2 us grid (R215). -/
def execPublishPoint (t : Nat) (s : State) : Out :=
  let s := s.upTo t
  whenever (s.now / 2000 != s.coh.pubPoint) s (settle (publishAll (s.coh.pubs.map PubRegion.region) { s with coh.pubPoint := s.now / 2000 }))

def execOpenRegion (t : Nat) (q : PortReq) (s : State) : Out := arriveReq t vcReq 2 q .openPin s

def execCloseRegion (t : Nat) (q : PortReq) (s : State) : Out := arriveReq t vcReq 2 q .closePin s

def execRdS (t : Nat) (q : PortReq) (s : State) : Out := arriveReq t vcReq 2 q (.coh .rdS) s

def execRdM (t : Nat) (q : PortReq) (s : State) : Out := arriveReq t vcReq 2 q (.coh .rdM) s

def execUpg (t : Nat) (q : PortReq) (s : State) : Out := arriveReq t vcReq 2 q (.coh .upg) s

def execWb (t : Nat) (q : PortReq) (line : Line) (s : State) : Out := arriveReq t vcBulk 6 q (.coh (.wb line)) s

def execEvict (t : Nat) (q : PortReq) (s : State) : Out := arriveReq t vcReq 2 q (.coh .evict) s

def execRspI (t lp clr tag : Nat) (s : State) : Out := ok (settle (arrive lp clr vcSnp 1 (.snoop tag true none) (s.upTo t)))

def execRspS (t lp clr tag : Nat) (s : State) : Out := ok (settle (arrive lp clr vcSnp 1 (.snoop tag false none) (s.upTo t)))

def execRspIData (t lp clr tag : Nat) (line : Line) (s : State) : Out := ok (settle (arrive lp clr vcSnp 5 (.snoop tag true (some line)) (s.upTo t)))

def execRspSData (t lp clr tag : Nat) (line : Line) (s : State) : Out := ok (settle (arrive lp clr vcSnp 5 (.snoop tag false (some line)) (s.upTo t)))

/-- A request that waits for a directory way ends at the T1 limit (R222). -/
def execDirectoryWaitTimeout (t id : Nat) (s : State) : Out :=
  let s := s.upTo t
  match s.txn? id with
  | some x => if x.phase = .wayWait ∧ x.issued + tierLimit s .t1 ≤ s.now then ok (settle (timeoutTxn x s)) else ok s
  | none => ok s

/-- A snoop answer or an awaited WB is missing (R224). -/
def execSnoopLimitExpiry (t : Nat) (s : State) : Out :=
  let s := s.upTo t
  match snoopOverdue s with
  | some (d, lp) => ok (settle (domainDown d 2 lp none s))
  | none => ok s

/-- At t0 + SNOOP_LIMIT of a reset (Table 05.10). -/
def execDomainResetPoison (t d : Nat) (s : State) : Out :=
  let s := s.upTo t
  whenever (s.coh.resets.any fun r => r.domain == d && !r.sweeping && decide (r.t0 + snoopLimit s ≤ s.now)) s (settle (domainSweep d s))

/-- The sweep is done (Table 05.10). -/
def execDomainResetDone (t d : Nat) (s : State) : Out :=
  let s := s.upTo t
  whenever (s.coh.resets.any fun r => r.domain == d && r.sweeping) s (settle (domainUp d s))

/-- A member's port in a retrain under R130 has not come back within SNOOP_LIMIT (R224). -/
def execMemberRetrainLimit (t lp : Nat) (s : State) : Out :=
  let s := s.upTo t
  match (s.lport lp).kept with
  | some t0 => whenever (decide (t0 + snoopLimit s ≤ s.now) && !s.lpActive lp) s (settle (memberLost lp 1 s.com.inForce.domains s))
  | none => ok s

end Sys2Proof.Machine
end

