-- ==== Sys2Proof/Machine/Commit.lean ====
section
/-! DEFINITION. The commands of chapter 13 beyond the contexts: submissions and messages of partners, the ownership ledger, canopy commits, and spares. -/

namespace Sys2Proof.Machine

/-! Requests of partners. -/

/-- A SUBMIT with the 80 bytes of Table 13.4. -/
def execSubmit (t : Nat) (q : PortReq) (record : List Byte) (s : State) : Out :=
  arriveReq t vcReq 7 q (if record.length = 80 then .submit record else .refused .denied) s

/-- A whole message of up to 4,096 units, in segments of 16 units with two header slots each (R481). -/
def execMsg (t : Nat) (q : PortReq) (target mtag : Nat) (units : List (BitVec 128)) (s : State) : Out :=
  let n := units.length
  arriveReq t vcBulk (2 * ((n + 15) / 16) + n) q
    (if n = 0 ∨ 4096 < n then .refused .denied else .msg (target % 2 ^ 64) (mtag % 2 ^ 16) (slotsBytes units)) s

/-- A LEDGER transaction: one data slot, the request ID and the destination (R498). -/
def askLedger (t : Nat) (q : PortReq) (lop req dest : Nat) (s : State) : Out := arriveReq t vcOrd 3 q (.ledger lop (toBytesLE 8 req ++ toBytesLE 8 dest)) s

def execCreate (t : Nat) (q : PortReq) (req : Nat) (s : State) : Out := askLedger t q 0 req 0 s
def execBegin (t : Nat) (q : PortReq) (req dest : Nat) (s : State) : Out := askLedger t q 1 req dest s
def execAccept (t : Nat) (q : PortReq) (req : Nat) (s : State) : Out := askLedger t q 2 req 0 s
def execAbort (t : Nat) (q : PortReq) (req : Nat) (s : State) : Out := askLedger t q 3 req 0 s
def execDelete (t : Nat) (q : PortReq) (req : Nat) (s : State) : Out := askLedger t q 4 req 0 s
def execQuery (t : Nat) (q : PortReq) (req : Nat) (s : State) : Out := askLedger t q 5 req 0 s

/-- The first privileged cycle at or after a deadline: the revert takes its position (R499), and its effect once both Lookouts hold it. -/
def execLedgerRevert (t clr req : Nat) (s : State) : Out :=
  let s := s.upTo t
  let due := (s.ledgerEntry clr req).any (deadlinePast s) && !(s.coh.seqOps.any fun o => o.kind == .ledgerRevert clr req)
  let op : SeqOp := { id := s.coh.nextOp, clr := none, kind := .ledgerRevert clr req, positioned := true, at_ := s.pkg }
  whenever (due && s.boot.seqRuns) s
    { s with coh.nextOp := s.coh.nextOp + 1, coh.seqOps := s.coh.seqOps.filter (fun o => o.positioned) ++ [op] ++ s.coh.seqOps.filter (fun o => !o.positioned) }

/-- An EPOCH_NOTE that reaches the CW9 (R571). -/
def execEpochNote (t : Nat) (q : PortReq) (s : State) : Out := arriveReq t vcReq 2 q (.refused .denied) s

/-! The commit (Table 13.7). -/

/-- The end of the check. -/
def execCommitChecked (t : Nat) (s : State) : Out :=
  let s := s.upTo t
  whenever (s.com.phase == .checking && s.boot.seqRuns) s (settle (commitChecked s))

/-- The commit is the first privileged operation that waits, and takes its position. -/
def execCommitPosition (t : Nat) (s : State) : Out :=
  let s := s.upTo t
  let first := (s.coh.seqOps.find? fun o => !o.positioned && o.clr == none).any fun o => o.kind == .commit
  whenever (s.com.phase == .ordered && first && s.boot.seqRuns) s (settle (positionOp none s))

/-- The commit is the first operation in order, and both Lookouts hold it. -/
def execCommitHeld (t : Nat) (s : State) : Out :=
  let s := s.upTo t
  whenever (s.com.phase == .positioned && s.coh.seqOps.head?.any fun o => o.kind == .commit) s (settle (holdOp s))

/-- tc, once no switch core is frozen (R490). -/
def execCommitSwitch (t : Nat) (s : State) : Out :=
  let s := s.upTo t
  whenever (s.com.phase == .held && !(List.range 8).any (coreFrozen s)) s (settle (commitSwitch s))

/-- tc + 500 us. -/
def execDrainWindowEnd (t : Nat) (s : State) : Out :=
  let s := s.upTo t
  match s.com.phase with
  | .draining tc => whenever (decide (tc + 500000 ≤ s.now)) s (settle (drainEnd s))
  | _ => ok s

/-! Quiesce-and-load (Table 13.9). -/

/-- tq: the outstanding requests have ended. -/
def execQuiesceDrained (t : Nat) (s : State) : Out :=
  let s := s.upTo t
  match s.com.phase with
  | .quiescing _ => whenever (quiet s) s (settle (quiesceDrained s))
  | _ => ok s

/-- Every context is swapped out; the map is checked and installed. -/
def execQuiesceInstall (t : Nat) (s : State) : Out :=
  let s := s.upTo t
  whenever (s.com.phase == .drained && s.boot.seqRuns && (List.range 128).all fun k => (residents s k).isEmpty) s (settle (quiesceInstall s))

/-- Credits return, held transactions go on, and contexts wait for their swap-in. -/
def execQuiesceResume (t : Nat) (s : State) : Out :=
  let s := s.upTo t
  match s.com.phase with
  | .installed accepted =>
    let s := { s with com.stopped := false }
    let s := retryHeld (if accepted then noteAll allLports s else s)
    let s := endCommit (if accepted then 1 else 2) (if accepted then 0 else s.fget CM_COMMIT.REASON []) s
    ok (settle ((List.range 128).foldl (fun s k => scheduleAll 32 k s) s))
  | _ => ok s

/-! Spares (R500-R504). -/

def execSpareTestEnd (t k : Nat) (s : State) : Out :=
  let s := s.upTo t
  whenever (decide (k < 8) && s.fget CM_SPARE.PHASE [k] == 1 && s.fget CM_SPARE.RESULT [k] == 0) s (settle (spareTestEnd k s))

/-- DONE reaches LEN (R502). -/
def execSpareLoaded (t k : Nat) (s : State) : Out :=
  let s := s.upTo t
  whenever (decide (k < 8) && s.fget CM_SPARE.PHASE [k] == 2 && decide (s.fget CM_SPARE_LOAD.LEN [k] ≤ s.fget CM_SPARE_LOAD.DONE [k])) s (sparePhase k 3 0 s)

def execSpareLoadStall (t k : Nat) (s : State) : Out :=
  let s := s.upTo t
  whenever (decide (k < 8) && s.fget CM_SPARE.PHASE [k] == 2) s (settle (spareStall k s))

/-- The admission stands first in the Sequencer's order, and both Lookouts hold it. -/
def execSpareAdmission (t k : Nat) (s : State) : Out :=
  let s := s.upTo t
  whenever (s.coh.seqOps.head?.any fun o => o.positioned && o.kind == .admission k) s (settle (holdOp s))

end Sys2Proof.Machine
end

