-- ==== Sys2Proof/Machine/Access.lean ====
section
/-! DEFINITION. Which programs reach which words (R20, R375), and the form of a control-space command that acts on one word. -/

namespace Sys2Proof.Machine

/-- Is a word opened to a program? A privileged program reaches every word (R375); a clearing's program reaches the words of its clearing, copse, logical port,
domain or unit. -/
def opened (s : State) (p : Prog) (o : Opened) (ix : List Nat) : Bool :=
  p.privileged || match o, ix with
    | .any, _ => true
    | .clr0, c :: _ => c == p.clr
    | .clr1, _ :: c :: _ => c == p.clr
    | .copse, g :: c :: _ => copseClr s.com.inForce (16 * g + c) == some p.clr
    | .lport, _ :: n :: _ => (portRec s.com.inForce n).map PortRec.clr == some p.clr
    | .dom, d :: _ => (s.com.inForce.domains.find? fun r => r.domain == d).map Domain.clr == some p.clr
    | .unit, n :: _ => s.fget CM_UNIT.CLR [n] == p.clr
    | _, _ => false

/-- A write by a program that must be among the writers of a word: DENIED without effect otherwise. -/
def writeBy (p : Prog) (w : CW) (ix : List Nat) (f : State → Status × State) (s : State) : State :=
  if w.inRange ix && opened s p w.writers ix then (let (st, s) := f s; s.done st) else s.done .denied

end Sys2Proof.Machine
end

