-- ==== Sys2Proof/Machine/Copse.lean ====
section
/-! DEFINITION. Contexts: run limit, residency, save and restore, start and completion (R379, R381, R476, R484-R487), and the freeing of amax and residual entries
(R332, R344). -/

namespace Sys2Proof.Machine

/-- A program past its run limit ends with TIMEOUT, swapped out or not (R379). -/
def execRunLimit (t copse n : Nat) (s : State) : Out :=
  let s := s.upTo t
  match s.ctx? copse n with
  | some x =>
    let past : Bool := match x.first with
      | some f => decide (x.hdr.runLimit * 100000 ≤ (s.pkg + 2 ^ 64 - f) % 2 ^ 64)
      | none => false
    let c : EndCause := { status := .timeout, reason := rRunLimit, pc := 0xFFFFFFFF, rank := 0xFFFFFFFF, torn := false, time := s.pkg }
    whenever (x.hdr.runLimit != 0 && past && x.state != .ending) s (settle (endProgram copse n (some c) s))
  | none => ok s

/-- The guard of a resident context runs out: the copse looks at its schedule again. -/
def execResidencyGuardExpiry (t copse n : Nat) (s : State) : Out :=
  let s := s.upTo t
  match s.ctx? copse n with
  | some x => whenever (x.resident && decide (x.residentAt + 50000 ≤ s.now)) s (settle (scheduleAll 8 copse s))
  | none => ok s

/-- A copse and the CUs of a context run (R55); management CUs are always on. -/
def unitsRun (s : State) (copse : Nat) (x : Ctx) : Bool :=
  decide (128 ≤ copse) || (SMap.get Gating.powerGated s.pw.copseGate copse == .running
    && (List.range x.hdr.cus).all fun u => SMap.get Gating.powerGated s.pw.cuGate (16 * copse + u) == .running)

/-- The context that waits for a switch enters: a new one copies INIT, a swapped one is restored. -/
def enterNext (copse : Nat) (s : State) : State :=
  let c := s.copse copse
  let s := s.setCopse copse { c with switching := false, entering := none }
  match c.entering with
  | some n => (match s.ctx? copse n with
    | some x => if x.state = .loading ∨ x.state = .swapped then scheduleAll 8 copse (makeResident copse n x s) else scheduleAll 8 copse s
    | none => scheduleAll 8 copse s)
  | none => scheduleAll 8 copse s

/-- The saves of a copse that are complete: their contexts are SWAPPED, and the switch proceeds (R486). -/
def execContextSaved (t copse : Nat) (s : State) : Out :=
  let s := s.upTo t
  let due := (ctxsOf s copse).filter fun e => e.2.state == .saving && decide (e.2.readyAt ≤ s.now)
  let s1 := savedAll copse due s
  let more := (ctxsOf s1 copse).any fun e => e.2.state == .saving
  whenever (!due.isEmpty) s (settle (if more then s1 else enterNext copse s1))

/-- Decode starts again for the streams of a restored context (R432). -/
def againAll (copse n : Nat) (s : State) : State :=
  ((s.copse copse).streams.filter fun e => e.2.ctx == n).foldl (fun (s : State) (e : Nat × XStream) => startDecode copse e.1 false s) s

def execContextRestored (t copse n : Nat) (s : State) : Out :=
  let s := s.upTo t
  match s.ctx? copse n with
  | some x =>
    if x.state = .restoring ∧ x.readyAt ≤ s.now ∧ unitsRun s copse x then
      let s := againAll copse n (restored copse n s)
      let s := if x.gid ≠ 0 then svcAfter (ctxKey copse n) s else s
      ok (settle (scheduleAll 8 copse s))
    else ok s
  | none => ok s

def execInitCopyDone (t copse n : Nat) (s : State) : Out :=
  let s := s.upTo t
  match s.ctx? copse n with
  | some x =>
    if x.state = .loading ∧ x.resident ∧ x.readyAt ≤ s.now ∧ unitsRun s copse x then
      let s := startCtx copse n x s
      ok (settle (scheduleAll 8 copse (if x.gid ≠ 0 then svcStart (ctxKey copse n) s else s)))
    else ok s
  | none => ok s

/-- An ending context whose requests have ended writes its record (R188, R382, R476). -/
def execCompletionRecord (t copse n : Nat) (s : State) : Out := ok (settle (completeCtx copse n (s.upTo t)))

/-! Entries of a copse. -/

/-- Does a program on a copse use an amax stream, or a residual stream? -/
def amaxUsed (s : State) (copse stream : Nat) : Bool := (ctxsOf s copse).any fun e => e.2.hdr.amax.contains stream

def residUsed (s : State) (copse stream : Nat) : Bool := (ctxsOf s copse).any fun e => e.2.hdr.resid.any fun r => r.1 == stream

/-- VALID written 0 frees an entry, unless a running program uses it (R344). -/
def freeAmax (copse k : Nat) (s : State) : Status × State :=
  let c := s.copse copse
  match SMap.get? c.amax k with
  | some e => if amaxUsed s copse e.stream then (.denied, s) else (.ok, s.setCopse copse { c with amax := SMap.erase c.amax k })
  | none => (.ok, s)

def freeResid (copse k : Nat) (s : State) : Status × State :=
  let c := s.copse copse
  match SMap.get? c.resid k with
  | some e => if residUsed s copse e.stream then (.denied, s) else (.ok, s.setCopse copse { c with resid := SMap.erase c.resid k })
  | none => (.ok, s)

def execAmaxFree (p : Prog) (t g c k : Nat) (s : State) : Out := ok (writeBy p .GL_AMAX [g, c, k] (freeAmax (16 * g + c) k) (s.upTo t))

def execResidFree (p : Prog) (t g c k : Nat) (s : State) : Out := ok (writeBy p .GL_RESID_CFG [g, c, k] (freeResid (16 * g + c) k) (s.upTo t))

end Sys2Proof.Machine
end

