-- ==== Sys2Proof/Machine/LinkRx.lean ====
section
/-! DEFINITION. What a logical port does with the flits and link messages that it receives (R120-R127, R133, R141-R148, R151). -/

namespace Sys2Proof.Machine

/-! Link messages. -/

/-- Does a port require encryption: its own setting, the partner's, or a LINK clearing (R145, R449)? -/
def needsEnc (s : State) (lp : Nat) : Bool :=
  ppFld s FR_PORT_CFG.ENC_REQ lp == 1 || (s.lport lp).partnerEnc || confOf s.com.inForce (lpClr s lp) == 1

/-- The CW9 requires encryption of its own accord: what its PARAMS says. -/
def ownEnc (s : State) (lp : Nat) : Bool := ppFld s FR_PORT_CFG.ENC_REQ lp == 1 || confOf s.com.inForce (lpClr s lp) == 1

/-- The CW9's own PARAMS (R133): its initial credits per VC are those of the port's clearing on the die. -/
def sendParams (lp : Nat) (s : State) : State :=
  s.emit (.params lp s.selfNode (s.modeOf lp) (ownEnc s lp) ((List.range 5).map fun v => vcCredit s (lpDie lp) (lpClr s lp) v))

/-- The partner's PARAMS in a training attempt (R133): another MODE is a MISMATCH. A port that keeps its work under R130 keeps its credits too. -/
def receiveParams (lp node mode : Nat) (enc : Bool) (credits : List Nat) (s : State) : State :=
  let p := s.lport lp
  if s.lpState lp ≠ 1 ∨ !p.eqDone then s
  else
    let s := s.fset FR_SUB_STATUS.PARTNER (lpIx lp) node
    if actingMode mode ≠ s.modeOf lp then linkDown lp 5 s
    else
      let given : SMap Nat := ((List.range 5).map fun v => (v, 8 * credits.getD v 0)).filter fun (e : Nat × Nat) => e.2 != 0
      s.setLport lp { p with params := true, partnerMode := mode, partnerEnc := enc, credits := if p.kept.isSome then p.credits else given }

/-- A received KEY_SWITCH: the new key stands beside the old one, and is answered (R148). -/
def receiveKeySwitch (lp gen : Nat) (s : State) : State :=
  if s.encrypted lp then sendLinkMsg lp 7 (toBytesLE 4 gen) (s.setLport lp { s.lport lp with keyNext := some gen }) else s

/-- A received KEY_SWITCH_ACK for the generation asked for: KEYPH flips at the next group (R148). -/
def receiveKeyAck (lp gen : Nat) (s : State) : State :=
  let p := s.lport lp
  if p.keySent = some gen then s.setLport lp { p with keyFlip := true } else s

/-- A new key generation of the CW9's own stream is asked for, unless one is already. -/
def sendKeySwitch (lp : Nat) (s : State) : State :=
  let p := s.lport lp
  let gen := (s.fget FR_SUB_STATUS.KEY_GEN (lpIx lp) + 1) % 2 ^ 32
  if s.lpActive lp && s.encrypted lp && p.keySent.isNone then sendLinkMsg lp 6 (toBytesLE 4 gen) (s.setLport lp { p with keySent := some gen }) else s

/-- A PD_NOTICE: loss of light within 1 ms is expected (R143). -/
def receiveNotice (lp : Nat) (s : State) : State := if s.lpActive lp then s.setLport lp { s.lport lp with noticeAt := some s.now } else s

/-- A fragment of an SPDM message (Table 03.11): with its last byte the message goes to the session engine. -/
def receiveSpdm (lp off total : Nat) (bytes : List Byte) (s : State) : State :=
  let p := s.lport lp
  let got := p.spdm.take off ++ bytes
  if off ≠ (if off = 0 then 0 else p.spdm.length) then s
  else if got.length < total then s.setLport lp { p with spdm := got }
  else { s.setLport lp { p with spdm := [] } with link.spdmIn := s.link.spdmIn ++ [(lp, got.take total)] }

/-- A LINK_MGMT flit's message (R141); reserved types are counted and ignored. -/
def receiveMessage (lp : Nat) (bytes : List Byte) (s : State) : State :=
  let type := ((bytes.headD 0).toNat)
  let len := ofBytesLE ((bytes.drop 1).take 2)
  let body := (bytes.drop 3).take len
  match type with
  | 1 => (match Config.paramsOf body with
      | some (node, mode, enc, credits) => receiveParams lp node mode enc credits s
      | none => s)
  | 2 | 3 => s
  | 4 => receiveHold lp s
  | 5 => receiveNotice lp s
  | 6 => receiveKeySwitch lp (ofBytesLE (body.take 4)) s
  | 7 => receiveKeyAck lp (ofBytesLE (body.take 4)) s
  | 8 => receiveSpdm lp (ofBytesLE (body.take 2)) (ofBytesLE ((body.drop 2).take 2)) (body.drop 4) s
  | 9 => s
  | _ => s.fadd FR_SUB_CNT_DROP.BAD_FTYPE (lpIx lp) 1

/-! Transactions out of slots. -/

/-- The fields of a first header slot (Table 03.7). -/
structure HdrF where
  clr : Nat
  epoch : Nat
  gen : Nat
  vc : Nat
  hx : Bool
  dlen : Nat
  txn : Nat
deriving DecidableEq, Repr

def HdrF.ofSlot (x : BitVec 128) : HdrF :=
  let n := x.toNat
  { clr := natBits n 127 120, epoch := natBits n 119 104, gen := natBits n 103 80, vc := natBits n 79 77, hx := natBit n 76, dlen := natBits n 75 71, txn := natBits n 70 0 }

/-- The snoop answers and acknowledgements of the SNP VC (Tables 05.5, 05.6). -/
def snpArrival (txn : Nat) (data : List (BitVec 128)) : Arrival :=
  let tag := natBits txn 9 0
  let line := bytesLine (slotsBytes data)
  match natBits txn 70 68 with
  | 3 => .invAck tag
  | 4 => .snoop tag true none
  | 5 => .snoop tag false none
  | 6 => if data.length = 4 then .snoop tag true (some line) else .discard
  | 7 => if data.length = 4 then .snoop tag false (some line) else .discard
  | _ => .discard

/-- A request, with or without a second header slot (R162-R164, R480). -/
def reqArrival (lp : Nat) (h : HdrF) (h2 : Option Nat) (data : List (BitVec 128)) : Arrival :=
  let q : PortReq :=
    { lp := lp, tag := natBits h.txn 12 0, clr := h.clr, epoch := h.epoch, gen := h.gen, node := natBits h.txn 70 55, line := natBits h.txn 54 13 }
  match h2 with
  | none =>
    .request q.req (if h.vc = vcReq then askReq data else if h.vc = vcBulk then askBulk data else .refused .denied)
  | some f =>
    let op := natBits f 127 122
    if op = 0x20 ∧ h.vc = vcBulk ∧ 1 ≤ data.length ∧ data.length ≤ 16 then
      .msgSeg q.req q.tag (natBits f 121 58) (natBits f 57 50) (natBits f 49 34) (natBits f 33 22) data
    else .request ((if op = 4 then hintReq (natBits f 121 120) q else q).req) (askOp h.vc op f data)

/-- A whole transaction: its header, then any second header, then its data slots. -/
def slotArrival (lp : Nat) (slots : List (BitVec 128)) : Option (HdrF × Arrival) :=
  match slots with
  | [] => none
  | x :: rest =>
    let h := HdrF.ofSlot x
    if h.vc = vcRsp then
      some (h, .response (natBits h.txn 70 58) (natBits h.txn 57 50) (natBits h.txn 49 42) (natBit h.txn 41) (slotsBytes (if h.hx then rest.drop 1 else rest)))
    else if h.vc = vcSnp then some (h, snpArrival h.txn (if h.hx then rest.drop 1 else rest))
    else
      match h.hx, rest with
      | true, y :: data => some (h, reqArrival lp h (some y.toNat) data)
      | _, data => some (h, reqArrival lp h none data)

/-- The transaction that has been received whole arrives; one of a reserved VC was counted at its header. -/
def takeSlots (lp : Nat) (s : State) : State :=
  let p := s.lport lp
  let s := s.setLport lp { p with rxSlots := [], rxMap := [], rxNeed := 0 }
  match slotArrival lp p.rxSlots with
  | some (h, a) => if h.vc = 5 ∨ h.vc = 6 then s else arrive lp h.clr h.vc p.rxSlots.length a s
  | none => s

/-- One slot of the stream, with its SLOTMAP bit (R123, R124, Table 03.8). -/
def rxSlot (lp : Nat) (mark : Bool) (x : BitVec 128) (s : State) : State :=
  let p := s.lport lp
  if 0 < p.rxNeed then
    let s := s.setLport lp { p with rxSlots := p.rxSlots ++ [x], rxMap := p.rxMap ++ [mark], rxNeed := p.rxNeed - 1 }
    if p.rxNeed = 1 then takeSlots lp s else s
  else if !mark then s
  else
    let h := HdrF.ofSlot x
    if h.vc = 7 then s.setLport lp { p with rxSkip := false }
    else if 16 < h.dlen then (s.setLport lp { p with rxSkip := true }).fadd FR_SUB_CNT_DROP.BAD_FTYPE (lpIx lp) 1
    else
      let need := h.dlen + boolNat h.hx
      let s := if h.vc = 5 ∨ h.vc = 6 then s.fadd FR_SUB_CNT_DROP.BAD_FTYPE (lpIx lp) 1 else s
      let s := s.setLport lp { p with rxSkip := false, rxSlots := [x], rxMap := [mark], rxNeed := need }
      if need = 0 then takeSlots lp s else s

def rxSlots (lp : Nat) : List (Bool × BitVec 128) → State → State
  | [], s => s
  | (m, x) :: r, s => rxSlots lp r (rxSlot lp m x s)

/-- The slots of a flit with their SLOTMAP bits. -/
def markSlots (map : Nat) (slots : List (BitVec 128)) : List (Bool × BitVec 128) := ((List.range slots.length).map (natBit map)).zip slots

/-! Flits. -/

/-- The flits of a tag group in the clear, from its first on. -/
def openGroup (lp gen group : Nat) : Nat → List Flit → List (Bool × BitVec 128)
  | _, [] => []
  | i, f :: r => markSlots f.slotmap (keyed lp false gen group (15 * i) (flitAad f).2) ++ openGroup lp gen group (i + 1) r

/-- A received tag group is complete: its tag verifies and its slots are released, or the port fails (R147-R149). The first group of a new phase retires the old key. -/
def closeGroup (lp : Nat) (fs : List Flit) (tag : BitVec 128) (s : State) : State :=
  let p := s.lport lp
  let ph := (fs.getLast?.map Flit.keyph).getD false
  let turn := ph != p.keyphRx
  let key := if turn then p.keyNext else some p.keyRx
  let group := if turn then 0 else p.groupsRx
  let s := s.setLport lp { p with group := [] }
  match key with
  | some gen =>
    if tag = Config.gcmTag lp false gen group (fs.map flitAad) then
      let p := s.lport lp
      rxSlots lp (openGroup lp gen group 0 fs)
        (s.setLport lp { p with groupsRx := group + 1, keyRx := gen, keyphRx := ph, keyNext := if turn then none else p.keyNext })
    else linkDown lp 4 (s.fadd FR_SUB_CNT_DROP.TAG_FAIL (lpIx lp) 1)
  | none => linkDown lp 4 (s.fadd FR_SUB_CNT_DROP.TAG_FAIL (lpIx lp) 1)

/-- A payload flit, in order. -/
def rxPayload (lp : Nat) (f : Flit) (s : State) : State :=
  if s.encrypted lp then
    let fs := (s.lport lp).group ++ [f]
    if f.ftype = 3 then closeGroup lp fs (f.slots.getD 14 0) s else s.setLport lp { s.lport lp with group := fs }
  else rxSlots lp (markSlots f.slotmap (flitAad f).2) s

/-- The flits up to the one acknowledged leave the replay buffer (R127); flits that waited for room go out. -/
def takeAck (lp ack : Nat) (s : State) : State :=
  let p := s.lport lp
  match p.txBuf.findIdx? fun f => f.seq == ack with
  | some i => drainWait p.txWait.length lp (s.setLport lp { p with txBuf := p.txBuf.drop (i + 1), ackAt := s.now, replayRuns := 0 })
  | none => s

/-- The running total of credits of a VC (R125). -/
def takeCredit (lp vc cnt : Nat) (s : State) : State :=
  if 5 ≤ vc then s
  else
    let p := s.lport lp
    let more := 8 * ((cnt + 128 - SMap.get 0 p.crSeen vc) % 128)
    s.setLport lp { p with crSeen := SMap.set 0 p.crSeen vc cnt, credits := SMap.set 0 p.credits vc (SMap.get 0 p.credits vc + more) }

/-- A flit with a good CRC: acknowledgement, NAK and credits first, then its slots if it is the next in order (R122, R126). -/
def rxGood (lp : Nat) (slots : List (BitVec 128)) (t : Trailer) (s : State) : State :=
  let s := if t.ackv then takeAck lp t.ack s else s
  let s := takeCredit lp t.crvc t.crcnt s
  let s := if t.nak then startReplay lp s else s
  if t.ftype = 0 then s
  else
    let s := if 4 ≤ t.ftype then s.fadd FR_SUB_CNT_DROP.BAD_FTYPE (lpIx lp) 1 else s
    let p := s.lport lp
    if t.seq ≠ (p.ackd + 1) % 65536 then s
    else
      let s := s.setLport lp { p with ackd := t.seq, nakSet := false }
      match t.ftype with
      | 2 => receiveMessage lp ((slots.map slotBytes).flatten) s
      | 1 | 3 => if s.lpActive lp then rxPayload lp { seq := t.seq, ftype := t.ftype, keyph := t.keyph, slotmap := t.slotmap, slots := slots } s else s
      | _ => s

/-- The next flit that the CW9 sends where it has nothing else to send: IDLE (R126, R127). -/
def sendIdle (lp : Nat) (s : State) : State :=
  transmit lp { seq := (s.lport lp).txNext, ftype := 0, keyph := false, slotmap := 2 ^ 15 - 1, slots := List.replicate 15 nullSlot } s

/-- A flit arrives on a logical port that is locked on flits: TRAINING, SECURING or ACTIVE. -/
def receiveFlit (lp : Nat) (slots : List (BitVec 128)) (trailer : BitVec 128) (s : State) : State :=
  let t := Trailer.ofBits trailer
  let slots := (slots ++ List.replicate (15 - slots.length) 0).take 15
  if !([1, 2, 3].contains (s.lpState lp)) then s
  else
    let s :=
      if t.crc ≠ flitCrc slots t then
        let p := s.lport lp
        (s.setLport lp { p with nakSet := true, nakOwed := p.nakOwed || !p.nakSet }).fadd FR_SUB_CNT_LINK.CRC_ERR (lpIx lp) 1
      else rxGood lp slots t ((s.addTotal (ownTotal totFlitRx lp) 1).addTotal (ownTotal totSlotRx lp) 15)
    if [1, 2, 3].contains (s.lpState lp) then sendIdle lp s else s

end Sys2Proof.Machine
end

