-- ==== Sys2Proof/Machine/LaneOps.lean ====
section
/-! DEFINITION. Lanes: faults, sparing, narrowing, recalibration (R134-R140), light (R132, R133, R143), and what writes of the port words start (R132, R148). -/

namespace Sys2Proof.Machine

/-- The logical port that a lane serves under the MODE in force; a spare serves the port of the lane that it replaces. -/
def laneHome (s : State) (l : Nat) : Nat :=
  if l % 64 < 32 then l
  else
    let n := l % 64 - 32
    if s.fget FR_SPARE.LANE (spareIx l n) = 0x3F then l else 64 * (l / 64) + s.fget FR_SPARE.LANE (spareIx l n)

def laneLp (s : State) (l : Nat) : Option Nat :=
  let h := laneHome s l
  if h % 64 < 32 then
    let p := 8 * (h / 64) + h % 64 / 4
    let w := modeWidth (SMap.get 0 s.link.modes p)
    some (4 * p + h % 4 / w)
  else none

def lanesOf (s : State) (lp : Nat) : List Nat := lpLanes (s.modeOf lp) lp

/-- A swap, narrowing or restore is counted and told to the fabric manager (R139). -/
def laneMoved (lp : Nat) (s : State) : State := (s.fadd FR_SUB_CNT_LINK.SPARE (lpIx lp) 1).emit (.event (.laneMoved lp))

/-- The spare that a lane may move to (R136). -/
def findSpare (s : State) (l : Nat) : Option Nat :=
  let j := l % 64 / 4
  [0, 1].find? fun n =>
    s.fget FR_SPARE.STATE (spareIx l n) == 1 && natBit (s.fget FR_SPARE.GROUP (spareIx l n)) j && !natBit (s.fget FR_SPARE.MISMATCH (spareIx l n)) j

/-- Does a lane, or its spare, carry blocks? -/
def laneGood (s : State) (l : Nat) : Bool := s.fget FR_LANE_STATUS.ROLE (laneIx l) != 2 || (s.lane l).onSpare.isSome

/-- The positions that a port narrows to (R137, R138): a half of its lanes that holds no failed lane. -/
def narrowTo (s : State) (lp : Nat) : Option (List Nat) :=
  let ls := lanesOf s lp
  let halves := match ls with
    | [a, b, c, d] => [[c, d], [a, b]]
    | [a, b] => [[b], [a]]
    | _ => []
  halves.find? fun h => h.all (laneGood s)

def setPaused (lp : Nat) (b : Bool) (s : State) : State := s.setLport lp { s.lport lp with pausedBy := b }

/-- A lane-control command on the other lanes of a port (Table 03.10). -/
def tellLanes (lp l cmd a b : Nat) (s : State) : State :=
  ((lanesOf s lp).filter fun x => x != l).foldl (fun s x => sendLane (servingLane s x) cmd a b s) s

/-- SPARE_REQ: the lane is to move to a spare, for a fault or lent to recalibration; new flits stop. -/
def askSpare (lp l n use : Nat) (s : State) : State :=
  let s := ((s.fset FR_SPARE.STATE (spareIx l n) 2).fset FR_SPARE.LANE (spareIx l n) (l % 64)).fset FR_SPARE.USE (spareIx l n) use
  let s := setPaused lp true (s.setLane l { s.lane l with spareAsked := some n })
  sendLane (64 * (l / 64) + 32 + n) 3 (l % 64) (32 + n) (tellLanes lp l 3 (l % 64) (32 + n) s)

/-- The port narrows by NARROW_REQ, or goes DOWN (R137). -/
def narrowOrDown (lp l : Nat) (s : State) : State :=
  if ppFld s FR_PORT_CFG.NARROW lp = 1 ∧ (narrowTo s lp).isSome then
    tellLanes lp l 5 (l % 64) 0 (setPaused lp true (s.setLane l { s.lane l with narrowAsked := true }))
  else linkDown lp 0 s

/-- The port carries flits on the lanes left. -/
def narrow (lp : Nat) (s : State) : State :=
  match narrowTo s lp with
  | some ls => laneMoved lp (resend lp (setPaused lp false (s.fset FR_SUB_STATUS.WIDTH (lpIx lp) ls.length)))
  | none => linkDown lp 0 s

/-- A spare that serves a lane has failed itself. -/
def spareFails (l : Nat) (s : State) : State :=
  match (s.lane l).onSpare with
  | some n =>
    let s := (freeSpareLane l n s).fset FR_SPARE.STATE (spareIx l n) 3
    s.setLane l { s.lane l with onSpare := none, recal := none }
  | none => s

/-- A lane of an ACTIVE port is declared failed (R135-R138): a swap, or with another in progress or no spare, a narrowing. -/
def failLane (l0 : Nat) (s : State) : State :=
  let l := laneHome s l0
  match laneLp s l with
  | none => s
  | some lp =>
    if !s.lpActive lp ∨ !laneGood s l then s
    else
      let busy := (lanesOf s lp).any fun x => (s.lane x).spareAsked.isSome || (s.lane x).narrowAsked
      let s := (lanesOf s lp).foldl (fun s x => abandonSwap x s) s
      let s := (spareFails l s).fset FR_LANE_STATUS.ROLE (laneIx l) 2
      let s := s.setLport lp { s.lport lp with replayRuns := 0 }
      match if busy then none else findSpare s l with
      | some n => askSpare lp l n 0 s
      | none => narrowOrDown lp l s

/-- A degraded lane is swapped only if a spare is free (R135). -/
def degradeLane (l : Nat) (s : State) : State :=
  match laneLp s l with
  | none => s
  | some lp =>
    let busy := (lanesOf s lp).any fun x => (s.lane x).spareAsked.isSome || (s.lane x).narrowAsked
    match findSpare s l with
    | some n => if s.lpActive lp && laneGood s l && (s.lane l).onSpare.isNone && !busy && decide (l % 64 < 32) then askSpare lp l n 0 (s.fset FR_LANE_STATUS.ROLE (laneIx l) 2) else s
    | none => s

/-- The lane's blocks move to the spare, both directions. -/
def moveToSpare (l n : Nat) (s : State) : State :=
  let sp := 64 * (l / 64) + 32 + n
  let s := s.setLane l { s.lane l with spareAsked := none, onSpare := some n }
  ((s.fset FR_SPARE.STATE (spareIx l n) 2).fset FR_SPARE.LANE (spareIx l n) (l % 64)).fset FR_LANE_STATUS.PORT (laneIx sp) (l % 64 / 4)
    |>.fset FR_LANE_STATUS.POS (laneIx sp) (l % 4)

/-- A SPARE_ACK: a lane lent to recalibration resumes at once, with no replay (R140). -/
def spareAck (l : Nat) (s : State) : State :=
  match (s.lane l).spareAsked, laneLp s l with
  | some n, some lp =>
    let lent := s.fget FR_SPARE.USE (spareIx l n) == 1
    let s := moveToSpare l n s
    if lent then laneMoved lp (drainWait (s.lport lp).txWait.length lp (setPaused lp false s)) else s
  | _, _ => s

/-- The partner's SPARE_REQ: new flits stop, the lane moves, and SPARE_ACK is sent. -/
def spareReq (l n : Nat) (s : State) : State :=
  match laneLp s l with
  | some lp =>
    let own := (s.lane l).spareAsked
    if n < 2 ∧ l % 64 < 32 ∧ s.lpActive lp ∧ (s.lane l).onSpare.isNone ∧ (own = some n ∨ s.fget FR_SPARE.STATE (spareIx l n) = 1) then
      let s := if own.isSome ∧ own ≠ some n then abandonSwap l s else s
      sendLane (64 * (l / 64) + 32 + n) 4 (l % 64) (32 + n) (setPaused lp true ((moveToSpare l n s).fset FR_LANE_STATUS.ROLE (laneIx l) 2))
    else s
  | none => s

/-- The port goes on after a move to a spare: replay from ACK + 1, then new flits (Table 03.10). -/
def swapResume (lp : Nat) (s : State) : State :=
  if (s.lport lp).pausedBy && !((lanesOf s lp).any fun x => (s.lane x).spareAsked.isSome || (s.lane x).narrowAsked) then
    laneMoved lp (resend lp (setPaused lp false s))
  else s

/-- A lane goes back to its own place, and the spare to STANDBY (R140). -/
def restoreLane (l : Nat) (s : State) : State :=
  match (s.lane l).onSpare, laneLp s l with
  | some n, some lp =>
    let s := s.setLane l { s.lane l with onSpare := none, restoreAsked := false }
    laneMoved lp ((freeSpareLane l n s).fset FR_LANE_STATUS.ROLE (laneIx l) 0)
  | _, _ => s

/-! Recalibration (R140). -/

def setRecal (l k : Nat) (s : State) : State :=
  ((s.setLane l { s.lane l with recal := some k }).fset FR_LANE_STATUS.ROLE (laneIx l) 3).fset FR_LANE_STATUS.RECAL_RESULT (laneIx l) 1

/-- RECAL written to a lane. -/
def recalLane (l : Nat) (s : State) : State :=
  if s.fget FR_LANE_STATUS.RECAL_RESULT (laneIx l) = 1 then s
  else if 32 ≤ l % 64 then
    let st := s.fget FR_SPARE.STATE (spareIx l (l % 64 - 32))
    if st = 1 ∨ st = 3 then (setRecal l 2 s).fset FR_SPARE.STATE (spareIx l (l % 64 - 32)) 0 else s
  else if s.fget FR_LANE_STATUS.ROLE (laneIx l) = 2 then setRecal l 1 s
  else
    match laneLp s l, findSpare s l with
    | some lp, some n => if s.lpActive lp then askSpare lp l n 1 (setRecal l 0 s) else setRecal l 1 s
    | some lp, none => if s.lpActive lp then s.fset FR_LANE_STATUS.RECAL_RESULT (laneIx l) 4 else setRecal l 1 s
    | none, _ => s

/-- A lane's own retraining ends. -/
def recalDone (l : Nat) (good : Bool) (s : State) : State :=
  let x := s.lane l
  match x.recal with
  | none => s
  | some k =>
    let s := (s.setLane l { x with recal := none }).fset FR_LANE_STATUS.RECAL_RESULT (laneIx l) (if good then 2 else 3)
    if k = 2 then
      (s.fset FR_LANE_STATUS.ROLE (laneIx l) 1).fset FR_SPARE.STATE (spareIx l (l % 64 - 32)) (if good then 1 else 3)
    else if !good then
      let s := s.fset FR_LANE_STATUS.ROLE (laneIx l) 2
      match x.onSpare with
      | some n => s.fset FR_SPARE.USE (spareIx l n) 0
      | none => s
    else
      match x.onSpare, laneLp s l with
      | some n, some lp => tellLanes lp l 7 (l % 64) (32 + n) (s.setLane l { s.lane l with restoreAsked := true })
      | _, _ => s.fset FR_LANE_STATUS.ROLE (laneIx l) 0

/-! Spare lanes' training (R134). -/

/-- The ports of a spare's group whose partner is not the spare's. -/
def mismatchBits (s : State) (f n node : Nat) : Nat :=
  (List.range 8).foldl (fun a j =>
    let subs := (modeSubs (SMap.get 0 s.link.modes (8 * f + j))).map fun k => 4 * (8 * f + j) + k
    if natBit (s.fget FR_SPARE.GROUP [f, n]) j ∧ subs.any (fun lp => s.fget FR_SUB_STATUS.PARTNER (lpIx lp) != node) then a + 2 ^ j else a) 0

def spareTrained (f n node : Nat) (good : Bool) (s : State) : State :=
  let s := s.fset FR_LANE_STATUS.ROLE [f, 32 + n] 1
  if good then
    let s := s.setLane (64 * f + 32 + n) { s.lane (64 * f + 32 + n) with light := true }
    (s.fset FR_SPARE.MISMATCH [f, n] (mismatchBits s f n node)).fset FR_SPARE.STATE [f, n] 1
  else s.fset FR_SPARE.STATE [f, n] 3

/-! Light. -/

def setPower (l code : Nat) (s : State) : State :=
  let code := min 100 code
  let s := s.fset FR_LANE_STATUS.RXPWR (laneIx l) code
  if 24 < code then (s.setLane l { s.lane l with light := true }).fset FR_LANE_STATUS.LOS (laneIx l) 0
  else if code < 20 then (s.setLane l { s.lane l with light := false }).fset FR_LANE_STATUS.LOS (laneIx l) 1
  else s

/-- Light is lost on a lane for 0.5 us: expected within 1 ms of a PD_NOTICE (R143), else a fault of an ACTIVE port (R135). -/
def loseLight (l code : Nat) (s : State) : State :=
  let s := setPower l code s
  match laneLp s l with
  | some lp =>
    if code < 20 ∧ s.lpActive lp then
      match (s.lport lp).noticeAt with
      | some t0 => if s.now ≤ t0 + 1000000 then linkFalls false lp 6 (s.setLane l { s.lane l with expected := true }) else failLane l s
      | none => failLane l s
    else s
  | none => s

/-- No logical port of a physical port trains or runs. -/
def portIdle (s : State) (p : Nat) : Bool := (List.range 4).all fun k => !([1, 2, 3].contains (s.lpState (4 * p + k)))

/-- Light on every lane of a logical port: training starts, where EN and the transmitters are on and no retry is awaited (R132). A MODE written comes in force first (R117). -/
def lightUp (lp : Nat) (power : List Nat) (s : State) : State :=
  let s := if portIdle s (lp / 4) then takeMode (lp / 4) s else s
  let ls := (lanesOf s lp).map (servingLane s)
  let s := ((List.range ls.length).zip ls).foldl (fun s (e : Nat × Nat) => setPower e.2 (power.getD e.1 0) s) s
  let st := s.lpState lp
  let late := (s.lport lp).retryAt.any fun r => decide (s.now < r)
  if (modeSubs (s.modeOf lp)).contains (lp % 4) && (st == 0 || st == 6) && !late && portLight s lp && ppFld s FR_PORT_CFG.EN lp == 1 && SMap.get false s.link.txOn (lp / 4)
  then startTraining lp s else s

/-! What writes start. -/

/-- EN written 1: the transmitters of the port turn on (R132). Written 0: they are off, and the link on them ends. -/
def enablePort (p : Nat) (en : Bool) (s : State) : State :=
  if en then (if s.pw.transmittersOff || s.pw.converter == .off then s else { s with link.txOn := SMap.set false s.link.txOn p true })
  else
    let s := { s with link.txOn := SMap.set false s.link.txOn p false }
    (List.range 4).foldl (fun s k => if s.lpState (4 * p + k) = 0 then s else linkDown (4 * p + k) 0 s) s

/-- KEY_LIFE written: every encrypted logical port of the physical port starts a new key generation (R148). -/
def keyLifeWritten (p : Nat) (s : State) : State := (List.range 4).foldl (fun s k => sendKeySwitch (4 * p + k) s) s

/-- Tag groups per key generation. -/
def keyLife (s : State) (lp : Nat) : Nat := max 1 (ppFld s FR_PORT_CFG.KEY_LIFE lp)

/-- Training ends (Table 03.9, R145): ACTIVE, or SECURING first where encryption is required and no keys are in force. -/
def trainingDone (lp : Nat) (s : State) : State :=
  let p := s.lport lp
  if needsEnc s lp && !p.keysHeld then
    let s := (s.fset FR_SUB_STATUS.STATE (lpIx lp) 2).fset FR_SUB_STATUS.WIDTH (lpIx lp) (modeWidth (s.modeOf lp))
    { s.setLport lp { p with trainAt := none, secureSince := some s.now } with link.sessions := s.link.sessions ++ [lp] }
  else becomeActive lp s

/-- Is a root digest, as the words of AT.ANCHOR hold it, one of an enabled anchor (R455)? -/
def anchored (s : State) (root : List Word) : Bool :=
  (List.range 8).any fun i => s.fget AT_ANCHOR_CTRL.EN [i] == 1 && decide ((List.range 6).map (fun m => s.word .AT_ANCHOR_DIGEST [i, m]) = root)

/-- The end of an SPDM session (R145, R455): the first key generation is in force, or the port is DOWN and tries again. `root` is the root digest of the partner's chain. -/
def sessionDone (lp : Nat) (good : Bool) (root : Option (List Word)) (s : State) : State :=
  let need := confOf s.com.inForce (lpClr s lp) == 1 || portRole s.com.inForce lp == .tray
  let good := good && (match root with
    | some d => anchored s d
    | none => !need)
  if good then
    let s := pulse 70 { s with link.sessions := s.link.sessions.filter fun x => x != lp }
    let s := (s.fset FR_SUB_STATUS.ENC (lpIx lp) 1).fset FR_SUB_STATUS.KEY_GEN (lpIx lp) 0
    becomeActive lp (s.setLport lp { s.lport lp with keysHeld := true, groups := 0, groupsRx := 0, keyRx := 0, keyNext := none, keyphTx := false, keyphRx := false })
  else trainFails lp s

end Sys2Proof.Machine
end

