-- ==== Sys2Proof/Machine/SessionOps.lean ====
section
/-! DEFINITION. CCP sessions as other parts of the machine meet them (R545-R551, R555): sending, acknowledgement, loss, program slots' records; and the choice of the time source. -/

namespace Sys2Proof.Machine

def State.sess? (s : State) (n : Nat) : Option Session := s.mgmt.sessions.find? fun x => x.num == n

def State.setSess (s : State) (x : Session) : State := { s with mgmt.sessions := s.mgmt.sessions.map fun y => if y.num == x.num then x else y }

def Session.isOpen (x : Session) : Bool := x.opening.isNone

/-- The most body bytes of a datagram (R545). -/
def dgramMax : Nat := 8904

/-- CCP types (Table 15.3). -/
def ctHelloRsp := 0x02
def ctFinish := 0x03
def ctFinishAck := 0x04
def ctClose := 0x05
def ctAck := 0x06
def ctKeepalive := 0x07
def ctProgram := 0x10
def ctProgramAck := 0x11
def ctCompletion := 0x12
def ctEvent := 0x13
def ctTelemSub := 0x14
def ctTelem := 0x15
def ctEvidenceReq := 0x16
def ctEvidence := 0x17
def ctRecoveryStatus := 0x21

/-- Is a type acknowledged (Table 15.3)? -/
def ackedType (type : Nat) : Bool := [ctClose, ctProgram, ctProgramAck, ctCompletion, ctEvent, ctTelemSub, ctEvidenceReq, ctEvidence].contains type

/-- A datagram leaves the port. -/
def emitCcp (x : Session) (seq type msgid frag nfrag : Nat) (body : List Byte) (s : State) : State :=
  (s.emit (.ccp x.peer x.num type seq msgid frag nfrag body)).addTotal (ownTotal totDgramTx 0) 1

/-- One datagram with the next SEQ; an acknowledged one is kept, and due again after 1 ms (R547). -/
def sendDatagram (n type msgid frag nfrag : Nat) (body : List Byte) (s : State) : State :=
  match s.sess? n with
  | some x =>
    let d : TxDgram := { seq := x.txSeq, type := type, msgid := msgid, frag := frag, nfrag := nfrag, body := body, sends := 1, due := s.now + 1000000 }
    emitCcp x x.txSeq type msgid frag nfrag body
      (s.setSess { x with txSeq := x.txSeq + 1, unacked := if ackedType type then x.unacked ++ [d] else x.unacked })
  | none => s

/-- A datagram of an acknowledged type waits while 256 are unacknowledged (R547). -/
def queueDatagram (n type msgid frag nfrag : Nat) (body : List Byte) (s : State) : State :=
  match s.sess? n with
  | some x =>
    if ackedType type ∧ (256 ≤ x.unacked.length ∨ x.txWait ≠ []) then
      s.setSess { x with txWait := x.txWait ++ [{ type := type, msgid := msgid, frag := frag, nfrag := nfrag, body := body }] }
    else sendDatagram n type msgid frag nfrag body s
  | none => s

def queueFrags (n type msgid nfrag : Nat) : Nat → List (List Byte) → State → State
  | _, [], s => s
  | i, b :: r, s => queueFrags n type msgid nfrag (i + 1) r (queueDatagram n type msgid i nfrag b s)

/-- A message leaves on a session, in as many datagrams as it needs (R545). -/
def ccpSend (n type : Nat) (body : List Byte) (s : State) : State :=
  match s.sess? n with
  | some x =>
    let frags := if body = [] then [[]] else piecesOf dgramMax 256 body
    queueFrags n type x.txMsg frags.length 0 frags (s.setSess { x with txMsg := x.txMsg + 1 })
  | none => s

/-- Datagrams that waited go out while there is room: at most k of them. -/
def drainTx (n : Nat) : Nat → State → State
  | 0, s => s
  | k + 1, s =>
    match s.sess? n with
    | some x =>
      match x.txWait with
      | f :: r => if x.unacked.length < 256 then drainTx n k (sendDatagram n f.type f.msgid f.frag f.nfrag f.body (s.setSess { x with txWait := r })) else s
      | [] => s
    | none => s

/-- SESSIONS and SLOTS of LK.MGT.STATUS. -/
def countMgmt (s : State) : State :=
  (s.fset LK_MGT_STATUS.SESSIONS [0] (s.mgmt.sessions.filter Session.isOpen).length).fset LK_MGT_STATUS.SLOTS [0] s.mgmt.slots.length

def freeSlot (k : Nat) (s : State) : State := countMgmt { s with mgmt.slots := SMap.erase s.mgmt.slots k }

def putSlot (k : Nat) (x : Slot) (s : State) : State := { s with mgmt.slots := SMap.put s.mgmt.slots k x }

/-- A slot's record goes to a session as COMPLETION (R555). -/
def sendCompletion (k : Nat) (x : Slot) (n : Nat) (bs : List Byte) (s : State) : State :=
  let msgid := ((s.sess? n).map Session.txMsg).getD 0
  ccpSend n ctCompletion bs (putSlot k { x with sess := some n, phase := .sent msgid bs } s)

/-- Records whose session is lost go to an open session of the same role: the one that opened first (R555). -/
def offerRecords (s : State) : State :=
  s.mgmt.slots.foldl (fun (s : State) (e : Nat × Slot) =>
    match e.2.phase, e.2.sess with
    | .record bs, none =>
      match s.mgmt.sessions.find? fun x => x.isOpen && x.role == e.2.role with
      | some x => sendCompletion e.1 e.2 x.num bs s
      | none => s
    | _, _ => s) s

/-- What a slot keeps when its session is gone: a record not acknowledged waits again. -/
def Slot.orphan (x : Slot) (now : Nat) : Slot :=
  { x with sess := none, lostAt := now, phase := match x.phase with
      | .sent _ bs => .record bs
      | p => p }

/-- A session is over: closed, lost, or never opened. -/
def dropSession (n : Nat) (s : State) : State :=
  let s := { s with mgmt.sessions := s.mgmt.sessions.filter (fun x => x.num != n),
                    mgmt.slots := SMap.mapVals (fun _ (x : Slot) => if x.sess == some n then x.orphan s.now else x) s.mgmt.slots,
                    clr.waiting := s.clr.waiting.filter fun w => w.1 != n }
  countMgmt (offerRecords s)

/-- The sessions of a clearing end when its last slice is scrubbed, and AT.CCPKEY clears (R551). -/
def endClrSessions (c : Nat) (s : State) : State :=
  let s := ((s.mgmt.sessions.filter fun x => x.role == c).map Session.num).foldl (fun s n => dropSession n s) s
  (List.range 6).foldl (fun s i => s.setWord .AT_CCPKEY_DIGEST [c, i] 0) (s.setWord .AT_CCPKEY_CTRL [c] 0)

/-- SRC of PTP.CFG in effect (R543): FREE runs on REFCLK alone; a source selected anew has no lock yet. -/
def ptpSource (s : State) : State :=
  if s.fget LK_PTP_CFG.SRC [0] = 0 then { s.fset LK_PTP_STATUS.STATE [0] 0 with mgmt.goodSyncs := 0, mgmt.lastSync := none, mgmt.slew := 0 }
  else if s.fget LK_PTP_STATUS.STATE [0] = 0 then { s.fset LK_PTP_STATUS.STATE [0] 1 with mgmt.goodSyncs := 0, mgmt.lastSync := none }
  else s

/-! NV records that the firmware adds (R550). -/

def nvBytes (r : NvRec) : List Byte := toBytesLE 4 r.addr ++ List.replicate 4 0 ++ toBytesLE 8 r.mask.toNat ++ toBytesLE 8 r.value.toNat

/-- The NV image with records added is written into the copy that is not in force and committed (R99). While a commit runs, this one is not made. -/
def nvAppend (rs : List NvRec) (s : State) : State :=
  if s.boot.nvCommitAt.isSome then s
  else
    let all := nvImage s ++ rs
    let body := (all.map nvBytes).flatten
    let hdr := toBytesLE 4 0x4E44564E ++ toBytesLE 2 1 ++ List.replicate 2 0 ++ toBytesLE 8 0 ++ toBytesLE 4 all.length ++ toBytesLE 4 (crc32c body) ++ List.replicate 40 0
    nvCommit (seedWrite 4 (nvOffset (1 - s.boot.nvActive)) (hdr ++ body) s)

end Sys2Proof.Machine
end

