-- ==== Sys2Proof/Machine/Package.lean ====
section
/-! DEFINITION. The commands of package entries (Table 01.12), gating (Table 01.13), and the later rows of the boot (Table 02.2), of updates (R107-R109) and of the Lookouts
(R112-R115). -/

namespace Sys2Proof.Machine

/-! Entries to lower states. -/

/-- The package device time of a committed entry's tc, for a target. -/
def committedAt (s : State) (target : Nat) : Option Nat :=
  match s.pw.entry with
  | .committed v tc => if v = target then some tc else none
  | _ => none

/-- A step of a STANDBY entry that is not before tc + n ns. -/
def standbyStep (s : State) (n : Nat) : Bool := (committedAt s stStandby).any fun tc => decide (tc + n ≤ s.now)

/-- Every domain goes DOWN as a STANDBY entry commits (R224): each names its first member. -/
def downDomains (s : State) : State := s.com.inForce.domains.foldl (fun s d => domainDown d.domain 1 (d.members.headD 0x1FF) none s) s

/-- tc: the entry commits; for STANDBY the wake comparators arm (R59). -/
def commitEntry (target : Nat) (s : State) : State :=
  let s := { s with pw.entry := .committed target s.now, pw.refused := [], pw.holds := [] }
  if target = stStandby then downDomains (armComparators false s) else s

/-- A check ends: the entry is refused or aborted, or goes on (R568). -/
def endCheck (s : State) : State :=
  match s.pw.entry with
  | .check1 v _ => if checkRefusers s = [] then { s with pw.entry := .swapping v } else refuseEntry false v (checkRefusers s) s
  | .check2 v _ => if checkRefusers s = [] then commitEntry v s else refuseEntry true v (checkRefusers s) s
  | _ => s

/-- 10 us after PD_QUERY (R568). -/
def execRefuserCheckEnd (t : Nat) (s : State) : Out :=
  let s := s.upTo t
  match s.pw.entry with
  | .check1 _ t0 | .check2 _ t0 => whenever (decide (t0 + 10000 ≤ s.now)) s (settle (endCheck s))
  | _ => ok s

def swapOutAll (s : State) : State := (List.range 128).foldl (fun s k => swapOutCopse k s) s

/-- The swap-out ends and the second check starts; for PORTS-ONLY it also ends at its start (R568). -/
def execContextSwapOutEnd (t : Nat) (s : State) : Out :=
  let s := s.upTo t
  match s.pw.entry with
  | .swapping v =>
    let s := startCheck v (.check2 v s.now) (swapOutAll s)
    ok (settle (if v = stStandby then s else endCheck s))
  | _ => ok s

/-- A copse loses power: its cache and bays go (R56); the amax and residual entries stand (R332). -/
def gateCopse (k : Nat) (s : State) : State :=
  let c := s.copse k
  s.setCopse k { Copse.reset with amax := c.amax, resid := c.resid, useSeq := c.useSeq, arrivals := c.arrivals }

/-- Scrubs without a record wait to run again from their start, counted (R467). -/
def requeueScrubs (p : Nat → Bool) (s : State) : State :=
  let hit := s.clr.scrubs.filter fun (x : Scrub) => p x.unit
  { s with clr.scrubs := s.clr.scrubs.filter (fun (x : Scrub) => !p x.unit),
           clr.owed := s.clr.owed ++ hit.map fun (x : Scrub) => (x.unit, x.clr, x.cause, x.epoch) }.fadd CM_SCRUB_CNT.RESTARTED [] hit.length

/-- The end of an entry: CURRENT, LAST_RESULT and BUSY. -/
def endEntry (v : Nat) (s : State) : State :=
  (({ s with pw.entry := .idle }.fset PW_STATE.CURRENT [] v).fset PW_STATE.LAST_RESULT [] resCompleted).fset PW_STATE.BUSY [] 0

/-- tc + 20 us: every copse and CU domain is power-gated (R50). -/
def execPortsOnlyEntryEnd (t : Nat) (s : State) : Out :=
  let s := s.upTo t
  whenever ((committedAt s stPortsOnly).any fun tc => decide (tc + 20000 ≤ s.now)) s
    (settle (endEntry stPortsOnly (requeueScrubs (fun u => decide (u < 128))
      ((List.range 128).foldl (fun s k => gateCopse k s) { s with pw.cuGate := [], pw.copseGate := [] }))))

/-- tc + 10 us: PD_NOTICE on every ACTIVE logical port; ingress stops accepting cells (R142). -/
def execPdNoticeSend (t : Nat) (s : State) : Out :=
  let s := s.upTo t
  whenever (standbyStep s 10000 && !s.pw.ingressStopped) s
    { allLports.foldl (fun s lp => if s.lpActive lp then sendLinkMsg lp 5 [] s else s) s with pw.ingressStopped := true }

/-- Every cell still buffered on a die or in the mesh is discarded (R250). -/
def dropAllCells (s : State) : State :=
  let f := FW_CLR_CNT_DROP.STANDBY
  let s := s.fwd.egress.foldl (fun (s : State) (e : Nat × EgressQ) => dropEgress f (e.1 / 16) [e.1 % 16] s) s
  let s := s.fwd.flows.foldl (fun (s : State) (e : Nat × MeshFlow) =>
    let sdie := e.1 / 8 / 128 / 8
    let ddie := e.1 / 8 / 128 % 8
    dropCells f ddie true e.2.held (dropQueued f sdie e.2.queue (s.setFlow e.1 { s.flow e.1 with queue := [], held := [], sent := [], since := none, notices := [], skips := [] }))) s
  let s := s.fwd.edges.foldl (fun (s : State) (e : Nat × EdgeDir) =>
    dropCells f (e.1 / 4) true (e.2.flying.map MeshCell.cell) { s with fwd.edges := SMap.set EdgeDir.reset s.fwd.edges e.1 { e.2 with flying := [] } }) s
  s.fwd.refused.foldl (fun (s : State) (r : Nat × Cell) => dropCell f r.1 false 0 r.2 s) { s with fwd.refused := [] }

/-- tc + 50 us: the Glade dies stop forwarding. -/
def execStandbyCellDrop (t : Nat) (s : State) : Out :=
  let s := s.upTo t
  whenever (standbyStep s 50000 && !s.pw.forwardingStopped) s (settle { dropAllCells s with pw.forwardingStopped := true })

/-- tc + 100 us: transmitters and receivers are off, so every logical port leaves ACTIVE: POWERED_DOWN where PD_NOTICE was sent, else DOWN. -/
def execTransmittersOff (t : Nat) (s : State) : Out :=
  let s := s.upTo t
  let s' := allLports.foldl (fun s lp => if s.lpState lp = 0 then s else linkDown lp (if portHolds s lp then 6 else 0) s) s
  whenever (standbyStep s 100000 && !s.pw.transmittersOff) s
    (settle { s' with link.txOn := [], link.lanes := SMap.mapVals (fun _ (x : Lane) => { x with light := false }) s'.link.lanes, pw.transmittersOff := true })

/-- The stacks that PW.STBY retains. -/
def retainBits (s : State) : List Nat := (List.range 4).filter fun u => natBit (s.fget PW_STBY.RETAIN []) u

/-- The content of a stack that loses power is gone, with the staging copies of the clearings that hold a channel there (R58, R181). -/
def losePower (u : Nat) (s : State) : State :=
  let holds (c : Nat) : Bool := s.com.inForce.slices.any fun sl => sl.clr == c && sl.copse / 32 == u
  { s with fab.t0 := SMap.keep (fun a _ => a / 2 ^ 31 / 32 != u) s.fab.t0,
           fab.staging := s.fab.staging.filter (fun y => !holds y.clr),
           ecc.raw := s.ecc.raw.filter fun w => w.die != 26 + u }

/-- tc + 200 us: retained stacks enter self-refresh on the keepalive supply, the others lose power (R58). -/
def execUnderstorySelfRefresh (t : Nat) (s : State) : Out :=
  let s := s.upTo t
  let keep := retainBits s
  let s' := (List.range 4).foldl (fun s u => if keep.contains u then s else losePower u s) s
  whenever (standbyStep s 200000 && s.pw.transmittersOff) s
    { s' with pw.stackSupply := (List.range 4).map fun u => (u, if keep.contains u then StackSupply.selfKeepalive else StackSupply.off) }

/-- Requests still outstanding end with SERVICE_INTERRUPTED. -/
def interruptTxns : List Nat → State → State
  | [], s => s
  | i :: r, s => interruptTxns r (match s.txn? i with
    | some x => endTxn x .serviceInterrupted [] s
    | none => s)

/-- The words that outlast the loss of every domain: those of the PW block, and of the retained map and ledger the epoch and the units. -/
def outlasts (a : Nat) : Bool :=
  decide (a < 0x1000) || (match holdsAt a with
    | .word w _ => w == .CM_EPOCH || w == .CM_UNIT
    | _ => false)

/-- tc + 300 us: every domain is OFF but the Lookout retention memory (Table 01.12, R86): the map in force, the ledger with the scrub records, and the swapped-out contexts. -/
def domainsGo (s : State) : State :=
  let s := settle (interruptTxns (s.fab.txns.map Prod.fst) (endMgmt s))
  let tables (e : Nat × Copse) : Nat × Copse := (e.1, { Copse.reset with amax := e.2.amax, resid := e.2.resid, useSeq := e.2.useSeq, arrivals := e.2.arrivals })
  { State.reset with
    pending := s.pending, now := s.now, pkg := s.pkg, draws := s.draws, out := s.out
    ctl := SMap.keep (fun a _ => outlasts a) s.ctl
    pw := { s.pw with domainsOff := true, cuGate := [], copseGate := [] }
    boot := { BootSt.reset with
      seed0 := s.boot.seed0, seed1 := s.boot.seed1, seedDown := s.boot.seedDown, unsync := s.boot.unsync, slotActive := s.boot.slotActive,
      minSvn := s.boot.minSvn, nvActive := s.boot.nvActive, nvSeq := s.boot.nvSeq, ucalActive := s.boot.ucalActive, ucalSeq := s.boot.ucalSeq,
      sealed := s.boot.sealed, evLog := s.boot.evLog, retained := some (retainBits s) }
    fab := { FabricSt.reset with t0 := s.fab.t0, staging := s.fab.staging, stageSeq := s.fab.stageSeq }
    nx := { NxSt.reset with ctxs := SMap.keep (fun k (x : Ctx) => decide (k / 32 < 128) && x.state == .swapped) s.nx.ctxs, gens := s.nx.gens,
                            copses := (SMap.keep (fun k _ => decide (k < 128)) s.nx.copses).map tables }
    svc := SMap.keep (fun k _ => decide (k / 32 < 128) && (s.ctx? (k / 32) (k % 32)).any fun x => x.state == .swapped) s.svc
    clr := { ClearSt.reset with scrubs := s.clr.scrubs, owed := s.clr.owed, records := s.clr.records, made := s.clr.made, leftAt := s.clr.leftAt }
    com := { CommitSt.reset with node := s.com.node, inForce := s.com.inForce, epGens := s.com.epGens, ledger := s.com.ledger }
    mgmt := { MgmtSt.reset with totals := s.mgmt.totals, recno := s.mgmt.recno }
    ecc := { EccSt.reset with retired := s.ecc.retired, raw := s.ecc.raw.filter fun w => decide (26 ≤ w.die) && decide (w.die < 30) } }

def execDomainsOff (t : Nat) (s : State) : Out :=
  let s := s.upTo t
  whenever (standbyStep s 300000 && s.pw.transmittersOff && !s.pw.domainsOff) s (domainsGo s)

/-- tc + 1 ms: STANDBY; a trip latched since tc is acted on (R51). -/
def execStandbyEntryEnd (t : Nat) (s : State) : Out :=
  let s := s.upTo t
  let s' := endEntry stStandby { s with pw.converter := .off }
  whenever (standbyStep s 1000000 && s.pw.domainsOff) s
    (match s'.pw.wakeLatched with
      | some c => decideWake c { s' with pw.wakeLatched := none }
      | none => s')

/-! Gating. -/

def cuGating (s : State) (n : Nat) : Gating := SMap.get .powerGated s.pw.cuGate n
def copseGating (s : State) (k : Nat) : Gating := SMap.get .powerGated s.pw.copseGate k

def setCuGate (n : Nat) (g : Gating) (s : State) : State := { s with pw.cuGate := SMap.put s.pw.cuGate n g }
def setCopseGate (k : Nat) (g : Gating) (s : State) : State := { s with pw.copseGate := SMap.put s.pw.copseGate k g }

/-- Does a resident context hold a CU? -/
def cuHeld (s : State) (n : Nat) : Bool := (residents s (n / 16)).any fun e => decide (n % 16 < e.2.hdr.cus)

/-- A CU with no strand issuing for 64 cycles; the sender counts them (log 3). -/
def execCuClockGate (t cu idleCycles : Nat) (s : State) : Out :=
  let s := s.upTo t
  whenever (cuGating s cu == .running && decide (64 ≤ idleCycles)) s (setCuGate cu .clockGated s)

/-- A CU with no resident strand for CU_IDLE; CU_IDLE = 0: never (R57). -/
def execCuPowerGate (t cu idleUs : Nat) (s : State) : Out :=
  let s := s.upTo t
  let c := s.copse (cu / 16)
  whenever ((cuGating s cu == .running || cuGating s cu == .clockGated) && !cuHeld s cu && s.fget PW_GATE.CU_IDLE [] != 0 && decide (s.fget PW_GATE.CU_IDLE [] ≤ idleUs)) s
    (setCuGate cu .powerGated (s.setCopse (cu / 16) { c with zeroing := c.zeroing.filter fun z => z.1 != cu % 16 }))

def cusAre (s : State) (k : Nat) (p : Gating → Bool) : Bool := (List.range 16).all fun i => p (cuGating s (16 * k + i))

def execCopseClockGate (t copse idleCycles : Nat) (s : State) : Out :=
  let s := s.upTo t
  whenever (copseGating s copse == .running && decide (64 ≤ idleCycles) && cusAre s copse fun g => g == .clockGated || g == .powerGated) s (setCopseGate copse .clockGated s)

/-- A copse idle for COPSE_IDLE, once its dirty lines are home. -/
def execCopsePowerGate (t copse idleUs : Nat) (s : State) : Out :=
  let s := s.upTo t
  let idle := (copseGating s copse == .running || copseGating s copse == .clockGated) && cusAre s copse (fun g => g == .powerGated) && (residents s copse).isEmpty
  whenever (idle && s.fget PW_GATE.COPSE_IDLE [] != 0 && decide (s.fget PW_GATE.COPSE_IDLE [] ≤ idleUs) && (s.copse copse).cache.all (fun l => !l.dirty)) s (setCopseGate copse .powerGated (gateCopse copse s))

/-- The wake time of Table 01.13 in ns: 2.35 ns from clock-gated, 12 us for a CU and 15 us for a copse from power-gated. -/
def wakeNs (g : Gating) (supply : Nat) : Nat := if g == .waking then supply else 3

/-- A unit that wakes reaches its first cycle. -/
def execUnitWake (t : Nat) (unit : GatedUnit) (ns : Nat) (s : State) : Out :=
  let s := s.upTo t
  match unit with
  | .cu n => whenever ((cuGating s n == .waking || cuGating s n == .clockGated) && decide (wakeNs (cuGating s n) 12000 ≤ ns)) s (setCuGate n .running s)
  | .copse k => whenever ((copseGating s k == .waking || copseGating s k == .clockGated) && decide (wakeNs (copseGating s k) 15000 ≤ ns)) s (setCopseGate k .running s)

/-! The boot, from t0 + 44 ms on (Table 02.2). -/

/-- The retained canopy map is committed as the next epoch with no drain window (R86); its records have not changed, so neither generations nor MAPGEN move. -/
def commitRetained (s : State) : State :=
  let m := s.com.inForce
  let gens := s.com.epGens
  let s := switchMap m false { s with com.inForce := .empty }
  revertMoving ((List.range 128).foldl (fun s c => s.fset CM_CLR_CONF.MAPGEN [c] 0) { s with com.epGens := gens })

/-- t0 + 44 ms. A resumption leaves the live PW words in force: their scope has not reset (R97). -/
def execBootApplyLookout (t : Nat) (s : State) : Out :=
  let s := s.upTo t
  let resumes := s.boot.retained.isSome
  let only (w : CW) (ix : List Nat) : Bool := lookoutBlock w ix && !(resumes && decide (w.place.base < 0x1000))
  let s1 := applyNv only s
  let s1 := { s1 with boot.phase := .applied, boot.seqRuns := true, boot.lookoutUp := [0, 1].filter (fun k => (SMap.get? s.boot.lookoutSlot k).isSome)
                      com.node := s1.fget CM_SELF.NODE []
                      pw.stackSupply := (List.range 4).map fun u => (u, if SMap.get StackSupply.off s.pw.stackSupply u == StackSupply.selfKeepalive then StackSupply.selfDomain else StackSupply.powered) }
  let s1 := ptpSource { s1.fset LK_BOOT.FROM_STANDBY [0] (boolNat resumes) with mgmt.cak := s1.boot.sealed }
  whenever (s.boot.phase == .chosen) s (evidenceChanged (if resumes then commitRetained s1 else s1))

/-- Every die but the Lookouts has its image, or is not started. -/
def diesSettled (s : State) : Bool := (List.range 30).all fun i => s.boot.notStarted.contains (2 + i) || s.fget AT_DIE_INFO.GEN [2 + i] != 0

/-- t0 + 120 ms: NV records and calibration; the Fringe dies light their lanes. -/
def execDieCalibrationApply (t : Nat) (s : State) : Out :=
  let s := s.upTo t
  let s1 := applyCalibration (applyNv dieBlock s)
  let s1 := (List.range 16).foldl (fun s f => if s.boot.notStarted.contains (10 + f) then s else lightFringe f s) s1
  whenever (s.boot.phase == .applied && diesSettled s) s { s1 with boot.phase := .calibrated }

/-- t0 + 150 ms: from a full reset every page is invalid; retained stacks keep their pages (R58, R511). -/
def execUnderstoryChannelsTrained (t : Nat) (s : State) : Out :=
  let s := s.upTo t
  whenever (s.boot.phase == .calibrated) s
    { s with boot.phase := .trained, pw.stackSupply := (List.range 4).map fun u => (u, StackSupply.powered), pw.doubleRate := [],
             fab.t0 := if s.boot.retained.isSome then s.fab.t0 else [] }

/-- Contexts whose images lay on stacks that were not retained end with SERVICE_INTERRUPTED (R87). -/
def endLost (keep : List Nat) (s : State) : State :=
  s.nx.ctxs.foldl (fun (s : State) (e : Nat × Ctx) =>
    if decide (e.1 / 32 < 128) && !keep.contains (e.1 / 32 / 32) then
      endProgram (e.1 / 32) (e.1 % 32) (some { status := .serviceInterrupted, reason := 0, pc := 0xFFFFFFFF, rank := 0xFFFFFFFF, torn := false, time := s.pkg }) s
    else s) s

/-- Contexts that were swapped out wait for their swap-in. -/
def queueSwapped (s : State) : State :=
  { s with nx.ctxs := SMap.mapVals (fun _ (x : Ctx) => if x.state == .swapped then { x with runnable := true } else x) s.nx.ctxs }

/-- The units that the boot scrubs: all of them (R468). -/
def bootScrubs : List (Nat × Nat × Nat × Nat) := (List.range 512).map fun u => (u, 0xFF, 2, 0)

def scheduleCopses (s : State) : State := (List.range 128).foldl (fun s k => scheduleAll 32 k s) s

/-- t0 + 160 ms: the package enters WAKE_TARGET (0b00 and 0b01 act as ACTIVE). -/
def execBootDone (t : Nat) (s : State) : Out :=
  let s := s.upTo t
  let wt := s.fget PW_STATE.WAKE_TARGET []
  let s1 := ({ s with boot.phase := .done, boot.retained := none }.fset PW_STATE.CURRENT [] (if wt < 2 then 3 else wt)).emit (.event .bootDone)
  let s2 := match s.boot.retained with
    | some keep => scheduleCopses (queueSwapped (endLost keep (requeueScrubs (fun _ => true) s1)))
    | none => { s1 with clr.owed := bootScrubs }
  whenever (s.boot.phase == .trained) s (settle (evidenceChanged s2))

/-! Updates (R107-R109). -/

/-- What waited for a die goes on. -/
def goOn (s : State) : State := settle (scheduleCopses (retryHeld s))

def execUpdateLoaded (t : Nat) (s : State) : Out :=
  let s := s.upTo t
  whenever (s.fget LK_UPD.PHASE [0] == 1) s (settle (updateLoaded s))

def execUpdateSwitched (t : Nat) (s : State) : Out :=
  let s := s.upTo t
  match s.boot.update with
  | some u => whenever (s.fget LK_UPD.PHASE [0] == 3) s (goOn (endUpdate u u.slot 1 s))
  | none => ok s

/-- The new image failed: the die runs its old slot again, and GEN rises by 2 (R109, R459). -/
def execUpdateRevert (t : Nat) (s : State) : Out :=
  let s := s.upTo t
  match s.boot.update with
  | some u =>
    let n := dieEntry u.dtype u.index
    whenever (s.fget LK_UPD.PHASE [0] == 3) s (goOn (endUpdate u u.oldSlot 5 (s.fwrap AT_DIE_INFO.GEN [n] 1)))
  | none => ok s

/-! The Lookouts. -/

/-- HANDOVER.GO written to the active Lookout (R112): refused unless the other is in service and STEADY. -/
def handoverGo (s : State) : State :=
  let o := otherLookout s.activeLookout
  if s.boot.handover ≠ .idle then s
  else if lookoutServes s o && dieState s o == dieSteady then startHandover s
  else s.fset LK_HANDOVER.LAST [0] 3

/-- The operations in flight have completed: the other Lookout takes over, and an update of the old one goes on (R112). -/
def execHandoverDone (t : Nat) (s : State) : Out :=
  let s := s.upTo t
  let a := s.activeLookout
  let s1 := restartScrubs (fun _ => true) (clearClaims a (becomeActiveLookout (otherLookout a) 1
    { s with boot.handover := .idle, boot.seqRuns := true, boot.lastBeat := s.now }))
  let s2 := if s.fget LK_UPD.PHASE [0] = 2 then s1.fset LK_UPD.PHASE [0] 1 else s1
  match s.boot.handover with
  | .planned _ => whenever (!(s.coh.seqOps.any fun o => o.positioned)) s (settle (evidenceChanged s2))
  | _ => ok s

/-- Three heartbeats of the active Lookout are missed (R113). -/
def execHeartbeatLoss (t lastBeat : Nat) (s : State) : Out :=
  let s := s.upTo t
  let lost (h : Handover) : Bool := match h with
    | .idle | .planned _ => true
    | _ => false
  whenever (s.boot.phase == .done && lookoutServes s s.activeLookout && lost s.boot.handover && decide (s.boot.lastBeat ≤ lastBeat) && decide (lastBeat + 6000 ≤ s.now)) s
    (settle (loseActive lastBeat s))

def execFailoverResume (t : Nat) (s : State) : Out :=
  let s := s.upTo t
  match s.boot.handover with
  | .lost t0 a => whenever (lookoutServes s (otherLookout a)) s (settle (resumeSequencer { s with boot.handover := .resumed t0 a }))
  | _ => ok s

/-- Sources pending on the lost controller are raised again on the new one (Table 02.8). -/
def takeSources (a o : Nat) (s : State) : State :=
  (List.range 2048).foldl (fun s n => if s.fget EV_SRC_STATE.PENDING [a, n] = 1 then s.fset EV_SRC_STATE.PENDING [o, n] 1 else s) s

def execFailoverEvents (t : Nat) (s : State) : Out :=
  let s := s.upTo t
  match s.boot.handover with
  | .resumed t0 a => ok (takeSources a (otherLookout a) { s with boot.handover := .events t0 a })
  | _ => ok s

def execFailoverAnswers (t : Nat) (s : State) : Out :=
  let s := s.upTo t
  match s.boot.handover with
  | .events _ a =>
    ok (settle (evidenceChanged (restartScrubs (fun _ => true) (becomeActiveLookout (otherLookout a) 2 { s with boot.handover := .idle, boot.lastBeat := s.now }))))
  | _ => ok s

/-- A Lookout that was fenced or reset returns to service with the image of its slot (R115). -/
def execLookoutReloadDone (t k : Nat) (s : State) : Out :=
  let s := s.upTo t
  let slot := s.fget AT_DIE_INFO.SLOT [k]
  let s1 := match s.boot.update with
    | some u => if u.dtype = 0 ∧ u.index = k ∧ s.fget LK_UPD.PHASE [0] = 3 then endUpdate u u.slot 1 s
      else lookoutBack k (startImage k slot (slotHdr s 0 slot goodVerdict).svn (measure s 0 slot goodVerdict) s)
    | none => lookoutBack k (startImage k slot (slotHdr s 0 slot goodVerdict).svn (measure s 0 slot goodVerdict) s)
  whenever (decide (k < 2) && s.boot.phase == .done && !lookoutServes s k && !s.boot.recovery.contains k) s (goOn s1)

end Sys2Proof.Machine
end

