-- ==== Sys2Proof/Machine/Scrub.lean ====
section
/-! DEFINITION. The scrubs of released units (R463-R468). -/

namespace Sys2Proof.Machine

/-- The zero time of a unit in ns (Table 12.11). -/
def zeroTime (u : Nat) : Nat := if u < 128 then 154200 else if u < 384 then 4820 else 1200

def State.scrub? (s : State) (u : Nat) : Option Scrub := s.clr.scrubs.find? fun x => x.unit == u

def State.putScrub (s : State) (x : Scrub) : State := { s with clr.scrubs := s.clr.scrubs.map fun y => if y.unit = x.unit then x else y }

/-! The start (Table 12.12, t0). -/

/-- May a scrub start: the copse holds no context, its copse domain has power, and its die is not in SWITCHING (R463, R467)? -/
def scrubMayStart (s : State) (u cause : Nat) : Bool :=
  (decide (128 ≤ u) || (ctxsOf s u == [] && (s.current == 3 || cause == 2))) && s.fget AT_DIE_INFO.STATE [2 + unitDie u] != dieSwitching

/-- A line of a copse cache that no window of the epoch in force maps is discarded. -/
def dropUnmapped (u : Nat) (s : State) : State :=
  let c := s.copse u
  let mapped (l : CLine) : Bool := s.com.inForce.windows.any fun w => w.valid && w.pnode == l.node && decide (w.pbase ≤ l.line * 64) && decide (l.line * 64 < w.pbase + w.bytes)
  let lost := (c.cache.filter fun l => l.dirty && !mapped l).length
  countScrub u false lost (s.setCopse u { c with cache := c.cache.filter fun l => l.dirty && mapped l })

/-- One entry of the partition is back-invalidated as R222 states. -/
def backInvalidate (e : DirEntry) (s : State) : State :=
  if e.busy.isSome ∨ e.evicting then s
  else if e.poisoned ∨ e.holders = [] ∨ domState s e.domain ≠ 1 then s.delEntry e.node e.line
  else if e.holders.all fun h => (freeSnp s h).isSome then
    let c := ((domainRec s.com.inForce e.domain).map Domain.clr).getD 0xFF
    let x := plainTxn .home .load c s.epoch e.node (unitDie e.copse) s
    sendSnoops x e false e.holders ((s.putEntry { e with evicting := true }).fadd CM_CLR_COH_STAT.BACK_INV [c] 1)
  else s

def backInvalidateAll : List DirEntry → State → State
  | [], s => s
  | e :: r, s => backInvalidateAll r (backInvalidate e s)

def partition (s : State) (u : Nat) : List DirEntry := s.coh.dir.filter fun e => e.copse == u

/-- A port that is scrubbed leaves ACTIVE: every logical port of it goes DOWN (Table 12.12). -/
def downPort (p : Nat) (s : State) : State :=
  (List.range 4).foldl (fun s k => if s.lpState (4 * p + k) = 0 then s else linkDown (4 * p + k) 0 s) s

/-- t0: the unit goes to SCRUBBING and write-back starts. -/
def startScrub (u clr cause epoch : Nat) (s : State) : State :=
  let x : Scrub := { unit := u, phase := .writeback, since := s.now, started := s.pkg, clr := clr, cause := cause, epoch := epoch, wb := 0, lost := 0, retries := 0, failed := false }
  let s := setUnit u 0xFF 3 { s with clr.scrubs := s.clr.scrubs.filter (fun y => y.unit != u) ++ [x] }
  if u < 128 then dropUnmapped u (backInvalidateAll (partition s u) s)
  else if 384 ≤ u then downPort (u - 384) s
  else s

/-- The first scrub owed for a unit starts; a scrub that runs again after R467 starts once more. -/
def execScrubStart (t unit : Nat) (s : State) : Out :=
  let s := s.upTo t
  match s.clr.owed.find? fun o => o.1 == unit with
  | some (_, clr, cause, epoch) =>
    whenever (decide (unit < 512) && scrubMayStart s unit cause && (s.scrub? unit).isNone) s
      (settle (startScrub unit clr cause epoch { s with clr.owed := s.clr.owed.eraseIdx ((s.clr.owed.findIdx? fun o => o.1 == unit).getD 0) }))
  | none => ok s

/-! Write-back, zeroing and read-back. -/

/-- The die of the unit runs (R467, Glade update). -/
def scrubRuns (s : State) (u : Nat) : Bool := s.fget AT_DIE_INFO.STATE [2 + unitDie u] != dieSwitching

/-- tw: no dirty line is left, and no directory entry. -/
def execScrubWritebackDone (t unit : Nat) (s : State) : Out :=
  let s := s.upTo t
  match s.scrub? unit with
  | some x =>
    if x.phase = .writeback ∧ scrubRuns s unit then
      let s := if unit < 128 then backInvalidateAll (partition s unit) s else s
      if unit < 128 ∧ ((s.copse unit).cache.any (fun l => l.dirty) ∨ partition s unit ≠ []) then ok (settle s)
      else ok (settle (s.putScrub { x with phase := .zeroing, since := s.now }))
    else ok s
  | none => ok s

/-- The SC and FW words of a port's logical ports. -/
def portWord (p : Nat) (w : CW) (ix : List Nat) : Bool :=
  match w with
  | .FW_LPORT_CFG | .SC_SCHED | .SC_PSTATE | .SC_CLASS_CFG | .SC_CLASS_STATE | .SC_GATE_CTRL | .SC_GATE_BASE | .SC_GATE_CYCLE | .SC_GATE_TS | .SC_GATE_ENTRY | .SC_POLMAP =>
    (ix.drop 1).head?.any fun lp => lp / 4 == p
  | _ => false

/-- Every array of the unit holds zero (Table 12.11). -/
def zeroUnit (u : Nat) (s : State) : State :=
  let s := { s with ecc.raw := s.ecc.raw.filter fun w => wordUnit w.die w.array w.inst w.word != some u }
  if u < 128 then
    resetWords (copseWord u) ({ s with fab.t0 := SMap.keep (fun a _ => a / 2 ^ 31 != u) s.fab.t0 }.setCopse u .reset)
  else if 384 ≤ u then
    let p := u - 384
    resetWords (portWord p)
      { s with link.ports := SMap.keep (fun lp _ => lp / 4 != p) s.link.ports, sched.ports := SMap.keep (fun lp _ => lp / 4 != p) s.sched.ports,
               sched.oldShapers := SMap.keep (fun k _ => k / 17 / 4 != p) s.sched.oldShapers }
  else s

/-- After the zero time every array is read back. -/
def execScrubZeroDone (t unit : Nat) (s : State) : Out :=
  let s := s.upTo t
  match s.scrub? unit with
  | some x =>
    whenever (x.phase == .zeroing && scrubRuns s unit && decide (x.since + zeroTime unit ≤ s.now)) s
      ((zeroUnit unit s).putScrub { x with phase := .readback, since := s.now })
  | none => ok s

/-- The end of a read-back pass that found `bad` words: the first time they are zeroed and read once more, 2 cycles each; the second time the scrub fails (R465). -/
def execScrubReadbackDone (t unit bad : Nat) (s : State) : Out :=
  let s := s.upTo t
  match s.scrub? unit with
  | some x =>
    match x.phase with
    | .readback =>
      whenever (scrubRuns s unit && decide (x.since + zeroTime unit ≤ s.now)) s
        (s.putScrub (if bad = 0 then { x with phase := .record, since := s.now } else { x with phase := .retrying bad, since := s.now, retries := x.retries + bad }))
    | .retrying n =>
      let s1 := s.putScrub { x with phase := .record, since := s.now, failed := bad != 0 }
      whenever (scrubRuns s unit && decide (17 * x.since + 20 * n ≤ 17 * s.now)) s (if bad = 0 then s1 else setUnit unit 0xFF 4 s1)
    | _ => ok s
  | none => ok s

/-! The record. -/

/-- The newest 4,096 records, and beyond these the newest of every unit (R466). -/
def keepRecords (rs : List ScrubRec) : List ScrubRec :=
  rs.take 4096 ++ (((rs.drop 4096).foldl (fun (a : List ScrubRec × List Nat) r => if a.2.contains r.unit then a else (r :: a.1, r.unit :: a.2)) ([], (rs.take 4096).map ScrubRec.unit)).1).reverse

/-- The units on a Glade die. -/
def dieUnits (g : Nat) : List Nat :=
  (List.range 16).map (fun k => 16 * g + k) ++ (List.range 32).map (fun k => 128 + 32 * g + k) ++ (List.range 16).map fun k => 384 + 16 * g + k

/-- Does a clearing still hold a unit, or is one that it gave up not yet scrubbed? -/
def unitPends (s : State) (c u : Nat) : Bool :=
  unitClr s.com.inForce u == some c || s.fget CM_UNIT.CLR [u] == c || (s.clr.owed.any fun o => o.1 == u && o.2.1 == c) || s.clr.scrubs.any fun x => x.unit == u && x.clr == c

/-- The words of a clearing on a die (R463). -/
def clrWord (g c : Nat) (w : CW) (ix : List Nat) : Bool :=
  match w with
  | .FW_CLR_BUF | .FW_CLR_ALPHA | .FW_CLR_CREDIT | .FW_CLR_CNT_BUF | .FW_CLR_CNT_DROP | .FW_TRAIL_CFG | .FW_TRAIL_IDX | .SC_POL_CFG | .SC_POL_CNT => ix.take 2 == [g, c]
  | _ => false

/-- A clearing's last unit on a die is scrubbed: FW.CLR, SC.CLR and FW.TRAIL are reset; with its last unit of all the lease clears (R65). -/
def clearLast (c g : Nat) (s : State) : State :=
  if c < 128 then
    let s := if (dieUnits g).any (unitPends s c) then s
      else
        let key := 128 * g + c
        let s := resetWords (clrWord g c) s
        { s with fwd.trails := SMap.erase s.fwd.trails (129 * g + c), sched.oldPols := SMap.keep (fun k _ => k / 16 != key) s.sched.oldPols,
                 sched.polTokens := SMap.keep (fun k _ => k / 16 != key) s.sched.polTokens, sched.polUs := SMap.keep (fun k _ => k / 16 != key) s.sched.polUs }
    let s := if (List.range 128).any (unitPends s c) then s else endClrSessions c s
    if (List.range 512).any (unitPends s c) then s else s.fset PW_LEASE.LEVEL [c] 0
  else s

/-- Both Lookouts hold the record: the unit is free or quarantined, and a port trains with CLR 0xFF (Table 12.12). -/
def recordScrub (x : Scrub) (s : State) : State :=
  let u := x.unit
  let r : ScrubRec := { recno := s.clr.made + 1, unit := u, ok := !x.failed, clr := x.clr, cause := x.cause, epoch := x.epoch, tStart := x.started, tEnd := s.pkg,
                        wb := x.wb, lost := x.lost, retries := x.retries }
  let s := setUnit u 0xFF (if x.failed then 4 else 0)
    { s with clr.records := keepRecords (r :: s.clr.records), clr.made := s.clr.made + 1, clr.scrubs := s.clr.scrubs.filter fun y => y.unit != u }
  let s := s.fset CM_UNIT.LAST_REC [u] (r.recno % 2 ^ 32)
  let s := pulse 67 (if x.failed then s.fadd CM_SCRUB_CNT.FAILED [] 1 else s.fadd CM_SCRUB_CNT.DONE [] 1)
  let s := clearLast x.clr (unitDie u) s
  if 384 ≤ u then trainAgain (u - 384) (s.fset FR_PORT_CFG.CLR [(u - 384) / 8, (u - 384) % 8] 0xFF) else s

/-- A Lookout must serve to hold the record (R111). -/
def execScrubRecordHeld (t unit : Nat) (s : State) : Out :=
  let s := s.upTo t
  match s.scrub? unit with
  | some x => whenever (x.phase == .record && s.boot.lookoutUp != []) s (settle (recordScrub x s))
  | none => ok s

/-- GO written to CM.SCRUB, its U already written (R465): a quarantined unit is scrubbed again. -/
def scrubGo (s : State) : State :=
  let u := s.fget CM_SCRUB.U [] 
  if s.fget CM_UNIT.STATE [u] = 4 ∧ (s.scrub? u).isNone then
    let last := s.clr.records.find? fun r => r.unit == u
    startScrub u ((last.map ScrubRec.clr).getD 0xFF) 3 ((last.map ScrubRec.epoch).getD 0) (s.fset CM_SCRUB.RESULT [] 1)
  else s.fset CM_SCRUB.RESULT [] 2

/-- The 64 bytes of a scrub record (Table 12.13). -/
def ScrubRec.bytes (r : ScrubRec) : List Byte :=
  toBytesLE 4 r.recno ++ [if r.unit < 128 then 1 else if r.unit < 384 then 2 else 3, if r.ok then 1 else 2] ++ toBytesLE 1 r.clr ++ toBytesLE 1 r.cause ++ toBytesLE 2 r.unit
    ++ toBytesLE 2 r.epoch ++ List.replicate 4 0 ++ toBytesLE 8 r.tStart ++ toBytesLE 8 r.tEnd ++ toBytesLE 4 r.wb ++ toBytesLE 4 r.lost ++ toBytesLE 4 r.retries ++ List.replicate 20 0

end Sys2Proof.Machine
end

