-- ==== Sys2Proof/Machine/ControlOps.lean ====
section
/-! DEFINITION. Reads and writes of control space (R18-R22, R374, R375, R561-R566): what each word shows, field by field under its access code, and what a write starts. -/

namespace Sys2Proof.Machine

/-! What the words show whose content another part of the state holds. -/

def CtxState.code : CtxState → Nat
  | .loading => 1 | .running => 2 | .blocked => 3 | .saving => 4 | .swapped => 5 | .restoring => 6 | .ending => 7

/-- A word with fields set. -/
def fields (fs : List (Fld × Nat)) : Word := fs.foldl (fun (w : Word) (f : Fld × Nat) => setBits w f.1.hi f.1.lo f.2) 0

/-- A bit mask of the numbers of a list. -/
def maskOf (ns : List Nat) : Nat := (ns.map fun n => 2 ^ n).sum

def ctxWord (s : State) (copse n : Nat) : Word :=
  match s.ctx? copse n with
  | some x => fields [(CX_CTX.STATE, x.state.code), (CX_CTX.RUNNABLE, boolNat (x.state == .swapped && x.runnable)), (CX_CTX.PRIO, x.hdr.prio), (CX_CTX.SLOT, x.slot),
      (CX_CTX.GEN, ctxGen s copse n)]
  | none => fields [(CX_CTX.GEN, ctxGen s copse n)]

def waysWord (s : State) (copse r : Nat) : Word :=
  match (residents s copse).find? fun e => e.2.slot == r with
  | some e => fields [(GL_WAYS.VALID, 1), (GL_WAYS.PRIV, maskOf e.2.ways), (GL_WAYS.PIN, maskOf e.2.pins)]
  | none => 0

/-- The history value at a place of an amax entry's ring of 16 (log 13). -/
def histAt (e : AmaxEnt) (i : Nat) : Nat :=
  let age := (e.rolls + 15 - i) % 16
  if age < e.hist.length then (e.hist.getD (e.hist.length - 1 - age) 0).toNat else 0

def amaxWord (s : State) (copse k : Nat) : Word :=
  match SMap.get? (s.copse copse).amax k with
  | some e => fields [(GL_AMAX.VALID, 1), (GL_AMAX.STREAM, e.stream), (GL_AMAX.HCOUNT, e.hist.length),
      (GL_AMAX.HEAD, if e.hist = [] then 0 else (e.rolls + 15) % 16), (GL_AMAX.CUR, e.cur.toNat)]
  | none => 0

def histWord (s : State) (copse k h : Nat) : Word :=
  match SMap.get? (s.copse copse).amax k with
  | some e => fields [(GL_AMAX_HIST.EVEN, histAt e (2 * h)), (GL_AMAX_HIST.ODD, histAt e (2 * h + 1))]
  | none => 0

def residWord (s : State) (copse r : Nat) : Word :=
  match SMap.get? (s.copse copse).resid r with
  | some e => fields [(GL_RESID_CFG.VALID, 1), (GL_RESID_CFG.STREAM, e.stream), (GL_RESID_CFG.N, e.n)]
  | none => 0

def stepWord (s : State) (copse r : Nat) : Word :=
  match SMap.get? (s.copse copse).resid r with
  | some e => fields [(GL_RESID_STEP.STEP, if e.valid then e.step else 0)]
  | none => 0

def streamWord (s : State) (copse cu : Nat) : Word :=
  match s.stream copse cu with
  | some x =>
    let b := x.opened
    fields [(XP_STREAM.STATE, if b.phase ≤ 1 then 1 else b.phase), (XP_STREAM.QUEUED, boolNat x.queued.isSome), (XP_STREAM.FMT, b.fmt),
      (XP_STREAM.LEFT, b.left + (x.queued.map XBlock.left).getD 0), (XP_STREAM.STRAND, x.owner % 1024), (XP_STREAM.STATUS, if b.phase = 3 then b.status else 0)]
  | none => 0

/-- CM.CLR.HANDLE: the current handle of an endpoint record; 0: none. -/
def handleWord (s : State) (c i : Nat) : Word :=
  match endpointOf s.com.inForce c i with
  | some e => BitVec.ofNat 64 (epHandle s e)
  | none => 0

def ledgerWord (s : State) (c : Nat) : Word :=
  let es := s.com.ledger.filter fun e => e.clr == c
  setBits (setBits (s.word .CM_LEDGER [c]) 63 52 es.length) 51 40 (es.filter fun e => e.moving.isSome).length

def stackWord (s : State) (k t : Nat) : Word :=
  let st := s.evStack k t
  match st with
  | top :: _ => fields [(EV_CU_STACK.DEPTH, st.length), (EV_CU_STACK.RUNNING, top.1), (EV_CU_STACK.TOP_SRC, top.2)]
  | [] => 0

/-- EC.DIE.SPARES: the fewest free spare rows among the instances of each array, saturating at 15; an array that the die does not have reads 0. -/
def sparesWord (s : State) (n : Nat) : Word :=
  (List.range 16).foldl (fun (w : Word) (a : Nat) =>
    let insts := arrayInsts n a
    if insts = 0 then w
    else
      let most := ((List.range insts).map fun i => SMap.get 0 s.ecc.retired (retiredKey n a i)).foldl max 0
      setBits w (4 * a + 3) (4 * a) (min 15 (spareRows a - most))) 0

/-- Units of a clearing's shares that hold cells. -/
def clrUnits (s : State) (g c : Nat) : Nat := (s.fwUse g c).shared + ((s.fwUse g c).resv.map Prod.snd).sum

def shareWord (s : State) (g k : Nat) : Word :=
  let w := s.word .FW_SHARE [g, k]
  let n := clrUnits s g (bitsOf w 63 56)
  setBits w 53 34 (Config.shareUnits g k n % (min n 32768 + 1))

def occWord (s : State) (g c : Nat) : Word := fields [(FW_OCC.FREE, freeUnits s g c), (FW_OCC.OVF_USED, ovfUsed s g c)]

/-- Does a clearing hold a slice on a die (R268)? -/
def sliceOn (s : State) (g c : Nat) : Bool := s.com.inForce.slices.any fun sl => sl.clr == c && sl.copse / 16 == g

def fwClrWord : CW → Bool
  | .FW_CLR_BUF | .FW_CLR_ALPHA | .FW_CLR_CREDIT | .FW_CLR_CNT_BUF | .FW_CLR_CNT_DROP => true
  | _ => false

def copseWords : CW → Bool
  | .GL_WAYS | .GL_AMAX | .GL_AMAX_HIST | .GL_RESID_CFG | .GL_RESID_STEP | .GL_CNT_ARITH | .GL_CNT_ISSUE | .XP_STREAM | .XP_CNT => true
  | _ => false

/-- Words that name nothing that exists now, which read 0: those of a copse assigned to no clearing (R436), of a clearing with no slice on the die (R268), of a sub-port
that the MODE in force does not have. -/
def readsZero (s : State) (w : CW) (ix : List Nat) : Bool :=
  match ix with
  | g :: c :: r =>
    (fwClrWord w && !sliceOn s g c) || (copseWords w && (copseClr s.com.inForce (16 * g + c)).isNone)
      || (w == .FR_SUB_STATUS && !(modeSubs (s.modeOf (4 * (8 * g + c)))).contains (r.headD 0))
  | _ => false

/-- A word as a read finds it, every field readable. -/
def liveWord (s : State) (w : CW) (ix : List Nat) : Word :=
  if readsZero s w ix then 0
  else match w, ix with
    | .CX_CTX, [g, c, n] => ctxWord s (16 * g + c) n
    | .GL_WAYS, [g, c, r] => waysWord s (16 * g + c) r
    | .GL_AMAX, [g, c, k] => amaxWord s (16 * g + c) k
    | .GL_AMAX_HIST, [g, c, k, h] => histWord s (16 * g + c) k h
    | .GL_RESID_CFG, [g, c, r] => residWord s (16 * g + c) r
    | .GL_RESID_STEP, [g, c, r] => stepWord s (16 * g + c) r
    | .XP_STREAM, [g, c, u] => streamWord s (16 * g + c) u
    | .CM_CLR_HANDLE, [c, i] => handleWord s c i
    | .CM_LEDGER, [c] => ledgerWord s c
    | .EV_CU_STACK, [k, t] => stackWord s k t
    | .EC_DIE_SPARES, [n] => sparesWord s n
    | .FW_SHARE, [g, k] => shareWord s g k
    | .FW_OCC, [g, c] => occWord s g c
    | .SC_CLASS_STATE, [_, lp, k] => setBits (s.word .SC_CLASS_STATE ix) 21 21 (boolNat ((s.schedPort lp).active.contains k))
    | _, _ => s.word w ix

/-! Reads. -/

/-- The fields that a program reads (R20): WO fields read 0, and so do RP fields for a program that is not privileged; reserved bits read 0 (R21). -/
def visible (p : Prog) (v : Word) : List FieldSpec → Word
  | [] => 0
  | f :: fs => if f.acc = .wo ∨ (f.acc = .rp ∧ !p.privileged) then visible p v fs else setBits (visible p v fs) f.hi f.lo (bitsOf v f.hi f.lo)

/-- The word with its RC fields cleared. -/
def cleared (v : Word) : List FieldSpec → Word
  | [] => v
  | f :: fs => if f.acc = .rc then setBits (cleared v fs) f.hi f.lo 0 else cleared v fs

/-- A read of TAKE (R531): a claim by a privileged program on management CU[t] of the active Lookout, which waits until a source is deliverable; VALID = 0 for any other. -/
def readTake (p : Prog) (k t : Nat) (strand : Option (StrandRef × Nat)) (s : State) : Option (Status × Word) × State :=
  if p.mcu = some t ∧ k = s.activeLookout then
    match bestSource s k t with
    | some n => (some (.ok, takeWord s k n), claimSource k t n s)
    | none => (none, { s with ecc.claims := s.ecc.claims ++ [{ cu := 4 * k + t, strand := strand }] })
  else (some (.ok, 0), s)

/-- A read of a word: its answer, or none while a claim waits. -/
def readWordOf (p : Prog) (w : CW) (ix : List Nat) (strand : Option (StrandRef × Nat)) (s : State) : Option (Status × Word) × State :=
  if !opened s p w.readers ix then (some (.denied, 0), s)
  else match w, ix with
    | .EV_CU_TAKE, [k, t] => readTake p k t strand s
    | _, _ => (some (.ok, visible p (liveWord s w ix) w.fields), s.setWord w ix (cleared (s.word w ix) w.fields))

/-- A word of the Seedbank write window (R563). Regions whose bytes the spec does not give read as free values. -/
def readWindow (word : Nat) (s : State) : Word × State :=
  match regionOf (8 * word) with
  | some r => if regionWritable r then (BitVec.ofNat 64 (ofBytesLE (readBytes (seedStore s) (8 * word) 8)), s) else (BitVec.ofNat 64 (Config.freeNat s.draws), s.draw)
  | none => (BitVec.ofNat 64 (Config.freeNat s.draws), s.draw)

/-- The first word addresses and sizes of the two windows (Table 15.8). -/
def seedWindow (a : Nat) : Option Nat := if 0x80000000 ≤ a ∧ a < 0x90000000 then some (a - 0x80000000) else none
def shadowWindow (a : Nat) : Option Nat := if 0x90000000 ≤ a ∧ a < 0x92000000 then some (a - 0x90000000) else none

/-- A read of control space at a word address (R18, R561, R562). -/
def ctlRead (p : Prog) (a : Nat) (strand : Option (StrandRef × Nat)) (s : State) : Option (Status × Word) × State :=
  match seedWindow a, shadowWindow a with
  | some w, _ => if p.privileged then (let (v, s) := readWindow w s; (some (.ok, v), s)) else (some (.denied, 0), s)
  | none, some w => (some (if p.privileged then (.ok, BitVec.ofNat 64 (ofBytesLE (readBytes s.com.shadow (8 * w) 8))) else (.denied, 0)), s)
  | none, none =>
    match holdsAt a with
    | .word w ix => readWordOf p w ix strand s
    | .unnamed => (some (if p.privileged then .ok else .denied, 0), s)
    | .nothing => (some (.denied, 0), s)

/-! Writes. -/

/-- Does a write reach a field: does its mask select at least one of the field's bits (R20)? -/
def reaches (mask : Word) (f : FieldSpec) : Bool := bitsOf mask f.hi f.lo != 0

/-- The fields that start something and read 0 again. -/
def selfClears (w : CW) (hi : Nat) : Bool :=
  match w with
  | .EC_DIAG_CTRL | .CM_SCRUB | .CM_COMMIT | .LK_UPD | .LK_HANDOVER | .SB_NV | .SB_UCAL | .CM_SPARE => hi == 63
  | .CM_DOM => hi == 61
  | .LK_MKA_CFG => hi == 62
  | .SB_IMG => decide (61 ≤ hi)
  | .FR_PORT_CFG => hi == 57
  | .FR_LANE_STATUS => hi == 47
  | .SC_GATE_CTRL => hi == 62 || hi == 61
  | .PW_STATE => hi == 61
  | .EV_CU_TAKE | .GL_AMAX | .GL_RESID_CFG => true
  | _ => false

/-- CAK and CKN are kept for INSTALL, though no read returns them. -/
def keepsWo : CW → Bool
  | .LK_MKA_CAK | .LK_MKA_CKN => true
  | _ => false

/-- One field after a write (Table 00.6, R566): bits outside the mask keep their values. A field that only starts something, or that its own rule writes, is left alone. -/
def writeField (w : CW) (old v mask : Word) (f : FieldSpec) (new : Word) : Word :=
  let o := bitsOf old f.hi f.lo
  let m := bitsOf mask f.hi f.lo
  let x := bitsOf v f.hi f.lo
  match f.acc with
  | .w1c => setBits new f.hi f.lo (o &&& (2 ^ (f.hi + 1 - f.lo) - 1 - (x &&& m)))
  | .rw | .rp =>
    if selfClears w f.hi ∨ !reaches mask f then new
    else
      let n := (o - (o &&& m)) + (x &&& m)
      setBits new f.hi f.lo (match f.clamp with
        | some (lo, hi) => clampNat lo hi n
        | none => n)
  | .wo => if keepsWo w then setBits new f.hi f.lo ((o - (o &&& m)) + (x &&& m)) else new
  | .ro | .rc => new

def writeFields (w : CW) (old v mask : Word) : List FieldSpec → Word → Word
  | [], new => new
  | f :: fs, new => writeFields w old v mask fs (writeField w old v mask f new)

/-- A field that a write reaches, with its value as written: what it starts depends on it. -/
def hit (v mask : Word) (f : Fld) : Option Nat := if bitsOf mask f.hi f.lo = 0 then none else some (bitsOf (v &&& mask) f.hi f.lo)

/-- Does a write reach one of some fields? -/
def hitAny (mask : Word) (fs : List Fld) : Bool := fs.any fun f => bitsOf mask f.hi f.lo != 0

/-- The clearing of a physical port whose reserves a MODE write may break (R241). -/
def modeOk (s : State) (f j : Nat) : Bool :=
  let c := s.fget FR_PORT_CFG.CLR [f, j]
  decide (127 < c) || reservesOk s s.com.inForce (f / 2) c

/-- Writes that complete with DENIED by a rule of their own, from the state before and the state with the fields stored. -/
def refusesWrite (w : CW) (ix : List Nat) (v mask : Word) (s t : State) : Bool :=
  match w, ix with
  | .PW_LEASE, _ => match s.pw.entry with | .committed _ _ => true | _ => false
  | .LK_UPD, k :: _ | .LK_HANDOVER, k :: _ => k != s.activeLookout
  | .FR_PORT_CFG, [f, j] => hitAny mask [FR_PORT_CFG.MODE] && !modeOk t f j
  | .FW_CLR_BUF, [g, c] | .FW_CLR_CREDIT, [g, c] => !sliceOn s g c || !reservesOk t s.com.inForce g c
  | .FW_CLR_ALPHA, [g, c] => !sliceOn s g c
  | .SC_GATE_CTRL, _ => s.fget SC_GATE_CTRL.PENDING ix == 1 && s.fget SC_GATE_CTRL.COUNT ix != t.fget SC_GATE_CTRL.COUNT ix
  | .SC_GATE_BASE, [_, lp] | .SC_GATE_CYCLE, [_, lp] => s.fget SC_GATE_CTRL.PENDING (scIx lp) == 1
  | .SC_GATE_ENTRY, [_, lp, b, _] => b == gateList s lp || s.fget SC_GATE_CTRL.PENDING (scIx lp) == 1
  | .GL_AMAX, [g, c, k] => hit v mask GL_AMAX.VALID == some 0 && (freeAmax (16 * g + c) k s).1 == .denied
  | .GL_RESID_CFG, [g, c, k] => hit v mask GL_RESID_CFG.VALID == some 0 && (freeResid (16 * g + c) k s).1 == .denied
  | .SB_IMG, [_, d] => (writeSet d (hit v mask SB_IMG.SET_A == some 1) (hit v mask SB_IMG.SET_B == some 1) s).1 == .denied
  | _, _ => false

/-- The codeword that EC.DIAG names, and its data bytes. -/
def runDiag (s : State) : State :=
  let die := s.fget EC_DIAG_CTRL.DIE []
  let array := s.fget EC_DIAG_CTRL.ARRAY []
  let inst := s.fget EC_DIAG_CTRL.INST []
  let word := s.fget EC_DIAG_ADDR.WORD []
  let data := ((List.range 4).map fun i => toBytesLE 8 (s.word .EC_DIAG_DATA [i]).toNat).flatten
  match s.fget EC_DIAG_CTRL.OP [] with
  | 0 => writeRaw die array inst word data (s.fget EC_DIAG_CTRL.CHECK []) s
  | 2 => clearRaw die array inst word data s
  | _ => readRaw die array inst word s

/-- INSTALL (R540): CAK and CKN take effect and are sealed beside the NV image. -/
def installKeys (s : State) : State :=
  let ks := ((List.range 4).map fun i => s.word .LK_MKA_CAK [0, i]) ++ (List.range 4).map fun i => s.word .LK_MKA_CKN [0, i]
  { s with mgmt.cak := some ks, boot.sealed := some ks }

/-- A trail ring's CFG written (R266): PROD and CONS are 0 when EN goes from 0 to 1 or SIZE changes. -/
def ringWritten (idx : CW) (ix : List Nat) (old new : Word) (s : State) : State :=
  if (bitsOf old 63 63 = 0 ∧ bitsOf new 63 63 = 1) ∨ bitsOf old 61 56 ≠ bitsOf new 61 56 then s.setWord idx ix 0 else s

/-- A class that moves to STRICT leaves the active list (R273); settings of its shaper wait for the refill (R275). -/
def classWritten (lp k : Nat) (mask : Word) (was : OldShaper) (s : State) : State :=
  let s := if hitAny mask [SC_CLASS_CFG.SH_EN, SC_CLASS_CFG.RATE, SC_CLASS_CFG.BURST] then shaperWritten lp k was s else s
  leaveStrict lp k s

/-- What a write starts, its fields stored: from the word before, the value written and its mask, and the state before it. -/
def afterWrite (w : CW) (ix : List Nat) (v mask : Word) (before s : State) : State :=
  let go (f : Fld) (k : State → State) (s : State) : State := if hit v mask f = some 1 then k s else s
  match w, ix with
  | .PW_STATE, _ => match hit v mask PW_STATE.TARGET with
    | some n => targetWrite n s
    | none => s
  | .SB_IMG, [_, d] =>
    let s := (writeSet d (hit v mask SB_IMG.SET_A == some 1) (hit v mask SB_IMG.SET_B == some 1) s).2
    go SB_IMG.RAISE_SVN (raiseSvn d) s
  | .SB_NV, _ => go SB_NV.COMMIT nvCommit s
  | .SB_UCAL, _ => go SB_UCAL.COMMIT ucalCommit s
  | .LK_UPD, _ => go LK_UPD.GO updateGo s
  | .LK_HANDOVER, _ => go LK_HANDOVER.GO handoverGo s
  | .LK_MKA_CFG, _ => go LK_MKA_CFG.INSTALL installKeys s
  | .LK_PTP_CFG, _ => if hitAny mask [LK_PTP_CFG.SRC] then ptpSource s else s
  | .FR_PORT_CFG, [f, j] =>
    let p := 8 * f + j
    let s := match hit v mask FR_PORT_CFG.EN with
      | some n => enablePort p (n == 1) s
      | none => s
    let s := if hitAny mask [FR_PORT_CFG.KEY_LIFE] then keyLifeWritten p s else s
    go FR_PORT_CFG.RETRAIN (trainAgain p) s
  | .FR_LANE_STATUS, [f, l] => go FR_LANE_STATUS.RECAL (recalLane (64 * f + l)) s
  | .CM_DOM, [d] => go CM_DOM.RESET (domainReset d) s
  | .CM_DOM_UNPOISON, [d] =>
    let x := (hit v mask CM_DOM_UNPOISON.LINE).getD 0
    if hitAny mask [CM_DOM_UNPOISON.LINE] then unpoison d (x / 2 ^ 42) (x % 2 ^ 42) s else s
  | .CM_COMMIT, _ => go CM_COMMIT.GO commitGo s
  | .CM_SCRUB, _ => go CM_SCRUB.GO scrubGo s
  | .CM_SPARE, [k] => spareCmd k ((hit v mask CM_SPARE.CMD).getD 0) s
  | .EC_DIAG_CTRL, _ => go EC_DIAG_CTRL.GO runDiag s
  | .EV_SRC_STATE, [_, n] =>
    let s := if hit v mask EV_SRC_STATE.MASK = some 0 then unmask n s else s
    setMask n (s.fget EV_SRC_STATE.MASK ix) (s.fget EV_SRC_STATE.STUCK ix) s
  | .EV_CU_EOE, [k, t] => go EV_CU_EOE.GO (endOfEvent k t) s
  | .EV_SOFT, _ => match hit v mask EV_SOFT.DOOR with
    | some d => pulse (1792 + d) s
    | none => s
  | .GL_AMAX, [g, c, k] => if hit v mask GL_AMAX.VALID = some 0 then (freeAmax (16 * g + c) k s).2 else s
  | .GL_RESID_CFG, [g, c, k] => if hit v mask GL_RESID_CFG.VALID = some 0 then (freeResid (16 * g + c) k s).2 else s
  | .SC_SCHED, [_, lp] => if hitAny mask [SC_SCHED.PSH_EN, SC_SCHED.PRATE, SC_SCHED.PBURST] then shaperWritten lp 16 (shaperNow before lp 16) s else s
  | .SC_CLASS_CFG, [_, lp, k] => classWritten lp k mask (shaperNow before lp k) s
  | .SC_POL_CFG, [g, c, i] =>
    if hitAny mask [SC_POL_CFG.MODE, SC_POL_CFG.RATE, SC_POL_CFG.BURST] then polWritten ((128 * g + c) * 16 + i) (polNow before ((128 * g + c) * 16 + i)) s else s
  | .SC_GATE_CTRL, [_, lp] => refreshGates lp (go SC_GATE_CTRL.COMMIT (gateCommit lp) (go SC_GATE_CTRL.CANCEL (gateCancel lp) s))
  | .FW_TRAIL_CFG, _ => ringWritten .FW_TRAIL_IDX ix (before.word w ix) (s.word w ix) s
  | .FW_TRAILFM_CFG, _ => ringWritten .FW_TRAILFM_IDX ix (before.word w ix) (s.word w ix) s
  | _, _ => s

/-- A write to a word under a mask (R20, R374): DENIED without effect, or its fields stored and what it starts started. -/
def writeWord (p : Prog) (w : CW) (ix : List Nat) (v mask : Word) (s : State) : Status × State :=
  let rpHit := w.fields.any fun f => f.acc == .rp && reaches mask f
  if !opened s p w.writers ix || (!p.privileged && rpHit) || w.fields.all (fun f => f.acc == .ro) then (.denied, s)
  else
    let old := s.word w ix
    let t := s.setWord w ix (writeFields w old v mask w.fields old)
    if refusesWrite w ix v mask s t then (.denied, s) else (.ok, afterWrite w ix v mask s t)

/-- A write of a word of the shadow map (R489, Table 13.7): DENIED while a commit is not idle. -/
def writeShadow (word : Nat) (v mask : Word) (s : State) : Status × State :=
  if s.com.phase ≠ .idle then (.denied, s)
  else
    let old := BitVec.ofNat 64 (ofBytesLE (readBytes s.com.shadow (8 * word) 8))
    (.ok, { s with com.shadow := writeBytes s.com.shadow (8 * word) (toBytesLE 8 ((old &&& ~~~mask) ||| (v &&& mask)).toNat) })

/-- A write of the Seedbank window under a mask. -/
def writeSeed (word : Nat) (v mask : Word) (s : State) : Status × State :=
  let old := BitVec.ofNat 64 (ofBytesLE (readBytes (seedStore s) (8 * word) 8))
  windowWrite word ((old &&& ~~~mask) ||| (v &&& mask)) s

/-- A write of control space at a word address: of a whole word, or of the bits of a mask. -/
def ctlWrite (p : Prog) (a : Nat) (v mask : Word) (s : State) : Status × State :=
  match seedWindow a, shadowWindow a with
  | some w, _ => if p.privileged then writeSeed w v mask s else (.denied, s)
  | none, some w => if p.privileged then writeShadow w v mask s else (.denied, s)
  | none, none =>
    match holdsAt a with
    | .word w ix => writeWord p w ix v mask s
    | _ => (.denied, s)

def allOnes : Word := BitVec.allOnes 64

/-- The bits of a field. -/
def fldMask (f : Fld) : Word := setBits (0 : Word) f.hi f.lo (2 ^ (f.hi + 1 - f.lo) - 1)

/-- A control-space write by a program, as one command: the bits of a mask of a word. -/
def cmdWrite (p : Prog) (w : CW) (ix : List Nat) (v mask : Word) (s : State) : State :=
  if w.inRange ix then (let (st, s) := writeWord p w ix v mask s; s.done st) else s.done .denied

/-- A write of one field. -/
def cmdField (p : Prog) (f : Fld) (ix : List Nat) (v : Nat) (s : State) : State := cmdWrite p f.w ix (setBits (0 : Word) f.hi f.lo v) (fldMask f) s

/-- A write of several fields of a word. -/
def cmdFields (p : Prog) (w : CW) (ix : List Nat) (fs : List (Fld × Nat)) (s : State) : State :=
  cmdWrite p w ix (fields fs) (fs.foldl (fun (m : Word) (f : Fld × Nat) => m ||| fldMask f.1) 0) s

end Sys2Proof.Machine
end

