-- ==== Sys2Proof/Machine/Control.lean ====
section
/-! DEFINITION. The control instructions (R374, R375), and the commands that are writes of one control-space field. -/

namespace Sys2Proof.Machine

/-! CSRD, CSWR and CSMW. -/

/-- The program of a strand, as control space sees it. -/
def progOf (s : State) (sr : StrandRef) : Prog :=
  match s.ctx? sr.copse sr.ctx with
  | some x => { privileged := x.hdr.priv, clr := x.clr, mcu := if 128 ≤ sr.copse then some (sr.copse - 128) else none }
  | none => { privileged := false, clr := 0xFF, mcu := none }

/-- Does a CTRL descriptor named with IMM[28] = 1 keep the access out (R375)? -/
def outsideCtrl (s : State) (sr : StrandRef) (i : Ins) (a : Nat) (rd wr : Bool) : Bool :=
  natBit i.imm 28 && (match ctxDesc s sr (i.fld 27 25) with
    | some d => d.kind == 5 && (decide (a < d.base) || decide (d.base + d.len ≤ a) || (rd && !natBit d.rights 0) || (wr && !natBit d.rights 1))
    | none => false)

/-- A control access of a strand at s[SRC1]: an address of more than 32 bits holds no word. -/
def ctlIns (op : Nat) (rd wr : Bool) (sr : StrandRef) (w : Word) (body : Ins → Strand → Nat → State → State) (s : State) : State :=
  issue 9 op sr w (fun i st s =>
    let a := (st.s i.src1).toNat
    if outsideCtrl s sr i a rd wr then fault sr rDesc (countIssue sr s)
    else if 2 ^ 32 ≤ a then failWith sr .denied st.pc (countIssue sr s)
    else body i st a s) s

def ctlStore (sr : StrandRef) (st : Strand) (a : Nat) (v mask : Word) (s : State) : State :=
  match ctlWrite (progOf s sr) a v mask s with
  | (.ok, s) => retire sr s
  | (e, s) => failWith sr e st.pc (countIssue sr s)

def execCsrd (sr : StrandRef) (w : Word) (s : State) : Out :=
  ok (settle (ctlIns 0x00 true false sr w (fun i st a s =>
    match ctlRead (progOf s sr) a (some (sr, i.dst)) s with
    | (some (.ok, v), s) => retire sr (s.setS sr i.dst v)
    | (some (e, _), s) => failWith sr e st.pc (countIssue sr s)
    | (none, s) => waitFor sr .take s) s))

def execCswr (sr : StrandRef) (w : Word) (s : State) : Out :=
  ok (settle (ctlIns 0x01 false true sr w (fun i st a s => ctlStore sr st a (st.s i.src2) allOnes s) s))

def execCsmw (sr : StrandRef) (w : Word) (s : State) : Out :=
  ok (settle (ctlIns 0x02 false true sr w (fun i st a s => ctlStore sr st a (st.s i.src2) (st.s i.dst) s) s))

/-! Writes that start something. Each command is a write of the bits named, by a program. -/

/-- Chapter 02. A write of GO with DTYPE, INDEX and SLOT to Lookout k's UPD (R105, R110). -/
def execUpdateGo (p : Prog) (t k dtype index slot : Nat) (s : State) : Out :=
  ok (settle (cmdFields p .LK_UPD [k] [(LK_UPD.GO, 1), (LK_UPD.DTYPE, dtype), (LK_UPD.INDEX, index), (LK_UPD.SLOT, slot)] (s.upTo t)))

def execHandoverGo (p : Prog) (t k : Nat) (s : State) : Out := ok (settle (cmdField p LK_HANDOVER.GO [k] 1 (s.upTo t)))

/-- Chapter 03. RECAL of lane `lane` of Fringe[f]. -/
def execLaneRecal (p : Prog) (t f lane : Nat) (s : State) : Out := ok (settle (cmdField p FR_LANE_STATUS.RECAL [f, lane] 1 (s.upTo t)))

/-- A physical port is numbered 8f + j. -/
def execRetrain (p : Prog) (t port : Nat) (s : State) : Out := ok (settle (cmdField p FR_PORT_CFG.RETRAIN [port / 8, port % 8] 1 (s.upTo t)))

def execPortEnable (p : Prog) (t port : Nat) (s : State) : Out := ok (settle (cmdField p FR_PORT_CFG.EN [port / 8, port % 8] 1 (s.upTo t)))

def execKeyLifeWrite (p : Prog) (t port value : Nat) (s : State) : Out := ok (settle (cmdField p FR_PORT_CFG.KEY_LIFE [port / 8, port % 8] value (s.upTo t)))

/-- Chapter 05. -/
def execDomainReset (p : Prog) (t d : Nat) (s : State) : Out := ok (settle (cmdField p CM_DOM.RESET [d] 1 (s.upTo t)))

/-- LINE: physical NodeID and Offset[47:6] (R229). -/
def execUnpoison (p : Prog) (t d value : Nat) (s : State) : Out := ok (settle (cmdField p CM_DOM_UNPOISON.LINE [d] value (s.upTo t)))

/-- Chapter 06. CFG of the trail ring of clearing c on Glade[g], or of the fabric manager's with c = 128. -/
def execTrailCfgWrite (p : Prog) (t g c : Nat) (value : Word) (s : State) : Out :=
  ok (settle (if c = 128 then cmdWrite p .FW_TRAILFM_CFG [g] value allOnes (s.upTo t) else cmdWrite p .FW_TRAIL_CFG [g, c] value allOnes (s.upTo t)))

/-- Chapter 07. CFG of class k of a logical port, or SCHED with k = 16. -/
def execShaperWrite (p : Prog) (t lp k : Nat) (value : Word) (s : State) : Out :=
  ok (settle (if k = 16 then cmdWrite p .SC_SCHED (scIx lp) value allOnes (s.upTo t) else cmdWrite p .SC_CLASS_CFG (clsIx lp k) value allOnes (s.upTo t)))

def execPolicerWrite (p : Prog) (t g c n : Nat) (value : Word) (s : State) : Out := ok (settle (cmdWrite p .SC_POL_CFG [g, c, n] value allOnes (s.upTo t)))

def execGateCommit (p : Prog) (t lp : Nat) (s : State) : Out := ok (settle (cmdField p SC_GATE_CTRL.COMMIT (scIx lp) 1 (s.upTo t)))

def execGateCancel (p : Prog) (t lp : Nat) (s : State) : Out := ok (settle (cmdField p SC_GATE_CTRL.CANCEL (scIx lp) 1 (s.upTo t)))

/-- Chapter 12. GO with a unit. -/
def execScrubGo (p : Prog) (t unit : Nat) (s : State) : Out := ok (settle (cmdFields p .CM_SCRUB [] [(CM_SCRUB.GO, 1), (CM_SCRUB.U, unit)] (s.upTo t)))

/-- Chapter 13. GO with QUIESCE = 0, and with QUIESCE = 1. -/
def execCommitGo (p : Prog) (t : Nat) (s : State) : Out := ok (settle (cmdFields p .CM_COMMIT [] [(CM_COMMIT.GO, 1), (CM_COMMIT.QUIESCE, 0)] (s.upTo t)))

def execQuiesceGo (p : Prog) (t : Nat) (s : State) : Out := ok (settle (cmdFields p .CM_COMMIT [] [(CM_COMMIT.GO, 1), (CM_COMMIT.QUIESCE, 1)] (s.upTo t)))

/-- CMD TEST with the spare port, the partner port and the role. -/
def execSpareTest (p : Prog) (t k sport pport role : Nat) (s : State) : Out :=
  ok (settle (cmdFields p .CM_SPARE [k] [(CM_SPARE.CMD, 1), (CM_SPARE.SPORT, sport), (CM_SPARE.PPORT, pport), (CM_SPARE.ROLE, role)] (s.upTo t)))

def execSpareLoad (p : Prog) (t k : Nat) (s : State) : Out := ok (settle (cmdField p CM_SPARE.CMD [k] 2 (s.upTo t)))

def execSpareAdmit (p : Prog) (t k : Nat) (s : State) : Out := ok (settle (cmdField p CM_SPARE.CMD [k] 3 (s.upTo t)))

end Sys2Proof.Machine
end

