-- ==== Sys2Proof/Machine/Events.lean ====
section
/-! DEFINITION. The commands of chapter 14: patrol, scope resets, the ECC diagnostics, and the event controllers. -/

namespace Sys2Proof.Machine

/-- Is the page of a T0 word valid: does it hold a byte, or a word in error? Words of other arrays always are. -/
def pageValid (s : State) (die array inst word : Nat) : Bool :=
  array != 11 || anyIn s.fab.t0 (chKey (32 * (die - 26) + inst) (word * 32 / 65536 * 65536)) 65536
    || s.ecc.raw.any fun w => w.die == die && w.array == 11 && w.inst == inst && w.word * 32 / 65536 == word * 32 / 65536

/-- Does patrol pause at a word: its stack is frozen for an update, or its scope resets (R519)? -/
def patrolPauses (s : State) (die array inst : Nat) : Bool :=
  (decide (26 ≤ die) && decide (die < 30) && understoryFrozen s (die - 26))
    || enclosed s .line die array inst

/-- A patrol slot reads one codeword (R518, R519): s1, s2 and s3 are the syndromes of its reads. Marked words are skipped (R521). -/
def execPatrolSlot (t die array inst word s1 s2 s3 : Nat) (s : State) : Out :=
  let s := s.upTo t
  let marked := (rawAt s die array inst word).any RawWord.marked
  whenever (wordExists die array inst word && s.fget EC_PATROL.EN [] == 1 && !marked && pageValid s die array inst word && !patrolPauses s die array inst) s
    (settle (machineRead die array inst word (s1 % 65536) (s2 % 65536) (s3 % 65536) false s))

/-- A scope reset that took time ends (Table 14.3). -/
def execScopeResetDone (t scope die inst : Nat) (s : State) : Out :=
  let s := s.upTo t
  match s.ecc.resets.find? fun r => r.scope == scope && r.die == die && r.inst == inst with
  | some r => ok (settle (retryHeld (endReset r s)))
  | none => ok s

/-- An ECC_DIAG operation as one command (R520): EC.DIAG.ADDR and DATA are written, then CTRL with GO. -/
def diagCmd (p : Prog) (op die array inst word check : Nat) (data : Option (List Word)) (s : State) : State :=
  if p.privileged then
    let s := s.fset EC_DIAG_ADDR.WORD [] word
    let s := match data with
      | some ws => (List.range 4).foldl (fun s i => s.setWord .EC_DIAG_DATA [i] (ws.getD i 0)) s
      | none => s
    settle (cmdFields p .EC_DIAG_CTRL [] ([(EC_DIAG_CTRL.GO, 1), (EC_DIAG_CTRL.OP, op), (EC_DIAG_CTRL.DIE, die), (EC_DIAG_CTRL.ARRAY, array), (EC_DIAG_CTRL.INST, inst)]
      ++ (if data.isSome then [(EC_DIAG_CTRL.CHECK, check)] else [])) s)
  else s.done .denied

def execWriteRaw (p : Prog) (t die array inst word check : Nat) (data : List Word) (s : State) : Out := ok (diagCmd p 0 die array inst word check (some data) (s.upTo t))

def execReadRaw (p : Prog) (t die array inst word : Nat) (s : State) : Out := ok (diagCmd p 1 die array inst word 0 none (s.upTo t))

def execClear (p : Prog) (t die array inst word check : Nat) (data : List Word) (s : State) : Out := ok (diagCmd p 2 die array inst word check (some data) (s.upTo t))

/-! Event controllers. -/

/-- The input of a source changes level at its origin, whose edge counter stands at `origin` (R528). -/
def execSourceEdge (t n : Nat) (level : Bool) (origin : Nat) (s : State) : Out := let s := s.upTo t; whenever (sourceExists n) s (settle (sourceEdge n level origin s))

/-- TIME us have passed since the first occurrence of an edge source not yet claimed, at controller k (R529). -/
def execCoalesceTimeout (t k n : Nat) (s : State) : Out :=
  let s := s.upTo t
  whenever (decide (k < 2) && coalesced s k n) s (settle (s.fset EV_SRC_STATE.PENDING [k, n] 1))

/-- A read of EV[k].CU[u].TAKE by a program outside the model's strands (R531). -/
def execTake (p : Prog) (t k u : Nat) (s : State) : Out :=
  let s := s.upTo t
  if CW.inRange .EV_CU_TAKE [k, u] then
    match readWordOf p .EV_CU_TAKE [k, u] none s with
    | (some (st, v), s) => ok (settle (s.done st v))
    | (none, s) => ok (settle s)
  else ok (s.done .denied)

def execEoe (p : Prog) (t k u : Nat) (s : State) : Out := ok (settle (cmdField p EV_CU_EOE.GO [k, u] 1 (s.upTo t)))

def execSourceUnmask (p : Prog) (t k n : Nat) (s : State) : Out := ok (settle (cmdField p EV_SRC_STATE.MASK [k, n] 0 (s.upTo t)))

def execDoorbell (p : Prog) (t k d : Nat) (s : State) : Out := ok (settle (cmdField p EV_SOFT.DOOR [k] d (s.upTo t)))

end Sys2Proof.Machine
end

