-- ==== Sys2Proof/Machine/Fabric.lean ====
section
/-! DEFINITION. The commands of the fabric (04): requests that arrive on logical ports, responses, and the times that end them. -/

namespace Sys2Proof.Machine

def execLoad (t : Nat) (q : PortReq) (s : State) : Out := arriveReq t vcReq 1 q (askReq []) s

def execStore (t : Nat) (q : PortReq) (line : Line) (s : State) : Out := arriveReq t vcReq 5 q (askReq (slotsOf (lineBytes line))) s

/-- A REQ store of DLEN 1 to 3 (R163); other lengths are no NARROW_STORE and have no effect. -/
def execNarrowStore (t : Nat) (q : PortReq) (data : List (BitVec 128)) (s : State) : Out :=
  if 1 ≤ data.length ∧ data.length ≤ 3 then arriveReq t vcReq (1 + data.length) q (askReq data) s else ok (s.upTo t)

def execAtomic (t : Nat) (q : PortReq) (aop word : Nat) (operand compare : BitVec 64) (s : State) : Out :=
  arriveReq t vcReq 3 q (askAtomic aop word [bytesSlot (toBytesLE 8 operand.toNat ++ toBytesLE 8 compare.toNat)]) s

/-- LEN + 1 segments. -/
def execBlkRd (t : Nat) (q : PortReq) (len : Nat) (s : State) : Out := arriveReq t vcReq 2 q (.mem (.blkRd (len % 256 + 1)) false 0) s

def execBlkWr (t : Nat) (q : PortReq) (data : List (BitVec 128)) (s : State) : Out := arriveReq t vcBulk (1 + data.length) q (askBulk data) s

def execPageRd (t : Nat) (q : PortReq) (s : State) : Out := arriveReq t vcReq 2 q (.mem .pageRd false 0) s

/-- COUNT + 1 rows of ROWL + 1 lines. -/
def execGather (t : Nat) (q : PortReq) (rowl count : Nat) (data : List (BitVec 128)) (s : State) : Out :=
  arriveReq t vcReq (2 + data.length) q (askGather rowl (count % 64) data) s

/-- PAGES + 1 pages. -/
def execHint (t : Nat) (q : PortReq) (prio pages : Nat) (s : State) : Out := arriveReq t vcReq 2 (hintReq prio q) (.mem .hint false (pages % 2 ^ 24 + 1)) s

/-- A UNIT_WR received from a partner completes with DENIED (R164). -/
def execUnitWr (t : Nat) (q : PortReq) (data : List (BitVec 128)) (s : State) : Out := arriveReq t vcBulk (2 + data.length) q (.refused .denied) s

/-- A response on the RSP VC (R168-R172). -/
def execResponse (t lp clr tag status seg : Nat) (last : Bool) (data : List (BitVec 128)) (s : State) : Out :=
  ok (settle (arrive lp clr vcRsp (1 + data.length) (.response tag status seg last (slotsBytes data)) (s.upTo t)))

/-- The limits whose passing is a command of its own do not count here. -/
def limitApplies (x : Txn) : Bool :=
  match x.phase with
  | .home | .tagWait _ | .inflight | .sent => !x.ended
  | _ => false

/-- A request not ended within its tier limit (R172). -/
def execTxnTimeout (t id : Nat) (s : State) : Out :=
  let s := s.upTo t
  match s.txn? id with
  | some x => if limitApplies x ∧ x.issued + tierLimit s x.tier ≤ s.now then ok (settle (limitTxn x s)) else ok s
  | none => ok s

/-- The tag of a timed-out request may be used again (R172). -/
def execTagRelease (t lp tag : Nat) (s : State) : Out :=
  let s := s.upTo t
  ok (settle { s with fab.deadTags := s.fab.deadTags.filter fun d => !(d.1 == lp && d.2.1 == tag && decide (d.2.2 ≤ s.now)) })

/-- A request timed out by its port gives up its place at the home and its count (R172). -/
def execHomeHoldEnd (t id : Nat) (s : State) : Out :=
  let s := s.upTo t
  match s.txn? id with
  | some x => if x.phase = .timedOut ∧ x.issued + tierLimit s x.tier ≤ s.now then ok (settle (s.delTxn id)) else ok s
  | none => ok s

/-- The oldest T1 request of its clearing that waits for T1_INFLIGHT goes on (R178). -/
def execT1Admit (t id : Nat) (s : State) : Out :=
  let s := s.upTo t
  match s.txn? id with
  | some x =>
    if x.phase = .inflight ∧ !(s.fab.txns.any fun e => decide (e.1 < id) && e.2.phase == .inflight && e.2.clr == x.clr) then ok (settle (routeTxn x s)) else ok s
  | none => ok s

/-- The kind of request that a tag of a logical port names. -/
def tagIs (s : State) (lp tag : Nat) (p : Txn → Bool) : Bool := s.fab.txns.any fun e => e.2.lport == some lp && e.2.tag == tag && p e.2

/-- The response of a tray to a page read (R180). -/
def execStagingFill (t lp clr tag status seg : Nat) (last : Bool) (data : List (BitVec 128)) (s : State) : Out :=
  let page (x : Txn) : Bool := match x.src with
    | .page _ _ _ => true
    | _ => false
  if tagIs s lp tag page then ok (settle (arrive lp clr vcRsp (1 + data.length) (.response tag status seg last (slotsBytes data)) (s.upTo t))) else ok (s.upTo t)

/-- A unit with all its segments goes to its tray (R182). -/
def execUnitAssemblySend (t clr node unit : Nat) (s : State) : Out := ok (settle (sendUnit clr node unit (s.upTo t)))

/-- The response of a tray to a unit write (R182). -/
def execUnitWrResponse (t lp clr tag status : Nat) (s : State) : Out :=
  let unit (x : Txn) : Bool := match x.kind with
    | .unitWr _ => true
    | _ => false
  if tagIs s lp tag unit then ok (settle (arrive lp clr vcRsp 1 (.response tag status 0 true []) (s.upTo t))) else ok (s.upTo t)

/-- A unit not complete within the T2 limit is dropped (R183). -/
def execUnitTimeout (t clr node unit : Nat) (s : State) : Out :=
  let s := s.upTo t
  match s.fab.units.find? fun a => sameUnit clr node unit a && a.sent.isNone with
  | some a =>
    if a.segs.length < 256 ∧ a.firstAt + tierLimit s .t2 ≤ s.now then
      ok (settle (endWaiters .timeout a.waiters { s with fab.units := s.fab.units.filter fun b => !(sameUnit clr node unit b && b.sent.isNone) }))
    else ok s
  | none => ok s

/-- The unit buckets at a 10 ms boundary (R185); a bucket not listed is full. -/
def execT2BucketRefill (t : Nat) (s : State) : Out :=
  let s := s.upTo t
  let more (c n : Nat) : Nat := let q := quotaOf s.com.inForce c; min q.t2Burst (n + q.t2Rate)
  whenever (s.now / 10000000 != s.fab.refillAt) s
    { s with fab.buckets := s.fab.buckets.map fun e => (e.1, more e.1 e.2), fab.refillAt := s.now / 10000000 }

end Sys2Proof.Machine
end

