-- ==== Sys2Proof/Machine/Vector.lean ====
section
/-! DEFINITION. The vector class: lane arithmetic, conversions, amax rolls and the sorter (R318, R339, R340, R358-R362, Table 09.11). -/

namespace Sys2Proof.Machine

/-- The 64 FP32 lanes of a vector register (R303). -/
def readV (s : State) (sr : StrandRef) (r : Nat) : List F32 := bytesF32 64 (s.readBay sr (256 * r) 256)

def writeV (sr : StrandRef) (r : Nat) (xs : List F32) (s : State) : State := s.writeBay sr (256 * r) (f32Bytes xs)

/-- A lane operation on v[SRC1] and v[SRC2]. -/
def laneOp (op : Nat) (sr : StrandRef) (w : Word) (f : F32 → F32 → F32) (s : State) : State :=
  issue 1 op sr w (fun i _ s => retire sr (writeV sr i.dst (List.zipWith f (readV s sr i.src1) (readV s sr i.src2)) s)) s

def execVadd (sr : StrandRef) (w : Word) (s : State) : Out := ok (laneOp 0x00 sr w f32add s)

def execVsub (sr : StrandRef) (w : Word) (s : State) : Out := ok (laneOp 0x01 sr w f32sub s)

def execVmul (sr : StrandRef) (w : Word) (s : State) : Out := ok (laneOp 0x02 sr w f32mul s)

/-- One rounding of v[DST] + v[SRC1] × v[SRC2]. -/
def execVfma (sr : StrandRef) (w : Word) (s : State) : Out :=
  ok (issue 1 0x03 sr w (fun i _ s =>
    retire sr (writeV sr i.dst (List.zipWith (fun (p : F32 × F32) (c : F32) => f32fma p.1 p.2 c) ((readV s sr i.src1).zip (readV s sr i.src2)) (readV s sr i.dst)) s)) s)

def execVmin (sr : StrandRef) (w : Word) (s : State) : Out := ok (laneOp 0x04 sr w f32min s)

def execVmax (sr : StrandRef) (w : Word) (s : State) : Out := ok (laneOp 0x05 sr w f32max s)

def execVabs (sr : StrandRef) (w : Word) (s : State) : Out :=
  ok (issue 1 0x06 sr w (fun i _ s => retire sr (writeV sr i.dst ((readV s sr i.src1).map f32abs) s)) s)

/-- A condition of Table 09.9 on FP32 values: no ordered condition holds for a NaN, and NE holds for one. -/
def fcc (cc : Nat) (a b : F32) : Bool :=
  match cc with
  | 0 => f32eq a b
  | 1 => !f32eq a b
  | 2 => f32lt a b
  | _ => f32lt b a || f32eq a b

def execVcmp (sr : StrandRef) (w : Word) (s : State) : Out :=
  ok (issue 1 0x07 sr w (fun i _ s =>
    retire sr (writeV sr i.dst (List.zipWith (fun (a b : F32) => if fcc (i.fld 2 0) a b then 0xFFFFFFFF else 0) (readV s sr i.src1) (readV s sr i.src2)) s)) s)

/-- A lane is replaced where the mask's lane is not 0; other lanes are kept. -/
def execVsel (sr : StrandRef) (w : Word) (s : State) : Out :=
  ok (issue 1 0x08 sr w (fun i _ s =>
    retire sr (writeV sr i.dst (List.zipWith (fun (p : F32 × F32) (old : F32) => if p.2 ≠ 0 then p.1 else old) ((readV s sr i.src1).zip (readV s sr i.src2)) (readV s sr i.dst)) s)) s)

def execVaddi (sr : StrandRef) (w : Word) (s : State) : Out := ok (laneOp 0x09 sr w (fun a b => a + b) s)

def execVsubi (sr : StrandRef) (w : Word) (s : State) : Out := ok (laneOp 0x0A sr w (fun a b => a - b) s)

def execVand (sr : StrandRef) (w : Word) (s : State) : Out := ok (laneOp 0x0B sr w (fun a b => a &&& b) s)

def execVor (sr : StrandRef) (w : Word) (s : State) : Out := ok (laneOp 0x0C sr w (fun a b => a ||| b) s)

def execVxor (sr : StrandRef) (w : Word) (s : State) : Out := ok (laneOp 0x0D sr w (fun a b => a ^^^ b) s)

def execVbcast (sr : StrandRef) (w : Word) (s : State) : Out :=
  ok (issue 1 0x10 sr w (fun i st s => retire sr (writeV sr i.dst (List.replicate 64 (BitVec.ofNat 32 (st.s i.src1).toNat)) s)) s)

def execVext (sr : StrandRef) (w : Word) (s : State) : Out :=
  ok (issue 1 0x11 sr w (fun i _ s => retire sr (s.setS sr i.dst (BitVec.ofNat 64 ((readV s sr i.src1).getD (i.fld 5 0) 0).toNat))) s)

/-- The lanes summed in ascending order, each add rounded. -/
def vsum : List F32 → F32
  | [] => 0
  | a :: l => l.foldl f32add a

def execVsum (sr : StrandRef) (w : Word) (s : State) : Out :=
  ok (issue 1 0x12 sr w (fun i _ s => retire sr (s.setS sr i.dst (BitVec.ofNat 64 (vsum (readV s sr i.src1)).toNat))) s)

/-! Conversions (R359-R362). -/

/-- The place in a bay of the first scale byte that a conversion names (Table 09.12). -/
def scaleAt (i : Ins) : Nat := 256 * i.fld 24 20 + 64 * i.fld 19 18 + i.fld 17 12

/-- The element bytes and records of blocks, as CVTN writes them. -/
def cvtBlocks (f : NFmt) (bs : List OutBlock) : List Byte := (bs.map (OutBlock.elems f)).flatten ++ recordsOf f bs

def execCvtn (sr : StrandRef) (w : Word) (s : State) : Out :=
  ok (issue 1 0x20 sr w (fun i _ s => match fmtOf (i.fld 28 25) with
    | some f => (match convertFor sr f i.src2 (piecesOf f.block 2 (readV s sr i.src1)) s with
      | .ok (o, s) =>
        let s := s.writeBay sr (256 * i.dst + i.fld 11 4) (cvtBlocks f o.blocks)
        retire sr (if f.scaled then s.writeBay sr (scaleAt i) (scalesOf f o.blocks) else s)
      | .error e => fault sr e (countIssue sr s))
    | none => s) s)

/-- The blocks of 64 lanes widened: elements, scales and records lie as CVTN writes them. -/
def widenLanes (f : NFmt) (elems scales : List Byte) : List F32 :=
  let n := 64 / f.block
  ((List.range n).map fun j =>
    widenBlock f ((elems.drop (f.blockBytes * j)).take f.blockBytes) (scales.getD j 0).toNat ((elems.drop (f.blockBytes * n + 6 * j)).take 6)).flatten

def execCvtw (sr : StrandRef) (w : Word) (s : State) : Out :=
  ok (issue 1 0x21 sr w (fun i _ s => match fmtOf (i.fld 28 25) with
    | some f =>
      let elems := s.readBay sr (256 * i.src1 + i.fld 11 4) (cvtBytes f)
      retire sr (writeV sr i.dst (widenLanes f elems (s.readBay sr (scaleAt i) 2)) s)
    | none => s) s)

/-- The 1,024 elements of an accumulator, row by row (R303). -/
def readAcc (s : State) (sr : StrandRef) (a : Nat) : List F32 := bytesF32 1024 (s.readBay sr (4096 * a) 4096)

/-- Bytes that CVTA writes. -/
def cvtaBytes (f : NFmt) : Nat := 1024 / f.block * (f.blockBytes + boolNat f.scaled + (if f = .fp4e then 6 else 0))

def execCvta (sr : StrandRef) (w : Word) (s : State) : Out :=
  ok (issue 1 0x22 sr w (fun i st s => match fmtOf (i.fld 28 25) with
    | some f => (match scratchAt s sr (i.fld 24 22) (st.s i.src1 + BitVec.ofNat 64 (i.fld 21 0)) (cvtaBytes f) 1 true with
      | .ok a => (match convertFor sr f i.src2 (piecesOf f.block 32 (readAcc s sr i.dst)) s with
        | .ok (o, s) =>
          retire sr (s.writeScratch sr.copse sr.ctx sr.cu a ((o.blocks.map (OutBlock.elems f)).flatten ++ (if f.scaled then scalesOf f o.blocks else []) ++ recordsOf f o.blocks))
        | .error e => fault sr e (countIssue sr s))
      | .error e => fault sr e (countIssue sr s))
    | none => s) s)

/-- A roll of a stream; one that the program did not declare is left alone. -/
def execAroll (sr : StrandRef) (w : Word) (s : State) : Out :=
  ok (issue 1 0x23 sr w (fun i st s =>
    let n := (st.s i.src1).toNat % 4096
    retire sr (match s.ctx? sr.copse sr.ctx with
      | some x => if x.hdr.amax.contains n then amaxRoll sr.copse n s else s
      | none => s)) s)

/-! The sorter (R339, R340). -/

/-- The order of the sorter: key descending, then payload ascending; +0 equals −0. -/
def sortLe (a b : F32 × BitVec 32) : Bool := f32lt b.1 a.1 || (f32eq a.1 b.1 && decide (a.2.toNat ≤ b.2.toNat))

/-- SORTBEG: the sorter is owned at once or asked for. k outside 1 to 4,096 is not stated: a free value within it. -/
def execSortbeg (sr : StrandRef) (w : Word) (s : State) : Out :=
  ok (issue 1 0x28 sr w (fun i st s =>
    let c := s.copse sr.copse
    if c.sortOwner = some sr.ctx ∨ (c.sortOwner = none ∧ c.sortQ = []) then
      let k := (st.s i.src1).toNat
      let legal := decide (1 ≤ k ∧ k ≤ 4096)
      let k := if legal then k else 1 + Config.freeNat s.draws % 4096
      let s := if legal then s else s.draw
      retire sr (s.setCopse sr.copse { c with sortOwner := some sr.ctx, sortK := k, sortL := [], sortOpen := true })
    else waitFor sr .sorter (s.setCopse sr.copse { c with sortQ := if c.sortQ.contains sr.ctx then c.sortQ else c.sortQ ++ [sr.ctx] })) s)

/-- A sorter instruction of a strand whose context owns the sorter; any other strand waits (R358). -/
def sorterOp (op : Nat) (sr : StrandRef) (w : Word) (body : Ins → Strand → Copse → State → State) (s : State) : State :=
  issue 1 op sr w (fun i st s =>
    let c := s.copse sr.copse
    if c.sortOwner = some sr.ctx then body i st c s else waitFor sr .sorter s) s

/-- Is an FP32 code a NaN? -/
def f32nan (a : F32) : Bool := (f32num a).isNan

def execSortput (sr : StrandRef) (w : Word) (s : State) : Out :=
  ok (sorterOp 0x29 sr w (fun i _ c s =>
    if c.sortOpen then
      let pairs := (readV s sr i.src1).zip (readV s sr i.src2)
      let good := pairs.filter fun p => !f32nan p.1
      let s := s.setCopse sr.copse { c with sortL := (sortBy sortLe (good ++ c.sortL)).take c.sortK }
      retire sr (s.modCtx sr.copse sr.ctx fun x => { x with sat := x.sat + (pairs.length - good.length) })
    else retire sr s) s)

def execSortend (sr : StrandRef) (w : Word) (s : State) : Out :=
  ok (sorterOp 0x2A sr w (fun i _ c s =>
    retire sr ((s.setCopse sr.copse { c with sortOpen := false }).setS sr i.dst (BitVec.ofNat 64 c.sortL.length))) s)

/-- Keys to v[DST] and payloads to v[SRC1] from list position s[SRC2] on; lanes past the list read 0. -/
def execSortget (sr : StrandRef) (w : Word) (s : State) : Out :=
  ok (sorterOp 0x2B sr w (fun i st c s =>
    let at_ (k : Nat) : F32 × BitVec 32 := c.sortL.getD ((st.s i.src2).toNat + k) (0, 0)
    let s := writeV sr i.dst ((List.range 64).map fun k => (at_ k).1) s
    retire sr (writeV sr i.src1 ((List.range 64).map fun k => (at_ k).2) s)) s)

/-- The sorter is released; it passes on with SORTER_GRANT. -/
def execSortrel (sr : StrandRef) (w : Word) (s : State) : Out :=
  ok (sorterOp 0x2C sr w (fun _ _ c s => retire sr (s.setCopse sr.copse { c with sortOwner := none, sortL := [], sortOpen := false })) s)

/-- A released sorter passes to the next waiting context (R340). -/
def execSorterGrant (t copse : Nat) (s : State) : Out :=
  let s := s.upTo t
  let c := s.copse copse
  match c.sortOwner, c.sortQ with
  | none, n :: r => ok (s.setCopse copse { c with sortOwner := some n, sortQ := r, sortL := [], sortOpen := false })
  | _, _ => ok s

end Sys2Proof.Machine
end

