-- ==== Sys2Proof/Machine/FabricNx.lean ====
section
/-! DEFINITION. The fabric memory and hint classes (R366-R368, R200, Table 09.17). -/

namespace Sys2Proof.Machine

/-- A fabric instruction that goes on at once after its request. -/
def fabOp (cls op : Nat) (sr : StrandRef) (w : Word) (body : Ins → Strand → State → State) (s : State) : State := settle (issue cls op sr w body s)

def execLdl (sr : StrandRef) (w : Word) (s : State) : Out := ok (fabOp 4 0x00 sr w (fun i st s => retire sr (loadLine sr i (i.fld 22 0) false st s)) s)

def execStl (sr : StrandRef) (w : Word) (s : State) : Out := ok (fabOp 4 0x01 sr w (fun i st s => retire sr (storeLine sr i (i.fld 22 0) st s)) s)

def execPld (sr : StrandRef) (w : Word) (s : State) : Out := ok (fabOp 4 0x02 sr w (fun i st s => retire sr (loadLine sr i (i.fld 22 0) true st s)) s)

def execAtom (sr : StrandRef) (w : Word) (s : State) : Out := ok (fabOp 4 0x04 sr w (fun i st s => retire sr (atomWord sr i (i.fld 18 0) st s)) s)

/-- A request with an operand outside its range ends at once (log: DENIED, or SIZE for a part-line). -/
def refuseNow (sr : StrandRef) (i : Ins) (st : Status) (s : State) : State :=
  match s.ctx? sr.copse sr.ctx with
  | some x => retire sr (endReq (.strand sr .none (statOf i i.src2) (x.strand (strandKey sr)).pc) x.clr s.epoch 0 st [] false s)
  | none => s

def execBrd (sr : StrandRef) (w : Word) (s : State) : Out :=
  ok (fabOp 4 0x08 sr w (fun i st s =>
    let n := (st.s i.src2).toNat
    if n = 0 ∨ 65536 < n ∨ n % 256 ≠ 0 then refuseNow sr i .denied s else readBlock sr i n false (statOf i i.src2) st s) s)

def execBwr (sr : StrandRef) (w : Word) (s : State) : Out :=
  ok (fabOp 4 0x09 sr w (fun i st s =>
    let n := (st.s i.src2).toNat
    if n = 0 ∨ 65536 < n then refuseNow sr i .denied s
    else if n % 64 ≠ 0 then refuseNow sr i .size s
    else writeBlock sr i (statOf i i.src2) st s) s)

def execPrd (sr : StrandRef) (w : Word) (s : State) : Out := ok (fabOp 4 0x0A sr w (fun i st s => readBlock sr i 4096 true (statOf i i.src2) st s) s)

def execGath (sr : StrandRef) (w : Word) (s : State) : Out := ok (fabOp 4 0x0B sr w (fun i st s => gatherRows sr i st s) s)

/-! Regions. -/

/-- An instruction about the region of the window that holds s[SRC1]. -/
def regionOp (sr : StrandRef) (i : Ins) (wr : Bool) (lines : Nat) (ret : RetData) (st : Strand) (serve : Req → State → State) (s : State) : State :=
  match regionReq sr i wr lines ret st s with
  | .ok r => retire sr (serve r s)
  | .error e => fault sr e (countIssue sr s)

/-- An instruction that waits until every earlier fabric request of its strand has ended (R200). -/
def afterRequests (sr : StrandRef) (k : State → State) (s : State) : State := if outstanding s sr = 0 then k s else waitFor sr .held s

def execNxSub (sr : StrandRef) (w : Word) (s : State) : Out :=
  ok (fabOp 4 0x10 sr w (fun i st s => regionOp sr i false 0 .none st (fun r s => serveSubscribe r (reqDie sr) s) s) s)

def execNxUnsub (sr : StrandRef) (w : Word) (s : State) : Out :=
  ok (fabOp 4 0x11 sr w (fun i st s => regionOp sr i false 0 .none st (fun r s => serveUnsubscribe r (reqDie sr) s) s) s)

def execNxInval (sr : StrandRef) (w : Word) (s : State) : Out :=
  ok (fabOp 4 0x12 sr w (fun i st s => afterRequests sr (fun s =>
    let n := (st.s i.dst).toNat
    if n = 0 ∨ 16777216 < n then refuseNow sr i .denied s
    else regionOp sr i true n .none st (fun r s => serveInval r n (reqDie sr) s) s) s) s)

/-- PREP goes on when its request has ended (R478). -/
def execPrep (sr : StrandRef) (w : Word) (s : State) : Out :=
  ok (fabOp 4 0x13 sr w (fun i st s =>
    let s := regionOp sr i true 0 (.handle i.dst) st (fun r s => servePrepare r (reqDie sr) s) s
    if (s.strand sr).live then waitFor sr .prep s else s) s)

def execPubl (sr : StrandRef) (w : Word) (s : State) : Out :=
  ok (fabOp 4 0x14 sr w (fun i st s => afterRequests sr (regionOp sr i true 0 (.handle i.dst) st fun r s => servePublish r (reqDie sr) s) s) s)

def execNxOpen (sr : StrandRef) (w : Word) (s : State) : Out :=
  ok (fabOp 4 0x15 sr w (fun i st s => regionOp sr i false 0 (.handle i.dst) st (fun r s => serveOpen r (reqDie sr) s) s) s)

def execNxClose (sr : StrandRef) (w : Word) (s : State) : Out :=
  ok (fabOp 4 0x16 sr w (fun i st s => regionOp sr i false 0 .none st (fun r s => serveClose r (reqDie sr) s) s) s)

/-- A HINT for s[SRC1] pages from the page that holds s[DST] on (R368). -/
def execNxHint (sr : StrandRef) (w : Word) (s : State) : Out :=
  ok (fabOp 10 0x00 sr w (fun i st s =>
    let n := (st.s i.src1).toNat
    if n = 0 ∨ 16777216 < n then refuseNow sr i .denied s
    else match ctxDesc s sr (i.fld 27 25) with
      | none => fault sr rDesc (countIssue sr s)
      | some d =>
        let at_ := (d.base + (st.s i.dst).toNat) / 4096 * 4096
        if at_ < d.base ∨ d.kind ≠ 2 then fault sr rDesc (countIssue sr s)
        else match fabAt s sr (i.fld 27 25) (at_ - d.base) (4096 * n) true false with
          | .error e => fault sr e (countIssue sr s)
          | .ok (d, addr) => retire sr (serveStrand sr d (strandReq s sr d addr .none (statOf i i.src2) (i.fld 1 0)) .hint n s)) s)

end Sys2Proof.Machine
end

