-- ==== Sys2Proof/Machine/Forward.lean ====
section
/-! DEFINITION. The commands of the forwarding core and the package mesh (06, 07). -/

namespace Sys2Proof.Machine

def execCellAdmitRetry (t g c : Nat) (s : State) : Out := ok (settle (admitRetry g c (s.upTo t)))

def execOverflowRefill (t lp cls : Nat) (s : State) : Out := ok (settle (overflowRefill lp cls (s.upTo t)))

/-- A cell arrives that ends its path on EDGE[e] of Glade[g] (R260). -/
def execMeshCellArrive (t g e : Nat) (s : State) : Out := ok (settle (edgeArrive g e (s.upTo t)))

def execReleaseNotice (t sdie ddie c vc : Nat) (s : State) : Out := ok (settle (releaseNotice (flowKey sdie ddie c vc) (s.upTo t)))

def execGapTimeout (t sdie ddie c vc : Nat) (s : State) : Out :=
  let s := s.upTo t
  ok (settle (if s.fwd.gapSusp.isSome then s else gapTimeout sdie ddie c vc s))

def execSkipNotice (t sdie ddie c vc : Nat) (s : State) : Out := ok (settle (skipNotice (flowKey sdie ddie c vc) (s.upTo t)))

/-- A hop replays from its hop buffer; no cell is lost (R257). -/
def execMeshHopReplay (t g e : Nat) (s : State) : Out := ok ((s.upTo t).fadd FW_EDGE_STATUS.CRC_RETRY [g, e] 1)

def execMeshWireFail (t g e : Nat) (s : State) : Out := ok (wireFail g e (s.upTo t))

def execMeshSpraySuspend (t g e : Nat) (s : State) : Out := ok (spraySuspend g e (s.upTo t))

def execMeshSpareWireTrained (t g e : Nat) (s : State) : Out := ok (spareWire g e (s.upTo t))

def execMeshHeldResend (t g e : Nat) (s : State) : Out := ok (heldResend g e (s.upTo t))

def execMeshEdgeUp (t g e : Nat) (s : State) : Out := ok (edgeBack g e (s.upTo t))

def execGapTimerResume (t g e : Nat) (s : State) : Out := ok (gapResume g e (s.upTo t))

def execEgressSelect (t lp : Nat) (rd : CellRead) (s : State) : Out := ok (settle (egressSelect lp rd (s.upTo t)))

def execMeshEdgeSelect (t g e : Nat) (rd : CellRead) (s : State) : Out := ok (settle (meshSelect g e rd (s.upTo t)))

def execMeshWheelBoundary (t : Nat) (s : State) : Out := ok (wheelBoundary (s.upTo t))

end Sys2Proof.Machine
end

