-- ==== Sys2Proof/Machine/Grove.lean ====
section
/-! DEFINITION. The events of Grove instances (chapter 10): one pass of a receive queue for each kind of message, and the limits. An instance is named by its context:
key = 32 × package copse + context number. -/

namespace Sys2Proof.Machine

/-- An event of an instance that runs, and what follows it. -/
def svcEvent (key : Nat) (f : State → State) (s : State) : State := if svcRuns s key then settle (svcAfter key (f s)) else s

/-- The first message of the queue with which something can be done, if it is of the kind of the command; a message that no kind admits is discarded and counted (R389).
A STOP ends the acceptance of messages (R390). -/
def svcMessage (sop : Nat) (key : Nat) (handle : Nat → SvcMsg → State → State) (s : State) : State :=
  match nextMsg (s.svcOf key) with
  | some (k, m) =>
    if msgBad (s.svcOf key) m then takeMsg key k (s.modSvc key fun v => { v with bad := v.bad + 1 })
    else if m.sop = sop then handle k m s
    else s
  | none => s

def execContrib (t key : Nat) (s : State) : Out := ok (svcEvent key (svcMessage 0x01 key (handleContrib key)) (s.upTo t))

def execSegmentTimeout (t key : Nat) (s : State) : Out := ok (svcEvent key (segTimeouts key) (s.upTo t))

def execArrive (t key : Nat) (s : State) : Out := ok (svcEvent key (svcMessage 0x03 key (handleArrive key)) (s.upTo t))

def execBarrierTimeout (t key : Nat) (s : State) : Out := ok (svcEvent key (barrierTimeout key) (s.upTo t))

def execBagReq (t key : Nat) (s : State) : Out := ok (svcEvent key (svcMessage 0x05 key (handleBags key)) (s.upTo t))

def execDispatch (t key : Nat) (s : State) : Out := ok (svcEvent key (svcMessage 0x07 key (handleDispatch key)) (s.upTo t))

def execBatchSend (t key : Nat) (s : State) : Out := ok (svcEvent key (batchSend key) (s.upTo t))

def execExpertInDone (t key batch : Nat) (s : State) : Out := ok (svcEvent key (expertInDone key batch) (s.upTo t))

def execExpertInRetry (t key batch : Nat) (s : State) : Out := ok (svcEvent key (expertInRetry key batch) (s.upTo t))

def execExpertOut (t key : Nat) (s : State) : Out := ok (svcEvent key (svcMessage 0x09 key (handleExpertOut key)) (s.upTo t))

def execTokenTimeout (t key : Nat) (s : State) : Out := ok (svcEvent key (tokenTimeouts key) (s.upTo t))

def execFilterReq (t key : Nat) (s : State) : Out := ok (svcEvent key (svcMessage 0x0B key (handleFilter key)) (s.upTo t))

def execFilterTimeout (t key : Nat) (s : State) : Out := ok (svcEvent key (filterTimeout key) (s.upTo t))

/-- STOP leaves the queue, and the instance finishes what it has accepted (R390). -/
def execStop (t key : Nat) (s : State) : Out :=
  ok (svcEvent key (svcMessage 0x0E key fun k _ s => (takeMsg key k s).modSvc key fun v => { v with stopping := true }) (s.upTo t))

def execStatsWrite (t key : Nat) (s : State) : Out := ok (svcEvent key (svcStats key) (s.upTo t))

end Sys2Proof.Machine
end

