-- ==== Sys2Proof/Machine/Link.lean ====
section
/-! DEFINITION. The commands of the links (03). Those that stand for one link message or one lane-control word leave the flit numbers as they are: FLIT_RX moves them. -/

namespace Sys2Proof.Machine

def execFlitRx (t lp : Nat) (slots : List (BitVec 128)) (trailer : BitVec 128) (s : State) : Out := ok (settle (receiveFlit lp slots trailer (s.upTo t)))

/-- ACK has not advanced for 10 us while flits are held (R128); a lost sequence may be asked for again (R126). -/
def execReplayTimer (t lp : Nat) (s : State) : Out :=
  let s := s.upTo t
  let p := s.lport lp
  whenever (p.txBuf != [] && [1, 2, 3].contains (s.lpState lp) && p.kept.isNone && decide (p.ackAt + 10000 ≤ s.now)) s
    (startReplay lp (s.setLport lp { p with nakSet := false }))

/-- One sequence replayed 8 times in a row: the port retrains and keeps its work (R130). -/
def execReplayLimit (t lp : Nat) (s : State) : Out :=
  let s := s.upTo t
  let p := s.lport lp
  whenever (s.lpActive lp && decide (8 ≤ p.replayRuns)) s (startTraining lp (s.setLport lp { p with kept := some s.now, replayRuns := 0 }))

/-- Is the port of a lane in training? -/
def laneTrains (s : State) (l : Nat) : Bool := (laneLp s l).any fun lp => s.lpState lp == 1

def execEqReq (t lane : Nat) (s : State) : Out :=
  let s := s.upTo t
  whenever (laneTrains s lane) s (sendLane lane 2 0 0 s)

/-- With the taps of every lane agreed, PARAMS goes out (Table 03.9). -/
def execEqAck (t lane : Nat) (s : State) : Out :=
  let s := s.upTo t
  match laneLp s lane with
  | some lp =>
    let s' := s.setLane lane { s.lane lane with taps := true }
    let all := (lanesOf s' lp).all fun x => (s'.lane x).taps
    whenever (laneTrains s lane) s
      (if all && !(s'.lport lp).eqDone then sendParams lp (s'.setLport lp { s'.lport lp with eqDone := true }) else s')
  | none => ok s

def execSpareReq (t lane spare : Nat) (s : State) : Out := ok (spareReq lane spare (s.upTo t))

def execSpareAck (t lane : Nat) (s : State) : Out := ok (settle (spareAck lane (s.upTo t)))

/-- The partner's NARROW_REQ names a lane of the port; with NARROW = 0 here, or no lanes left, the port goes DOWN. -/
def execNarrowReq (t lane : Nat) (s : State) : Out :=
  let s := s.upTo t
  match laneLp s lane with
  | some lp =>
    if s.lpActive lp ∧ lane % 64 < 32 then
      let s := (lanesOf s lp).foldl (fun s x => abandonSwap x s) s
      let s := (spareFails lane s).fset FR_LANE_STATUS.ROLE (laneIx lane) 2
      if ppFld s FR_PORT_CFG.NARROW lp = 1 then ok (settle (narrow lp (tellLanes lp lane 6 (lane % 64) 0 s))) else ok (settle (linkDown lp 0 s))
    else ok s
  | none => ok s

def execNarrowAck (t lane : Nat) (s : State) : Out :=
  let s := s.upTo t
  match laneLp s lane with
  | some lp => whenever ((s.lane lane).narrowAsked && s.lpActive lp) s (settle (narrow lp (s.setLane lane { s.lane lane with narrowAsked := false })))
  | none => ok s

def execRestoreReq (t lane : Nat) (s : State) : Out :=
  let s := s.upTo t
  whenever ((s.lane lane).onSpare.isSome) s (sendLane lane 8 (lane % 64) (32 + ((s.lane lane).onSpare.getD 0)) (restoreLane lane s))

def execRestoreAck (t lane : Nat) (s : State) : Out :=
  let s := s.upTo t
  whenever ((s.lane lane).restoreAsked) s (restoreLane lane s)

def execRemoteFault (t lane : Nat) (s : State) : Out := ok (settle (failLane lane (s.upTo t)))

def execParams (t lp node mode : Nat) (enc : Bool) (credits : List Nat) (s : State) : Out := ok (settle (receiveParams lp node mode enc credits (s.upTo t)))

def execPdHold (t lp : Nat) (s : State) : Out := ok (receiveHold lp (s.upTo t))

def execPdNotice (t lp : Nat) (s : State) : Out := ok (receiveNotice lp (s.upTo t))

def execKeySwitch (t lp gen : Nat) (s : State) : Out := ok (receiveKeySwitch lp gen (s.upTo t))

def execKeySwitchAck (t lp gen : Nat) (s : State) : Out := ok (receiveKeyAck lp gen (s.upTo t))

def execSpdm (t lp off total : Nat) (bytes : List Byte) (s : State) : Out := ok (receiveSpdm lp off total bytes (s.upTo t))

/-- R132 does not name the message among the starts of a training, and no rule gives it another effect. -/
def execRetrainReq (t lp : Nat) (s : State) : Out := let _ := lp; ok (s.upTo t)

def execTrainingStart (t lp : Nat) (power : List Nat) (s : State) : Out := ok (settle (lightUp lp power (s.upTo t)))

/-- A step misses its time, the earliest of them 2 ms (Table 03.9). -/
def execTrainingStepFail (t lp : Nat) (s : State) : Out :=
  let s := s.upTo t
  match (s.lport lp).trainAt with
  | some t0 => whenever (s.lpState lp == 1 && decide (t0 + 2000000 ≤ s.now)) s (settle (trainFails lp s))
  | none => ok s

/-- 1 ms after a failed attempt (R132). -/
def execTrainingRetry (t lp : Nat) (s : State) : Out :=
  let s := s.upTo t
  match (s.lport lp).retryAt with
  | some r =>
    whenever (s.lpState lp == 0 && decide (r ≤ s.now) && portLight s lp && ppFld s FR_PORT_CFG.EN lp == 1 && SMap.get false s.link.txOn (lp / 4)) s (settle (startTraining lp s))
  | none => ok s

/-- By t0 + 11 ms, with taps agreed and PARAMS received (Table 03.9). -/
def execTrainingDone (t lp : Nat) (s : State) : Out :=
  let s := s.upTo t
  let p := s.lport lp
  whenever (s.lpState lp == 1 && p.eqDone && p.params && (p.trainAt.any fun t0 => decide (s.now ≤ t0 + 11000000))) s (settle (trainingDone lp s))

def execSpdmSessionDone (t lp : Nat) (good : Bool) (root : Option (List Word)) (s : State) : Out :=
  let s := s.upTo t
  whenever (s.lpState lp == 2 && (s.link.sessions.take 32).contains lp) s (settle (sessionDone lp good root s))

/-- A port of the die is ACTIVE, and the spare has not trained yet (R134). -/
def execSpareTraining (t f n node : Nat) (good : Bool) (s : State) : Out :=
  let s := s.upTo t
  whenever (decide (n < 2) && s.fget FR_SPARE.STATE [f, n] == 0 && (List.range 32).any fun k => s.lpActive (32 * f + k)) s (spareTrained f n node good s)

/-- Loss of light, by the power received, or 4 uncorrectable codewords (R135). -/
def execLaneFailed (t lane : Nat) (los : Option Nat) (s : State) : Out :=
  let s := s.upTo t
  match los with
  | some code => ok (settle (loseLight lane code s))
  | none => ok (settle (failLane lane (s.fadd FR_LANE_FEC.UNCORR (laneIx lane) 4)))

def execLaneDegraded (t lane symbols : Nat) (s : State) : Out := ok (degradeLane lane ((s.upTo t).fadd FR_LANE_FEC.CORR_SYM (laneIx lane) symbols))

def execSpareSwapResume (t lp : Nat) (s : State) : Out := ok (settle (swapResume lp (s.upTo t)))

def execMismatchDown (t lane code : Nat) (s : State) : Out :=
  let s := s.upTo t
  match laneLp s lane with
  | some lp => whenever (s.lpState lp == 5 && decide (code < 20)) s (settle (linkDown lp 0 (setPower lane code s)))
  | none => ok s

def execLaneRecalDone (t lane : Nat) (good : Bool) (s : State) : Out := ok (recalDone lane good (s.upTo t))

def execKeyLifeExpiry (t lp : Nat) (s : State) : Out :=
  let s := s.upTo t
  whenever (decide (keyLife s lp ≤ (s.lport lp).groups)) s (sendKeySwitch lp s)

/-- A PD_QUERY from a partner: no rule has the CW9 answer it. -/
def execPdQuery (t lp target : Nat) (s : State) : Out := let _ := (lp, target); ok (s.upTo t)

/-- A PD_ACCEPT refuses nothing (R142). -/
def execPdAccept (t lp : Nat) (s : State) : Out := let _ := lp; ok (s.upTo t)

end Sys2Proof.Machine
end

