-- ==== Sys2Proof/Machine/Local.lean ====
section
/-! DEFINITION. The local memory class (R365, Table 09.16). -/

namespace Sys2Proof.Machine

/-- A load or store of the scratchpad, poisoned where a word that it reads, or merges into (R510), is bad: a[IMM[28:26]] + s[SRC1] + IMM[25:0], a multiple of the access size, or of 256 for an accumulator. -/
def localOp (op size : Nat) (write : Bool) (sr : StrandRef) (w : Word) (body : Ins → Strand → Nat → State → State) (s : State) : State :=
  issue 11 op sr w (fun i st s =>
    match scratchAt s sr (i.fld 28 26) (st.s i.src1 + BitVec.ofNat 64 (i.fld 25 0)) size (if size = 4096 then 256 else size) write with
    | .ok a =>
      if (!write || decide (size < 32)) && scratchBad s sr.copse sr.ctx sr.cu a size then failWith sr .poison st.pc (countIssue sr s)
      else retire sr (body i st a s)
    | .error e => fault sr e (countIssue sr s)) s

/-- Scratchpad bytes into the strand's bay. -/
def loadBay (sr : StrandRef) (dest a size : Nat) (s : State) : State := s.writeBay sr dest (s.readScratch sr.copse sr.ctx sr.cu a size)

/-- Bytes of the strand's bay into the scratchpad. -/
def storeBay (sr : StrandRef) (from_ a size : Nat) (s : State) : State := s.writeScratch sr.copse sr.ctx sr.cu a (s.readBay sr from_ size)

def execLds (sr : StrandRef) (w : Word) (s : State) : Out :=
  ok (localOp 0x00 8 false sr w (fun i _ a s => s.setS sr i.dst (BitVec.ofNat 64 (ofBytesLE (s.readScratch sr.copse sr.ctx sr.cu a 8)))) s)

def execSts (sr : StrandRef) (w : Word) (s : State) : Out :=
  ok (localOp 0x01 8 true sr w (fun i st a s => s.writeScratch sr.copse sr.ctx sr.cu a (toBytesLE 8 (st.s i.dst).toNat)) s)

def execLdv (sr : StrandRef) (w : Word) (s : State) : Out := ok (localOp 0x02 256 false sr w (fun i _ a s => loadBay sr (256 * i.dst) a 256 s) s)

def execStv (sr : StrandRef) (w : Word) (s : State) : Out := ok (localOp 0x03 256 true sr w (fun i _ a s => storeBay sr (256 * i.dst) a 256 s) s)

def execLdt (sr : StrandRef) (w : Word) (s : State) : Out := ok (localOp 0x04 1024 false sr w (fun i _ a s => loadBay sr (8192 + 1024 * i.dst) a 1024 s) s)

def execStt (sr : StrandRef) (w : Word) (s : State) : Out := ok (localOp 0x05 1024 true sr w (fun i _ a s => storeBay sr (8192 + 1024 * i.dst) a 1024 s) s)

def execLdseg (sr : StrandRef) (w : Word) (s : State) : Out :=
  ok (localOp 0x06 64 false sr w (fun i _ a s => loadBay sr (256 * i.dst + 64 * i.src2) a 64 s) s)

def execStseg (sr : StrandRef) (w : Word) (s : State) : Out :=
  ok (localOp 0x07 64 true sr w (fun i _ a s => storeBay sr (256 * i.dst + 64 * i.src2) a 64 s) s)

def execLdacc (sr : StrandRef) (w : Word) (s : State) : Out := ok (localOp 0x08 4096 false sr w (fun i _ a s => loadBay sr (4096 * i.dst) a 4096 s) s)

def execStacc (sr : StrandRef) (w : Word) (s : State) : Out := ok (localOp 0x09 4096 true sr w (fun i _ a s => storeBay sr (4096 * i.dst) a 4096 s) s)

end Sys2Proof.Machine
end

