-- ==== Sys2Proof/Machine/MgmtOps.lean ====
section
/-! DEFINITION. The management port's operations: evidence records (R457-R462), CCP sessions and datagrams (R545-R551), program slots (R552-R555), telemetry (R558-R560). -/

namespace Sys2Proof.Machine

/-! Evidence. -/

/-- A die entry (Table 12.9). -/
def dieEntryBytes (s : State) (n : Nat) : List Byte :=
  let f (x : Fld) : Nat := s.fget x [n]
  toBytesLE 1 (f AT_DIE_INFO.DTYPE) ++ toBytesLE 1 (f AT_DIE_INFO.INDEX) ++ toBytesLE 1 (f AT_DIE_INFO.STATE) ++ toBytesLE 1 (f AT_DIE_INFO.SLOT)
    ++ toBytesLE 1 (f AT_DIE_INFO.SVN) ++ toBytesLE 1 (f AT_DIE_INFO.STAGED_SVN) ++ List.replicate 2 0 ++ toBytesLE 4 (f AT_DIE_INFO.GEN) ++ List.replicate 4 0
    ++ ((List.range 6).map fun m => toBytesLE 8 (s.word .AT_DIE_MEAS [n, m]).toNat).flatten

/-- The package part of the evidence record (Table 12.8, 0x0000-0x087F). -/
def packagePart (s : State) (lookout time : Nat) (nonce : List Byte) (sigSeq : Nat) : List Byte :=
  toBytesLE 4 0x4E444556 ++ toBytesLE 2 1 ++ toBytesLE 1 lookout ++ [0] ++ toBytesBE 16 Config.serial.toNat ++ toBytesLE 8 time ++ nonce ++ toBytesLE 8 sigSeq
    ++ ((List.range 5).map fun d => BitVec.ofNat 8 (SMap.get 0 s.boot.minSvn d)) ++ List.replicate 3 0 ++ toBytesLE 8 s.boot.nvSeq ++ toBytesLE 8 s.boot.ucalSeq
    ++ List.replicate 32 0 ++ ((List.range 32).map (dieEntryBytes s)).flatten

/-- The clearing part (0x0880-0x08FF); for CLR 0xFF all else is zero. -/
def clearingPart (s : State) (c : Nat) : List Byte :=
  if 127 < c then [0xFF] ++ List.replicate 127 0
  else
    let m := s.com.inForce
    let sl := m.slices.filter fun x => x.clr == c
    let mesh := ((m.clearings.find? fun r => r.clr == c).map ClrRec.mesh).getD 0
    toBytesLE 1 c ++ toBytesLE 1 (confOf m c) ++ toBytesLE 1 mesh ++ [0] ++ toBytesLE 4 (s.fget CM_CLR_CONF.MAPGEN [c]) ++ toBytesLE 1 sl.length ++ List.replicate 7 0
      ++ toBytesLE 16 (maskOf (sl.map Slice.copse)) ++ toBytesLE 16 (maskOf ((sl.map slicePorts).flatten)) ++ toBytesBE 48 (Config.sha384 (clrBytes m c)).toNat
      ++ List.replicate 32 0

/-- The EVIDENCE body for a request of NONCE and CLR (R457, R557, R462). -/
def evidenceBody (s : State) (req : List Byte) : List Byte :=
  let part := s.clr.sigPart.getD []
  let record := packagePart s s.activeLookout s.pkg (req.take 32) s.clr.sigSeq ++ clearingPart s (field req 32 1) ++ toBytesBE 16224 (Config.slhSign part).toNat
    ++ toBytesLE 4 Config.slhChain.length ++ Config.slhChain
  record ++ toBytesBE 384 (Config.rsaSign record).toNat

/-- Does an answer wait for a package-part signature (R461)? -/
def sigPending (s : State) : Bool := s.clr.signing || s.clr.signOwed

/-- A new signature starts: it covers the package part as it is now, with the next SIGSEQ. -/
def startSigning (s : State) : State :=
  { s.fset AT_SIGN.PENDING [] 1 with
    clr.signing := true, clr.signOwed := false, clr.sigPart := some (packagePart s 0 0 (List.replicate 32 0) (s.clr.sigSeq + 1)) }

/-- The answers that waited. -/
def answerEvidence : List (Nat × List Byte) → State → State
  | [], s => s
  | (n, req) :: r, s => answerEvidence r (ccpSend n ctEvidence (evidenceBody s req) s)

/-- The signature is made: SIGSEQ is in force, and answers go out unless another is owed. -/
def signed (s : State) : State :=
  let s := { s with clr.signing := false, clr.sigSeq := s.clr.sigSeq + 1 }
  let s := (s.fset AT_SIGN.SIGSEQ [] s.clr.sigSeq).fset AT_SIGN.PENDING [] (boolNat s.clr.signOwed)
  if s.clr.signOwed then s else answerEvidence s.clr.waiting { s with clr.waiting := [] }

/-! Opening sessions. -/

def authFail (s : State) : State := s.fadd LK_CCP_CNT.AUTH_FAIL [0] 1

def fmAnchored (s : State) : Bool := (List.range 8).any fun i => s.fget AT_FM_CTRL.EN [i] == 1

/-- ENROL (R550): within 600 s of a full reset whose cause is PORESET, while no anchor of a fabric manager is in use. -/
def enrolOpen (s : State) : Bool := !fmAnchored s && s.fget PW_STATE.RESET_CAUSE [] == 7 && decide (s.now ≤ s.pw.aoStart + 600000000000)

/-- The checks at HELLO (Table 15.4, R550, R551). -/
def helloOk (s : State) (role : Nat) (enrol : Bool) : Bool :=
  let same := (s.mgmt.sessions.filter fun x => x.role == role).length
  (role == 0xFF || decide (role < 128)) && (!enrol || (role == 0xFF && enrolOpen s)) && decide (s.mgmt.sessions.length < 64)
    && decide (same < if role = 0xFF then 4 else 2)

/-- A session number: not 0 and not one in use; which is left open. -/
def freshSession (s : State) : Nat :=
  let base := Config.freeNat s.draws % (2 ^ 32 - 1)
  (((List.range 65).map fun k => (base + k) % (2 ^ 32 - 1) + 1).find? fun n => (s.sess? n).isNone).getD 1

/-- HELLO (R548): HELLO_RSP leaves with the CW9's nonce and key share, which are free, both chains, and both signatures over the transcript. -/
def hello (d : Dgram) (s : State) : State :=
  let role := field d.body 0 1
  let enrol := natBit (field d.body 1 1) 0
  if !helloOk s role enrol then authFail s
  else
    let n := freshSession s
    let s := s.draw
    let nonce := toBytesLE 32 (Config.freeNat s.draws)
    let s := s.draw
    let share := toBytesLE 97 (Config.freeNat s.draws)
    let s := s.draw
    let x : Session :=
      { num := n, peer := d.peer, role := role, enrol := enrol, opening := some s.now, cert := d.cert, rxHigh := 0, rxSeen := [], rxNext := 0, rxHeld := [], parts := [],
        txSeq := 1, txMsg := 1, unacked := [], txWait := [], lastRx := s.now, lastKeep := s.now, subs := [] }
    let front := toBytesLE 4 n ++ nonce ++ share ++ List.replicate 3 0 ++ Config.rsaChain ++ Config.slhChain
    let h := toBytesBE 48 (Config.sha384 (d.body ++ front)).toNat
    let body := front ++ toBytesBE 384 (Config.rsaSign h).toNat ++ toBytesBE 16224 (Config.slhSign h).toNat
    ccpSend n ctHelloRsp body { s with mgmt.sessions := s.mgmt.sessions ++ [x], mgmt.sessSeq := s.mgmt.sessSeq + 1 }

/-- The time by which FINISH must come (Table 15.4). -/
def finishBy (t0 : Nat) : Nat := t0 + 1008000000

def digestIs (s : State) (w : CW) (i : Nat) (ws : List Word) : Bool := (List.range 6).all fun m => s.word w [i, m] == ws.getD m 0

/-- The peer verified by its ROLE (R549, R550). -/
def peerOk (s : State) (x : Session) (sigOk : Bool) : Bool :=
  sigOk && (if x.role = 0xFF then
      x.cert.ok && (if x.enrol then enrolOpen s else (List.range 8).any fun i => s.fget AT_FM_CTRL.EN [i] == 1 && digestIs s .AT_FM_DIGEST i x.cert.root)
    else s.fget AT_CCPKEY_CTRL.EN [x.role] == 1 && digestIs s .AT_CCPKEY_DIGEST x.role x.cert.leaf && s.com.inForce.slices.any fun sl => sl.clr == x.role)

/-- An enrolment writes the root's digest to AT.FM[0], sets EN, and commits the NV image with the records added (R550). -/
def enrolFm (root : List Word) (s : State) : State :=
  let s := (List.range 6).foldl (fun s m => s.setWord .AT_FM_DIGEST [0, m] (root.getD m 0)) (s.fset AT_FM_CTRL.EN [0] 1)
  nvAppend ({ addr := CW.addr .AT_FM_CTRL [0], mask := fldMask AT_FM_CTRL.EN, value := fldMask AT_FM_CTRL.EN }
    :: (List.range 6).map fun m => { addr := CW.addr .AT_FM_DIGEST [0, m], mask := allOnes, value := root.getD m 0 }) s

/-- A FINISH whose datagram verifies (Table 15.4): the session opens with FINISH_ACK, or its number is discarded. -/
def finish (x : Session) (d : Dgram) (s : State) : State :=
  match x.opening with
  | some t0 =>
    if peerOk s x d.sigOk ∧ s.now ≤ finishBy t0 then
      let s := if x.enrol then enrolFm x.cert.root s else s
      offerRecords (countMgmt (ccpSend x.num ctFinishAck [] (s.setSess { (s.sess? x.num).getD x with opening := none, lastRx := s.now, lastKeep := s.now })))
    else authFail (dropSession x.num s)
  | none => s

/-! Receiving. -/

/-- The SEQ below which every acknowledged datagram has arrived, as far as the receiver knows (R547, log 14). -/
def ackValue (x : Session) : Nat := if x.rxHeld = [] then x.rxHigh + 1 else x.rxNext + 1

def sendAck (n : Nat) (s : State) : State :=
  match s.sess? n with
  | some x => ccpSend n ctAck (toBytesLE 8 (ackValue x)) s
  | none => s

/-- A slot frees when its COMPLETION has been acknowledged (R555). -/
def completeSlots (n : Nat) (s : State) : State :=
  match s.sess? n with
  | some x =>
    s.mgmt.slots.foldl (fun (s : State) (e : Nat × Slot) =>
      match e.2.phase with
      | .sent m _ =>
        if e.2.sess == some n && !(x.unacked.any fun d => d.type == ctCompletion && d.msgid == m) && !(x.txWait.any fun d => d.type == ctCompletion && d.msgid == m)
        then freeSlot e.1 s else s
      | _ => s) s
  | none => s

/-- An ACK releases the datagrams below its SEQ (R547). -/
def gotAck (n v : Nat) (s : State) : State :=
  match s.sess? n with
  | some x => completeSlots n (drainTx n 256 (s.setSess { x with unacked := x.unacked.filter fun d => decide (v ≤ d.seq) }))
  | none => s

/-! Program slots. -/

/-- PROGRAM_ACK (Table 15.5). -/
def programAck (n msgid code slot : Nat) (s : State) : State :=
  ccpSend n ctProgramAck (toBytesLE 4 msgid ++ toBytesLE 1 code ++ toBytesLE 1 slot ++ List.replicate 2 0) s

def slotMax : Nat := 2097152

def gotBytes (m : SMap (List Byte)) : Nat := (m.map fun e => e.2.length).sum

/-- A datagram of a message that is not taken: forgotten with the message's last one. -/
def refusedFrag (n : Nat) (d : Dgram) (got : SMap (List Byte)) (s : State) : State :=
  match s.sess? n with
  | some x =>
    let got := SMap.put got d.frag []
    s.setSess { x with parts := if d.nfrag ≤ got.length then SMap.erase x.parts d.msgid else SMap.put x.parts d.msgid (SMap.mapVals (fun _ _ => []) got) }
  | none => s

/-- One more datagram of a slot's message (R553). -/
def fillSlot (k : Nat) (x : Slot) (n : Nat) (d : Dgram) (s : State) : State :=
  let got := SMap.put x.got d.frag d.body
  if slotMax < gotBytes got then refusedFrag n d got (programAck n d.msgid 4 0xFF (freeSlot k s))
  else putSlot k { x with got := got, phase := if x.nfrag ≤ got.length then .checking else .filling } s

/-- A datagram of a PROGRAM message: the first takes the lowest free slot (R553). -/
def programDgram (x : Session) (d : Dgram) (s : State) : State :=
  match s.mgmt.slots.find? fun e => e.2.sess == some x.num && e.2.msgid == d.msgid && e.2.phase == .filling with
  | some (k, sl) => if sl.nfrag = d.nfrag then fillSlot k sl x.num d s else s
  | none =>
    match SMap.get? x.parts d.msgid with
    | some got => refusedFrag x.num d got s
    | none =>
      match lowestFree 64 1 (s.mgmt.slots.map Prod.fst) with
      | k :: _ =>
        countMgmt (fillSlot k { sess := some x.num, role := x.role, msgid := d.msgid, nfrag := d.nfrag, got := [], firstAt := s.now, phase := .filling, lostAt := 0 } x.num d s)
      | [] => refusedFrag x.num d [] (programAck x.num d.msgid 1 0xFF s)

/-- The management CU for a privileged program: the lowest on which it fits now, or CU[0]. -/
def pickMcu (s : State) (image : List Byte) : Nat :=
  let h := parseHeader image
  ((List.range 4).find? fun t => ctxsOf s (128 + t) |>.isEmpty).getD
    (((List.range 4).find? fun t => decide (((ctxsOf s (128 + t)).map fun e => e.2.hdr.strands).sum + h.strands ≤ 1024)
      && decide (((ctxsOf s (128 + t)).map fun e => e.2.hdr.pages).sum + h.pages ≤ 128) && decide ((ctxsOf s (128 + t)).length < 8)).getD 0)

/-- The signature of a slot's PROGRAM has been checked (R553, R554). -/
def programChecked (k : Nat) (x : Slot) (sigOk : Bool) (s : State) : State :=
  let body := (x.got.map Prod.snd).flatten
  let ack (code slot : Nat) (s : State) : State := match x.sess with
    | some n => programAck n x.msgid code slot s
    | none => s
  let image := body.drop 464
  if !sigOk then ack 3 0xFF (freeSlot k s)
  else if field body 0 4 ≠ 0x4E445853 ∨ field body 0x10 8 ≠ 0 then ack 5 0xFF (freeSlot k s)
  else match parseSubmission (body.take 80) with
    | none => ack 5 0xFF (freeSlot k s)
    | some u =>
      let priv := u.gid == 0 && natBit (field image 6 2) 0
      let fm := x.role == 0xFF
      let s := putSlot k { x with got := [], phase := .running } s
      let s := if priv then { s with boot.evLog := toBytesBE 48 (Config.sha384 image).toNat :: s.boot.evLog } else s
      let copse := if fm && priv then 128 + pickMcu s image else u.copse
      let clr := if fm then (if priv then 0xFF else (copseClr s.com.inForce u.copse).getD 0xFF) else x.role
      ack 0 k (addLoad .home clr s.epoch { u with copse := copse } (.slot k) (fm && priv) image s)

/-! Telemetry. -/

/-- The clearing of a telemetry instance; 128: of no clearing. -/
def telemClr (s : State) (group inst : Nat) : Nat :=
  match group with
  | 1 => ((portRec s.com.inForce inst).map PortRec.clr).getD 128
  | 3 => inst % 128
  | 4 => ((portRec s.com.inForce (inst / 16)).map PortRec.clr).getD 128
  | 6 => (copseClr s.com.inForce inst).getD 128
  | 7 => inst
  | _ => 128

def telemInsts : Nat → Nat
  | 1 => 512 | 2 => 544 | 3 => 1024 | 4 => 8192 | 5 => 64 | 6 => 128 | 7 => 128 | 8 => 1 | 9 => 32 | 10 => 1 | 11 => 8 | _ => 0

/-- May a session have items of an instance (Table 15.7)? -/
def telemSees (s : State) (role group inst : Nat) : Bool :=
  decide (inst < telemInsts group) && (role == 0xFF || group == 8 || (group != 2 && telemClr s group inst == role))

def total (s : State) (f : Fld) (ix : List Nat) : Nat := SMap.get 0 s.mgmt.totals (totalKey f ix)

def own (s : State) (k i : Nat) : Nat := SMap.get 0 s.mgmt.totals (ownTotal k i)

def sumOf (n : Nat) (f : Nat → Nat) : Nat := ((List.range n).map f).sum

/-- The items of a record in the order of Table 15.7. INPUT_W and the die temperatures come with the command: no word holds them. -/
def telemItems (s : State) (role group i : Nat) (sensors : List Nat) : List Nat :=
  match group with
  | 1 => [own s totFlitTx i, own s totFlitRx i, own s totSlotTx i, own s totSlotRx i, total s FR_SUB_CNT_LINK.CRC_ERR (lpIx i), total s FR_SUB_CNT_LINK.REPLAY (lpIx i),
      total s FR_SUB_CNT_DROP.DROPPED (lpIx i), s.lpState i]
  | 2 => let ix := [i / 34, i % 34]
    [s.fget FR_LANE_STATUS.RXPWR ix, total s FR_LANE_FEC.CORR_SYM ix, total s FR_LANE_FEC.UNCORR ix]
  | 3 => let ix := [i / 128, i % 128]
    [freeUnits s (i / 128) (i % 128), ovfUsed s (i / 128) (i % 128), total s FW_CLR_CNT_BUF.HELD ix, total s FW_CLR_CNT_BUF.OVF ix, total s FW_CLR_CNT_BUF.MC ix,
      total s FW_CLR_CNT_DROP.PORT_DOWN ix, total s FW_CLR_CNT_DROP.STANDBY ix, total s FW_CLR_CNT_DROP.POISON ix, total s FW_CLR_CNT_DROP.LEFT ix]
  | 4 => [own s totBytes i, own s totCells i, qUnits (s.egQ (i / 16) (i % 16)).cells, shaperTokens s (i / 16) (i % 16)]
  | 5 => let ix := [i / 8, i / 2 % 4]
    [own s totUnits i, total s FW_EDGE_STATUS.CRC_RETRY ix, if i % 2 = 1 then s.fget FW_EDGE_STATUS.OUT ix else s.fget FW_EDGE_STATUS.IN ix]
  | 6 => let g := i / 16
    let c := i % 16
    [sumOf 16 fun u => total s GL_CNT_ISSUE.ISSUED [g, c, u], total s GL_CNT_ARITH.SAT_ELEM [g, c], total s GL_CNT_ARITH.PROMOTED [g, c],
      sumOf 16 fun u => total s XP_CNT.STALL [g, c, u], total s CX_CNT.SWAP_OUT [g, c], total s CX_CNT.TORN_DOWN [g, c], (residents s i).length]
  | 7 => [CM_CLR_TXN_ERR.DENIED_WINDOW, CM_CLR_TXN_ERR.TIMEOUT, CM_CLR_TXN_ERR.LATE_RSP, CM_CLR_TXN_ERR.QUOTA, CM_CLR_T2_STAT.STAGE_HIT, CM_CLR_T2_STAT.STAGE_MISS,
      CM_CLR_T2_STAT.UNITS, CM_CLR_COH_STAT.BACK_INV, CM_CLR_COH_STAT.WB_CROSS, CM_CLR_COH_STAT.LAPSED, CM_CLR_COH_STAT.SUPERSEDED].map fun f => total s f [i]
  | 8 => if role = 0xFF then [sensors.getD 0 0, s.fget PW_THERM.CUT [], total s PW_THERM.CUT_TICKS []] ++ (List.range 32).map fun n => sensors.getD (n + 1) 0
    else [s.fget PW_THERM.CUT [], total s PW_THERM.CUT_TICKS []]
  | 9 => [EC_DIE_CNT.TRANSIENT, EC_DIE_CNT.LASTING_CE, EC_DIE_CNT.LASTING_UE, EC_DIE_CNT.RETIRED, EC_DIE_CNT.RESETS, EC_DIE_CNT.DIAG_HITS].map fun f => total s f [i]
  | 10 => [own s totDgramTx 0, own s totDgramRx 0, total s LK_CCP_CNT.TAG_FAIL [0], total s LK_CCP_CNT.REPLAY [0], total s LK_CCP_CNT.AUTH_FAIL [0],
      ofInt 64 (signExt 32 (s.fget LK_PTP_STATUS.OFFSET [0])), s.fget LK_PTP_STATUS.STATE [0], own s totMacsec 0]
  | _ => []

/-- A record: a 16-byte header and its items (R558). -/
def telemRecord (group inst time : Nat) (items : List Nat) : List Byte :=
  toBytesLE 1 group ++ [0] ++ toBytesLE 2 items.length ++ toBytesLE 4 inst ++ toBytesLE 8 time ++ (items.map fun v => toBytesLE 8 v).flatten

/-- Records of a die's TRAIL_FM ring written since the last ones streamed: each is a record of eight items (R560); those overwritten count in FM_MISSED. -/
def streamTrail (g seen : Nat) (s : State) : List Byte × Nat × State :=
  let prod := s.fget FW_TRAILFM_IDX.PROD [g]
  let size := 1024 * 2 ^ min 9 (s.fget FW_TRAILFM_CFG.SIZE [g])
  let due := (prod + 2 ^ 32 - seen) % 2 ^ 32
  let missed := due - size
  let ch := s.fget FW_TRAILFM_CFG.CH [g]
  let recs := (List.range (due - missed)).map fun k =>
    telemRecord 11 g s.pkg ((List.range 8).map fun j => ofBytesLE (readBytes s.fab.t0 (chKey ch (0x50000000 + (seen + missed + k) % size * 64 + 8 * j)) 8))
  (recs.flatten, prod, if missed = 0 then s else s.fadd FW_CNT_MESH.FM_MISSED [g] missed)

/-- TELEM of the fabric manager's trail rings. -/
def streamTrails : List Nat → List Nat → State → List Byte × List Nat × State
  | [], _, s => ([], [], s)
  | g :: gs, seen, s =>
    let (b, p, s) := streamTrail g (seen.getD g 0) s
    let (bs, ps, s) := streamTrails gs seen s
    (b ++ bs, p :: ps, s)

/-- A subscription's period: its records are sampled and sent. -/
def telemSend (x : Session) (u : TelemSub) (sensors : List Nat) (s : State) : State :=
  let put (u : TelemSub) (s : State) : State := match s.sess? x.num with
    | some y => s.setSess { y with subs := y.subs.map fun v => if v.group == u.group then u else v }
    | none => s
  if u.group = 11 then
    let dies := (List.range 8).filter fun g => decide (u.first ≤ g) && decide (g ≤ u.last)
    let (bs, ps, s) := streamTrails dies u.streamed s
    let seen := (List.range 8).map fun g => if dies.contains g then ps.getD (dies.findIdx fun h => h == g) 0 else u.streamed.getD g 0
    let s := put { u with streamed := seen } s
    if bs = [] then s else ccpSend x.num ctTelem bs s
  else
    let insts := (List.range (telemInsts u.group)).filter fun i => decide (u.first ≤ i) && decide (i ≤ u.last) && telemSees s x.role u.group i
    ccpSend x.num ctTelem ((insts.map fun i => telemRecord u.group i s.pkg (telemItems s x.role u.group i sensors)).flatten)
      (put { u with due := u.due + 100000 * u.period } s)

/-- One entry of a TELEM_SUB (R558). -/
def telemEntry (n : Nat) (e : List Byte) (s : State) : State :=
  match s.sess? n with
  | some x =>
    let group := field e 0 1
    let period := field e 2 2
    let first := field e 4 4
    let last := field e 8 4
    let sees := (List.range (telemInsts group)).any fun i => decide (first ≤ i) && decide (i ≤ last) && telemSees s x.role group i
    if period = 0 then s.setSess { x with subs := x.subs.filter fun u => u.group != group }
    else if !sees then s
    else
      let seen := (List.range 8).map fun g => s.fget FW_TRAILFM_IDX.PROD [g]
      s.setSess { x with subs := (x.subs.filter fun u => u.group != group)
        ++ [{ group := group, period := period, first := first, last := last, due := s.now + 100000 * period, streamed := seen }] }
  | none => s

def telemEntries (n : Nat) : List (List Byte) → State → State
  | [], s => s
  | e :: r, s => telemEntries n r (if e.length = 12 then telemEntry n e s else s)

/-! Messages in order. -/

/-- A whole message of a peer. -/
def gotMessage (x : Session) (type : Nat) (body : List Byte) (s : State) : State :=
  if type = ctTelemSub then telemEntries x.num (piecesOf 12 32 body) s
  else if type = ctEvidenceReq then
    let c := field body 32 1
    if body.length < 33 ∨ (x.role ≠ 0xFF ∧ c ≠ x.role ∧ c ≠ 0xFF) then s
    else if sigPending s then { s with clr.waiting := s.clr.waiting ++ [(x.num, body)] }
    else ccpSend x.num ctEvidence (evidenceBody s body) s
  else s

/-- An acknowledged datagram in its order (R547): messages of several fragments are put together. -/
def dgramInOrder (x : Session) (d : Dgram) (s : State) : State :=
  if d.nfrag = 0 ∨ 256 < d.nfrag ∨ d.nfrag ≤ d.frag then s
  else if d.type = ctClose then dropSession x.num s
  else if d.type = ctProgram then programDgram x d s
  else
    let got := SMap.put (SMap.get [] x.parts d.msgid) d.frag d.body
    if d.nfrag ≤ got.length then gotMessage x d.type ((got.map Prod.snd).flatten) (s.setSess { x with parts := SMap.erase x.parts d.msgid })
    else s.setSess { x with parts := SMap.put x.parts d.msgid got }

/-- Acknowledged datagrams that no longer wait for an earlier one: at most k of them. -/
def deliverHeld (n : Nat) : Nat → State → State
  | 0, s => s
  | k + 1, s =>
    match s.sess? n with
    | some x =>
      match x.rxHeld.find? fun d => d.prev == x.rxNext with
      | some d =>
        let x := { x with rxNext := d.seq, rxHeld := x.rxHeld.filter fun e => e.seq != d.seq }
        deliverHeld n k (dgramInOrder x d (s.setSess x))
      | none => s
    | none => s

/-- A protected datagram arrives (R546, R547): a repeated one counts in REPLAY, one whose tag fails in TAG_FAIL, and both are dropped. -/
def receiveDgram (d : Dgram) (s : State) : State :=
  let s := s.addTotal (ownTotal totDgramRx 0) 1
  match s.sess? d.session with
  | none => s
  | some x =>
    if x.isOpen = (d.type == ctFinish) then s
    else if x.rxSeen.contains d.seq ∨ d.seq + 1024 ≤ x.rxHigh then s.fadd LK_CCP_CNT.REPLAY [0] 1
    else if !d.tagOk then s.fadd LK_CCP_CNT.TAG_FAIL [0] 1
    else
      let high := max x.rxHigh d.seq
      let x := { x with rxHigh := high, rxSeen := (d.seq :: x.rxSeen).filter (fun n => decide (high < n + 1024)), lastRx := s.now }
      if d.type = ctFinish then finish x d (s.setSess x)
      else if d.type = ctAck then gotAck x.num (field d.body 0 8) (s.setSess x)
      else if ackedType d.type then
        let s := deliverHeld x.num (x.rxHeld.length + 1) (s.setSess { x with rxHeld := x.rxHeld ++ [d] })
        if (s.sess? x.num).isSome then sendAck x.num s else ccpAckLast x s
      else s.setSess x
where
  /-- CLOSE is acknowledged though its session is over. -/
  ccpAckLast (x : Session) (s : State) : State := emitCcp x x.txSeq ctAck x.txMsg 0 1 (toBytesLE 8 (x.rxHigh + 1)) s

/-! Recovery (R91, R539). -/

def CheckResult.code : CheckResult → Nat
  | .good => 0 | .badFormat => 1 | .badKey => 2 | .badSignature => 3 | .badDigest => 4 | .rollback => 5

/-- The image that a ROM has received is complete: the header's 64 KiB and BODY_LEN bytes; with a BODY_LEN out of range, the header alone. -/
def imageComplete (image : List Byte) : Bool :=
  decide (64 ≤ image.length) && (let len := field image 0x14 4
    decide (65536 + (if len ≤ slotSize 0 - 65536 then len else 0) ≤ image.length))

/-- The check of a received image: RECOVERY_STATUS; a GOOD one is written to the slot that ACTIVE does not name, and the Lookout is reset. -/
def recoveryDone (k peer : Nat) (image : List Byte) (v : Verdict) (s : State) : State :=
  let h : ImageHdr := { magic := field image 0 4, format := field image 4 2, dtype := field image 6 1, svn := field image 0x10 4, bodyLen := field image 0x14 4 }
  let r := checkImage h v 0 (SMap.get 0 s.boot.minSvn 0)
  let s := { s with mgmt.recovery := SMap.erase s.mgmt.recovery k }.emit (.ccp peer 0 ctRecoveryStatus 0 0 0 1 [BitVec.ofNat 8 r.code])
  if r = .good then
    let slot := 1 - s.fget SB_IMG.ACTIVE [0, 0]
    let s := recordCheck 0 slot true h.svn (seedWrite 6 (slotOffset 0 slot) image s)
    { s.fset AT_DIE_INFO.SLOT [k] slot with boot.recovery := s.boot.recovery.filter (fun x => x != k), boot.dirRead := s.boot.dirRead.filter (fun x => x != k),
                                            boot.lookoutSlot := SMap.erase s.boot.lookoutSlot k }
  else s

end Sys2Proof.Machine
end

