-- ==== Sys2Proof/Machine/Mgmt.lean ====
section
/-! DEFINITION. The commands of the management port (15), and the signatures of the evidence's package part (R461). -/

namespace Sys2Proof.Machine

/-! Evidence. -/

/-- The active Lookout signs the changed package part again (R461). -/
def execPackagePartSign (t : Nat) (s : State) : Out :=
  let s := s.upTo t
  whenever (s.clr.signOwed && !s.clr.signing && s.boot.lookoutUp != []) s (startSigning s)

def execSignatureDone (t : Nat) (s : State) : Out := let s := s.upTo t; whenever s.clr.signing s (settle (signed s))

/-! Frames and datagrams. -/

/-- Does the port run? -/
def portRuns (s : State) : Bool := s.mgmt.linkUp && s.boot.lookoutUp != []

/-- Datagrams of the types that the CW9 answers outside a session, or takes in one. -/
def takeDgram (d : Dgram) (s : State) : State :=
  if d.type = 0x01 then hello d (s.addTotal (ownTotal totDgramRx 0) 1) else if ackedType d.type ∨ [ctFinish, ctAck, ctKeepalive].contains d.type then receiveDgram d s else s

/-- A datagram of a type on the port. -/
def dgramCmd (type t : Nat) (d : Dgram) (s : State) : Out :=
  let s := s.upTo t
  whenever (portRuns s) s (settle (takeDgram { d with type := type } s))

/-- A frame (R538, R540): untagged ones are dropped where every frame is tagged, unprotected ones where protection is required, and protected ones without a secure channel. MKA
agreement makes the channel live once CAK and CKN are in effect. -/
def execMgmtFrame (t : Nat) (tagged guarded : Bool) (f : Frame) (s : State) : Out :=
  let s := s.upTo t
  let drop (s : State) : State := s.fadd LK_MGT_STATUS.DROP [0] 1
  let bare := match f with
    | .mka => true
    | _ => false
  whenever (portRuns s) s
    (if s.fget LK_NET_CFG.VLAN_EN [0] == 1 && !tagged then drop s
     else if s.fget LK_MKA_CFG.REQUIRE [0] == 1 && !guarded && !bare then drop s
     else if guarded && !s.mgmt.secure then drop s
     else
       let s := if guarded then s.addTotal (ownTotal totMacsec 0) 1 else s
       match f with
       | .neighbor | .echo | .ptp => s
       | .mka => if s.mgmt.cak.isSome then { s.fset LK_MGT_STATUS.SECURE [0] 1 with mgmt.secure := true } else s
       | .ccp d => settle (takeDgram d s)
       | .other => drop s)

def execHello (t : Nat) (d : Dgram) (s : State) : Out := dgramCmd 0x01 t d s
def execFinish (t : Nat) (d : Dgram) (s : State) : Out := dgramCmd ctFinish t d s
def execCcpClose (t : Nat) (d : Dgram) (s : State) : Out := dgramCmd ctClose t d s
def execAck (t : Nat) (d : Dgram) (s : State) : Out := dgramCmd ctAck t d s
def execKeepalive (t : Nat) (d : Dgram) (s : State) : Out := dgramCmd ctKeepalive t d s
def execProgram (t : Nat) (d : Dgram) (s : State) : Out := dgramCmd ctProgram t d s
def execTelemSub (t : Nat) (d : Dgram) (s : State) : Out := dgramCmd ctTelemSub t d s
def execEvidenceReq (t : Nat) (d : Dgram) (s : State) : Out := dgramCmd ctEvidenceReq t d s

/-- No FINISH in time (Table 15.4). -/
def execFinishTimeout (t sess : Nat) (s : State) : Out :=
  let s := s.upTo t
  match (s.sess? sess).bind Session.opening with
  | some t0 => whenever (decide (finishBy t0 < s.now)) s (authFail (dropSession sess s))
  | none => ok s

/-- A datagram not acknowledged is sent again with the same SEQ; 8 sends without an answer lose the session (R547). -/
def execAckResend (t sess seq : Nat) (s : State) : Out :=
  let s := s.upTo t
  match s.sess? sess with
  | some x =>
    match x.unacked.find? fun d => d.seq == seq with
    | some d =>
      whenever (decide (d.due ≤ s.now)) s
        (if 8 ≤ d.sends then dropSession sess s
         else
           let d := { d with sends := d.sends + 1, due := d.due + 1000000 * 2 ^ d.sends }
           emitCcp x d.seq d.type d.msgid d.frag d.nfrag d.body (s.setSess { x with unacked := x.unacked.map fun e => if e.seq == seq then d else e }))
    | none => ok s
  | none => ok s

/-- Each 100 ms of an open session (R547). -/
def execKeepaliveSend (t sess : Nat) (s : State) : Out :=
  let s := s.upTo t
  match s.sess? sess with
  | some x => whenever (x.isOpen && decide (x.lastKeep + 100000000 ≤ s.now)) s (ccpSend sess ctKeepalive [] (s.setSess { x with lastKeep := s.now }))
  | none => ok s

/-- Nothing received for 1 s (R547). -/
def execSessionSilence (t sess : Nat) (s : State) : Out :=
  let s := s.upTo t
  match s.sess? sess with
  | some x => whenever (x.isOpen && decide (x.lastRx + 1000000000 ≤ s.now)) s (dropSession sess s)
  | none => ok s

/-! Program slots. -/

def execProgramFragTimeout (t slot : Nat) (s : State) : Out :=
  let s := s.upTo t
  match SMap.get? s.mgmt.slots slot with
  | some x =>
    whenever (x.phase == .filling && decide (x.firstAt + 100000000 ≤ s.now)) s
      (match x.sess with
       | some n => refusedFrag n { peer := 0, type := ctProgram, session := n, seq := 0, msgid := x.msgid, frag := (x.got.map Prod.fst).headD 0, nfrag := x.nfrag, body := [],
                                   tagOk := true, prev := 0, cert := { ok := false, root := [], leaf := [] }, sigOk := false } x.got (programAck n x.msgid 2 0xFF (freeSlot slot s))
       | none => freeSlot slot s)
  | none => ok s

def execProgramSigChecked (t slot : Nat) (sigOk : Bool) (s : State) : Out :=
  let s := s.upTo t
  match SMap.get? s.mgmt.slots slot with
  | some x => whenever (x.phase == .checking) s (settle (programChecked slot x sigOk s))
  | none => ok s

/-- A slot's completion record goes to its session, or waits for one (R555). -/
def execCompletionSend (t slot : Nat) (s : State) : Out :=
  let s := s.upTo t
  match s.nx.slotRecs.find? fun r => r.1 == slot, SMap.get? s.mgmt.slots slot with
  | some r, some x =>
    let s := { s with nx.slotRecs := s.nx.slotRecs.erase r }
    match x.sess with
    | some n => ok (settle (sendCompletion slot x n r.2 s))
    | none => ok (settle (offerRecords (putSlot slot { x with phase := .record r.2, lostAt := s.now } s)))
  | _, _ => ok s

def execCompletionHoldExpiry (t slot : Nat) (s : State) : Out :=
  let s := s.upTo t
  match SMap.get? s.mgmt.slots slot with
  | some x =>
    let waits := match x.phase with
      | .record _ => x.sess.isNone
      | _ => false
    whenever (waits && decide (x.lostAt + 60000000000 ≤ s.now)) s ((freeSlot slot s).fadd LK_CCP_CNT.REC_LOST [0] 1)
  | none => ok s

/-! Events (R556). -/

/-- EVENT to a session: its ring holds 4,096 records not acknowledged; the oldest one not yet sent gives way. -/
def eventTo (n : Nat) (rec_ : List Byte) (s : State) : State :=
  match s.sess? n with
  | some x =>
    let held := (x.unacked.filter fun d => d.type == ctEvent).length + (x.txWait.filter fun d => d.type == ctEvent).length
    if held < 4096 then ccpSend n ctEvent rec_ s
    else
      match x.txWait.findIdx? fun d => d.type == ctEvent with
      | some i => ccpSend n ctEvent rec_ ((s.setSess { x with txWait := x.txWait.eraseIdx i }).fadd LK_CCP_CNT.EVT_LOST [0] 1)
      | none => s.fadd LK_CCP_CNT.EVT_LOST [0] 1
  | none => s

def eventToAll (rec_ : List Byte) : List Nat → State → State
  | [], s => s
  | n :: r, s => eventToAll rec_ r (eventTo n rec_ s)

/-- The record that the firmware forms for a claimed source (Table 15.6): what it has read of the cause comes with the command. -/
def execEventSend (t at_ source status clr cause addr count lost : Nat) (s : State) : Out :=
  let s := s.upTo t
  let bs := toBytesLE 8 at_ ++ toBytesLE 2 source ++ toBytesLE 1 status ++ toBytesLE 1 clr ++ toBytesLE 4 s.mgmt.recno ++ toBytesLE 8 cause ++ toBytesLE 4 addr
    ++ toBytesLE 2 count ++ toBytesLE 2 (saturate 16 lost)
  let who := (s.mgmt.sessions.filter fun x => x.isOpen && (x.role == 0xFF || x.role + 1664 == source)).map Session.num
  whenever (decide (source < 2048) && s.boot.lookoutUp != []) s (eventToAll bs who { s with mgmt.recno := (s.mgmt.recno + 1) % 2 ^ 32, boot.evLog := bs :: s.boot.evLog })

/-! Telemetry. -/

/-- A subscription's period ends; TRAIL_FM streams whenever records are written. -/
def execTelemPeriod (t sess group : Nat) (sensors : List Nat) (s : State) : Out :=
  let s := s.upTo t
  match s.sess? sess with
  | some x =>
    match x.subs.find? fun u => u.group == group with
    | some u => whenever (group == 11 || decide (u.due ≤ s.now)) s (telemSend x u sensors s)
    | none => ok s
  | none => ok s

/-! Recovery. -/

/-- A datagram of an image to the ROM of Lookout k in recovery (R539): answered with ACK; the completed image is checked with the verdict of the engines. -/
def execRecoveryImage (t k peer seq msgid frag nfrag : Nat) (body : List Byte) (v : Verdict) (s : State) : Out :=
  let s := s.upTo t
  let got := SMap.put (SMap.get [] s.mgmt.recovery k) (256 * msgid + frag) body
  let s1 := { s with mgmt.recovery := SMap.put s.mgmt.recovery k got }.emit (.ccp peer 0 ctAck 0 0 0 1 (toBytesLE 8 (seq + 1)))
  let image := (got.map Prod.snd).flatten
  whenever (decide (k < 2) && s.boot.recovery.contains k && decide (1 ≤ nfrag) && decide (nfrag ≤ 256) && decide (frag < nfrag)) s
    (if imageComplete image then recoveryDone k peer image v s1 else s1)

/-! PTP and PPS (R541-R544). -/

/-- A Sync with its offset: package time less PTP time, in ns. -/
def syncOffset (offset : Int) (s : State) : State :=
  let step := max 1 (s.fget LK_PTP_CFG.STEP_US [0]) * 1000
  let s := s.fset LK_PTP_STATUS.OFFSET [0] (ofInt 32 (max (-(2 ^ 31 : Int)) (min (2 ^ 31 - 1) offset)))
  let n := if offset.natAbs < 100 then min 16 (s.mgmt.goodSyncs + 1) else 0
  let s := { s with mgmt.goodSyncs := n, mgmt.lastSync := some s.now }
  let s := if n = 16 then s.fset LK_PTP_STATUS.STATE [0] 2 else s
  if step ≤ offset.natAbs then
    ({ s with mgmt.stepOwed := -(offset.tdiv 1000 * 1000), mgmt.slew := -(offset.tmod 1000) }).fset LK_PTP_STATUS.STEPS [0] (s.fget LK_PTP_STATUS.STEPS [0] + 1)
  else { s with mgmt.slew := -offset }

def execSync (t : Nat) (offset : Int) (s : State) : Out :=
  let s := s.upTo t
  whenever (portRuns s && s.fget LK_PTP_CFG.SRC [0] != 0 && s.pkgRuns) s (syncOffset offset s)

def execSyncLoss (t : Nat) (s : State) : Out :=
  let s := s.upTo t
  whenever (s.fget LK_PTP_CFG.SRC [0] != 0 && s.mgmt.lastSync.any fun a => decide (a + 3000000000 ≤ s.now)) s
    ({ s with mgmt.goodSyncs := 0, mgmt.slew := 0 }.fset LK_PTP_STATUS.STATE [0] 3)

/-- A rising edge of PPS_IN marks a whole second (R544); one more than 100 ns off sets PPS_FAULT until 16 in a row agree. -/
def execPpsIn (t : Nat) (s : State) : Out :=
  let s := s.upTo t
  let e := s.pkg % 1000000000
  let off : Int := if e < 500000000 then (e : Int) else (e : Int) - 1000000000
  let fault := s.fget LK_PTP_STATUS.PPS_FAULT [0] == 1
  whenever (s.fget LK_PTP_CFG.SRC [0] == 2 && s.pkgRuns) s
    (if 100 < off.natAbs then { s with mgmt.goodEdges := 0 }.fset LK_PTP_STATUS.PPS_FAULT [0] 1
     else if fault then
       if 15 ≤ s.mgmt.goodEdges then { s with mgmt.goodEdges := 0 }.fset LK_PTP_STATUS.PPS_FAULT [0] 0 else { s with mgmt.goodEdges := s.mgmt.goodEdges + 1 }
     else { s with mgmt.slew := -off })

/-- The PPS_OUT pad rises at each whole second of package time and falls 100 ms later (R544). -/
def execPpsOut (t : Nat) (s : State) : Out :=
  let s := s.upTo t
  if s.fget LK_PTP_CFG.PPS_OUT [0] = 1 ∧ s.pkgRuns ∧ s.mgmt.ppsSec < s.pkg / 1000000000 ∧ s.pkg % 1000000000 ≤ 10 then
    ok ({ s with mgmt.ppsSec := s.pkg / 1000000000, mgmt.ppsHigh := some s.now }.emit (.pps true))
  else match s.mgmt.ppsHigh with
    | some h => whenever (decide (h + 100000000 ≤ s.now)) s ({ s with mgmt.ppsHigh := none }.emit (.pps false))
    | none => ok s

/-! The port. -/

def execInstall (p : Prog) (t : Nat) (s : State) : Out := ok (settle (cmdField p LK_MKA_CFG.INSTALL [0] 1 (s.upTo t)))

/-- The mode that the Lookouts in service give (Table 15.1). -/
def mgmtMode (s : State) : Nat := boolNat (s.boot.lookoutUp.contains 0) + 2 * boolNat (s.boot.lookoutUp.contains 1)

/-- A change of mode retrains the port (R537). -/
def execPortModeChange (t : Nat) (s : State) : Out :=
  let s := s.upTo t
  whenever (mgmtMode s != s.fget LK_MGT_STATUS.MODE [0]) s ({ s with mgmt.linkUp := false }.fset LK_MGT_STATUS.MODE [0] (mgmtMode s))

/-- The link is up, at boot or after a retrain. -/
def execMgmtPortLinkUp (t : Nat) (s : State) : Out :=
  let s := s.upTo t
  whenever (mgmtMode s != 0 && !s.mgmt.linkUp) s ({ s with mgmt.linkUp := true }.fset LK_MGT_STATUS.MODE [0] (mgmtMode s))

end Sys2Proof.Machine
end

