-- ==== Sys2Proof/Machine/ReduceSend.lean ====
section
/-! DEFINITION. The reduce, send and receive, and fence and barrier classes (R190-R192, R337, R369-R373, Tables 09.18 and 09.19). -/

namespace Sys2Proof.Machine

/-- Chunks added into an FP32 area, element by element in ascending order (R370). -/
def execRadd (sr : StrandRef) (w : Word) (s : State) : Out :=
  ok (issue 5 0x00 sr w (fun i st s => match fmtOf (i.fld 21 18) with
    | some f =>
      let n := (st.s i.src2).toNat
      let nb := n * f.chunkBytes
      let fb := 4 * (n * f.chunkElems)
      (match scratchAt s sr (i.fld 24 22) (st.s i.src1) nb 1 false, scratchAt s sr (i.fld 27 25) (st.s i.dst) fb 1 false, scratchAt s sr (i.fld 27 25) (st.s i.dst) fb 1 true with
      | .ok from_, .ok a, .ok _ =>
        if scratchBad s sr.copse sr.ctx sr.cu from_ nb || scratchBad s sr.copse sr.ctx sr.cu a fb then failWith sr .poison st.pc (countIssue sr s)
        else
          let xs := widenChunks f (s.readScratch sr.copse sr.ctx sr.cu from_ nb)
          let ys := bytesF32 (n * f.chunkElems) (s.readScratch sr.copse sr.ctx sr.cu a fb)
          retire sr (s.writeScratch sr.copse sr.ctx sr.cu a (f32Bytes (addVec ys xs)))
      | .error e, _, _ | _, .error e, _ | _, _, .error e => fault sr e (countIssue sr s))
    | none => s) s)

/-- The step of R337 by a program: an undeclared stream has no residual (R370). -/
def rstep (sr : StrandRef) (i : Ins) (st : Strand) (f : NFmt) (s : State) : State :=
  let word := (st.s i.src2).toNat
  let step := natBits word 31 0
  let stream := natBits word 43 32
  let n := (st.s (i.src2 + 1)).toNat
  let ob := (n + f.chunkElems - 1) / f.chunkElems * f.chunkBytes
  let declared := (s.ctx? sr.copse sr.ctx).map fun x => x.hdr.resid.any fun r => r.1 == stream
  let named := if declared = some true then some stream else none
  match scratchAt s sr (i.fld 27 25) (st.s i.src1) (4 * n) 1 false, scratchAt s sr (i.fld 24 22) (st.s i.dst) ob 1 true with
  | .ok a, .ok dest =>
    if scratchBad s sr.copse sr.ctx sr.cu a (4 * n) then failWith sr .poison st.pc (countIssue sr s)
    else match residStart sr.copse named step n (bytesF32 n (s.readScratch sr.copse sr.ctx sr.cu a (4 * n))) s with
      | (none, s) => failWith sr .poison st.pc (countIssue sr s)
      | (some (y, _), s) =>
        let fill := ob / f.chunkBytes * f.chunkElems - n
        match convertFor sr f (i.src2 + 2) (piecesOf f.block ((n + fill) / f.block) (y ++ List.replicate fill 0)) s with
        | .ok (o, s) =>
          let s := residEnd sr.copse named step n y ((o.blocks.map (OutBlock.values f)).flatten) s
          retire sr (s.writeScratch sr.copse sr.ctx sr.cu dest (packChunks f o.blocks))
        | .error e => fault sr e (countIssue sr s)
  | .error e, _ | _, .error e => fault sr e (countIssue sr s)

def execRstep (sr : StrandRef) (w : Word) (s : State) : Out :=
  ok (issue 5 0x01 sr w (fun i st s => match fmtOf (i.fld 21 18) with
    | some f => rstep sr i st f s
    | none => s) s)

/-! Messages (R371, R372). -/

/-- A message of a strand from its scratchpad, or the reason of the fault; none for a length outside 16 to 65,536 or not a multiple of 16. -/
def sendBody (sr : StrandRef) (i : Ins) (st : Strand) (s : State) : Option (Except Nat (RxWait × Bool)) :=
  let n := (st.s i.src2).toNat
  if n = 0 ∨ 65536 < n ∨ n % 16 ≠ 0 then none
  else some (match scratchAt s sr (i.fld 27 25) (st.s i.dst) n 1 false, s.ctx? sr.copse sr.ctx with
    | .ok a, some x =>
      .ok ({ sender := BitVec.ofNat 64 (ctxHandle s sr.copse sr.ctx), tag := i.fld 15 0, bytes := s.readScratch sr.copse sr.ctx sr.cu a n,
             src := .strand sr .none (statOf i i.src2) st.pc, clr := x.clr, epoch := s.epoch }, scratchBad s sr.copse sr.ctx sr.cu a n)
    | .ok _, none => .error rDesc
    | .error e, _ => .error e)

/-- Send a message of a strand. -/
def sendOp (sr : StrandRef) (i : Ins) (st : Strand) (send : RxWait → State → State) (s : State) : State :=
  match sendBody sr i st s with
  | none => refuseNow sr i .denied s
  | some (.error e) => fault sr e (countIssue sr s)
  | some (.ok (m, bad)) => retire sr (if bad then endReq m.src m.clr m.epoch 0 .poison [] false s else send m s)

def execSend (sr : StrandRef) (w : Word) (s : State) : Out :=
  ok (fabOp 6 0x00 sr w (fun i st s => sendOp sr i st (fun m s => sendMessage m (st.s i.src1).toNat (reqDie sr) s) s) s)

def execSendg (sr : StrandRef) (w : Word) (s : State) : Out :=
  ok (fabOp 6 0x01 sr w (fun i st s => match ctxDesc s sr (i.fld 24 22) with
    | some d => if d.kind = 4 then sendOp sr i st (fun m s => sendGroup m d.base (reqDie sr) s) s else fault sr rDesc (countIssue sr s)
    | none => fault sr rDesc (countIssue sr s)) s)

/-- RECV on a queue with a message (R372). -/
def takeMessage (sr : StrandRef) (i : Ins) (st : Strand) (x : Ctx) (d : Desc) (m : RxMsg) (r : List RxMsg) (s : State) : State :=
  if (st.s i.src2).toNat < m.len then retire sr (s.setS sr i.src2 (BitVec.ofNat 64 (m.len + 2 ^ 63)))
  else match scratchAt s sr (i.fld 27 25) (st.s i.dst) m.len 1 true with
    | .error e => fault sr e (countIssue sr s)
    | .ok a =>
      let bs := readRing x.scratch (scratchBase 0 + d.base) d.len m.at_ (16 + m.len)
      let s := (s.modCtx sr.copse sr.ctx fun x => { x with rx := r }).writeScratch sr.copse sr.ctx sr.cu a (bs.drop 16)
      let s := ((s.setS sr i.src2 (BitVec.ofNat 64 m.len)).setS sr i.src1 (BitVec.ofNat 64 (field bs 0 8))).setS sr (i.dst + 1) (BitVec.ofNat 64 (field bs 12 4))
      retire sr (pumpRing x.rxWait.length sr.copse sr.ctx s)

def execRecv (sr : StrandRef) (w : Word) (s : State) : Out :=
  ok (fabOp 6 0x02 sr w (fun i st s => match s.ctx? sr.copse sr.ctx with
    | some x => (match x.rx, ringOf x with
      | m :: r, some d => takeMessage sr i st x d m r s
      | _, _ => if natBit i.imm 28 then retire sr (s.setS sr i.src2 0) else waitFor sr .recv s)
    | none => s) s)

/-! Fences and barriers (R190-R192, R367, R373). -/

def execFence (sr : StrandRef) (w : Word) (s : State) : Out := ok (fabOp 7 0x00 sr w (fun i _ s => fenceThen sr (i.fld 2 0) (retire sr) s) s)

def execRel (sr : StrandRef) (w : Word) (s : State) : Out :=
  ok (fabOp 7 0x01 sr w (fun i st s => fenceThen sr (i.fld 2 0) (fun s => retire sr (storeLine sr i (i.fld 22 3) st s)) s) s)

def execAcq (sr : StrandRef) (w : Word) (s : State) : Out :=
  ok (fabOp 7 0x02 sr w (fun i st s => thenFence sr (i.fld 2 0) st (loadLine sr i (i.fld 22 3) false st) s) s)

def execRela (sr : StrandRef) (w : Word) (s : State) : Out :=
  ok (fabOp 7 0x03 sr w (fun i st s => fenceThen sr (i.fld 2 0) (fun s => retire sr (atomWord sr i (i.fld 18 3) st s)) s) s)

def execAcqa (sr : StrandRef) (w : Word) (s : State) : Out :=
  ok (fabOp 7 0x04 sr w (fun i st s => thenFence sr (i.fld 2 0) st (atomWord sr i (i.fld 18 3) st) s) s)

def execBar (sr : StrandRef) (w : Word) (s : State) : Out :=
  ok (issue 7 0x08 sr w (fun i _ s => afterStrand sr.copse sr.ctx (releaseBar sr.copse sr.ctx (waitFor sr (.bar (i.fld 3 0)) s))) s)

def execWaitm (sr : StrandRef) (w : Word) (s : State) : Out :=
  ok (issue 7 0x09 sr w (fun i _ s => if outstanding s sr ≤ i.fld 15 0 then retire sr s else waitFor sr (.waitm (i.fld 15 0)) s) s)

end Sys2Proof.Machine
end

