-- ==== Sys2Proof/Machine/Scalar.lean ====
section
/-! DEFINITION. The scalar and control classes (R356, R357, Tables 09.8 to 09.10) and the bay instructions. -/

namespace Sys2Proof.Machine

/-- A scalar operation on s[SRC1] and s[SRC2] (Table 09.8). -/
def scalarOp (op : Nat) (sr : StrandRef) (w : Word) (f : Word → Word → Word) (s : State) : State :=
  issueReg 0 op sr w (fun i st _ => st.setS i.dst (f (st.s i.src1) (st.s i.src2))) s

/-- A condition of Table 09.9. -/
def ccHolds (cc : Nat) (a b : Word) : Bool :=
  match cc with
  | 0 => a == b
  | 1 => a != b
  | 2 => decide (a.toInt < b.toInt)
  | 3 => decide (b.toInt ≤ a.toInt)
  | 4 => decide (a.toNat < b.toNat)
  | _ => decide (b.toNat ≤ a.toNat)

/-- PLOG (Table 09.8). -/
def plog (op : Nat) (a b : Bool) : Bool :=
  match op with
  | 0 => a && b
  | 1 => a || b
  | 2 => a != b
  | _ => a && !b

/-- Bits of a word, most significant first. -/
def wordBits (w : Word) : List Bool := (List.range 64).map fun k => natBit w.toNat (63 - k)

def clz (w : Word) : Nat := ((wordBits w).takeWhile fun b => !b).length

def popc (w : Word) : Nat := ((wordBits w).filter id).length

def execNop (sr : StrandRef) (w : Word) (s : State) : Out := ok (issueReg 0 0x00 sr w (fun _ st _ => st) s)

def execAdd (sr : StrandRef) (w : Word) (s : State) : Out := ok (scalarOp 0x01 sr w (fun a b => a + b) s)

def execSub (sr : StrandRef) (w : Word) (s : State) : Out := ok (scalarOp 0x02 sr w (fun a b => a - b) s)

def execMul (sr : StrandRef) (w : Word) (s : State) : Out := ok (scalarOp 0x03 sr w (fun a b => a * b) s)

def execMulhu (sr : StrandRef) (w : Word) (s : State) : Out :=
  ok (scalarOp 0x04 sr w (fun a b => BitVec.ofNat 64 (a.toNat * b.toNat / 2 ^ 64)) s)

def execAnd (sr : StrandRef) (w : Word) (s : State) : Out := ok (scalarOp 0x05 sr w (fun a b => a &&& b) s)

def execOr (sr : StrandRef) (w : Word) (s : State) : Out := ok (scalarOp 0x06 sr w (fun a b => a ||| b) s)

def execXor (sr : StrandRef) (w : Word) (s : State) : Out := ok (scalarOp 0x07 sr w (fun a b => a ^^^ b) s)

def execShl (sr : StrandRef) (w : Word) (s : State) : Out := ok (scalarOp 0x08 sr w (fun a b => a <<< (b.toNat % 64)) s)

def execShr (sr : StrandRef) (w : Word) (s : State) : Out := ok (scalarOp 0x09 sr w (fun a b => a >>> (b.toNat % 64)) s)

def execSar (sr : StrandRef) (w : Word) (s : State) : Out := ok (scalarOp 0x0A sr w (fun a b => a.sshiftRight (b.toNat % 64)) s)

def execMins (sr : StrandRef) (w : Word) (s : State) : Out := ok (scalarOp 0x0B sr w (fun a b => if a.toInt ≤ b.toInt then a else b) s)

def execMaxs (sr : StrandRef) (w : Word) (s : State) : Out := ok (scalarOp 0x0C sr w (fun a b => if a.toInt ≤ b.toInt then b else a) s)

def execMinu (sr : StrandRef) (w : Word) (s : State) : Out := ok (scalarOp 0x0D sr w (fun a b => if a.toNat ≤ b.toNat then a else b) s)

def execMaxu (sr : StrandRef) (w : Word) (s : State) : Out := ok (scalarOp 0x0E sr w (fun a b => if a.toNat ≤ b.toNat then b else a) s)

def execAddi (sr : StrandRef) (w : Word) (s : State) : Out :=
  ok (issueReg 0 0x10 sr w (fun i st _ => st.setS i.dst (st.s i.src1 + BitVec.ofInt 64 (i.sfld 28 0))) s)

def execMovz (sr : StrandRef) (w : Word) (s : State) : Out :=
  ok (issueReg 0 0x12 sr w (fun i st _ => st.setS i.dst (BitVec.ofNat 64 (i.fld 28 13 * 2 ^ (16 * i.fld 12 11)))) s)

def execMovk (sr : StrandRef) (w : Word) (s : State) : Out :=
  ok (issueReg 0 0x13 sr w (fun i st _ => st.setS i.dst (setBits (st.s i.dst) (16 * i.fld 12 11 + 15) (16 * i.fld 12 11) (i.fld 28 13))) s)

def execCmp (sr : StrandRef) (w : Word) (s : State) : Out :=
  ok (issueReg 0 0x14 sr w (fun i st _ => st.setP i.dst (ccHolds (i.fld 2 0) (st.s i.src1) (st.s i.src2))) s)

def execCmpi (sr : StrandRef) (w : Word) (s : State) : Out :=
  ok (issueReg 0 0x15 sr w (fun i st _ => st.setP i.dst (ccHolds (i.fld 2 0) (st.s i.src1) (BitVec.ofInt 64 (i.sfld 28 3)))) s)

def execPlog (sr : StrandRef) (w : Word) (s : State) : Out :=
  ok (issueReg 0 0x16 sr w (fun i st _ => st.setP i.dst (plog (i.fld 1 0) (st.p i.src1) (st.p i.src2))) s)

def execClz (sr : StrandRef) (w : Word) (s : State) : Out :=
  ok (issueReg 0 0x17 sr w (fun i st _ => st.setS i.dst (BitVec.ofNat 64 (clz (st.s i.src1)))) s)

def execPopc (sr : StrandRef) (w : Word) (s : State) : Out :=
  ok (issueReg 0 0x18 sr w (fun i st _ => st.setS i.dst (BitVec.ofNat 64 (popc (st.s i.src1)))) s)

def execTime (sr : StrandRef) (w : Word) (s : State) : Out :=
  ok (issueReg 0 0x19 sr w (fun i st s => st.setS i.dst (BitVec.ofNat 64 s.pkg)) s)

def execSeta (sr : StrandRef) (w : Word) (s : State) : Out :=
  ok (issueReg 0 0x1A sr w (fun i st _ => { st with aregs := SMap.set 0 st.aregs i.dst ((st.s i.src1).toNat % 2 ^ 32) }) s)

def execBr (sr : StrandRef) (w : Word) (s : State) : Out := ok (issue 8 0x00 sr w (fun i st s => branchTo sr (branchTarget st.pc i) s) s)

def execBrr (sr : StrandRef) (w : Word) (s : State) : Out := ok (issue 8 0x01 sr w (fun i st s => branchTo sr (some (st.s i.src1).toNat) s) s)

def execCall (sr : StrandRef) (w : Word) (s : State) : Out :=
  ok (issue 8 0x02 sr w (fun i st s => branchTo sr (branchTarget st.pc i) (s.setS sr i.dst (BitVec.ofNat 64 (st.pc + 8)))) s)

def execEndStrand (sr : StrandRef) (w : Word) (s : State) : Out := ok (issue 8 0x03 sr w (fun _ _ s => endStrand sr (countIssue sr s)) s)

/-! Bays (R301, R373). -/

/-- Bays that a context holds on a CU. -/
def heldBays (x : Ctx) (cu : Nat) : List Nat :=
  x.strands.filterMap fun e => if e.1 / 1024 = cu then e.2.bay else none

/-- A bay of a CU that is free and zeroed: one of 16 that no resident context holds and none of which is being zeroed. Its number is the lowest that the context does
not use on the CU. -/
def freeBayOf (s : State) (sr : StrandRef) : Option Nat :=
  let held := ((residents s sr.copse).map fun e => (heldBays e.2 sr.cu).length).sum
  let zeroing := ((s.copse sr.copse).zeroing.filter fun z => decide (z.1 = sr.cu ∧ s.now < z.2.2 + 10)).length
  match s.ctx? sr.copse sr.ctx with
  | some x => if held + zeroing < 16 then (lowestFree 16 1 (heldBays x sr.cu)).head? else none
  | none => none

/-- A strand takes a bay, which reads as zeros. -/
def takeBay (sr : StrandRef) (b : Nat) (s : State) : State :=
  (s.modCtx sr.copse sr.ctx fun x => { x with bays := clearRange x.bays (bayBase sr b) 16384 }).modStrand sr fun st => { st with bay := some b }

def bayAcquire (sr : StrandRef) (st : Strand) (s : State) : State :=
  match s.ctx? sr.copse sr.ctx with
  | some x =>
    let c := s.copse sr.copse
    if st.bay.isSome then retire sr s
    else if x.hdr.bays ≤ (heldBays x sr.cu).length then fault sr rBays (countIssue sr s)
    else match if c.bayQ.any fun q => q.cu == sr.cu then none else freeBayOf s sr with
      | some b => retire sr (takeBay sr b s)
      | none => waitFor sr .bay ((s.fadd GL_CNT_ISSUE.BAY_WAIT (cuIx sr) 1).setCopse sr.copse { c with bayQ := c.bayQ ++ [sr] })
  | none => s

def execBayacq (sr : StrandRef) (w : Word) (s : State) : Out := ok (issue 8 0x04 sr w (fun _ st s => bayAcquire sr st s) s)

def execBayrel (sr : StrandRef) (w : Word) (s : State) : Out :=
  ok (issue 8 0x05 sr w (fun _ st s => match st.bay with
    | some b => retire sr ((freeBay sr b s).modStrand sr fun st => { st with bay := none })
    | none => retire sr s) s)

def execSetcvt (sr : StrandRef) (w : Word) (s : State) : Out :=
  ok (issueReg 8 0x06 sr w (fun i st _ => { st with rmode := i.fld 1 0, smode := i.fld 3 2, promoEn := i.fld 4 4 == 1, promoN := i.fld 10 5 }) s)

/-- May the request at a place of the queue be served: a resident context that holds fewer bays than it declares, and a bay for it? -/
def bayServes (s : State) (sr : StrandRef) : Option Nat :=
  match s.ctx? sr.copse sr.ctx with
  | some x => if x.resident && decide ((heldBays x sr.cu).length < x.hdr.bays) then freeBayOf s sr else none
  | none => none

/-- The oldest waiting request of a CU takes a bay that has been zeroed (R301); one whose context is not resident, or holds its declared bays, waits on. -/
def execBayGrant (t copse cu : Nat) (s : State) : Out :=
  let s := s.upTo t
  let c := s.copse copse
  match c.bayQ.find? fun q => q.cu == cu && (bayServes s q).isSome with
  | some q =>
    match bayServes s q with
    | some b => ok (retire q (takeBay q b (s.setCopse copse { c with bayQ := c.bayQ.erase q })))
    | none => ok s
  | none => ok s

end Sys2Proof.Machine
end

