-- ==== Sys2Proof/Machine/Sched.lean ====
section
/-! DEFINITION. The commands of the egress scheduler that come with time (07): refills and gate entries. -/

namespace Sys2Proof.Machine

/-- The policers that hold a transaction. -/
def holdingPols (s : State) : List Nat := (s.sched.held.filterMap HeldReq.pol).eraseDups

/-- The time held so far is counted to the policers that hold transactions (R284). -/
def countHolds (s : State) : State := (holdingPols s).foldl (fun s k => countHold k true s) s

/-- Every shaper and policer refills (R274, R283). -/
def refillAll (s : State) : State :=
  let s := allLports.foldl (fun s lp => refillPort lp s) s
  (List.range 8).foldl (fun s g => (List.range 128).foldl (fun s c => refillClr g c s) s) s

/-- A refill instant, each 1,000 ns of package time; held transactions try again. -/
def execShaperRefill (t : Nat) (s : State) : Out :=
  let s := s.upTo t
  whenever (s.pkg / 1000 != s.sched.refill) s (settle (retryHeld (refillAll (countHolds { s with sched.refill := s.pkg / 1000 }))))

/-- An entry of the gate list in force ends (R278, R281). -/
def execGateEntryEnd (t lp : Nat) (s : State) : Out := ok (settle (gateTick lp (s.upTo t)))

/-- A pending gate list takes over at TS (Table 07.1). -/
def execGateSwitch (t lp : Nat) (s : State) : Out :=
  let s := s.upTo t
  match (s.schedPort lp).switchAt with
  | some ts => whenever (decide (ts ≤ s.pkg)) s (settle (gateSwitch lp s))
  | none => ok s

end Sys2Proof.Machine
end

