-- ==== Sys2Proof/Machine/Tile.lean ====
section
/-! DEFINITION. The tile class, the expander load class and the events of the expander (R311-R317, R363, R364, R425-R433). -/

namespace Sys2Proof.Machine

/-- The 1 KiB of a tile register (R303). -/
def readT (s : State) (sr : StrandRef) (t : Nat) : List Byte := s.readBay sr (8192 + 1024 * t) 1024

/-- An operand of a TMMA out of a tile register, its scales in segment m of v. -/
def tilePanel (s : State) (sr : StrandRef) (f : NFmt) (t v m : Nat) : Panel :=
  { fmt := f, elems := (readT s sr t).take f.panelElems, scales := if f.scaled then s.readBay sr (256 * v + 64 * m) f.panelScales else [], recs := [] }

/-- The product of two panels into accumulator a; overflows of fused adds count in SAT (R317). -/
def multiplyInto (sr : StrandRef) (a : Nat) (pa pb : Panel) (s : State) : State :=
  let r := tileMul pa pb (readAcc s sr a)
  (s.writeBay sr (4096 * a) (f32Bytes r.1)).modCtx sr.copse sr.ctx fun x => { x with sat := x.sat + r.2 }

/-- The product where the panel's format is not the one that the TMMA names, for which the spec states no result: free values. -/
def freeAcc (sr : StrandRef) (a : Nat) (s : State) : State :=
  { s.writeBay sr (4096 * a) (f32Bytes ((List.range 1024).map fun k => BitVec.ofNat 32 (Config.freeNat (s.draws + k)))) with draws := s.draws + 1024 }

/-- The cycles that the tile engine waited for the expander: the model keeps no cycles, so a free value (R435). -/
def countStall (sr : StrandRef) (st : Strand) (s : State) : State :=
  if st.wait = .stream then
    ((s.fadd XP_CNT.STALL (cuIx sr) (Config.freeNat s.draws)).modCtx sr.copse sr.ctx fun x => { x with expStall := x.expStall + Config.freeNat s.draws }).draw
  else s

/-- A TMMA whose A comes from the stream: the stream's next panel, poisoned or not; it waits while the block decodes (R425, R430). -/
def streamTmma (sr : StrandRef) (i : Ins) (st : Strand) (fa : NFmt) (pb : Panel) (s : State) : State :=
  match s.stream sr.copse sr.cu with
  | some x =>
    if x.ctx ≠ sr.ctx ∨ x.owner ≠ strandKey sr then fault sr rStream (countIssue sr s)
    else
      let b := x.opened
      if b.phase < 2 then waitFor sr .stream s
      else
        let s := drawPanel sr.copse sr.cu (countStall sr st s)
        if b.phase = 3 then failWith sr (Status.ofCode b.status) st.pc (countIssue sr s)
        else if fa = b.nfmt then
          retire sr (multiplyInto sr i.dst (Panel.ofBytes fa ((b.raw.drop (fa.panelBytes * b.drawn)).take fa.panelBytes)) pb s)
        else retire sr (freeAcc sr i.dst s)
  | none => fault sr rStream (countIssue sr s)

def execTmma (sr : StrandRef) (w : Word) (s : State) : Out :=
  ok (issue 2 0x00 sr w (fun i st s => match fmtOf (i.fld 28 25), fmtOf (i.fld 24 21) with
    | some fa, some fb =>
      let pb := tilePanel s sr fb i.src2 (i.fld 13 9) (i.fld 8 7)
      if i.src1 = 63 then streamTmma sr i st fa pb s
      else retire sr (multiplyInto sr i.dst (tilePanel s sr fa i.src1 (i.fld 20 16) (i.fld 15 14)) pb s)
    | _, _ => s) s)

def execTzero (sr : StrandRef) (w : Word) (s : State) : Out :=
  ok (issue 2 0x01 sr w (fun i _ s => retire sr (s.writeBay sr (4096 * i.dst) (List.replicate 4096 0))) s)

def execTmov (sr : StrandRef) (w : Word) (s : State) : Out :=
  ok (issue 2 0x02 sr w (fun i _ s => retire sr (s.writeBay sr (8192 + 1024 * i.dst) (s.readBay sr (256 * i.src1) 1024))) s)

def execTmovv (sr : StrandRef) (w : Word) (s : State) : Out :=
  ok (issue 2 0x03 sr w (fun i _ s => retire sr (s.writeBay sr (256 * i.dst) (readT s sr i.src1))) s)

/-! The expander's stream (R364, R429-R432). -/

/-- What XSTART names: the descriptor's index, the block's offset in it, or the reason of the fault. -/
def xstartAt (s : State) (sr : StrandRef) (i : Ins) (st : Strand) : Except Nat (Nat × Nat) :=
  let a := i.fld 24 22
  let off := (st.s i.src1 + BitVec.ofNat 64 (i.fld 21 0)).toNat
  match ctxDesc s sr a with
  | some d =>
    if (d.kind ≠ 1 ∧ d.kind ≠ 2) ∨ !natBit d.rights 0 ∨ d.len < off + 16 then .error rDesc
    else if (d.base + off) % 16 ≠ 0 then .error rAlign
    else .ok (st.a a, off)
  | none => .error rDesc

def execXstart (sr : StrandRef) (w : Word) (s : State) : Out :=
  ok (settle (issue 3 0x00 sr w (fun i st s => match xstartAt s sr i st with
    | .error e => fault sr e (countIssue sr s)
    | .ok (d, off) =>
      let b : XBlock := { desc := d, off := off, fmt := i.fld 28 25, want := (st.s i.src2).toNat, drawn := 0, panels := 0, phase := 0, status := 0, raw := [], lines := [], asked := [] }
      match s.stream sr.copse sr.cu with
      | none =>
        retire sr (startDecode sr.copse sr.cu false (s.setStream sr.copse sr.cu { ctx := sr.ctx, owner := strandKey sr, opened := b, queued := none }))
      | some x =>
        if x.ctx = sr.ctx ∧ x.owner = strandKey sr ∧ x.queued.isNone then retire sr (s.setStream sr.copse sr.cu { x with queued := some b })
        else waitFor sr .stream s) s))

/-- Panels not yet drawn from a block; how many a block of unknown length holds is open while its header is unread. -/
def leftOf (b : XBlock) (s : State) : Nat × State :=
  if b.phase < 2 ∧ b.want = 0 then (Config.freeNat s.draws, s.draw) else (b.left, s)

def execXstat (sr : StrandRef) (w : Word) (s : State) : Out :=
  ok (issue 3 0x01 sr w (fun i _ s => match s.stream sr.copse sr.cu with
    | some x =>
      let (n, s) := leftOf x.opened s
      (match x.queued with
      | some q => let (m, s) := leftOf q s
                  retire sr (s.setS sr i.dst (BitVec.ofNat 64 (n + m)))
      | none => retire sr (s.setS sr i.dst (BitVec.ofNat 64 n)))
    | none => retire sr (s.setS sr i.dst 0)) s)

def execXcancel (sr : StrandRef) (w : Word) (s : State) : Out :=
  ok (issue 3 0x02 sr w (fun _ _ s => match s.stream sr.copse sr.cu with
    | some x => retire sr (if x.ctx = sr.ctx ∧ x.owner = strandKey sr then s.dropStream sr.copse sr.cu else s)
    | none => retire sr s) s)

/-- A block that yields no panel gives up its place at once. -/
def passEmpty (copse cu : Nat) (s : State) : State :=
  match s.stream copse cu with
  | some x => if 2 ≤ x.opened.phase ∧ x.opened.panels ≤ x.opened.drawn then drawPanel copse cu s else s
  | none => s

/-- The decode of a block ends, D cycles after it started (R433): its panels are released, or poisoned. -/
def execExpanderDecodeDone (t copse cu : Nat) (s : State) : Out :=
  let s := s.upTo t
  ok (settle (passEmpty copse cu (decodeDone copse cu (expFetch copse cu s))))

/-- A queued block starts decoding once the decoder is idle and a half of the store is free; so does one that has become the open block (R433). -/
def execQueuedDecodeStart (t copse cu : Nat) (s : State) : Out :=
  let s := s.upTo t
  match s.stream copse cu with
  | some x =>
    if x.opened.phase = 0 then ok (settle (startDecode copse cu false s))
    else if 2 ≤ x.opened.phase ∧ (x.queued.map XBlock.phase) = some 0 then ok (settle (startDecode copse cu true s))
    else ok s
  | none => ok s

end Sys2Proof.Machine
end

