-- ==== Sys2Proof/Machine/Dispatch.lean ====
section
/-! DEFINITION. Dispatch: one arm for each command, each a call of its meaning. -/

namespace Sys2Proof.Machine

/-- A command's effect on everything but the queue. -/
def exec (i : Instr) (s : State) : Host.Outcome State Fault Refusal :=
  match i with
  | .vinKeepaliveStart t mv => Sys2Proof.Machine.execVinKeepaliveStart t mv s
  | .pwResetExit t bootHold => Sys2Proof.Machine.execPwResetExit t bootHold s
  | .clkAoHandover t clean => Sys2Proof.Machine.execClkAoHandover t clean s
  | .aoFallback t silentPeriods => Sys2Proof.Machine.execAoFallback t silentPeriods s
  | .keepaliveStop t mv => Sys2Proof.Machine.execKeepaliveStop t mv s
  | .wakeDecisionCold t mv heldNs => Sys2Proof.Machine.execWakeDecisionCold t mv heldNs s
  | .busSoftstart t mv heldNs => Sys2Proof.Machine.execBusSoftstart t mv heldNs s
  | .busRun t busMv => Sys2Proof.Machine.execBusRun t busMv s
  | .brownoutBus t busMv ns => Sys2Proof.Machine.execBrownoutBus t busMv ns s
  | .vinLow t mv ns => Sys2Proof.Machine.execVinLow t mv ns s
  | .vinHigh t mv ns => Sys2Proof.Machine.execVinHigh t mv ns s
  | .brownoutVin t mv ns => Sys2Proof.Machine.execBrownoutVin t mv ns s
  | .overvoltageVin t mv ns => Sys2Proof.Machine.execOvervoltageVin t mv ns s
  | .poreset t ns => Sys2Proof.Machine.execPoreset t ns s
  | .poresetRelease t bootHold => Sys2Proof.Machine.execPoresetRelease t bootHold s
  | .brownoutKeepalive t railMv ns => Sys2Proof.Machine.execBrownoutKeepalive t railMv ns s
  | .refclkLoss t ns => Sys2Proof.Machine.execRefclkLoss t ns s
  | .refclkLossReset t => Sys2Proof.Machine.execRefclkLossReset t s
  | .targetPortsOnly p t => Sys2Proof.Machine.execTargetPortsOnly p t s
  | .targetStandby p t => Sys2Proof.Machine.execTargetStandby p t s
  | .targetActive p t => Sys2Proof.Machine.execTargetActive p t s
  | .refuserCheckEnd t => Sys2Proof.Machine.execRefuserCheckEnd t s
  | .contextSwapOutEnd t => Sys2Proof.Machine.execContextSwapOutEnd t s
  | .portsOnlyEntryEnd t => Sys2Proof.Machine.execPortsOnlyEntryEnd t s
  | .pdNoticeSend t => Sys2Proof.Machine.execPdNoticeSend t s
  | .standbyCellDrop t => Sys2Proof.Machine.execStandbyCellDrop t s
  | .transmittersOff t => Sys2Proof.Machine.execTransmittersOff t s
  | .understorySelfRefresh t => Sys2Proof.Machine.execUnderstorySelfRefresh t s
  | .domainsOff t => Sys2Proof.Machine.execDomainsOff t s
  | .standbyEntryEnd t => Sys2Proof.Machine.execStandbyEntryEnd t s
  | .wakeComparatorTrip t comp level ticks => Sys2Proof.Machine.execWakeComparatorTrip t comp level ticks s
  | .wakeComparatorRearm t comp level => Sys2Proof.Machine.execWakeComparatorRearm t comp level s
  | .workAdmitWake t => Sys2Proof.Machine.execWorkAdmitWake t s
  | .activeEntryRetry t => Sys2Proof.Machine.execActiveEntryRetry t s
  | .cutWindowEnd t avgW maxTemp die => Sys2Proof.Machine.execCutWindowEnd t avgW maxTemp die s
  | .cutApply t => Sys2Proof.Machine.execCutApply t s
  | .thermtrip t die temp ns => Sys2Proof.Machine.execThermtrip t die temp ns s
  | .dieThermalEvent t die temp => Sys2Proof.Machine.execDieThermalEvent t die temp s
  | .cuClockGate t cu idleCycles => Sys2Proof.Machine.execCuClockGate t cu idleCycles s
  | .cuPowerGate t cu idleUs => Sys2Proof.Machine.execCuPowerGate t cu idleUs s
  | .copseClockGate t copse idleCycles => Sys2Proof.Machine.execCopseClockGate t copse idleCycles s
  | .copsePowerGate t copse idleUs => Sys2Proof.Machine.execCopsePowerGate t copse idleUs s
  | .unitWake t unit ns => Sys2Proof.Machine.execUnitWake t unit ns s
  | .bootRomStart t k => Sys2Proof.Machine.execBootRomStart t k s
  | .lookoutImageStart t k va vb va1 vb1 => Sys2Proof.Machine.execLookoutImageStart t k va vb va1 vb1 s
  | .activeLookoutChoice t => Sys2Proof.Machine.execActiveLookoutChoice t s
  | .bootApplyLookout t => Sys2Proof.Machine.execBootApplyLookout t s
  | .dieImageConfirm t die va vb va1 vb1 hashOk calOk => Sys2Proof.Machine.execDieImageConfirm t die va vb va1 vb1 hashOk calOk s
  | .dieCalibrationApply t => Sys2Proof.Machine.execDieCalibrationApply t s
  | .understoryChannelsTrained t => Sys2Proof.Machine.execUnderstoryChannelsTrained t s
  | .bootDone t => Sys2Proof.Machine.execBootDone t s
  | .seedbankResync t region src => Sys2Proof.Machine.execSeedbankResync t region src s
  | .setA p t dtype => Sys2Proof.Machine.execSetA p t dtype s
  | .setB p t dtype => Sys2Proof.Machine.execSetB p t dtype s
  | .raiseSvn p t dtype => Sys2Proof.Machine.execRaiseSvn p t dtype s
  | .nvCommit p t => Sys2Proof.Machine.execNvCommit p t s
  | .ucalCommit p t => Sys2Proof.Machine.execUcalCommit p t s
  | .nvCommitDone t ucal => Sys2Proof.Machine.execNvCommitDone t ucal s
  | .seedbankWindowWrite p t word value => Sys2Proof.Machine.execSeedbankWindowWrite p t word value s
  | .slotCheck t dtype slot v0 v1 => Sys2Proof.Machine.execSlotCheck t dtype slot v0 v1 s
  | .updateGo p t k dtype index slot => Sys2Proof.Machine.execUpdateGo p t k dtype index slot s
  | .updateLoaded t => Sys2Proof.Machine.execUpdateLoaded t s
  | .updateSwitched t => Sys2Proof.Machine.execUpdateSwitched t s
  | .updateRevert t => Sys2Proof.Machine.execUpdateRevert t s
  | .handoverGo p t k => Sys2Proof.Machine.execHandoverGo p t k s
  | .handoverDone t => Sys2Proof.Machine.execHandoverDone t s
  | .heartbeatLoss t lastBeat => Sys2Proof.Machine.execHeartbeatLoss t lastBeat s
  | .failoverResume t => Sys2Proof.Machine.execFailoverResume t s
  | .failoverEvents t => Sys2Proof.Machine.execFailoverEvents t s
  | .failoverAnswers t => Sys2Proof.Machine.execFailoverAnswers t s
  | .lookoutReloadDone t k => Sys2Proof.Machine.execLookoutReloadDone t k s
  | .flitRx t lp slots trailer => Sys2Proof.Machine.execFlitRx t lp slots trailer s
  | .replayTimer t lp => Sys2Proof.Machine.execReplayTimer t lp s
  | .replayLimit t lp => Sys2Proof.Machine.execReplayLimit t lp s
  | .eqReq t lane => Sys2Proof.Machine.execEqReq t lane s
  | .eqAck t lane => Sys2Proof.Machine.execEqAck t lane s
  | .spareReq t lane spare => Sys2Proof.Machine.execSpareReq t lane spare s
  | .spareAck t lane => Sys2Proof.Machine.execSpareAck t lane s
  | .narrowReq t lane => Sys2Proof.Machine.execNarrowReq t lane s
  | .narrowAck t lane => Sys2Proof.Machine.execNarrowAck t lane s
  | .restoreReq t lane => Sys2Proof.Machine.execRestoreReq t lane s
  | .restoreAck t lane => Sys2Proof.Machine.execRestoreAck t lane s
  | .remoteFault t lane => Sys2Proof.Machine.execRemoteFault t lane s
  | .params t lp node mode enc credits => Sys2Proof.Machine.execParams t lp node mode enc credits s
  | .pdHold t lp => Sys2Proof.Machine.execPdHold t lp s
  | .pdNotice t lp => Sys2Proof.Machine.execPdNotice t lp s
  | .keySwitch t lp gen => Sys2Proof.Machine.execKeySwitch t lp gen s
  | .keySwitchAck t lp gen => Sys2Proof.Machine.execKeySwitchAck t lp gen s
  | .spdm t lp off total bytes => Sys2Proof.Machine.execSpdm t lp off total bytes s
  | .retrainReq t lp => Sys2Proof.Machine.execRetrainReq t lp s
  | .trainingStart t lp power => Sys2Proof.Machine.execTrainingStart t lp power s
  | .trainingStepFail t lp => Sys2Proof.Machine.execTrainingStepFail t lp s
  | .trainingRetry t lp => Sys2Proof.Machine.execTrainingRetry t lp s
  | .trainingDone t lp => Sys2Proof.Machine.execTrainingDone t lp s
  | .spdmSessionDone t lp good root => Sys2Proof.Machine.execSpdmSessionDone t lp good root s
  | .spareTraining t f n node good => Sys2Proof.Machine.execSpareTraining t f n node good s
  | .laneFailed t lane los => Sys2Proof.Machine.execLaneFailed t lane los s
  | .laneDegraded t lane symbols => Sys2Proof.Machine.execLaneDegraded t lane symbols s
  | .spareSwapResume t lp => Sys2Proof.Machine.execSpareSwapResume t lp s
  | .mismatchDown t lane code => Sys2Proof.Machine.execMismatchDown t lane code s
  | .laneRecal p t f lane => Sys2Proof.Machine.execLaneRecal p t f lane s
  | .laneRecalDone t lane good => Sys2Proof.Machine.execLaneRecalDone t lane good s
  | .retrain p t port => Sys2Proof.Machine.execRetrain p t port s
  | .portEnable p t port => Sys2Proof.Machine.execPortEnable p t port s
  | .keyLifeExpiry t lp => Sys2Proof.Machine.execKeyLifeExpiry t lp s
  | .keyLifeWrite p t port value => Sys2Proof.Machine.execKeyLifeWrite p t port value s
  | .load t q => Sys2Proof.Machine.execLoad t q s
  | .store t q line => Sys2Proof.Machine.execStore t q line s
  | .narrowStore t q data => Sys2Proof.Machine.execNarrowStore t q data s
  | .atomic t q aop word operand compare => Sys2Proof.Machine.execAtomic t q aop word operand compare s
  | .blkRd t q len => Sys2Proof.Machine.execBlkRd t q len s
  | .blkWr t q data => Sys2Proof.Machine.execBlkWr t q data s
  | .pageRd t q => Sys2Proof.Machine.execPageRd t q s
  | .gather t q rowl count data => Sys2Proof.Machine.execGather t q rowl count data s
  | .hint t q prio pages => Sys2Proof.Machine.execHint t q prio pages s
  | .unitWr t q data => Sys2Proof.Machine.execUnitWr t q data s
  | .response t lp clr tag status seg last data => Sys2Proof.Machine.execResponse t lp clr tag status seg last data s
  | .txnTimeout t id => Sys2Proof.Machine.execTxnTimeout t id s
  | .tagRelease t lp tag => Sys2Proof.Machine.execTagRelease t lp tag s
  | .homeHoldEnd t id => Sys2Proof.Machine.execHomeHoldEnd t id s
  | .t1Admit t id => Sys2Proof.Machine.execT1Admit t id s
  | .stagingFill t lp clr tag status seg last data => Sys2Proof.Machine.execStagingFill t lp clr tag status seg last data s
  | .unitAssemblySend t clr node unit => Sys2Proof.Machine.execUnitAssemblySend t clr node unit s
  | .unitWrResponse t lp clr tag status => Sys2Proof.Machine.execUnitWrResponse t lp clr tag status s
  | .unitTimeout t clr node unit => Sys2Proof.Machine.execUnitTimeout t clr node unit s
  | .t2BucketRefill t => Sys2Proof.Machine.execT2BucketRefill t s
  | .subscribe t q => Sys2Proof.Machine.execSubscribe t q s
  | .unsubscribe t q => Sys2Proof.Machine.execUnsubscribe t q s
  | .inval t q count => Sys2Proof.Machine.execInval t q count s
  | .sequencerHold t => Sys2Proof.Machine.execSequencerHold t s
  | .sequencerAdmit t clr => Sys2Proof.Machine.execSequencerAdmit t clr s
  | .invAck t lp clr tag => Sys2Proof.Machine.execInvAck t lp clr tag s
  | .invLimitExpiry t id => Sys2Proof.Machine.execInvLimitExpiry t id s
  | .prepare t q => Sys2Proof.Machine.execPrepare t q s
  | .prepareTimeout t id => Sys2Proof.Machine.execPrepareTimeout t id s
  | .publish t q => Sys2Proof.Machine.execPublish t q s
  | .publishForward t id => Sys2Proof.Machine.execPublishForward t id s
  | .publishPoint t => Sys2Proof.Machine.execPublishPoint t s
  | .openRegion t q => Sys2Proof.Machine.execOpenRegion t q s
  | .closeRegion t q => Sys2Proof.Machine.execCloseRegion t q s
  | .rdS t q => Sys2Proof.Machine.execRdS t q s
  | .rdM t q => Sys2Proof.Machine.execRdM t q s
  | .upg t q => Sys2Proof.Machine.execUpg t q s
  | .wb t q line => Sys2Proof.Machine.execWb t q line s
  | .evict t q => Sys2Proof.Machine.execEvict t q s
  | .rspI t lp clr tag => Sys2Proof.Machine.execRspI t lp clr tag s
  | .rspS t lp clr tag => Sys2Proof.Machine.execRspS t lp clr tag s
  | .rspIData t lp clr tag line => Sys2Proof.Machine.execRspIData t lp clr tag line s
  | .rspSData t lp clr tag line => Sys2Proof.Machine.execRspSData t lp clr tag line s
  | .directoryWaitTimeout t id => Sys2Proof.Machine.execDirectoryWaitTimeout t id s
  | .snoopLimitExpiry t => Sys2Proof.Machine.execSnoopLimitExpiry t s
  | .domainReset p t d => Sys2Proof.Machine.execDomainReset p t d s
  | .domainResetPoison t d => Sys2Proof.Machine.execDomainResetPoison t d s
  | .domainResetDone t d => Sys2Proof.Machine.execDomainResetDone t d s
  | .unpoison p t d value => Sys2Proof.Machine.execUnpoison p t d value s
  | .cellAdmitRetry t g c => Sys2Proof.Machine.execCellAdmitRetry t g c s
  | .overflowRefill t lp cls => Sys2Proof.Machine.execOverflowRefill t lp cls s
  | .meshCellArrive t g e => Sys2Proof.Machine.execMeshCellArrive t g e s
  | .releaseNotice t sdie ddie c vc => Sys2Proof.Machine.execReleaseNotice t sdie ddie c vc s
  | .gapTimeout t sdie ddie c vc => Sys2Proof.Machine.execGapTimeout t sdie ddie c vc s
  | .skipNotice t sdie ddie c vc => Sys2Proof.Machine.execSkipNotice t sdie ddie c vc s
  | .meshHopReplay t g e => Sys2Proof.Machine.execMeshHopReplay t g e s
  | .meshWireFail t g e => Sys2Proof.Machine.execMeshWireFail t g e s
  | .meshSpraySuspend t g e => Sys2Proof.Machine.execMeshSpraySuspend t g e s
  | .meshSpareWireTrained t g e => Sys2Proof.Machine.execMeshSpareWireTrained t g e s
  | .meshHeldResend t g e => Sys2Proof.Machine.execMeshHeldResend t g e s
  | .meshEdgeUp t g e => Sys2Proof.Machine.execMeshEdgeUp t g e s
  | .gapTimerResume t g e => Sys2Proof.Machine.execGapTimerResume t g e s
  | .egressSelect t lp rd => Sys2Proof.Machine.execEgressSelect t lp rd s
  | .trailCfgWrite p t g c value => Sys2Proof.Machine.execTrailCfgWrite p t g c value s
  | .shaperRefill t => Sys2Proof.Machine.execShaperRefill t s
  | .shaperWrite p t lp k value => Sys2Proof.Machine.execShaperWrite p t lp k value s
  | .policerWrite p t g c n value => Sys2Proof.Machine.execPolicerWrite p t g c n value s
  | .gateEntryEnd t lp => Sys2Proof.Machine.execGateEntryEnd t lp s
  | .gateCommit p t lp => Sys2Proof.Machine.execGateCommit p t lp s
  | .gateSwitch t lp => Sys2Proof.Machine.execGateSwitch t lp s
  | .gateCancel p t lp => Sys2Proof.Machine.execGateCancel p t lp s
  | .meshWheelBoundary t => Sys2Proof.Machine.execMeshWheelBoundary t s
  | .bayGrant t copse cu => Sys2Proof.Machine.execBayGrant t copse cu s
  | .sorterGrant t copse => Sys2Proof.Machine.execSorterGrant t copse s
  | .expanderDecodeDone t copse cu => Sys2Proof.Machine.execExpanderDecodeDone t copse cu s
  | .queuedDecodeStart t copse cu => Sys2Proof.Machine.execQueuedDecodeStart t copse cu s
  | .amaxFree p t g c k => Sys2Proof.Machine.execAmaxFree p t g c k s
  | .residFree p t g c k => Sys2Proof.Machine.execResidFree p t g c k s
  | .nop sr w => Sys2Proof.Machine.execNop sr w s
  | .add sr w => Sys2Proof.Machine.execAdd sr w s
  | .sub sr w => Sys2Proof.Machine.execSub sr w s
  | .mul sr w => Sys2Proof.Machine.execMul sr w s
  | .mulhu sr w => Sys2Proof.Machine.execMulhu sr w s
  | .and sr w => Sys2Proof.Machine.execAnd sr w s
  | .or sr w => Sys2Proof.Machine.execOr sr w s
  | .xor sr w => Sys2Proof.Machine.execXor sr w s
  | .shl sr w => Sys2Proof.Machine.execShl sr w s
  | .shr sr w => Sys2Proof.Machine.execShr sr w s
  | .sar sr w => Sys2Proof.Machine.execSar sr w s
  | .mins sr w => Sys2Proof.Machine.execMins sr w s
  | .maxs sr w => Sys2Proof.Machine.execMaxs sr w s
  | .minu sr w => Sys2Proof.Machine.execMinu sr w s
  | .maxu sr w => Sys2Proof.Machine.execMaxu sr w s
  | .addi sr w => Sys2Proof.Machine.execAddi sr w s
  | .movz sr w => Sys2Proof.Machine.execMovz sr w s
  | .movk sr w => Sys2Proof.Machine.execMovk sr w s
  | .cmp sr w => Sys2Proof.Machine.execCmp sr w s
  | .cmpi sr w => Sys2Proof.Machine.execCmpi sr w s
  | .plog sr w => Sys2Proof.Machine.execPlog sr w s
  | .clz sr w => Sys2Proof.Machine.execClz sr w s
  | .popc sr w => Sys2Proof.Machine.execPopc sr w s
  | .time sr w => Sys2Proof.Machine.execTime sr w s
  | .seta sr w => Sys2Proof.Machine.execSeta sr w s
  | .br sr w => Sys2Proof.Machine.execBr sr w s
  | .brr sr w => Sys2Proof.Machine.execBrr sr w s
  | .call sr w => Sys2Proof.Machine.execCall sr w s
  | .endStrand sr w => Sys2Proof.Machine.execEndStrand sr w s
  | .bayacq sr w => Sys2Proof.Machine.execBayacq sr w s
  | .bayrel sr w => Sys2Proof.Machine.execBayrel sr w s
  | .setcvt sr w => Sys2Proof.Machine.execSetcvt sr w s
  | .vadd sr w => Sys2Proof.Machine.execVadd sr w s
  | .vsub sr w => Sys2Proof.Machine.execVsub sr w s
  | .vmul sr w => Sys2Proof.Machine.execVmul sr w s
  | .vfma sr w => Sys2Proof.Machine.execVfma sr w s
  | .vmin sr w => Sys2Proof.Machine.execVmin sr w s
  | .vmax sr w => Sys2Proof.Machine.execVmax sr w s
  | .vabs sr w => Sys2Proof.Machine.execVabs sr w s
  | .vcmp sr w => Sys2Proof.Machine.execVcmp sr w s
  | .vsel sr w => Sys2Proof.Machine.execVsel sr w s
  | .vaddi sr w => Sys2Proof.Machine.execVaddi sr w s
  | .vsubi sr w => Sys2Proof.Machine.execVsubi sr w s
  | .vand sr w => Sys2Proof.Machine.execVand sr w s
  | .vor sr w => Sys2Proof.Machine.execVor sr w s
  | .vxor sr w => Sys2Proof.Machine.execVxor sr w s
  | .vbcast sr w => Sys2Proof.Machine.execVbcast sr w s
  | .vext sr w => Sys2Proof.Machine.execVext sr w s
  | .vsum sr w => Sys2Proof.Machine.execVsum sr w s
  | .cvtn sr w => Sys2Proof.Machine.execCvtn sr w s
  | .cvtw sr w => Sys2Proof.Machine.execCvtw sr w s
  | .cvta sr w => Sys2Proof.Machine.execCvta sr w s
  | .aroll sr w => Sys2Proof.Machine.execAroll sr w s
  | .sortbeg sr w => Sys2Proof.Machine.execSortbeg sr w s
  | .sortput sr w => Sys2Proof.Machine.execSortput sr w s
  | .sortend sr w => Sys2Proof.Machine.execSortend sr w s
  | .sortget sr w => Sys2Proof.Machine.execSortget sr w s
  | .sortrel sr w => Sys2Proof.Machine.execSortrel sr w s
  | .tmma sr w => Sys2Proof.Machine.execTmma sr w s
  | .tzero sr w => Sys2Proof.Machine.execTzero sr w s
  | .tmov sr w => Sys2Proof.Machine.execTmov sr w s
  | .tmovv sr w => Sys2Proof.Machine.execTmovv sr w s
  | .xstart sr w => Sys2Proof.Machine.execXstart sr w s
  | .xstat sr w => Sys2Proof.Machine.execXstat sr w s
  | .xcancel sr w => Sys2Proof.Machine.execXcancel sr w s
  | .lds sr w => Sys2Proof.Machine.execLds sr w s
  | .sts sr w => Sys2Proof.Machine.execSts sr w s
  | .ldv sr w => Sys2Proof.Machine.execLdv sr w s
  | .stv sr w => Sys2Proof.Machine.execStv sr w s
  | .ldt sr w => Sys2Proof.Machine.execLdt sr w s
  | .stt sr w => Sys2Proof.Machine.execStt sr w s
  | .ldseg sr w => Sys2Proof.Machine.execLdseg sr w s
  | .stseg sr w => Sys2Proof.Machine.execStseg sr w s
  | .ldacc sr w => Sys2Proof.Machine.execLdacc sr w s
  | .stacc sr w => Sys2Proof.Machine.execStacc sr w s
  | .ldl sr w => Sys2Proof.Machine.execLdl sr w s
  | .stl sr w => Sys2Proof.Machine.execStl sr w s
  | .pld sr w => Sys2Proof.Machine.execPld sr w s
  | .atom sr w => Sys2Proof.Machine.execAtom sr w s
  | .brd sr w => Sys2Proof.Machine.execBrd sr w s
  | .bwr sr w => Sys2Proof.Machine.execBwr sr w s
  | .prd sr w => Sys2Proof.Machine.execPrd sr w s
  | .gath sr w => Sys2Proof.Machine.execGath sr w s
  | .nxSub sr w => Sys2Proof.Machine.execNxSub sr w s
  | .nxUnsub sr w => Sys2Proof.Machine.execNxUnsub sr w s
  | .nxInval sr w => Sys2Proof.Machine.execNxInval sr w s
  | .prep sr w => Sys2Proof.Machine.execPrep sr w s
  | .publ sr w => Sys2Proof.Machine.execPubl sr w s
  | .nxOpen sr w => Sys2Proof.Machine.execNxOpen sr w s
  | .nxClose sr w => Sys2Proof.Machine.execNxClose sr w s
  | .nxHint sr w => Sys2Proof.Machine.execNxHint sr w s
  | .radd sr w => Sys2Proof.Machine.execRadd sr w s
  | .rstep sr w => Sys2Proof.Machine.execRstep sr w s
  | .send sr w => Sys2Proof.Machine.execSend sr w s
  | .sendg sr w => Sys2Proof.Machine.execSendg sr w s
  | .recv sr w => Sys2Proof.Machine.execRecv sr w s
  | .fence sr w => Sys2Proof.Machine.execFence sr w s
  | .rel sr w => Sys2Proof.Machine.execRel sr w s
  | .acq sr w => Sys2Proof.Machine.execAcq sr w s
  | .rela sr w => Sys2Proof.Machine.execRela sr w s
  | .acqa sr w => Sys2Proof.Machine.execAcqa sr w s
  | .bar sr w => Sys2Proof.Machine.execBar sr w s
  | .waitm sr w => Sys2Proof.Machine.execWaitm sr w s
  | .csrd sr w => Sys2Proof.Machine.execCsrd sr w s
  | .cswr sr w => Sys2Proof.Machine.execCswr sr w s
  | .csmw sr w => Sys2Proof.Machine.execCsmw sr w s
  | .runLimit t copse n => Sys2Proof.Machine.execRunLimit t copse n s
  | .residencyGuardExpiry t copse n => Sys2Proof.Machine.execResidencyGuardExpiry t copse n s
  | .contextSaved t copse => Sys2Proof.Machine.execContextSaved t copse s
  | .contextRestored t copse n => Sys2Proof.Machine.execContextRestored t copse n s
  | .completionRecord t copse n => Sys2Proof.Machine.execCompletionRecord t copse n s
  | .contrib t key => Sys2Proof.Machine.execContrib t key s
  | .segmentTimeout t key => Sys2Proof.Machine.execSegmentTimeout t key s
  | .arrive t key => Sys2Proof.Machine.execArrive t key s
  | .barrierTimeout t key => Sys2Proof.Machine.execBarrierTimeout t key s
  | .bagReq t key => Sys2Proof.Machine.execBagReq t key s
  | .dispatch t key => Sys2Proof.Machine.execDispatch t key s
  | .batchSend t key => Sys2Proof.Machine.execBatchSend t key s
  | .expertInDone t key batch => Sys2Proof.Machine.execExpertInDone t key batch s
  | .expertInRetry t key batch => Sys2Proof.Machine.execExpertInRetry t key batch s
  | .expertOut t key => Sys2Proof.Machine.execExpertOut t key s
  | .tokenTimeout t key => Sys2Proof.Machine.execTokenTimeout t key s
  | .filterReq t key => Sys2Proof.Machine.execFilterReq t key s
  | .filterTimeout t key => Sys2Proof.Machine.execFilterTimeout t key s
  | .stop t key => Sys2Proof.Machine.execStop t key s
  | .statsWrite t key => Sys2Proof.Machine.execStatsWrite t key s
  | .scrubStart t unit => Sys2Proof.Machine.execScrubStart t unit s
  | .scrubWritebackDone t unit => Sys2Proof.Machine.execScrubWritebackDone t unit s
  | .scrubZeroDone t unit => Sys2Proof.Machine.execScrubZeroDone t unit s
  | .scrubReadbackDone t unit bad => Sys2Proof.Machine.execScrubReadbackDone t unit bad s
  | .scrubRecordHeld t unit => Sys2Proof.Machine.execScrubRecordHeld t unit s
  | .scrubGo p t unit => Sys2Proof.Machine.execScrubGo p t unit s
  | .packagePartSign t => Sys2Proof.Machine.execPackagePartSign t s
  | .signatureDone t => Sys2Proof.Machine.execSignatureDone t s
  | .submit t q record => Sys2Proof.Machine.execSubmit t q record s
  | .msg t q target mtag units => Sys2Proof.Machine.execMsg t q target mtag units s
  | .create t q req => Sys2Proof.Machine.execCreate t q req s
  | .begin t q req dest => Sys2Proof.Machine.execBegin t q req dest s
  | .accept t q req => Sys2Proof.Machine.execAccept t q req s
  | .abort t q req => Sys2Proof.Machine.execAbort t q req s
  | .delete t q req => Sys2Proof.Machine.execDelete t q req s
  | .query t q req => Sys2Proof.Machine.execQuery t q req s
  | .ledgerRevert t clr req => Sys2Proof.Machine.execLedgerRevert t clr req s
  | .epochNote t q => Sys2Proof.Machine.execEpochNote t q s
  | .commitGo p t => Sys2Proof.Machine.execCommitGo p t s
  | .commitChecked t => Sys2Proof.Machine.execCommitChecked t s
  | .commitPosition t => Sys2Proof.Machine.execCommitPosition t s
  | .commitHeld t => Sys2Proof.Machine.execCommitHeld t s
  | .commitSwitch t => Sys2Proof.Machine.execCommitSwitch t s
  | .drainWindowEnd t => Sys2Proof.Machine.execDrainWindowEnd t s
  | .quiesceGo p t => Sys2Proof.Machine.execQuiesceGo p t s
  | .quiesceDrained t => Sys2Proof.Machine.execQuiesceDrained t s
  | .quiesceInstall t => Sys2Proof.Machine.execQuiesceInstall t s
  | .quiesceResume t => Sys2Proof.Machine.execQuiesceResume t s
  | .spareTest p t k sport pport role => Sys2Proof.Machine.execSpareTest p t k sport pport role s
  | .spareTestEnd t k => Sys2Proof.Machine.execSpareTestEnd t k s
  | .spareLoad p t k => Sys2Proof.Machine.execSpareLoad p t k s
  | .spareLoaded t k => Sys2Proof.Machine.execSpareLoaded t k s
  | .spareLoadStall t k => Sys2Proof.Machine.execSpareLoadStall t k s
  | .spareAdmit p t k => Sys2Proof.Machine.execSpareAdmit p t k s
  | .spareAdmission t k => Sys2Proof.Machine.execSpareAdmission t k s
  | .patrolSlot t die array inst word s1 s2 s3 => Sys2Proof.Machine.execPatrolSlot t die array inst word s1 s2 s3 s
  | .scopeResetDone t scope die inst => Sys2Proof.Machine.execScopeResetDone t scope die inst s
  | .writeRaw p t die array inst word check data => Sys2Proof.Machine.execWriteRaw p t die array inst word check data s
  | .readRaw p t die array inst word => Sys2Proof.Machine.execReadRaw p t die array inst word s
  | .clear p t die array inst word check data => Sys2Proof.Machine.execClear p t die array inst word check data s
  | .sourceEdge t n level origin => Sys2Proof.Machine.execSourceEdge t n level origin s
  | .coalesceTimeout t k n => Sys2Proof.Machine.execCoalesceTimeout t k n s
  | .take p t k u => Sys2Proof.Machine.execTake p t k u s
  | .eoe p t k u => Sys2Proof.Machine.execEoe p t k u s
  | .sourceUnmask p t k n => Sys2Proof.Machine.execSourceUnmask p t k n s
  | .doorbell p t k d => Sys2Proof.Machine.execDoorbell p t k d s
  | .mgmtFrame t tagged guarded f => Sys2Proof.Machine.execMgmtFrame t tagged guarded f s
  | .hello t d => Sys2Proof.Machine.execHello t d s
  | .finish t d => Sys2Proof.Machine.execFinish t d s
  | .finishTimeout t sess => Sys2Proof.Machine.execFinishTimeout t sess s
  | .ccpClose t d => Sys2Proof.Machine.execCcpClose t d s
  | .ack t d => Sys2Proof.Machine.execAck t d s
  | .ackResend t sess seq => Sys2Proof.Machine.execAckResend t sess seq s
  | .keepalive t d => Sys2Proof.Machine.execKeepalive t d s
  | .keepaliveSend t sess => Sys2Proof.Machine.execKeepaliveSend t sess s
  | .sessionSilence t sess => Sys2Proof.Machine.execSessionSilence t sess s
  | .program t d => Sys2Proof.Machine.execProgram t d s
  | .programFragTimeout t slot => Sys2Proof.Machine.execProgramFragTimeout t slot s
  | .programSigChecked t slot sigOk => Sys2Proof.Machine.execProgramSigChecked t slot sigOk s
  | .completionSend t slot => Sys2Proof.Machine.execCompletionSend t slot s
  | .completionHoldExpiry t slot => Sys2Proof.Machine.execCompletionHoldExpiry t slot s
  | .eventSend t at_ source status clr cause addr count lost => Sys2Proof.Machine.execEventSend t at_ source status clr cause addr count lost s
  | .telemSub t d => Sys2Proof.Machine.execTelemSub t d s
  | .telemPeriod t sess group sensors => Sys2Proof.Machine.execTelemPeriod t sess group sensors s
  | .evidenceReq t d => Sys2Proof.Machine.execEvidenceReq t d s
  | .recoveryImage t k peer seq msgid frag nfrag body v => Sys2Proof.Machine.execRecoveryImage t k peer seq msgid frag nfrag body v s
  | .sync t offset => Sys2Proof.Machine.execSync t offset s
  | .syncLoss t => Sys2Proof.Machine.execSyncLoss t s
  | .ppsIn t => Sys2Proof.Machine.execPpsIn t s
  | .ppsOut t => Sys2Proof.Machine.execPpsOut t s
  | .install p t => Sys2Proof.Machine.execInstall p t s
  | .portModeChange t => Sys2Proof.Machine.execPortModeChange t s
  | .refclkReturn t => Sys2Proof.Machine.execRefclkReturn t s
  | .vinWindowReturn t mv => Sys2Proof.Machine.execVinWindowReturn t mv s
  | .selfRefreshRateChange t stack temp => Sys2Proof.Machine.execSelfRefreshRateChange t stack temp s
  | .mgmtPortLinkUp t => Sys2Proof.Machine.execMgmtPortLinkUp t s
  | .meshEdgeSelect t g e rd => Sys2Proof.Machine.execMeshEdgeSelect t g e rd s
  | .pdQuery t lp target => Sys2Proof.Machine.execPdQuery t lp target s
  | .pdAccept t lp => Sys2Proof.Machine.execPdAccept t lp s
  | .memberRetrainLimit t lp => Sys2Proof.Machine.execMemberRetrainLimit t lp s
  | .initCopyDone t copse n => Sys2Proof.Machine.execInitCopyDone t copse n s

end Sys2Proof.Machine
end

