-- ==== Sys2Proof/WellFormed.lean ====
section
/-! DEFINITION. When a command is well formed: its numbers name units, ports, words and instances that the package has, and a Ndeah instruction's word has the CLASS and
OP of its row (R351). An ill-formed command runs too, and the rules it meets discard it; nothing in the machine depends on this check. -/

namespace Sys2Proof

open Machine

/-- A strand of copse 0–127 or of a management CU (128 + t), one of 32 contexts, 16 CUs and 1,024 strands. -/
def Machine.StrandRef.ok (r : StrandRef) : Bool := decide (r.copse < 132) && decide (r.ctx < 32) && decide (r.cu < 16) && decide (r.strand < 1024)

/-- A program of a clearing, or a privileged one on one of the management CUs. -/
def Machine.Prog.ok (p : Prog) : Bool := decide (p.clr < 256) && (match p.mcu with
  | some t => decide (t < 4)
  | none => true)

/-- The fields of a request header, within their widths (R123, R162). -/
def Machine.PortReq.ok (q : PortReq) : Bool :=
  decide (q.lp < 512) && decide (q.tag < 65536) && decide (q.clr < 256) && decide (q.epoch < 65536) && decide (q.gen < 2 ^ 24) && decide (q.node < 65536)
    && decide (q.line < 2 ^ 42)

/-- The fields of a datagram, within their widths (Table 15.2), and its fragment one of NFRAG. -/
def Machine.Dgram.ok (d : Dgram) : Bool :=
  decide (d.type < 256) && decide (d.session < 2 ^ 32) && decide (d.seq < 2 ^ 64) && decide (d.msgid < 2 ^ 32) && decide (d.frag < 256) && decide (d.nfrag ≤ 256)

def Machine.Frame.ok : Frame → Bool
  | .ccp d => d.ok
  | _ => true

def Machine.GatedUnit.ok : GatedUnit → Bool
  | .cu n => decide (n < 2048)
  | .copse n => decide (n < 128)

/-- Has an instruction word this CLASS and OP? -/
def wordIs (cls op : Nat) (w : Word) : Bool := bitsOf w 63 60 == cls && bitsOf w 59 52 == op

/-- Is a command well formed? -/
def Instr.wf : Instr → Bool
  | .vinKeepaliveStart _ _ => true
  | .pwResetExit _ _ => true
  | .clkAoHandover _ _ => true
  | .aoFallback _ _ => true
  | .keepaliveStop _ _ => true
  | .wakeDecisionCold _ _ _ => true
  | .busSoftstart _ _ _ => true
  | .busRun _ _ => true
  | .brownoutBus _ _ _ => true
  | .vinLow _ _ _ => true
  | .vinHigh _ _ _ => true
  | .brownoutVin _ _ _ => true
  | .overvoltageVin _ _ _ => true
  | .poreset _ _ => true
  | .poresetRelease _ _ => true
  | .brownoutKeepalive _ _ _ => true
  | .refclkLoss _ _ => true
  | .refclkLossReset _ => true
  | .targetPortsOnly p _ => p.ok
  | .targetStandby p _ => p.ok
  | .targetActive p _ => p.ok
  | .refuserCheckEnd _ => true
  | .contextSwapOutEnd _ => true
  | .portsOnlyEntryEnd _ => true
  | .pdNoticeSend _ => true
  | .standbyCellDrop _ => true
  | .transmittersOff _ => true
  | .understorySelfRefresh _ => true
  | .domainsOff _ => true
  | .standbyEntryEnd _ => true
  | .wakeComparatorTrip _ comp _ _ => decide (comp < 10)
  | .wakeComparatorRearm _ comp _ => decide (comp < 10)
  | .workAdmitWake _ => true
  | .activeEntryRetry _ => true
  | .cutWindowEnd _ _ _ die => decide (die < 32)
  | .cutApply _ => true
  | .thermtrip _ die _ _ => decide (die < 32)
  | .dieThermalEvent _ die _ => decide (die < 32)
  | .cuClockGate _ cu _ => decide (cu < 2048)
  | .cuPowerGate _ cu _ => decide (cu < 2048)
  | .copseClockGate _ copse _ => decide (copse < 128)
  | .copsePowerGate _ copse _ => decide (copse < 128)
  | .unitWake _ unit _ => unit.ok
  | .bootRomStart _ k => decide (k < 2)
  | .lookoutImageStart _ k _ _ _ _ => decide (k < 2)
  | .activeLookoutChoice _ => true
  | .bootApplyLookout _ => true
  | .dieImageConfirm _ die _ _ _ _ _ _ => decide (die < 32)
  | .dieCalibrationApply _ => true
  | .understoryChannelsTrained _ => true
  | .bootDone _ => true
  | .seedbankResync _ _ src => decide (src < 2)
  | .setA p _ dtype => p.ok && decide (dtype < 5)
  | .setB p _ dtype => p.ok && decide (dtype < 5)
  | .raiseSvn p _ dtype => p.ok && decide (dtype < 5)
  | .nvCommit p _ => p.ok
  | .ucalCommit p _ => p.ok
  | .nvCommitDone _ _ => true
  | .seedbankWindowWrite p _ word _ => p.ok && decide (word < 2 ^ 20)
  | .slotCheck _ dtype slot _ _ => decide (dtype < 5) && decide (slot < 2)
  | .updateGo p _ k dtype _ slot => p.ok && CW.inRange .LK_UPD [k] && decide (dtype < 5) && decide (slot < 2)
  | .updateLoaded _ => true
  | .updateSwitched _ => true
  | .updateRevert _ => true
  | .handoverGo p _ k => p.ok && CW.inRange .LK_HANDOVER [k]
  | .handoverDone _ => true
  | .heartbeatLoss _ _ => true
  | .failoverResume _ => true
  | .failoverEvents _ => true
  | .failoverAnswers _ => true
  | .lookoutReloadDone _ k => decide (k < 2)
  | .flitRx _ lp slots _ => decide (lp < 512) && decide (slots.length = 15)
  | .replayTimer _ lp => decide (lp < 512)
  | .replayLimit _ lp => decide (lp < 512)
  | .eqReq _ lane => decide (lane < 1024)
  | .eqAck _ lane => decide (lane < 1024)
  | .spareReq _ lane _ => decide (lane < 1024)
  | .spareAck _ lane => decide (lane < 1024)
  | .narrowReq _ lane => decide (lane < 1024)
  | .narrowAck _ lane => decide (lane < 1024)
  | .restoreReq _ lane => decide (lane < 1024)
  | .restoreAck _ lane => decide (lane < 1024)
  | .remoteFault _ lane => decide (lane < 1024)
  | .params _ lp node mode _ credits => decide (lp < 512) && decide (node < 65536) && decide (mode < 4) && decide (credits.length = 5)
  | .pdHold _ lp => decide (lp < 512)
  | .pdNotice _ lp => decide (lp < 512)
  | .keySwitch _ lp _ => decide (lp < 512)
  | .keySwitchAck _ lp _ => decide (lp < 512)
  | .spdm _ lp off total bytes => decide (lp < 512) && decide (off + bytes.length ≤ total)
  | .retrainReq _ lp => decide (lp < 512)
  | .trainingStart _ lp _ => decide (lp < 512)
  | .trainingStepFail _ lp => decide (lp < 512)
  | .trainingRetry _ lp => decide (lp < 512)
  | .trainingDone _ lp => decide (lp < 512)
  | .spdmSessionDone _ lp _ _ => decide (lp < 512)
  | .spareTraining _ f n node _ => decide (f < 16) && decide (n < 2) && decide (node < 65536)
  | .laneFailed _ lane _ => decide (lane < 1024)
  | .laneDegraded _ lane _ => decide (lane < 1024)
  | .spareSwapResume _ lp => decide (lp < 512)
  | .mismatchDown _ lane _ => decide (lane < 1024)
  | .laneRecal p _ f lane => p.ok && CW.inRange .FR_LANE_STATUS [f, lane]
  | .laneRecalDone _ lane _ => decide (lane < 1024)
  | .retrain p _ port => p.ok && CW.inRange .FR_PORT_CFG [port / 8, port % 8]
  | .portEnable p _ port => p.ok && CW.inRange .FR_PORT_CFG [port / 8, port % 8]
  | .keyLifeExpiry _ lp => decide (lp < 512)
  | .keyLifeWrite p _ port value => p.ok && CW.inRange .FR_PORT_CFG [port / 8, port % 8] && decide (value < 2 ^ 16)
  | .load _ q => q.ok
  | .store _ q line => q.ok && decide (line.length = 64)
  | .narrowStore _ q _ => q.ok
  | .atomic _ q aop word _ _ => q.ok && decide (aop < 16) && decide (word < 8)
  | .blkRd _ q _ => q.ok
  | .blkWr _ q data => q.ok && decide (data.length % 16 = 0)
  | .pageRd _ q => q.ok
  | .gather _ q _ _ _ => q.ok
  | .hint _ q _ _ => q.ok
  | .unitWr _ q data => q.ok && decide (data.length ≤ 256)
  | .response _ lp clr _ status _ _ _ => decide (lp < 512) && decide (clr < 256) && decide (status < 256)
  | .txnTimeout _ _ => true
  | .tagRelease _ lp _ => decide (lp < 512)
  | .homeHoldEnd _ _ => true
  | .t1Admit _ _ => true
  | .stagingFill _ lp clr _ status _ _ _ => decide (lp < 512) && decide (clr < 256) && decide (status < 256)
  | .unitAssemblySend _ clr node unit => decide (clr < 256) && decide (node < 65536) && decide (unit < 512)
  | .unitWrResponse _ lp clr _ status => decide (lp < 512) && decide (clr < 256) && decide (status < 256)
  | .unitTimeout _ clr node unit => decide (clr < 256) && decide (node < 65536) && decide (unit < 512)
  | .t2BucketRefill _ => true
  | .subscribe _ q => q.ok
  | .unsubscribe _ q => q.ok
  | .inval _ q _ => q.ok
  | .sequencerHold _ => true
  | .sequencerAdmit _ _ => true
  | .invAck _ lp clr _ => decide (lp < 512) && decide (clr < 256)
  | .invLimitExpiry _ _ => true
  | .prepare _ q => q.ok
  | .prepareTimeout _ _ => true
  | .publish _ q => q.ok
  | .publishForward _ _ => true
  | .publishPoint _ => true
  | .openRegion _ q => q.ok
  | .closeRegion _ q => q.ok
  | .rdS _ q => q.ok
  | .rdM _ q => q.ok
  | .upg _ q => q.ok
  | .wb _ q line => q.ok && decide (line.length = 64)
  | .evict _ q => q.ok
  | .rspI _ lp clr _ => decide (lp < 512) && decide (clr < 256)
  | .rspS _ lp clr _ => decide (lp < 512) && decide (clr < 256)
  | .rspIData _ lp clr tag line => decide (lp < 512) && decide (clr < 256) && decide (tag < 1024) && decide (line.length = 64)
  | .rspSData _ lp clr tag line => decide (lp < 512) && decide (clr < 256) && decide (tag < 1024) && decide (line.length = 64)
  | .directoryWaitTimeout _ _ => true
  | .snoopLimitExpiry _ => true
  | .domainReset p _ d => p.ok && CW.inRange .CM_DOM [d]
  | .domainResetPoison _ d => CW.inRange .CM_DOM [d]
  | .domainResetDone _ d => CW.inRange .CM_DOM [d]
  | .unpoison p _ d value => p.ok && CW.inRange .CM_DOM_UNPOISON [d] && decide (value < 2 ^ 58)
  | .cellAdmitRetry _ g c => decide (g < 8) && decide (c < 129)
  | .overflowRefill _ lp cls => decide (lp < 512) && decide (cls < 16)
  | .meshCellArrive _ g e => CW.inRange .FW_EDGE_STATUS [g, e]
  | .releaseNotice _ sdie ddie c vc => decide (sdie < 32) && decide (ddie < 32) && decide (c < 256) && decide (vc < 5)
  | .gapTimeout _ sdie ddie c vc => decide (sdie < 32) && decide (ddie < 32) && decide (c < 256) && decide (vc < 5)
  | .skipNotice _ sdie ddie c vc => decide (sdie < 32) && decide (ddie < 32) && decide (c < 256) && decide (vc < 5)
  | .meshHopReplay _ g e => CW.inRange .FW_EDGE_STATUS [g, e]
  | .meshWireFail _ g e => CW.inRange .FW_EDGE_STATUS [g, e]
  | .meshSpraySuspend _ g e => CW.inRange .FW_EDGE_STATUS [g, e]
  | .meshSpareWireTrained _ g e => CW.inRange .FW_EDGE_STATUS [g, e]
  | .meshHeldResend _ g e => CW.inRange .FW_EDGE_STATUS [g, e]
  | .meshEdgeUp _ g e => CW.inRange .FW_EDGE_STATUS [g, e]
  | .gapTimerResume _ g e => CW.inRange .FW_EDGE_STATUS [g, e]
  | .egressSelect _ lp _ => decide (lp < 512)
  | .trailCfgWrite p _ g c _ => p.ok && decide (g < 8) && decide (c ≤ 128)
  | .shaperRefill _ => true
  | .shaperWrite p _ lp k _ => p.ok && decide (lp < 512) && decide (k ≤ 16)
  | .policerWrite p _ g c n _ => p.ok && CW.inRange .SC_POL_CFG [g, c, n]
  | .gateEntryEnd _ lp => decide (lp < 512)
  | .gateCommit p _ lp => p.ok && decide (lp < 512)
  | .gateSwitch _ lp => decide (lp < 512)
  | .gateCancel p _ lp => p.ok && decide (lp < 512)
  | .meshWheelBoundary _ => true
  | .bayGrant _ copse cu => decide (copse < 132) && decide (cu < 16)
  | .sorterGrant _ copse => decide (copse < 132)
  | .expanderDecodeDone _ copse cu => decide (copse < 132) && decide (cu < 16)
  | .queuedDecodeStart _ copse cu => decide (copse < 132) && decide (cu < 16)
  | .amaxFree p _ g c k => p.ok && CW.inRange .GL_AMAX [g, c, k]
  | .residFree p _ g c k => p.ok && CW.inRange .GL_RESID_CFG [g, c, k]
  | .nop sr w => sr.ok && wordIs 0 0 w
  | .add sr w => sr.ok && wordIs 0 1 w
  | .sub sr w => sr.ok && wordIs 0 2 w
  | .mul sr w => sr.ok && wordIs 0 3 w
  | .mulhu sr w => sr.ok && wordIs 0 4 w
  | .and sr w => sr.ok && wordIs 0 5 w
  | .or sr w => sr.ok && wordIs 0 6 w
  | .xor sr w => sr.ok && wordIs 0 7 w
  | .shl sr w => sr.ok && wordIs 0 8 w
  | .shr sr w => sr.ok && wordIs 0 9 w
  | .sar sr w => sr.ok && wordIs 0 10 w
  | .mins sr w => sr.ok && wordIs 0 11 w
  | .maxs sr w => sr.ok && wordIs 0 12 w
  | .minu sr w => sr.ok && wordIs 0 13 w
  | .maxu sr w => sr.ok && wordIs 0 14 w
  | .addi sr w => sr.ok && wordIs 0 16 w
  | .movz sr w => sr.ok && wordIs 0 18 w
  | .movk sr w => sr.ok && wordIs 0 19 w
  | .cmp sr w => sr.ok && wordIs 0 20 w
  | .cmpi sr w => sr.ok && wordIs 0 21 w
  | .plog sr w => sr.ok && wordIs 0 22 w
  | .clz sr w => sr.ok && wordIs 0 23 w
  | .popc sr w => sr.ok && wordIs 0 24 w
  | .time sr w => sr.ok && wordIs 0 25 w
  | .seta sr w => sr.ok && wordIs 0 26 w
  | .br sr w => sr.ok && wordIs 8 0 w
  | .brr sr w => sr.ok && wordIs 8 1 w
  | .call sr w => sr.ok && wordIs 8 2 w
  | .endStrand sr w => sr.ok && wordIs 8 3 w
  | .bayacq sr w => sr.ok && wordIs 8 4 w
  | .bayrel sr w => sr.ok && wordIs 8 5 w
  | .setcvt sr w => sr.ok && wordIs 8 6 w
  | .vadd sr w => sr.ok && wordIs 1 0 w
  | .vsub sr w => sr.ok && wordIs 1 1 w
  | .vmul sr w => sr.ok && wordIs 1 2 w
  | .vfma sr w => sr.ok && wordIs 1 3 w
  | .vmin sr w => sr.ok && wordIs 1 4 w
  | .vmax sr w => sr.ok && wordIs 1 5 w
  | .vabs sr w => sr.ok && wordIs 1 6 w
  | .vcmp sr w => sr.ok && wordIs 1 7 w
  | .vsel sr w => sr.ok && wordIs 1 8 w
  | .vaddi sr w => sr.ok && wordIs 1 9 w
  | .vsubi sr w => sr.ok && wordIs 1 10 w
  | .vand sr w => sr.ok && wordIs 1 11 w
  | .vor sr w => sr.ok && wordIs 1 12 w
  | .vxor sr w => sr.ok && wordIs 1 13 w
  | .vbcast sr w => sr.ok && wordIs 1 16 w
  | .vext sr w => sr.ok && wordIs 1 17 w
  | .vsum sr w => sr.ok && wordIs 1 18 w
  | .cvtn sr w => sr.ok && wordIs 1 32 w
  | .cvtw sr w => sr.ok && wordIs 1 33 w
  | .cvta sr w => sr.ok && wordIs 1 34 w
  | .aroll sr w => sr.ok && wordIs 1 35 w
  | .sortbeg sr w => sr.ok && wordIs 1 40 w
  | .sortput sr w => sr.ok && wordIs 1 41 w
  | .sortend sr w => sr.ok && wordIs 1 42 w
  | .sortget sr w => sr.ok && wordIs 1 43 w
  | .sortrel sr w => sr.ok && wordIs 1 44 w
  | .tmma sr w => sr.ok && wordIs 2 0 w
  | .tzero sr w => sr.ok && wordIs 2 1 w
  | .tmov sr w => sr.ok && wordIs 2 2 w
  | .tmovv sr w => sr.ok && wordIs 2 3 w
  | .xstart sr w => sr.ok && wordIs 3 0 w
  | .xstat sr w => sr.ok && wordIs 3 1 w
  | .xcancel sr w => sr.ok && wordIs 3 2 w
  | .lds sr w => sr.ok && wordIs 11 0 w
  | .sts sr w => sr.ok && wordIs 11 1 w
  | .ldv sr w => sr.ok && wordIs 11 2 w
  | .stv sr w => sr.ok && wordIs 11 3 w
  | .ldt sr w => sr.ok && wordIs 11 4 w
  | .stt sr w => sr.ok && wordIs 11 5 w
  | .ldseg sr w => sr.ok && wordIs 11 6 w
  | .stseg sr w => sr.ok && wordIs 11 7 w
  | .ldacc sr w => sr.ok && wordIs 11 8 w
  | .stacc sr w => sr.ok && wordIs 11 9 w
  | .ldl sr w => sr.ok && wordIs 4 0 w
  | .stl sr w => sr.ok && wordIs 4 1 w
  | .pld sr w => sr.ok && wordIs 4 2 w
  | .atom sr w => sr.ok && wordIs 4 4 w
  | .brd sr w => sr.ok && wordIs 4 8 w
  | .bwr sr w => sr.ok && wordIs 4 9 w
  | .prd sr w => sr.ok && wordIs 4 10 w
  | .gath sr w => sr.ok && wordIs 4 11 w
  | .nxSub sr w => sr.ok && wordIs 4 16 w
  | .nxUnsub sr w => sr.ok && wordIs 4 17 w
  | .nxInval sr w => sr.ok && wordIs 4 18 w
  | .prep sr w => sr.ok && wordIs 4 19 w
  | .publ sr w => sr.ok && wordIs 4 20 w
  | .nxOpen sr w => sr.ok && wordIs 4 21 w
  | .nxClose sr w => sr.ok && wordIs 4 22 w
  | .nxHint sr w => sr.ok && wordIs 10 0 w
  | .radd sr w => sr.ok && wordIs 5 0 w
  | .rstep sr w => sr.ok && wordIs 5 1 w
  | .send sr w => sr.ok && wordIs 6 0 w
  | .sendg sr w => sr.ok && wordIs 6 1 w
  | .recv sr w => sr.ok && wordIs 6 2 w
  | .fence sr w => sr.ok && wordIs 7 0 w
  | .rel sr w => sr.ok && wordIs 7 1 w
  | .acq sr w => sr.ok && wordIs 7 2 w
  | .rela sr w => sr.ok && wordIs 7 3 w
  | .acqa sr w => sr.ok && wordIs 7 4 w
  | .bar sr w => sr.ok && wordIs 7 8 w
  | .waitm sr w => sr.ok && wordIs 7 9 w
  | .csrd sr w => sr.ok && wordIs 9 0 w
  | .cswr sr w => sr.ok && wordIs 9 1 w
  | .csmw sr w => sr.ok && wordIs 9 2 w
  | .runLimit _ copse n => decide (copse < 132) && decide (n < 32)
  | .residencyGuardExpiry _ copse n => decide (copse < 132) && decide (n < 32)
  | .contextSaved _ copse => decide (copse < 132)
  | .contextRestored _ copse n => decide (copse < 132) && decide (n < 32)
  | .completionRecord _ copse n => decide (copse < 132) && decide (n < 32)
  | .contrib _ _ => true
  | .segmentTimeout _ _ => true
  | .arrive _ _ => true
  | .barrierTimeout _ _ => true
  | .bagReq _ _ => true
  | .dispatch _ _ => true
  | .batchSend _ _ => true
  | .expertInDone _ _ _ => true
  | .expertInRetry _ _ _ => true
  | .expertOut _ _ => true
  | .tokenTimeout _ _ => true
  | .filterReq _ _ => true
  | .filterTimeout _ _ => true
  | .stop _ _ => true
  | .statsWrite _ _ => true
  | .scrubStart _ unit => decide (unit < 512)
  | .scrubWritebackDone _ unit => decide (unit < 512)
  | .scrubZeroDone _ unit => decide (unit < 512)
  | .scrubReadbackDone _ unit _ => decide (unit < 512)
  | .scrubRecordHeld _ unit => decide (unit < 512)
  | .scrubGo p _ unit => p.ok && decide (unit < 512)
  | .packagePartSign _ => true
  | .signatureDone _ => true
  | .submit _ q _ => q.ok
  | .msg _ q _ _ _ => q.ok
  | .create _ q _ => q.ok
  | .begin _ q _ _ => q.ok
  | .accept _ q _ => q.ok
  | .abort _ q _ => q.ok
  | .delete _ q _ => q.ok
  | .query _ q _ => q.ok
  | .ledgerRevert _ clr _ => decide (clr < 256)
  | .epochNote _ q => q.ok
  | .commitGo p _ => p.ok
  | .commitChecked _ => true
  | .commitPosition _ => true
  | .commitHeld _ => true
  | .commitSwitch _ => true
  | .drainWindowEnd _ => true
  | .quiesceGo p _ => p.ok
  | .quiesceDrained _ => true
  | .quiesceInstall _ => true
  | .quiesceResume _ => true
  | .spareTest p _ k sport pport role => p.ok && CW.inRange .CM_SPARE [k] && decide (sport < 512) && decide (pport < 512) && decide (role < 16)
  | .spareTestEnd _ k => decide (k < 8)
  | .spareLoad p _ k => p.ok && CW.inRange .CM_SPARE [k]
  | .spareLoaded _ k => decide (k < 8)
  | .spareLoadStall _ k => decide (k < 8)
  | .spareAdmit p _ k => p.ok && CW.inRange .CM_SPARE [k]
  | .spareAdmission _ k => decide (k < 8)
  | .patrolSlot _ die array inst word _ _ _ => wordExists die array inst word
  | .scopeResetDone _ _ die _ => decide (die < 32)
  | .writeRaw p _ die _ _ _ _ _ => p.ok && decide (die < 32)
  | .readRaw p _ die _ _ _ => p.ok && decide (die < 32)
  | .clear p _ die _ _ _ _ _ => p.ok && decide (die < 32)
  | .sourceEdge _ n _ _ => decide (n < 2048)
  | .coalesceTimeout _ k n => decide (k < 2) && decide (n < 2048)
  | .take p _ k u => p.ok && CW.inRange .EV_CU_TAKE [k, u]
  | .eoe p _ k u => p.ok && CW.inRange .EV_CU_EOE [k, u]
  | .sourceUnmask p _ k n => p.ok && CW.inRange .EV_SRC_STATE [k, n]
  | .doorbell p _ k d => p.ok && CW.inRange .EV_SOFT [k] && decide (d < 256)
  | .mgmtFrame _ _ _ f => f.ok
  | .hello _ d => d.ok
  | .finish _ d => d.ok
  | .finishTimeout _ sess => decide (sess < 4294967296)
  | .ccpClose _ d => d.ok
  | .ack _ d => d.ok
  | .ackResend _ sess _ => decide (sess < 4294967296)
  | .keepalive _ d => d.ok
  | .keepaliveSend _ sess => decide (sess < 4294967296)
  | .sessionSilence _ sess => decide (sess < 4294967296)
  | .program _ d => d.ok
  | .programFragTimeout _ slot => decide (slot ≤ 64)
  | .programSigChecked _ slot _ => decide (slot ≤ 64)
  | .completionSend _ slot => decide (slot ≤ 64)
  | .completionHoldExpiry _ slot => decide (slot ≤ 64)
  | .eventSend _ _ _ status clr _ _ _ _ => decide (status < 256) && decide (clr < 256)
  | .telemSub _ d => d.ok
  | .telemPeriod _ sess _ _ => decide (sess < 4294967296)
  | .evidenceReq _ d => d.ok
  | .recoveryImage _ k _ _ _ _ _ _ _ => decide (k < 2)
  | .sync _ _ => true
  | .syncLoss _ => true
  | .ppsIn _ => true
  | .ppsOut _ => true
  | .install p _ => p.ok
  | .portModeChange _ => true
  | .refclkReturn _ => true
  | .vinWindowReturn _ _ => true
  | .selfRefreshRateChange _ stack _ => decide (stack < 4)
  | .mgmtPortLinkUp _ => true
  | .meshEdgeSelect _ g e _ => CW.inRange .FW_EDGE_STATUS [g, e]
  | .pdQuery _ lp _ => decide (lp < 512)
  | .pdAccept _ lp => decide (lp < 512)
  | .memberRetrainLimit _ lp => decide (lp < 512)
  | .initCopyDone _ copse n => decide (copse < 132) && decide (n < 32)

end Sys2Proof
end

