-- ==== Sys2Proof/Safety.lean ====
section
/-! DEFINITION. What the claims speak of: the canonical form of the memories, a quiet machine, what a command leaves alone, and an instruction that issues. -/

namespace Sys2Proof.Machine

/-- The canonical form of the memories: the control words and the bytes of the Understory and of both Seedbanks are listed by rising address, and no byte that reads 0 is listed. -/
structure State.Canonical (s : State) : Prop where
  ctl : SMap.sorted s.ctl = true
  t0 : SMap.wf 0 s.fab.t0 = true
  seed0 : SMap.wf 0 s.boot.seed0 = true
  seed1 : SMap.wf 0 s.boot.seed1 = true

/-- The canonical form as a test. -/
def Memory.wf (s : State) : Bool := SMap.sorted s.ctl && SMap.wf 0 s.fab.t0 && SMap.wf 0 s.boot.seed0 && SMap.wf 0 s.boot.seed1

/-- A quiet machine: no request is outstanding or ended but not delivered, no program loads, no cell waits at an egress port, and no TAKE waits. -/
structure State.Quiet (s : State) : Prop where
  txns : s.fab.txns = []
  ended : s.fab.ended = []
  loads : s.nx.loads = []
  egress : s.fwd.egress = []
  takes : s.ecc.claims = []

/-- Every control-space word at an address outside the list is unchanged. -/
def OtherWords (as : List Nat) (s r : State) : Prop := ∀ (a : Nat) (d : Word), a ∉ as → SMap.get d r.ctl a = SMap.get d s.ctl a

/-! Requests of partners. -/

/-- A request of a partner on a VC passes the landing of its port and the port's own refusals: the port is ACTIVE and takes cells, CLR is its own, nothing holds it in landing, no
policer is set, its ROLE sends requests, its tag is free, and it is no quarantined spare. -/
structure Passes (vc : Nat) (q : PortReq) (s : State) : Prop where
  active : s.lpState q.lp = 3
  ingress : s.pw.ingressStopped = false
  clr : lpClr s q.lp = q.clr ∧ q.clr ≠ 0xFF
  landing : landingHeld s q.lp = false ∧ queuedAt s.sched.held q.lp vc = false ∧ polOf s q.lp vc = none
  role : portDenies s q.lp = false ∧ portRole s.com.inForce q.lp ≠ .trunk
  tag : tagPending s q.lp q.tag = false
  spare : quarantined s q.lp = false

/-- A memory request's range lies at physical offset p of a window w of its clearing, under the map m of its epoch, in a region of no special kind. -/
structure Reaches (k : TxnKind) (pages : Nat) (q : PortReq) (m : Canopy) (w : Window) (p : Nat) (s : State) : Prop where
  map : s.mapAt q.epoch = some m
  role : portRole m q.lp ≠ .trunk
  window : translate m q.clr q.node (rangeOf k (q.line * 64) pages).1 (rangeOf k (q.line * 64) pages).2 (needOf k) = some (w, p)
  region : (regionRec m w.region).bind Region.kind = none ∨ (regionRec m w.region).bind Region.kind = some .plain
  holder : lapsed s (some (.port q.lp)) w.region = false

/-! Instructions. -/

/-- Does word w, an instruction of a class and OP, issue now for a strand: the strand may issue and stands at it, its registers wait for no request, its guard is true, it has a
bay if the instruction needs one, and no word of the bay that it reads is bad? -/
def issues (cls op : Nat) (sr : StrandRef) (w : Word) (s : State) : Bool :=
  match s.ctx? sr.copse sr.ctx with
  | some x =>
    let st := x.strand (strandKey sr)
    let i := Ins.ofWord w
    canIssue x st && st.wait != .acq && codeAt x st.pc == w && i.cls == cls && i.op == op && !(s.com.stopped && i.asks) && !regsBusy s sr i && guardOn i st
      && !(i.needsBay && st.bay.isNone) && !(i.bayReads.any fun p => bayBad s sr p.1 p.2)
  | none => false

/-- Is a strand's instruction not the last one of its program? -/
def goesOn (sr : StrandRef) (x : Ctx) : Bool := decide ((x.strand (strandKey sr)).pc ≠ x.hdr.codeLen - 8)

/-- What an instruction of a strand leaves alone: every other context, and everything but the contexts, the copses (left as cs), the count of issued instructions with its total, and
the marks of bad words with their count. -/
structure NxFrame (sr : StrandRef) (cs : SMap Copse) (s r : State) : Prop where
  others : ∀ c n, ctxKey c n ≠ ctxKey sr.copse sr.ctx → r.ctx? c n = s.ctx? c n
  rest : r = { s with ctl := r.ctl, mgmt := r.mgmt, nx := r.nx, ecc := r.ecc }
  nx : r.nx = { s.nx with ctxs := r.nx.ctxs, copses := cs }
  mgmt : r.mgmt = { s.mgmt with totals := r.mgmt.totals }
  ecc : s.ecc.raw = [] → r.ecc = s.ecc
  words : OtherWords [CW.addr .GL_CNT_ISSUE (cuIx sr), CW.addr .EC_DIAG_CTRL []] s r

/-- A strand goes on after an instruction that leaves its context as x and the copses as cs: the program counter moves by 8, the instruction is counted, and the rest is unchanged. -/
structure NxStepC (sr : StrandRef) (x : Ctx) (cs : SMap Copse) (s r : State) : Prop extends NxFrame sr cs s r where
  ctx : r.ctx? sr.copse sr.ctx = some { x with
    state := .running, issued := x.issued + 1,
    strands := SMap.put x.strands (strandKey sr) { x.strand (strandKey sr) with pc := (x.strand (strandKey sr)).pc + 8, wait := .none } }

/-- An instruction that leaves every copse alone. -/
abbrev NxStep (sr : StrandRef) (x : Ctx) (s r : State) : Prop := NxStepC sr x s.nx.copses s r

end Sys2Proof.Machine
end

