-- ==== Sys2Proof/Certificates/Slice0/Obligations.lean ====
section
/-! DEFINITION. What is claimed of the CW9-32A: one proposition for each obligation. -/

open Sys2Proof Sys2Proof.Machine

/-- For every command c and state s whose queue starts with c, step at s is exec of c at s with the rest of the queue; where the queue is empty, step answers the same state, which is the model's choice (log 15). -/
def Obligations.AQueuedCommandRunsFromTheFront : Prop :=
  (∀ (c : Instr) (rest : List Instr) (s : State), s.pending = c :: rest → step s = exec c { s with pending := rest }) ∧
    (∀ s : State, s.pending = [] → step s = .next s)

/-- At the reset state the package state reads STANDBY, the bus converter is off, every word reads the reset value of its table, the queue is empty, no context, transaction, cell, domain, session or claim stands, the memories are canonical, and no stack is supplied. The instant chosen is log 16, values that the spec does not give are log 17. -/
def Obligations.ResetStartsInStandby : Prop :=
  State.reset.current = 1 ∧ State.reset.pw.converter = .off ∧ (∀ w ix, w.inRange ix = true → State.reset.word w ix = w.resetWord (w.home ix)) ∧ State.reset.pending = [] ∧
    State.reset.Quiet ∧ State.reset.Canonical ∧ State.reset.nx.ctxs = [] ∧ State.reset.pw.stackSupply = [] ∧ State.reset.out = [] ∧
    (∀ n, n < 10 → SMap.get .inert State.reset.pw.comparators n = .ready)

/-- For every state whose memories are canonical (control words in rising order, no byte listed that reads 0), the state after any step has canonical memories: equal memories are equal data. -/
def Obligations.EveryStepKeepsTheMemoriesCanonical : Prop :=
  ∀ s s' : State, s.Canonical → step s = .next s' → s'.Canonical

/-- For every command and every state with canonical memories, exec answers a next state whose queue is the same, whose device time and count of free values are at least as great, and whose outputs extend those before. No command stops the block. -/
def Obligations.CommandsLeaveTheQueueAndNeverGoBack : Prop :=
  ∀ (c : Instr) (s : State), s.Canonical → ∃ r, exec c s = .next r ∧ r.Canonical ∧ r.pending = s.pending ∧ s.now ≤ r.now ∧ s.draws ≤ r.draws ∧ s.out <:+ r.out

/-- VIN through 42.0 V starts the keepalive in OFF; 1 ms later, with PORESET_N high, the PW block leaves reset: RESET_CAUSE reads the cause latch and every PW word its reset value but for RESET_CAUSE and AO_FAIL; 1,024 clean crystal edges hand the timers over and 8 silent periods or 100 ms without a crystal fall back, with AO_FAIL; VIN below 40.0 V leaves OFF with the latch at COLD; the COLD decision stands once VIN has held 54.0 V for 1 ms; a standing decision starts SOFTSTART, and a good bus 4 ms later runs and hands over to the boot. A command whose condition does not hold moves time alone. -/
def Obligations.SupplyAndConverterFollowTheirSequence : Prop :=
  ∀ (s : State) (t n k : Nat) (h : Bool),
    let u := s.upTo t
    let ready := u.pw.keepalive = true ∧ u.pw.pwOut = false ∧ u.pw.poresetLow = false ∧ u.pw.keepStart + 1000000 ≤ u.now
    (42000 ≤ n → u.current = 0 → ∃ r, exec (.vinKeepaliveStart t n) s = .next r ∧ r = { u with pw := r.pw, ctl := r.ctl } ∧ OtherWords [CW.addr .PW_STATE []] u r ∧
      r.current = 1 ∧ r.pw = { u.pw with keepalive := true, keepStart := u.now, pwOut := false, causeLatch := 0, aoXtal := false }) ∧
    ((n < 42000 ∨ u.current ≠ 0) → exec (.vinKeepaliveStart t n) s = .next u) ∧
    (ready → ∃ r, exec (.pwResetExit t h) s = .next r ∧ r = { u with pw := r.pw, ctl := r.ctl } ∧
      r.pw = { u.pw with pwOut := true, aoStart := u.now, bootHold := h, coldOwed := true, comparators := r.pw.comparators } ∧ r.fget PW_STATE.RESET_CAUSE [] = u.pw.causeLatch % 16 ∧
      (∀ a d, 0x1000 ≤ a → SMap.get d r.ctl a = SMap.get d u.ctl a) ∧ (∀ a d, a < 0x1000 → a ≠ CW.addr .PW_STATE [] → SMap.get d r.ctl a = d) ∧
      (u.pw.causeLatch = 5 → ∀ c, c < 9 → SMap.get .inert r.pw.comparators c = .inert)) ∧
    (¬ ready → exec (.pwResetExit t h) s = .next u) ∧
    (u.pw.pwOut = true → 1024 ≤ n → ∃ r, exec (.clkAoHandover t n) s = .next r ∧ r.pw = { u.pw with aoXtal := true, aoFellBack := false } ∧ r.fget PW_STATE.AO_FAIL [] = 0) ∧
    (u.pw.pwOut = true → ((u.pw.aoXtal = false ∧ u.pw.keepStart + 100000000 ≤ u.now) ∨ (u.pw.aoXtal = true ∧ 8 ≤ n)) →
      ∃ r, exec (.aoFallback t n) s = .next r ∧ r.pw = { u.pw with aoXtal := false, aoFellBack := true } ∧ r.fget PW_STATE.AO_FAIL [] = 1) ∧
    (n < 40000 → ∃ r, exec (.keepaliveStop t n) s = .next r ∧ r.current = 0 ∧ r.pw.keepalive = false ∧ r.pw.causeLatch = 0 ∧ r.fab.t0 = [] ∧ r.nx.ctxs = [] ∧ r.boot.seed0 = u.boot.seed0 ∧ r.boot.seed1 = u.boot.seed1) ∧
    (40000 ≤ n → exec (.keepaliveStop t n) s = .next u) ∧
    (u.pw.pwOut = true → u.pw.poresetLow = false → u.pw.coldOwed = true → 54000 ≤ n → 1000000 ≤ k → u.pw.bootHold = false → u.fget PW_STATE.RESET_CAUSE [] ≠ 5 → u.current = 1 → u.pw.converter = .off →
      u.pw.wakeStands = false → ∃ r, exec (.wakeDecisionCold t n k) s = .next r ∧ r.pw = { u.pw with wakeStands := true, wakeTick := u.aoTicks, coldOwed := false } ∧ r.fget PW_STATE.WAKE_CAUSE [] = 0) ∧
    (u.pw.poresetLow = true → exec (.wakeDecisionCold t n k) s = .next u) ∧
    (u.pw.wakeStands = true → u.pw.converter = .off → 54000 ≤ n → n ≤ 68000 → 1000000 ≤ k → u.current = 1 →
      exec (.busSoftstart t n k) s = .next { u with pw := { u.pw with converter := .softstart, softAt := u.now, wakeStands := false, comparators := [], thermtripLow := false } }) ∧
    (u.pw.wakeStands = false → exec (.busSoftstart t n k) s = .next u) ∧
    (u.pw.converter = .softstart → u.pw.softAt + 4000000 ≤ u.now → 5820 ≤ n → n ≤ 6180 → ∃ r, exec (.busRun t n) s = .next r ∧ r = { u with pw := r.pw, boot := r.boot } ∧
      r.pw = { u.pw with converter := .run, domainsOff := false, transmittersOff := false, forwardingStopped := false, ingressStopped := false } ∧
      r.boot = { u.boot with phase := .handed, lookoutUp := [0, 1] }) ∧
    (u.now < u.pw.softAt + 4000000 → exec (.busRun t n) s = .next u)

/-- A brown-out or overvoltage of VIN while the converter is not off, PORESET_N low for 1 µs, a keepalive brown-out, 1 ms without REFCLK and a die at its THERMTRIP limit each reset in full with their cause: the package is in STANDBY, the converter off, every control-space word at its reset value, the Understory, contexts, requests and the map gone, retention discarded, and the Seedbank stores and the retirement map kept. With the converter off, VIN outside its window causes no reset; a further PORESET while the pad is low causes none. -/
def Obligations.AFullResetEndsInStandby : Prop :=
  ∀ (s : State) (t n k d : Nat),
    let u := s.upTo t
    let whole (cause : Nat) (r : State) : Prop := r.pw.causeLatch = cause ∧ r.current = 1 ∧ r.pw.converter = .off ∧ r.pw.pwOut = false ∧ r.pw.wakeStands = false ∧ r.ctl = [] ∧
      r.fab.t0 = [] ∧ r.nx.ctxs = [] ∧ r.fab.txns = [] ∧ r.com.inForce = State.reset.com.inForce ∧ r.pw.stackSupply = [] ∧ r.boot.retained = none ∧ r.boot.seed0 = u.boot.seed0 ∧ r.boot.seed1 = u.boot.seed1 ∧
      r.ecc.retired = u.ecc.retired ∧ r.pending = u.pending ∧ r.out = u.out
    (n < 51000 → 10000 ≤ k → u.pw.converter ≠ .off → ∃ r, exec (.brownoutVin t n k) s = .next r ∧ whole 1 r) ∧
    (u.pw.converter = .off → exec (.brownoutVin t n k) s = .next u ∧ exec (.overvoltageVin t n k) s = .next u) ∧
    (68000 < n → 10000 ≤ k → u.pw.converter ≠ .off → ∃ r, exec (.overvoltageVin t n k) s = .next r ∧ whole 2 r) ∧
    (1000 ≤ k → u.pw.keepalive = true → u.pw.poresetLow = false → ∃ r, exec (.poreset t k) s = .next r ∧ whole 7 r ∧ r.pw.poresetLow = true) ∧
    (u.pw.poresetLow = true → exec (.poreset t k) s = .next u) ∧
    (n < 700 → 1000 ≤ k → u.pw.keepalive = true → u.pw.poresetLow = false → ∃ r, exec (.brownoutKeepalive t n k) s = .next r ∧ whole 4 r) ∧
    (∀ t0, u.pw.refclkLost = some t0 → t0 + 1000000 ≤ u.now → ∃ r, exec (.refclkLossReset t) s = .next r ∧ whole 6 r) ∧
    (u.pw.refclkLost = none → exec (.refclkLossReset t) s = .next u) ∧
    (d < 32 → tripLimit d ≤ n → 10000 ≤ k → diePowered u d = true → ∃ r, exec (.thermtrip t d n k) s = .next r ∧ whole 5 r ∧ r.pw.thermtripLow = true) ∧
    (n < tripLimit d → exec (.thermtrip t d n k) s = .next u)

/-- For every state: where the converter is in its soft start and 6 ms have passed since t0 with the bus outside 5.82 to 6.18 V, or the converter runs and the bus has been below 5.4 V for 2 µs, the package resets in full with cause BROWNOUT_BUS and the converter is off; otherwise the command changes nothing but time. -/
def Obligations.BusOutOfToleranceResetsInFull : Prop :=
  ∀ (s : State) (t mv ns : Nat),
    let u := s.upTo t
    let out := u.pw.converter = .softstart ∧ u.pw.softAt + 6000000 ≤ u.now ∧ ¬ (5820 ≤ mv ∧ mv ≤ 6180)
    let low := u.pw.converter = .run ∧ mv < 5400 ∧ 2000 ≤ ns
    ((out ∨ low) → ∃ r, exec (.brownoutBus t mv ns) s = .next r ∧ r = fullReset 3 u ∧ r.pw.converter = .off ∧ r.pw.causeLatch = 3 ∧ r.current = 1) ∧
    (¬ (out ∨ low) → exec (.brownoutBus t mv ns) s = .next u)

/-- PORESET_N low for 1 µs resets in full with cause PORESET, in STANDBY with the PW block in reset. While it is low, with the converter off, the sensors unpowered and no stack in self-refresh as that reset leaves them, no exit of the PW block, no COLD decision and no reset of any cause changes anything but time. Its rise leaves the PW block out of reset with RESET_CAUSE at the latch and the COLD decision owed. -/
def Obligations.PoresetHoldsThePackageInReset : Prop :=
  ∀ (s : State) (t mv ns : Nat) (h : Bool),
    let u := s.upTo t
    let held (s : State) : Prop := s.pw.poresetLow = true ∧ s.pw.converter = .off ∧ s.pw.stackSupply = [] ∧ s.pw.refclkLost = none ∧ s.pw.pwOut = false
    (1000 ≤ ns → u.pw.keepalive = true → u.pw.poresetLow = false → ∃ r, exec (.poreset t ns) s = .next r ∧ r.pw.causeLatch = 7 ∧ r.current = 1 ∧ held r) ∧
    (held s → s.current = 1 → ∀ c, c ∈ ([.poreset t ns, .pwResetExit t h, .wakeDecisionCold t mv ns, .brownoutKeepalive t mv ns, .brownoutBus t mv ns, .brownoutVin t mv ns,
        .overvoltageVin t mv ns, .refclkLossReset t] : List Instr) → ∃ r, exec c s = .next r ∧ held r ∧ r.current = 1 ∧ r.pw.causeLatch = s.pw.causeLatch) ∧
    (held s → s.current = 1 → ∀ d n, exec (.thermtrip t d n ns) s = .next u ∧ u.current = 1) ∧
    (u.pw.poresetLow = true → ∃ r, exec (.poresetRelease t h) s = .next r ∧ r.pw.pwOut = true ∧ r.pw.poresetLow = false ∧ r.pw.coldOwed = true ∧ r.fget PW_STATE.RESET_CAUSE [] = u.pw.causeLatch % 16)

/-- VIN between 51.0 and 54.0 V for 100 µs is VIN_LOW with source 0 high; between 66.0 and 68.0 V it is VIN_HIGH with source 6 high; back in its window both are over and both sources low. REFCLK lost for 1 µs while the converter is on notes the time with source 1 high, and its return within 1 ms takes both back. A powered die's event source is high from its event limit on. A stack in self-refresh on the keepalive doubles its rate above 85 °C and leaves it below 80 °C. -/
def Obligations.SupplyLevelsAndSensorsDriveTheirSources : Prop :=
  ∀ (s : State) (t n k d : Nat),
    let u := s.upTo t
    let only (m : Nat) (level : Bool) (pw : PowerSt) (r : State) : Prop := r.pw = pw ∧ r = { u with pw := r.pw, ctl := r.ctl, ecc := r.ecc, mgmt := r.mgmt } ∧
      OtherWords ([0, 1].flatMap fun c => [CW.addr .EV_SRC_STATE [c, m]]) u r ∧ ∀ c, c < 2 → r.fget EV_SRC_STATE.RAW [c, m] = (if level = true then 1 else 0)
    (51000 ≤ n → n < 54000 → 100000 ≤ k → ∃ r, exec (.vinLow t n k) s = .next r ∧ only 0 true { u.pw with vinLow := true, vinHigh := false } r) ∧
    (66000 < n → n ≤ 68000 → 100000 ≤ k → ∃ r, exec (.vinHigh t n k) s = .next r ∧ only 6 true { u.pw with vinHigh := true, vinLow := false } r) ∧
    (54000 ≤ n → n ≤ 66000 → ∃ r, exec (.vinWindowReturn t n) s = .next r ∧ r.pw = { u.pw with vinLow := false, vinHigh := false } ∧
      ∀ c, c < 2 → r.fget EV_SRC_STATE.RAW [c, 0] = 0 ∧ r.fget EV_SRC_STATE.RAW [c, 6] = 0) ∧
    (1000 ≤ k → u.pw.converter ≠ .off → u.pw.refclkLost = none → ∃ r, exec (.refclkLoss t k) s = .next r ∧ only 1 true { u.pw with refclkLost := some u.now } r) ∧
    (∀ t0, u.pw.refclkLost = some t0 → u.now < t0 + 1000000 → ∃ r, exec (.refclkReturn t) s = .next r ∧ only 1 false { u.pw with refclkLost := none } r) ∧
    (d < 32 → diePowered u d = true → ∃ r, exec (.dieThermalEvent t d n) s = .next r ∧ only (32 + d) (decide (eventLimit u d ≤ n)) u.pw r) ∧
    (d < 4 → SMap.get .off u.pw.stackSupply d = .selfKeepalive → (85 < n ∨ n < 80) → ∃ r, exec (.selfRefreshRateChange t d n) s = .next r ∧
      r = { u with pw := { u.pw with doubleRate := r.pw.doubleRate } } ∧ SMap.get false r.pw.doubleRate d = decide (85 < n)) ∧
    (80 ≤ n → n ≤ 85 → exec (.selfRefreshRateChange t d n) s = .next u)

/-- A program without privilege gets DENIED and changes nothing. A privileged write of ACTIVE in PORTS-ONLY enters ACTIVE at once with COMPLETED, unless the thermal cut stands at 8/16, which refuses it and leaves the state; of PORTS-ONLY in ACTIVE with no refuser it is BUSY and swaps contexts out, and with a refuser it is refused at once; of STANDBY in ACTIVE or PORTS-ONLY it is BUSY and checks its refusers; of the state in force it completes; while BUSY it is ignored. TARGET reads back what was written, and the write completes with OK. Work admitted in PORTS-ONLY tries the same entry, and tries again 1 ms after a refusal. -/
def Obligations.TargetWritesFollowTheTransitionTable : Prop :=
  ∀ (s : State) (p : Prog) (t : Nat),
    let u := s.upTo t
    let last (r : State) : Nat := r.fget PW_STATE.LAST_RESULT []
    let busy : Prop := u.fget PW_STATE.BUSY [] = 1
    (p.privileged = false → ∀ c, c ∈ ([.targetPortsOnly p t, .targetStandby p t, .targetActive p t] : List Instr) → exec c s = .next { u with out := .ctl .denied 0 :: u.out }) ∧
    (p.privileged = true →
      (∃ r, exec (.targetActive p t) s = .next r ∧ r.out.head? = some (.ctl .ok 0) ∧ r.fget PW_STATE.TARGET [] = 3 ∧
        (busy → last r = 4 ∧ r.current = u.current) ∧
        (¬ busy → u.current = 3 → last r = 1 ∧ r.current = 3) ∧
        (¬ busy → u.current = 2 → u.pw.thermalCut ≠ 8 → last r = 1 ∧ r.current = 3) ∧
        (¬ busy → u.current = 2 → u.pw.thermalCut = 8 → last r = 2 ∧ r.current = 2 ∧ r.fget PW_ENTRY_LAST.CLASS [3] = 3) ∧
        (¬ busy → u.current = 1 → last r = 4 ∧ r.current = 1)) ∧
      (∃ r, exec (.targetPortsOnly p t) s = .next r ∧ r.out.head? = some (.ctl .ok 0) ∧ r.fget PW_STATE.TARGET [] = 2 ∧ r.current = u.current ∧
        (busy → last r = 4) ∧
        (¬ busy → u.current = 2 → last r = 1) ∧
        (¬ busy → u.current = 3 → sampledRefusers u 2 = [] → r.fget PW_STATE.BUSY [] = 1 ∧ r.pw.entry = .swapping 2) ∧
        (¬ busy → u.current = 3 → sampledRefusers u 2 ≠ [] → r.fget PW_STATE.BUSY [] = 0 ∧ last r = 2 ∧ r.pw.entry = .idle)) ∧
      (∃ r, exec (.targetStandby p t) s = .next r ∧ r.fget PW_STATE.TARGET [] = 1 ∧ r.current = u.current ∧
        (busy → last r = 4) ∧
        (¬ busy → (u.current = 3 ∨ u.current = 2) → r.fget PW_STATE.BUSY [] = 1 ∧ r.pw.entry = .check1 1 u.now ∧ r.pw.holds = []))) ∧
    (u.current = 2 → ¬ busy →
      (u.pw.thermalCut ≠ 8 → ∃ r, exec (.workAdmitWake t) s = .next r ∧ r.current = 3 ∧ r.pw = { u.pw with workWaits := false } ∧ last r = last u) ∧
      (u.pw.thermalCut = 8 → ∃ r, exec (.workAdmitWake t) s = .next r ∧ r.current = 2 ∧ r.pw = { u.pw with workWaits := true, retryAt := u.now } ∧ last r = last u) ∧
      (u.pw.workWaits = true → u.pw.retryAt + 1000000 ≤ u.now → exec (.activeEntryRetry t) s = exec (.workAdmitWake t) s) ∧
      (u.now < u.pw.retryAt + 1000000 → exec (.activeEntryRetry t) s = .next u))

/-- A check ends 10 µs after PD_QUERY: with no refuser the first leads to the swap-out and the second commits, with a refuser the entry ends refused or aborted and BUSY is 0. The end of the swap-out starts the second check. From tc on: PORTS-ONLY is reached at 20 µs with every copse and CU gated; a STANDBY entry stops ingress at 10 µs, drops cells and stops forwarding at 50 µs, takes transmitters off at 100 µs, puts the retained stacks in self-refresh and drops the others' bytes at 200 µs, loses every domain but retention at 300 µs, and is in STANDBY at 1 ms with the converter off. A step before its time changes nothing but time. -/
def Obligations.AnEntryGoesThroughItsSteps : Prop :=
  ∀ (s : State) (t : Nat),
    let u := s.upTo t
    let commits (tc : Nat) : Prop := u.pw.entry = .committed 1 tc
    (∀ v t0, u.pw.entry = .check1 v t0 → t0 + 10000 ≤ u.now →
      (checkRefusers u = [] → exec (.refuserCheckEnd t) s = .next (settle { u with pw := { u.pw with entry := .swapping v } })) ∧
      (checkRefusers u ≠ [] → ∃ q, exec (.refuserCheckEnd t) s = .next (settle q) ∧ q.pw.entry = .idle ∧ q.fget PW_STATE.LAST_RESULT [] = 2 ∧ q.fget PW_STATE.BUSY [] = 0)) ∧
    (∀ v t0, u.pw.entry = .check2 v t0 → t0 + 10000 ≤ u.now →
      (checkRefusers u = [] → exec (.refuserCheckEnd t) s = .next (settle (commitEntry v u))) ∧
      (checkRefusers u ≠ [] → ∃ q, exec (.refuserCheckEnd t) s = .next (settle q) ∧ q.pw.entry = .idle ∧ q.fget PW_STATE.LAST_RESULT [] = 3 ∧ q.fget PW_STATE.BUSY [] = 0)) ∧
    (u.pw.entry = .swapping 1 → exec (.contextSwapOutEnd t) s = .next (settle (startCheck 1 (.check2 1 u.now) (swapOutAll u)))) ∧
    (u.pw.entry = .idle → exec (.contextSwapOutEnd t) s = .next u ∧ exec (.refuserCheckEnd t) s = .next u) ∧
    (∀ tc, u.pw.entry = .committed 2 tc →
      (tc + 20000 ≤ u.now → ∃ q, exec (.portsOnlyEntryEnd t) s = .next (settle q) ∧ q.current = 2 ∧ q.pw = { u.pw with entry := .idle, cuGate := [], copseGate := [] } ∧
        q.fget PW_STATE.LAST_RESULT [] = 1 ∧ q.fget PW_STATE.BUSY [] = 0 ∧ ∀ k, k < 128 → (q.copse k).cache = [] ∧ (q.copse k).amax = (u.copse k).amax ∧ (q.copse k).resid = (u.copse k).resid) ∧
      (u.now < tc + 20000 → exec (.portsOnlyEntryEnd t) s = .next u)) ∧
    (∀ tc, commits tc → tc + 10000 ≤ u.now → u.pw.ingressStopped = false → ∃ r, exec (.pdNoticeSend t) s = .next r ∧ r.pw = { u.pw with ingressStopped := true }) ∧
    (∀ tc, commits tc → u.now < tc + 10000 → exec (.pdNoticeSend t) s = .next u) ∧
    (∀ tc, commits tc → tc + 50000 ≤ u.now → u.pw.forwardingStopped = false → ∃ q, exec (.standbyCellDrop t) s = .next (settle q) ∧ q.pw = { u.pw with forwardingStopped := true } ∧ q.fwd.refused = []) ∧
    (∀ tc, commits tc → tc + 100000 ≤ u.now → u.pw.transmittersOff = false → ∃ q, exec (.transmittersOff t) s = .next (settle q) ∧ q.pw.transmittersOff = true ∧ q.link.txOn = []) ∧
    (∀ tc, commits tc → tc + 200000 ≤ u.now → u.pw.transmittersOff = true → ∃ r, exec (.understorySelfRefresh t) s = .next r ∧
      (∀ k, k < 4 → SMap.get .off r.pw.stackSupply k = if natBit (u.fget PW_STBY.RETAIN []) k = true then .selfKeepalive else .off) ∧
      (∀ a, SMap.get 0 r.fab.t0 a = if a / 2 ^ 31 / 32 < 4 ∧ natBit (u.fget PW_STBY.RETAIN []) (a / 2 ^ 31 / 32) = false then 0 else SMap.get 0 u.fab.t0 a)) ∧
    (∀ tc, commits tc → tc + 300000 ≤ u.now → u.pw.transmittersOff = true → u.pw.domainsOff = false → exec (.domainsOff t) s = .next (domainsGo u)) ∧
    (∀ tc, commits tc → tc + 1000000 ≤ u.now → u.pw.domainsOff = true → u.pw.wakeLatched = none → ∃ r, exec (.standbyEntryEnd t) s = .next r ∧
      r.pw = { u.pw with entry := .idle, converter := .off } ∧ r.current = 1 ∧ r.fget PW_STATE.LAST_RESULT [] = 1 ∧ r.fget PW_STATE.BUSY [] = 0 ∧ OtherWords [CW.addr .PW_STATE []] u r)

/-- After the domains go, an unlisted word of any block but PW reads its reset value except CM.EPOCH and CM.UNIT; the map in force, the handle generations and the ledger stand as they stood; every context left is a swapped-out one of a copse; no request, domain, session, cell or claim is left; and the boot keeps the list of retained stacks. -/
def Obligations.DomainsOffLeavesTheRetainedState : Prop :=
  ∀ s : State,
    let q := settle (interruptTxns (s.fab.txns.map Prod.fst) (endMgmt s))
    let r := domainsGo s
    (∀ a d, SMap.get d r.ctl a = if outlasts a = true then SMap.get d q.ctl a else d) ∧ r.com.inForce = q.com.inForce ∧ r.com.epGens = q.com.epGens ∧ r.com.ledger = q.com.ledger ∧
    (∀ e, e ∈ r.nx.ctxs → e ∈ q.nx.ctxs ∧ e.2.state = .swapped ∧ e.1 / 32 < 128) ∧ r.Quiet ∧ r.boot.retained = some (retainBits q) ∧ r.fab.t0 = q.fab.t0 ∧ r.pw.domainsOff = true ∧
    r.coh = State.reset.coh ∧ r.link = State.reset.link ∧ r.fwd = State.reset.fwd

/-- In STANDBY, with no decision standing and the cause not THERMTRIP, a comparator that is ready, enabled and past its threshold for QUAL ticks makes a wake decision with its code and is then beyond; one that is not ready or not past its threshold does nothing but note the level. One that is beyond and has returned is ready. At the end of a 1 ms window of package time in PORTS-ONLY or ACTIVE each cut moves up or down by at most 1/16 within 0 to 8/16, by average power against CAP and temperature against THROTTLE_ON, and on the next CLK_AO tick CUT is the greater of the two. -/
def Obligations.WakeAndCutsFollowTheirLoops : Prop :=
  ∀ (s : State) (t c n k d : Nat),
    let u := s.upTo t
    let noted : State := { u with pw := { u.pw with wakeLevel := SMap.put u.pw.wakeLevel c n } }
    let trips : Prop := SMap.get .inert u.pw.comparators c = .ready ∧ wakeEnabled u c = true ∧ wakeBeyond u c n = true ∧ wakeQual u c ≤ k
    (c < 10 → trips → u.current = 1 → u.pw.entry = .idle → u.fget PW_STATE.RESET_CAUSE [] ≠ 5 → u.pw.wakeStands = false → ∃ r, exec (.wakeComparatorTrip t c n k) s = .next r ∧
      r.pw = { noted.pw with comparators := SMap.put u.pw.comparators c .beyond, wakeStands := true, wakeTick := u.aoTicks, coldOwed := false } ∧ r.fget PW_STATE.WAKE_CAUSE [] = wakeCode c) ∧
    (¬ trips → exec (.wakeComparatorTrip t c n k) s = .next noted) ∧
    (c < 10 → SMap.get .inert u.pw.comparators c = .beyond → wakeReturned u c n = true →
      exec (.wakeComparatorRearm t c n) s = .next { noted with pw := { noted.pw with comparators := SMap.put u.pw.comparators c .ready } }) ∧
    (wakeReturned u c n = false → exec (.wakeComparatorRearm t c n) s = .next noted) ∧
    (u.pkgRuns = true → u.pw.cutWindow < u.pkg / 1000000 → 2 ≤ u.current →
      let cap := u.fget PW_THERM.CAP []
      let on := u.fget PW_THERM.THROTTLE_ON []
      ∃ r, exec (.cutWindowEnd t n k d) s = .next r ∧ r.pw.cutOwed = true ∧ r.pw.cutWindow = u.pkg / 1000000 ∧
        (cap < n → r.pw.capCut = min 8 (u.pw.capCut + 1)) ∧ (n ≤ cap → 100 * n < 95 * cap → r.pw.capCut = u.pw.capCut - 1) ∧ (n ≤ cap → 95 * cap ≤ 100 * n → r.pw.capCut = u.pw.capCut) ∧
        (on ≤ k → r.pw.thermalCut = min 8 (u.pw.thermalCut + 1)) ∧ (k + 5 ≤ on → r.pw.thermalCut = u.pw.thermalCut - 1) ∧ (k < on → on < k + 5 → r.pw.thermalCut = u.pw.thermalCut)) ∧
    (u.pkg / 1000000 ≤ u.pw.cutWindow → exec (.cutWindowEnd t n k d) s = .next u) ∧
    (u.pw.cutOwed = true → u.pw.cutTick < u.aoTicks → u.pw.capCut ≤ 8 → u.pw.thermalCut ≤ 8 → ∃ r, exec (.cutApply t) s = .next r ∧ r.pw = { u.pw with cutOwed := false } ∧
      r.fget PW_THERM.CUT [] = max u.pw.capCut u.pw.thermalCut ∧ OtherWords ([CW.addr .PW_THERM []] ++ [0, 1].map fun c => CW.addr .EV_SRC_STATE [c, 2]) u r)

/-- A running CU idle for 64 cycles is clock-gated; a CU that no resident context holds and that has been idle for CU_IDLE is power-gated, never with CU_IDLE = 0; a copse follows once all its CUs are gated, and power-gates after COPSE_IDLE with no resident context and no dirty line, losing its cache and keeping its amax and residual entries. A gated unit that wakes runs after its wake time. The gating of every other unit is unchanged. -/
def Obligations.UnitsGateAndWake : Prop :=
  ∀ (s : State) (t n k : Nat),
    let u := s.upTo t
    let cu (g : Gating) (r : State) : Prop := cuGating r n = g ∧ ∀ m, m ≠ n → cuGating r m = cuGating u m
    let copse (g : Gating) (r : State) : Prop := copseGating r n = g ∧ ∀ m, m ≠ n → copseGating r m = copseGating u m
    let cus (p : Gating → Prop) : Prop := ∀ i, i < 16 → p (cuGating u (16 * n + i))
    (cuGating u n = .running → 64 ≤ k → ∃ r, exec (.cuClockGate t n k) s = .next r ∧ cu .clockGated r ∧ r = { u with pw := { u.pw with cuGate := r.pw.cuGate } }) ∧
    (k < 64 → exec (.cuClockGate t n k) s = .next u) ∧
    ((cuGating u n = .running ∨ cuGating u n = .clockGated) → cuHeld u n = false → u.fget PW_GATE.CU_IDLE [] ≠ 0 → u.fget PW_GATE.CU_IDLE [] ≤ k →
      ∃ r, exec (.cuPowerGate t n k) s = .next r ∧ cu .powerGated r ∧ r.pw = { u.pw with cuGate := r.pw.cuGate }) ∧
    (u.fget PW_GATE.CU_IDLE [] = 0 → exec (.cuPowerGate t n k) s = .next u) ∧
    (copseGating u n = .running → 64 ≤ k → cus (fun g => g = .clockGated ∨ g = .powerGated) → ∃ r, exec (.copseClockGate t n k) s = .next r ∧ copse .clockGated r ∧
      r = { u with pw := { u.pw with copseGate := r.pw.copseGate } }) ∧
    ((copseGating u n = .running ∨ copseGating u n = .clockGated) → cus (fun g => g = .powerGated) → residents u n = [] → u.fget PW_GATE.COPSE_IDLE [] ≠ 0 → u.fget PW_GATE.COPSE_IDLE [] ≤ k →
      (∀ l, l ∈ (u.copse n).cache → l.dirty = false) → ∃ r, exec (.copsePowerGate t n k) s = .next r ∧ copse .powerGated r ∧ (r.copse n).cache = [] ∧ (r.copse n).amax = (u.copse n).amax ∧
        (r.copse n).resid = (u.copse n).resid ∧ ∀ m, m ≠ n → r.copse m = u.copse m) ∧
    (cuGating u n = .waking → 12000 ≤ k → ∃ r, exec (.unitWake t (.cu n) k) s = .next r ∧ cu .running r ∧ r = { u with pw := { u.pw with cuGate := r.pw.cuGate } }) ∧
    (copseGating u n = .waking → 15000 ≤ k → ∃ r, exec (.unitWake t (.copse n) k) s = .next r ∧ copse .running r ∧ r = { u with pw := { u.pw with copseGate := r.pw.copseGate } }) ∧
    (cuGating u n = .waking → k < 12000 → exec (.unitWake t (.cu n) k) s = .next u)

/-- The ROM of a Lookout loads the directory; a Lookout whose check finds a good slot starts it, starting package time from 0, and one without goes to recovery; the preferred Lookout becomes active if its image verified, else the other; the active Lookout applies its words and powers the stacks; with every die settled the calibration is applied; then channels are trained with every page invalid unless stacks were retained; then the package enters WAKE_TARGET, 0b00 and 0b01 acting as ACTIVE, with the event and, after a full reset, every unit owed its scrub. Out of its phase a step changes nothing but time. -/
def Obligations.BootFollowsItsSteps : Prop :=
  ∀ (s : State) (t k : Nat) (va vb va1 vb1 : Verdict),
    let u := s.upTo t
    let phase := u.boot.phase
    (k < 2 → phase = .handed → k ∉ u.boot.dirRead → ∃ r, exec (.bootRomStart t k) s = .next r ∧ r.boot = { u.boot with phase := .romStarted, dirRead := k :: u.boot.dirRead } ∧
      r = { u with boot := r.boot, ctl := r.ctl } ∧ ∀ d, d < 5 → r.fget SB_IMG.ACTIVE [0, d] = SMap.get 0 u.boot.slotActive d % 2 ∧ r.fget SB_IMG.MIN_SVN [0, d] = SMap.get 0 u.boot.minSvn d % 2 ^ 32) ∧
    (k < 2 → phase = .romStarted → k ∈ u.boot.dirRead → SMap.get? u.boot.lookoutSlot k = none → k ∉ u.boot.recovery →
      (∀ slot, selectSlot u 0 va vb va1 vb1 = some slot → ∃ r, exec (.lookoutImageStart t k va vb va1 vb1) s = .next r ∧ SMap.get? r.boot.lookoutSlot k = some slot ∧ r.pkgRuns = true ∧
        (u.pkgRuns = false → r.pkg = 0)) ∧
      (selectSlot u 0 va vb va1 vb1 = none → ∃ r, exec (.lookoutImageStart t k va vb va1 vb1) s = .next r ∧ r.boot.recovery = k :: u.boot.recovery ∧ k ∉ r.boot.lookoutUp ∧ r.pkgRuns = u.pkgRuns)) ∧
    (phase = .romStarted →
      let pref := u.fget LK_BOOT.PREFER [0]
      let up (k : Nat) : Prop := (SMap.get? u.boot.lookoutSlot k).isSome = true
      (up pref → ∃ r, exec (.activeLookoutChoice t) s = .next r ∧ r.boot = { u.boot with phase := .chosen, lastBeat := u.now } ∧ r.activeLookout = pref) ∧
      (¬ up pref → up (1 - pref) → ∃ r, exec (.activeLookoutChoice t) s = .next r ∧ r.boot.phase = .chosen ∧ r.activeLookout = 1 - pref)) ∧
    (phase = .chosen → u.boot.retained = none → ∃ r, exec (.bootApplyLookout t) s = .next r ∧ r.boot.phase = .applied ∧ r.boot.seqRuns = true ∧ r.clr.signOwed = true ∧
      (∀ n, n < 4 → SMap.get .off u.pw.stackSupply n ≠ .selfKeepalive → SMap.get .off r.pw.stackSupply n = .powered) ∧ (∀ n, n ∈ r.boot.lookoutUp ↔ n < 2 ∧ (SMap.get? u.boot.lookoutSlot n).isSome = true)) ∧
    (phase = .applied → diesSettled u = true → ∃ r, exec (.dieCalibrationApply t) s = .next r ∧ r.boot.phase = .calibrated) ∧
    (phase = .calibrated → ∃ r, exec (.understoryChannelsTrained t) s = .next r ∧ r.boot.phase = .trained ∧ (u.boot.retained = none → r.fab.t0 = []) ∧ (u.boot.retained ≠ none → r.fab.t0 = u.fab.t0) ∧
      ∀ n, n < 4 → SMap.get .off r.pw.stackSupply n = .powered) ∧
    (phase = .trained → u.boot.retained = none → ∃ q, exec (.bootDone t) s = .next (settle q) ∧ q.boot.phase = .done ∧ q.out.head? = some (.event .bootDone) ∧
      q.current = (if u.fget PW_STATE.WAKE_TARGET [] < 2 then 3 else u.fget PW_STATE.WAKE_TARGET []) ∧ q.clr.owed = (List.range 512).map fun n => (n, 0xFF, 2, 0)) ∧
    (phase = .idle → ∀ c, c ∈ ([.bootRomStart t k, .lookoutImageStart t k va vb va1 vb1, .activeLookoutChoice t, .bootApplyLookout t, .dieCalibrationApply t, .understoryChannelsTrained t, .bootDone t] : List Instr) →
      exec c s = .next u)

/-- The check is GOOD exactly where magic, format and type match, the body fits the slot, both keys match their fuses, both signatures verify, the body matches its digest and the SVN is at least the minimum; otherwise it answers the failure of the first of these. selectSlot gives the active slot where its check is GOOD, else the other where that is GOOD, else none. -/
def Obligations.ImageChecksRefuseInOrder : Prop :=
  (∀ (h : ImageHdr) (v : Verdict) (d m : Nat),
      let format : Prop := h.magic = 0x4E445746 ∧ h.format = 1 ∧ h.dtype = d ∧ h.bodyLen ≤ slotSize d - 65536
      let keys : Prop := v.rsaKey = true ∧ v.slhKey = true
      let sigs : Prop := v.rsaSig = true ∧ v.slhSig = true
      (checkImage h v d m = .good ↔ format ∧ keys ∧ sigs ∧ v.digest = true ∧ m ≤ h.svn) ∧ (checkImage h v d m = .badFormat ↔ ¬ format) ∧ (checkImage h v d m = .badKey ↔ format ∧ ¬ keys) ∧
      (checkImage h v d m = .badSignature ↔ format ∧ keys ∧ ¬ sigs) ∧ (checkImage h v d m = .badDigest ↔ format ∧ keys ∧ sigs ∧ v.digest = false) ∧
      (checkImage h v d m = .rollback ↔ format ∧ keys ∧ sigs ∧ v.digest = true ∧ h.svn < m)) ∧
    (∀ (s : State) (d : Nat) (va vb va1 vb1 : Verdict),
      let a := SMap.get 0 s.boot.slotActive d
      let good (slot : Nat) : Prop := checkSlot s d slot (if slot = 0 then va else vb) (if slot = 0 then va1 else vb1) = .good
      (good a → selectSlot s d va vb va1 vb1 = some a) ∧ (¬ good a → good (1 - a) → selectSlot s d va vb va1 vb1 = some (1 - a)) ∧
      (¬ good a → ¬ good (1 - a) → selectSlot s d va vb va1 vb1 = none))

/-- A program without privilege gets DENIED. SET_A and SET_B of a good slot set ACTIVE, and of a slot that is not good are DENIED; RAISE_SVN takes the active slot's SVN if that is higher, so MIN_SVN never falls. A commit starts once, reads busy while one runs, and its end commits the other copy only where its check gives 1. A window write reaches every Seedbank in service where the byte may be written, and is DENIED elsewhere. A slot check records GOOD and SVN. A die's image starts when it is good and confirmed, is sent once more after a mismatch, and else the die is not started. A resynchronized region is equal in both Seedbanks. -/
def Obligations.SlotsStoresAndCopiesAreWrittenByTheirRules : Prop :=
  ∀ (s : State) (p : Prog) (t d w : Nat) (v : Word),
    let u := s.upTo t
    let ended (st : Status) (q r : State) : Prop := r = { q with out := .ctl st 0 :: q.out }
    (p.privileged = false → ∀ c, c ∈ ([.setA p t d, .setB p t d, .raiseSvn p t d, .nvCommit p t, .ucalCommit p t, .seedbankWindowWrite p t w v] : List Instr) →
      exec c s = .next { u with out := .ctl .denied 0 :: u.out }) ∧
    (p.privileged = true → d < 5 →
      (u.fget SB_IMG.A_GOOD [0, d] ≠ 0 → ∃ q r, exec (.setA p t d) s = .next r ∧ ended .ok q r ∧ q = { u with boot := q.boot, ctl := q.ctl } ∧
        q.boot = { u.boot with slotActive := q.boot.slotActive } ∧ SMap.get 0 q.boot.slotActive d = 0 ∧ q.fget SB_IMG.ACTIVE [0, d] = 0 ∧ OtherWords [CW.addr .SB_IMG [0, d]] u q) ∧
      (u.fget SB_IMG.B_GOOD [0, d] ≠ 0 → ∃ q r, exec (.setB p t d) s = .next r ∧ ended .ok q r ∧ SMap.get 0 q.boot.slotActive d = 1 ∧ q.fget SB_IMG.ACTIVE [0, d] = 1 ∧ OtherWords [CW.addr .SB_IMG [0, d]] u q) ∧
      (u.fget SB_IMG.A_GOOD [0, d] = 0 → exec (.setA p t d) s = .next { u with out := .ctl .denied 0 :: u.out }) ∧
      (u.fget SB_IMG.B_GOOD [0, d] = 0 → exec (.setB p t d) s = .next { u with out := .ctl .denied 0 :: u.out }) ∧
      (∃ q r, exec (.raiseSvn p t d) s = .next r ∧ ended .ok q r ∧
        let svn := u.fget (if u.fget SB_IMG.ACTIVE [0, d] = 0 then SB_IMG.A_SVN else SB_IMG.B_SVN) [0, d]
        SMap.get 0 q.boot.minSvn d = max (SMap.get 0 u.boot.minSvn d) svn ∧ ∀ e, e ≠ d → SMap.get 0 q.boot.minSvn e = SMap.get 0 u.boot.minSvn e)) ∧
    (p.privileged = true →
      (u.boot.nvCommitAt = none → exec (.nvCommit p t) s = .next { u with boot := { u.boot with nvCommitAt := some u.now }, out := .ctl .ok 0 :: u.out }) ∧
      (u.boot.nvCommitAt.isSome = true → ∃ r, exec (.nvCommit p t) s = .next r ∧ r.fget SB_NV.RESULT [0] = 4 ∧ r.boot = u.boot) ∧
      (u.boot.ucalCommitAt = none → exec (.ucalCommit p t) s = .next { u with boot := { u.boot with ucalCommitAt := some u.now }, out := .ctl .ok 0 :: u.out }) ∧
      (windowOpen u (8 * w) = none → exec (.seedbankWindowWrite p t w v) s = .next { u with out := .ctl .denied 0 :: u.out }) ∧
      (∀ g, windowOpen u (8 * w) = some g → u.boot.seedDown = [] → exec (.seedbankWindowWrite p t w v) s = .next { u with
        boot := { u.boot with seed0 := writeBytes u.boot.seed0 (8 * w) (toBytesLE 8 v.toNat), seed1 := writeBytes u.boot.seed1 (8 * w) (toBytesLE 8 v.toNat) }, out := .ctl .ok 0 :: u.out })) ∧
    (u.boot.nvCommitAt.isSome = true →
      let copy := 1 - u.boot.nvActive
      let res := copyResult (seedStore u) (nvOffset copy) 0x4E44564E 24 131072
      ∃ r, exec (.nvCommitDone t false) s = .next r ∧ r.boot.nvCommitAt = none ∧ r.fget SB_NV.RESULT [0] = res ∧
        (res = 1 → r.boot.nvActive = copy ∧ r.boot.nvSeq = u.boot.nvSeq + 1 ∧ r.fget SB_NV.ACTIVE [0] = copy % 2) ∧ (res ≠ 1 → r.boot = { u.boot with nvCommitAt := none })) ∧
    (∀ slot v0 v1, d < 5 → slot < 2 → ∃ r, exec (.slotCheck t d slot v0 v1) s = .next r ∧ r.fget (if slot = 0 then SB_IMG.A_GOOD else SB_IMG.B_GOOD) [0, d] = (if checkSlot u d slot v0 v1 = .good then 1 else 0) ∧
      r.clr.signOwed = true ∧ (checkSlot u d slot v0 v1 = .good → SMap.get? r.boot.staged d = some slot)) ∧
    (∀ n va vb va1 vb1, 2 ≤ n → n < 32 → u.boot.phase = .applied → dieState u n = 3 → n ∉ u.boot.notStarted →
      (∀ slot, selectSlot u (dieType n) va vb va1 vb1 = some slot → ∃ r, exec (.dieImageConfirm t n va vb va1 vb1 true true) s = .next r ∧
        r.fget AT_DIE_INFO.GEN [n] = (u.fget AT_DIE_INFO.GEN [n] + 1) % 2 ^ 32 ∧ r.boot.notStarted = u.boot.notStarted) ∧
      (∀ slot, selectSlot u (dieType n) va vb va1 vb1 = some slot → n ∉ u.boot.resent → ∃ r, exec (.dieImageConfirm t n va vb va1 vb1 false true) s = .next r ∧ r.boot.resent = n :: u.boot.resent ∧
        r.boot.notStarted = u.boot.notStarted) ∧
      (selectSlot u (dieType n) va vb va1 vb1 = none → ∀ a b, ∃ r, exec (.dieImageConfirm t n va vb va1 vb1 a b) s = .next r ∧ r.boot.notStarted = n :: u.boot.notStarted ∧
        r.fget AT_DIE_INFO.GEN [n] = 0 ∧ r.out.head? = some (.event (.dieNotStarted n)))) ∧
    (∀ g src, g < 12 → g ∈ u.boot.unsync → u.boot.seedDown = [] → ∃ r, exec (.seedbankResync t g src) s = .next r ∧ g ∉ r.boot.unsync ∧
      (∀ a, (regionSpan g).1 ≤ a → a < (regionSpan g).1 + (regionSpan g).2 → SMap.get 0 r.boot.seed0 a = SMap.get 0 r.boot.seed1 a) ∧
      (∀ a, (a < (regionSpan g).1 ∨ (regionSpan g).1 + (regionSpan g).2 ≤ a) → SMap.get 0 r.boot.seed0 a = SMap.get 0 u.boot.seed0 a ∧ SMap.get 0 r.boot.seed1 a = SMap.get 0 u.boot.seed1 a))

/-- A loaded update is in PHASE 3 with the interruption of its die begun; a switch ends it with RESULT 1 on the new slot and a revert with RESULT 5 on the old one, PHASE idle and no update in progress. A planned handover that holds no operation makes the other Lookout active with LAST 1 and the Sequencer running. A Lookout that missed three heartbeats is fenced with the Sequencer stopped; with the other in service the Sequencer resumes, events are raised again and the other is active with LAST 2. A reload brings a Lookout back into service. UPDATE_GO and HANDOVER_GO write their fields for a privileged program and are DENIED otherwise. -/
def Obligations.UpdatesHandoversAndFailovers : Prop :=
  ∀ (s : State) (p : Prog) (t k beat dt i sl : Nat),
    let u := s.upTo t
    (∀ up, u.boot.update = some up →
      (u.fget LK_UPD.PHASE [0] = 1 → exec (.updateLoaded t) s = .next (settle (startSwitching up.dtype up.index (u.fset LK_UPD.PHASE [0] 3)))) ∧
      (u.fget LK_UPD.PHASE [0] = 3 → exec (.updateSwitched t) s = .next (goOn (endUpdate up up.slot 1 u)) ∧
        exec (.updateRevert t) s = .next (goOn (endUpdate up up.oldSlot 5 (u.fwrap AT_DIE_INFO.GEN [dieEntry up.dtype up.index] 1)))) ∧
      (u.fget LK_UPD.PHASE [0] = 0 → exec (.updateLoaded t) s = .next u ∧ exec (.updateSwitched t) s = .next u ∧ exec (.updateRevert t) s = .next u)) ∧
    (∀ t0, u.boot.handover = .planned t0 → (∀ o, o ∈ u.coh.seqOps → o.positioned = false) → ∃ q, exec (.handoverDone t) s = .next (settle q) ∧ q.boot.handover = .idle ∧ q.boot.seqRuns = true ∧
      q.activeLookout = 1 - u.activeLookout ∧ q.fget LK_HANDOVER.LAST [1 - u.activeLookout] = 1 ∧ q.ecc.claims = u.ecc.claims.filter (fun c => c.cu / 4 != u.activeLookout)) ∧
    (u.boot.handover = .idle → exec (.handoverDone t) s = .next u ∧ exec (.failoverResume t) s = .next u ∧ exec (.failoverEvents t) s = .next u ∧ exec (.failoverAnswers t) s = .next u) ∧
    (u.boot.phase = .done → u.activeLookout ∈ u.boot.lookoutUp → u.boot.handover = .idle → u.boot.lastBeat ≤ beat → beat + 6000 ≤ u.now → ∃ q, exec (.heartbeatLoss t beat) s = .next (settle q) ∧
      q.boot.handover = .lost beat u.activeLookout ∧ q.boot.seqRuns = false ∧ u.activeLookout ∉ q.boot.lookoutUp ∧ u.activeLookout ∈ q.boot.fenced) ∧
    (u.now < beat + 6000 → exec (.heartbeatLoss t beat) s = .next u) ∧
    (∀ t0 a, u.boot.handover = .lost t0 a →
      ((1 - a) ∈ u.boot.lookoutUp → exec (.failoverResume t) s = .next (settle (resumeSequencer { u with boot := { u.boot with handover := .resumed t0 a } }))) ∧
      ((1 - a) ∉ u.boot.lookoutUp → exec (.failoverResume t) s = .next u)) ∧
    (∀ t0 a, u.boot.handover = .resumed t0 a → a < 2 → ∃ r, exec (.failoverEvents t) s = .next r ∧ r.boot = { u.boot with handover := .events t0 a } ∧
      ∀ n, n < 2048 → r.fget EV_SRC_STATE.PENDING [1 - a, n] = max (u.fget EV_SRC_STATE.PENDING [a, n]) (u.fget EV_SRC_STATE.PENDING [1 - a, n])) ∧
    (∀ t0 a, u.boot.handover = .events t0 a → a < 2 → ∃ q, exec (.failoverAnswers t) s = .next (settle q) ∧ q.boot.handover = .idle ∧ q.activeLookout = 1 - a ∧ q.fget LK_HANDOVER.LAST [1 - a] = 2 ∧ q.boot.lastBeat = u.now) ∧
    (k < 2 → u.boot.phase = .done → k ∉ u.boot.lookoutUp → k ∉ u.boot.recovery → u.boot.update = none → ∃ q, exec (.lookoutReloadDone t k) s = .next (goOn q) ∧ k ∈ q.boot.lookoutUp ∧ k ∉ q.boot.fenced) ∧
    (k ∈ u.boot.lookoutUp → exec (.lookoutReloadDone t k) s = .next u) ∧
    (k < 2 → p.privileged = false → exec (.updateGo p t k dt i sl) s = .next (settle { u with out := .ctl .denied 0 :: u.out }) ∧ exec (.handoverGo p t k) s = .next (settle { u with out := .ctl .denied 0 :: u.out })) ∧
    (k < 2 → k = u.activeLookout → p.privileged = true → u.boot.handover = .idle → (1 - k) ∈ u.boot.lookoutUp → dieState u (1 - k) = 0 → ∃ q, exec (.handoverGo p t k) s = .next (settle q) ∧
      q.boot.handover = .planned u.now ∧ q.boot.seqRuns = false ∧ q.out.head? = some (.ctl .ok 0)) ∧
    (k < 2 → k = u.activeLookout → p.privileged = true → u.fget LK_UPD.PHASE [0] ≠ 0 → ∃ q, exec (.updateGo p t k dt i sl) s = .next (settle q) ∧ q.fget LK_UPD.RESULT [0] = 2 ∧ q.boot = u.boot ∧ q.out.head? = some (.ctl .ok 0))

/-- For every state and strand at which one of the scalar operations of Table 09.8 on s[SRC1] and s[SRC2], or ADDI, MOVZ or MOVK, issues and is not the last of its program, the command answers a next state: s[DST] holds the result, the pc is 8 higher, and every other context, the memories, every word but the count of issued instructions, and the rest of the machine are unchanged. -/
def Obligations.ScalarArithmeticResults : Prop :=
  ∀ (s : State) (sr : StrandRef) (w : Word) (x : Ctx), s.ctx? sr.copse sr.ctx = some x → goesOn sr x = true →
    let st := x.strand (strandKey sr)
    let i := Ins.ofWord w
    let a := st.s i.src1
    let b := st.s i.src2
    let wrote (v : Word) (r : State) : Prop := NxStep sr (x.setStrand (strandKey sr) (st.setS i.dst v)) s r
    (issues 0 0x01 sr w s = true → ∃ r, exec (.add sr w) s = .next r ∧ wrote (a + b) r) ∧
    (issues 0 0x02 sr w s = true → ∃ r, exec (.sub sr w) s = .next r ∧ wrote (a - b) r) ∧
    (issues 0 0x03 sr w s = true → ∃ r, exec (.mul sr w) s = .next r ∧ wrote (a * b) r) ∧
    (issues 0 0x04 sr w s = true → ∃ r, exec (.mulhu sr w) s = .next r ∧ wrote (BitVec.ofNat 64 (a.toNat * b.toNat / 2 ^ 64)) r) ∧
    (issues 0 0x05 sr w s = true → ∃ r, exec (.and sr w) s = .next r ∧ wrote (a &&& b) r) ∧
    (issues 0 0x06 sr w s = true → ∃ r, exec (.or sr w) s = .next r ∧ wrote (a ||| b) r) ∧
    (issues 0 0x07 sr w s = true → ∃ r, exec (.xor sr w) s = .next r ∧ wrote (a ^^^ b) r) ∧
    (issues 0 0x08 sr w s = true → ∃ r, exec (.shl sr w) s = .next r ∧ wrote (a <<< (b.toNat % 64)) r) ∧
    (issues 0 0x09 sr w s = true → ∃ r, exec (.shr sr w) s = .next r ∧ wrote (a >>> (b.toNat % 64)) r) ∧
    (issues 0 0x0A sr w s = true → ∃ r, exec (.sar sr w) s = .next r ∧ wrote (a.sshiftRight (b.toNat % 64)) r) ∧
    (issues 0 0x0B sr w s = true → ∃ r, exec (.mins sr w) s = .next r ∧ wrote (if a.toInt ≤ b.toInt then a else b) r) ∧
    (issues 0 0x0C sr w s = true → ∃ r, exec (.maxs sr w) s = .next r ∧ wrote (if a.toInt ≤ b.toInt then b else a) r) ∧
    (issues 0 0x0D sr w s = true → ∃ r, exec (.minu sr w) s = .next r ∧ wrote (if a.toNat ≤ b.toNat then a else b) r) ∧
    (issues 0 0x0E sr w s = true → ∃ r, exec (.maxu sr w) s = .next r ∧ wrote (if a.toNat ≤ b.toNat then b else a) r) ∧
    (issues 0 0x10 sr w s = true → ∃ r, exec (.addi sr w) s = .next r ∧ wrote (a + (BitVec.ofNat 29 i.imm).signExtend 64) r) ∧
    (issues 0 0x12 sr w s = true → ∃ r, exec (.movz sr w) s = .next r ∧ wrote (BitVec.ofNat 64 (natBits i.imm 28 13) <<< (16 * natBits i.imm 12 11)) r) ∧
    (issues 0 0x13 sr w s = true → ∃ r, exec (.movk sr w) s = .next r ∧ ∃ v, wrote v r ∧
      bitsOf v (16 * natBits i.imm 12 11 + 15) (16 * natBits i.imm 12 11) = natBits i.imm 28 13 ∧
      ∀ k, k < 64 → k / 16 ≠ natBits i.imm 12 11 → v.getLsbD k = (st.s i.dst).getLsbD k)

/-- Where CMP, CMPI or PLOG issues, p[DST] holds the condition and the other predicates are unchanged; CLZ gives the number of leading zeros and POPC the number of set bits; TIME gives package time; SETA sets an a-register modulo 2³²; SETCVT sets the four conversion settings; NOP changes no register. The strand goes on and everything else is unchanged. -/
def Obligations.ScalarTestResults : Prop :=
  ∀ (s : State) (sr : StrandRef) (w : Word) (x : Ctx), s.ctx? sr.copse sr.ctx = some x → goesOn sr x = true →
    let st := x.strand (strandKey sr)
    let i := Ins.ofWord w
    let a := st.s i.src1
    let b := st.s i.src2
    let went (st' : Strand) (r : State) : Prop := NxStep sr (x.setStrand (strandKey sr) st') s r
    let holds (cc : Nat) (a b : Word) : Prop :=
      (cc = 0 ∧ a = b) ∨ (cc = 1 ∧ a ≠ b) ∨ (cc = 2 ∧ a.toInt < b.toInt) ∨ (cc = 3 ∧ b.toInt ≤ a.toInt) ∨ (cc = 4 ∧ a.toNat < b.toNat) ∨ (cc = 5 ∧ b.toNat ≤ a.toNat)
    let tested (c : Prop) (r : State) : Prop :=
      ∃ st', went st' r ∧ st' = { st with preds := st'.preds } ∧ (st'.p i.dst = true ↔ c) ∧ ∀ m, m ≠ i.dst → st'.p m = st.p m
    (issues 0 0x14 sr w s = true → natBits i.imm 2 0 < 6 → ∃ r, exec (.cmp sr w) s = .next r ∧ tested (holds (natBits i.imm 2 0) a b) r) ∧
    (issues 0 0x15 sr w s = true → natBits i.imm 2 0 < 6 → ∃ r, exec (.cmpi sr w) s = .next r ∧
      tested (holds (natBits i.imm 2 0) a ((BitVec.ofNat 26 (natBits i.imm 28 3)).signExtend 64)) r) ∧
    (issues 0 0x16 sr w s = true → ∃ r, exec (.plog sr w) s = .next r ∧
      tested ((natBits i.imm 1 0 = 0 ∧ st.p i.src1 = true ∧ st.p i.src2 = true) ∨ (natBits i.imm 1 0 = 1 ∧ (st.p i.src1 = true ∨ st.p i.src2 = true))
        ∨ (natBits i.imm 1 0 = 2 ∧ st.p i.src1 ≠ st.p i.src2) ∨ (natBits i.imm 1 0 = 3 ∧ st.p i.src1 = true ∧ st.p i.src2 = false)) r) ∧
    (issues 0 0x17 sr w s = true → ∃ r n, exec (.clz sr w) s = .next r ∧ went (st.setS i.dst (BitVec.ofNat 64 n)) r ∧ n ≤ 64 ∧
      (∀ k, k < n → a.getMsbD k = false) ∧ (n < 64 → a.getMsbD n = true)) ∧
    (issues 0 0x18 sr w s = true → ∃ r, exec (.popc sr w) s = .next r ∧
      went (st.setS i.dst (BitVec.ofNat 64 ((List.range 64).countP fun k => a.getLsbD k))) r) ∧
    (issues 0 0x19 sr w s = true → ∃ r, exec (.time sr w) s = .next r ∧ went (st.setS i.dst (BitVec.ofNat 64 s.pkg)) r) ∧
    (issues 0 0x1A sr w s = true → ∃ r st', exec (.seta sr w) s = .next r ∧ went st' r ∧ st' = { st with aregs := st'.aregs } ∧
      st'.a i.dst = a.toNat % 2 ^ 32 ∧ ∀ m, m ≠ i.dst → st'.a m = st.a m) ∧
    (issues 8 0x06 sr w s = true → ∃ r, exec (.setcvt sr w) s = .next r ∧
      went { st with rmode := natBits i.imm 1 0, smode := natBits i.imm 3 2, promoEn := natBit i.imm 4, promoN := natBits i.imm 10 5 } r) ∧
    (issues 0 0x00 sr w s = true → ∃ r, exec (.nop sr w) s = .next r ∧ went st r)

/-- A branch whose target is a multiple of 8 within 0 to CODE_LEN − 8 sets the pc to it, CALL also writes pc + 8 into s[DST], and everything else is unchanged; any other target is a fault with reason PC_RANGE of the counted instruction. END leaves the strand not live and without its bay, and goes on to the barriers and the end of its program. -/
def Obligations.BranchesMoveThePc : Prop :=
  ∀ (s : State) (sr : StrandRef) (w : Word) (x : Ctx), s.ctx? sr.copse sr.ctx = some x →
    let st := x.strand (strandKey sr)
    let i := Ins.ofWord w
    let disp : Int := ((BitVec.ofNat 29 i.imm).signExtend 64).toInt
    let inCode (a : Nat) : Prop := a ≤ x.hdr.codeLen - 8 ∧ a % 8 = 0
    let jumped (st' : Strand) (a : Nat) (r : State) : Prop := NxFrame sr s.nx.copses s r ∧ ∃ y, r.ctx? sr.copse sr.ctx = some y ∧ y = { x with strands := y.strands, issued := x.issued + 1 } ∧
      y.strand (strandKey sr) = { st' with pc := a, wait := .none } ∧ ∀ k, k ≠ strandKey sr → y.strand k = x.strand k
    (issues 8 0x00 sr w s = true → ∀ a : Nat, (a : Int) = st.pc + 8 * disp →
      (inCode a → ∃ r, exec (.br sr w) s = .next r ∧ jumped st a r) ∧ (¬ inCode a → exec (.br sr w) s = .next (fault sr 0x24 (countIssue sr s)))) ∧
    (issues 8 0x01 sr w s = true →
      (inCode (st.s i.src1).toNat → ∃ r, exec (.brr sr w) s = .next r ∧ jumped st (st.s i.src1).toNat r) ∧
      (¬ inCode (st.s i.src1).toNat → exec (.brr sr w) s = .next (fault sr 0x24 (countIssue sr s)))) ∧
    (issues 8 0x02 sr w s = true → ∀ a : Nat, (a : Int) = st.pc + 8 * disp → inCode a →
      ∃ r, exec (.call sr w) s = .next r ∧ jumped (st.setS i.dst (BitVec.ofNat 64 (st.pc + 8))) a r) ∧
    (issues 8 0x03 sr w s = true → ∃ q, exec (.endStrand sr w) s = .next (afterStrand sr.copse sr.ctx (releaseBar sr.copse sr.ctx q)) ∧
      (q.strand sr).live = false ∧ (q.strand sr).bay = none)

/-- BAYACQ of a strand that holds a bay changes nothing else; of one whose context holds its declared bays on the CU it is a fault with reason BAYS; otherwise, with no request waiting on the CU and a bay free, the strand goes on with that bay reading zeros, and with none free the strand waits at the end of the queue. BAYREL takes the bay away. A grant gives a bay to the oldest waiting request that may be served, and its strand goes on. -/
def Obligations.BaysAreHeldAndReleased : Prop :=
  ∀ (s : State) (sr : StrandRef) (w : Word) (x : Ctx), s.ctx? sr.copse sr.ctx = some x → goesOn sr x = true →
    let st := x.strand (strandKey sr)
    let i := Ins.ofWord w
    let held := (heldBays x sr.cu).length
    let waiting := (s.copse sr.copse).bayQ.any fun q => q.cu == sr.cu
    (issues 8 0x04 sr w s = true → st.bay.isSome = true → exec (.bayacq sr w) s = .next (retire sr s)) ∧
    (issues 8 0x04 sr w s = true → st.bay = none → x.hdr.bays ≤ held → exec (.bayacq sr w) s = .next (fault sr 0x0E (countIssue sr s))) ∧
    (issues 8 0x04 sr w s = true → st.bay = none → held < x.hdr.bays → waiting = false → ∀ b, freeBayOf s sr = some b →
      ∃ r y, exec (.bayacq sr w) s = .next r ∧ NxStep sr y s r ∧ (y.strand (strandKey sr)).bay = some b ∧ y = { x with strands := y.strands, bays := y.bays } ∧
        readBytes y.bays (bayBase sr b) 16384 = List.replicate 16384 0) ∧
    (issues 8 0x04 sr w s = true → st.bay = none → held < x.hdr.bays → (waiting = true ∨ freeBayOf s sr = none) →
      ∃ q, exec (.bayacq sr w) s = .next (waitFor sr .bay q) ∧ (q.copse sr.copse).bayQ = (s.copse sr.copse).bayQ ++ [sr]) ∧
    (issues 8 0x05 sr w s = true → ∀ b, st.bay = some b → ∃ q, exec (.bayrel sr w) s = .next (retire sr q) ∧ (q.strand sr).bay = none ∧
      (q.copse sr.copse).zeroing.head? = some (sr.cu, b, s.now)) ∧
    (issues 8 0x05 sr w s = true → st.bay = none → ∃ r, exec (.bayrel sr w) s = .next r ∧ NxStep sr x s r) ∧
    (∀ t cu q b, ((s.upTo t).copse sr.copse).bayQ.find? (fun q => q.cu == cu && (bayServes (s.upTo t) q).isSome) = some q → bayServes (s.upTo t) q = some b →
      exec (.bayGrant t sr.copse cu) s = .next (retire q (takeBay q b ((s.upTo t).setCopse sr.copse { (s.upTo t).copse sr.copse with bayQ := ((s.upTo t).copse sr.copse).bayQ.erase q }))))

/-- Where a lane operation issues for a strand with a bay, v[DST] holds the operation of the lanes of v[SRC1] and v[SRC2] (for VFMA also of v[DST], with one rounding; for VSEL the lanes of v[SRC1] where the mask is not 0; VABS of v[SRC1] alone), every other byte of the bay is unchanged, the strand goes on, and everything else is unchanged. -/
def Obligations.VectorLaneResults : Prop :=
  ∀ (s : State) (sr : StrandRef) (w : Word) (x : Ctx), s.ctx? sr.copse sr.ctx = some x → goesOn sr x = true →
    ∀ b, (x.strand (strandKey sr)).bay = some b →
    let st := x.strand (strandKey sr)
    let i := Ins.ofWord w
    let v (n : Nat) : List F32 := bytesF32 64 (readBytes x.bays (bayBase sr b + 256 * n) 256)
    let wrote (xs : List F32) (r : State) : Prop := NxStep sr { x with bays := writeBytes x.bays (bayBase sr b + 256 * i.dst) (f32Bytes xs) } s r
    (issues 1 0x00 sr w s = true → ∃ r, exec (.vadd sr w) s = .next r ∧ wrote (List.zipWith f32add (v i.src1) (v i.src2)) r) ∧
    (issues 1 0x01 sr w s = true → ∃ r, exec (.vsub sr w) s = .next r ∧ wrote (List.zipWith f32sub (v i.src1) (v i.src2)) r) ∧
    (issues 1 0x02 sr w s = true → ∃ r, exec (.vmul sr w) s = .next r ∧ wrote (List.zipWith f32mul (v i.src1) (v i.src2)) r) ∧
    (issues 1 0x04 sr w s = true → ∃ r, exec (.vmin sr w) s = .next r ∧ wrote (List.zipWith f32min (v i.src1) (v i.src2)) r) ∧
    (issues 1 0x05 sr w s = true → ∃ r, exec (.vmax sr w) s = .next r ∧ wrote (List.zipWith f32max (v i.src1) (v i.src2)) r) ∧
    (issues 1 0x09 sr w s = true → ∃ r, exec (.vaddi sr w) s = .next r ∧ wrote (List.zipWith (fun a b => a + b) (v i.src1) (v i.src2)) r) ∧
    (issues 1 0x0A sr w s = true → ∃ r, exec (.vsubi sr w) s = .next r ∧ wrote (List.zipWith (fun a b => a - b) (v i.src1) (v i.src2)) r) ∧
    (issues 1 0x0B sr w s = true → ∃ r, exec (.vand sr w) s = .next r ∧ wrote (List.zipWith (fun a b => a &&& b) (v i.src1) (v i.src2)) r) ∧
    (issues 1 0x0C sr w s = true → ∃ r, exec (.vor sr w) s = .next r ∧ wrote (List.zipWith (fun a b => a ||| b) (v i.src1) (v i.src2)) r) ∧
    (issues 1 0x0D sr w s = true → ∃ r, exec (.vxor sr w) s = .next r ∧ wrote (List.zipWith (fun a b => a ^^^ b) (v i.src1) (v i.src2)) r) ∧
    (issues 1 0x03 sr w s = true → ∃ r xs, exec (.vfma sr w) s = .next r ∧ wrote xs r ∧ xs.length = 64 ∧
      ∀ k, k < 64 → xs.getD k 0 = f32fma ((v i.src1).getD k 0) ((v i.src2).getD k 0) ((v i.dst).getD k 0)) ∧
    (issues 1 0x06 sr w s = true → ∃ r, exec (.vabs sr w) s = .next r ∧ wrote ((v i.src1).map f32abs) r) ∧
    (issues 1 0x07 sr w s = true → natBits i.imm 2 0 < 4 → ∃ r xs, exec (.vcmp sr w) s = .next r ∧ wrote xs r ∧ xs.length = 64 ∧
      ∀ k, k < 64 → xs.getD k 0 = if fcc (natBits i.imm 2 0) ((v i.src1).getD k 0) ((v i.src2).getD k 0) = true then 0xFFFFFFFF else 0) ∧
    (issues 1 0x08 sr w s = true → ∃ r xs, exec (.vsel sr w) s = .next r ∧ wrote xs r ∧ xs.length = 64 ∧
      ∀ k, k < 64 → xs.getD k 0 = if (v i.src2).getD k 0 ≠ 0 then (v i.src1).getD k 0 else (v i.dst).getD k 0) ∧
    (issues 1 0x10 sr w s = true → ∃ r, exec (.vbcast sr w) s = .next r ∧ wrote (List.replicate 64 ((st.s i.src1).setWidth 32)) r)

/-- Where VEXT issues, s[DST] holds lane IMM[5:0] of v[SRC1], zero-extended; where VSUM issues, s[DST] holds the sum of the 64 lanes added in ascending order, each add rounded, with bits 63:32 zero. The strand goes on, and everything else is unchanged. -/
def Obligations.VectorScalarResults : Prop :=
  ∀ (s : State) (sr : StrandRef) (w : Word) (x : Ctx), s.ctx? sr.copse sr.ctx = some x → goesOn sr x = true →
    ∀ b, (x.strand (strandKey sr)).bay = some b →
    let st := x.strand (strandKey sr)
    let i := Ins.ofWord w
    let v (n : Nat) : List F32 := bytesF32 64 (readBytes x.bays (bayBase sr b + 256 * n) 256)
    let wrote (a : F32) (r : State) : Prop := NxStep sr (x.setStrand (strandKey sr) (st.setS i.dst (a.setWidth 64))) s r
    (issues 1 0x11 sr w s = true → ∃ r, exec (.vext sr w) s = .next r ∧ wrote ((v i.src1).getD (natBits i.imm 5 0) 0) r) ∧
    (issues 1 0x12 sr w s = true → ∃ r, exec (.vsum sr w) s = .next r ∧ wrote ((v i.src1).tail.foldl f32add ((v i.src1).headD 0)) r)

/-- CVTN writes the elements and records of the blocks of the 64 lanes at its element place and, for a scaled format, their scales at its scale place; CVTA writes the elements, scales and records of the 32 rows of an accumulator into the scratchpad, checked before any change; a conversion that cannot be made is a fault with its reason. CVTW writes the widened lanes to v[DST]. AROLL pushes cur into the history of a declared stream. Each goes on after it. -/
def Obligations.ConversionInstructionResults : Prop :=
  ∀ (s : State) (sr : StrandRef) (w : Word) (x : Ctx), s.ctx? sr.copse sr.ctx = some x → goesOn sr x = true →
    ∀ b, (x.strand (strandKey sr)).bay = some b →
    let st := x.strand (strandKey sr)
    let i := Ins.ofWord w
    let v (n : Nat) : List F32 := bytesF32 64 (readBytes x.bays (bayBase sr b + 256 * n) 256)
    let wrote (off : Nat) (bs : List Byte) (r : State) : Prop := NxStep sr { x with bays := writeBytes x.bays (bayBase sr b + off) bs } s r
    (issues 1 0x20 sr w s = true → ∀ f, fmtOf (natBits i.imm 28 25) = some f →
      (∀ o q, convertFor sr f i.src2 (piecesOf f.block 2 (v i.src1)) s = .ok (o, q) → f.scaled = true →
        exec (.cvtn sr w) s = .next (retire sr ((q.writeBay sr (256 * i.dst + natBits i.imm 11 4) ((o.blocks.map (OutBlock.elems f)).flatten ++ recordsOf f o.blocks)).writeBay sr
          (256 * natBits i.imm 24 20 + 64 * natBits i.imm 19 18 + natBits i.imm 17 12) (scalesOf f o.blocks)))) ∧
      (∀ o q, convertFor sr f i.src2 (piecesOf f.block 2 (v i.src1)) s = .ok (o, q) → f.scaled = false →
        exec (.cvtn sr w) s = .next (retire sr (q.writeBay sr (256 * i.dst + natBits i.imm 11 4) ((o.blocks.map (OutBlock.elems f)).flatten ++ recordsOf f o.blocks)))) ∧
      (∀ e, convertFor sr f i.src2 (piecesOf f.block 2 (v i.src1)) s = .error e → exec (.cvtn sr w) s = .next (fault sr e (countIssue sr s)))) ∧
    (issues 1 0x21 sr w s = true → ∀ f, fmtOf (natBits i.imm 28 25) = some f → ∃ r, exec (.cvtw sr w) s = .next r ∧ wrote (256 * i.dst) (f32Bytes (widenLanes f
      (readBytes x.bays (bayBase sr b + (256 * i.src1 + natBits i.imm 11 4)) (cvtBytes f))
      (readBytes x.bays (bayBase sr b + (256 * natBits i.imm 24 20 + 64 * natBits i.imm 19 18 + natBits i.imm 17 12)) 2))) r) ∧
    (issues 1 0x22 sr w s = true → ∀ f, fmtOf (natBits i.imm 28 25) = some f →
      let at_ := scratchAt s sr (natBits i.imm 24 22) (st.s i.src1 + BitVec.ofNat 64 (natBits i.imm 21 0)) (cvtaBytes f) 1 true
      let conv := convertFor sr f i.src2 (piecesOf f.block 32 (bytesF32 1024 (readBytes x.bays (bayBase sr b + 4096 * i.dst) 4096))) s
      (∀ a o q, at_ = .ok a → conv = .ok (o, q) → exec (.cvta sr w) s = .next (retire sr (q.writeScratch sr.copse sr.ctx sr.cu a
        ((o.blocks.map (OutBlock.elems f)).flatten ++ (if f.scaled then scalesOf f o.blocks else []) ++ recordsOf f o.blocks)))) ∧
      (∀ e, at_ = .error e → exec (.cvta sr w) s = .next (fault sr e (countIssue sr s)))) ∧
    (issues 1 0x23 sr w s = true → x.hdr.amax.contains ((st.s i.src1).toNat % 4096) = true → ∃ q, exec (.aroll sr w) s = .next (retire sr q) ∧
      ∀ k e, SMap.get? (s.copse sr.copse).amax k = some e → SMap.get? (q.copse sr.copse).amax k = some (if e.stream = (st.s i.src1).toNat % 4096 then
        { e with hist := (e.hist ++ [e.cur]).drop (e.hist.length + 1 - 16), rolls := (e.rolls + 1) % 16, cur := 0 } else e))

/-- A TMMA whose operands are tile registers replaces each element of the accumulator by the fused sums of its groups in ascending order, and adds the overflows to SAT; TZERO writes zeros to the accumulator; TMOV copies four vectors to a tile register and TMOVV a tile register to four vectors. Every other byte of the bay is unchanged, the strand goes on, and everything else is unchanged. -/
def Obligations.TileResults : Prop :=
  ∀ (s : State) (sr : StrandRef) (w : Word) (x : Ctx), s.ctx? sr.copse sr.ctx = some x → goesOn sr x = true →
    ∀ b, (x.strand (strandKey sr)).bay = some b →
    let st := x.strand (strandKey sr)
    let i := Ins.ofWord w
    let bay (off n : Nat) : List Byte := readBytes x.bays (bayBase sr b + off) n
    let wrote (off : Nat) (bs : List Byte) (r : State) : Prop := NxStep sr { x with bays := writeBytes x.bays (bayBase sr b + off) bs } s r
    let panel (f : NFmt) (t v m : Nat) : Panel :=
      { fmt := f, elems := (bay (8192 + 1024 * t) 1024).take f.panelElems, scales := if f.scaled then bay (256 * v + 64 * m) f.panelScales else [], recs := [] }
    (issues 2 0x00 sr w s = true → i.src1 ≠ 63 → ∀ fa fb, fmtOf (natBits i.imm 28 25) = some fa → fmtOf (natBits i.imm 24 21) = some fb →
      let a := panel fa i.src1 (natBits i.imm 20 16) (natBits i.imm 15 14)
      let b' := panel fb i.src2 (natBits i.imm 13 9) (natBits i.imm 8 7)
      let acc := bytesF32 1024 (bay (4096 * i.dst) 4096)
      ∃ r es n, exec (.tmma sr w) s = .next r ∧
        NxStep sr { x with bays := writeBytes x.bays (bayBase sr b + 4096 * i.dst) (f32Bytes es), sat := x.sat + n } s r ∧ es.length = 1024 ∧
        ∀ p q, p < 32 → q < 32 → es.getD (32 * p + q) 0 =
          (tileElem (a.row p) (b'.row q) ((List.range fa.groups).map (a.outliers p)) (acc.getD (32 * p + q) 0)).1) ∧
    (issues 2 0x01 sr w s = true → ∃ r, exec (.tzero sr w) s = .next r ∧ wrote (4096 * i.dst) (List.replicate 4096 0) r) ∧
    (issues 2 0x02 sr w s = true → ∃ r, exec (.tmov sr w) s = .next r ∧ wrote (8192 + 1024 * i.dst) (bay (256 * i.src1) 1024) r) ∧
    (issues 2 0x03 sr w s = true → ∃ r, exec (.tmovv sr w) s = .next r ∧ wrote (256 * i.dst) (bay (8192 + 1024 * i.src1) 1024) r)

/-- XSTART with no stream on the CU opens one with its block and starts the decode; of the stream's owner with no block queued it queues the block; otherwise the strand waits; a range outside the descriptor is a fault. XCANCEL by the owner drops the stream. XSTAT gives 0 with no stream, and the panels left of an open block whose count is known. A TMMA on the stream of another strand is a fault with reason STREAM, waits while the block decodes, ends with the status of a damaged block, and otherwise multiplies the next panel of the block. A queued block starts to decode when the open one is decoded, and an end of decode releases its block. -/
def Obligations.ExpanderStreamFollowsItsBlocks : Prop :=
  ∀ (s : State) (sr : StrandRef) (w : Word) (x : Ctx), s.ctx? sr.copse sr.ctx = some x →
    let st := x.strand (strandKey sr)
    let i := Ins.ofWord w
    let a := natBits i.imm 24 22
    let off := (st.s i.src1 + BitVec.ofNat 64 (natBits i.imm 21 0)).toNat
    let blk : XBlock := { desc := st.a a, off := off, fmt := natBits i.imm 28 25, want := (st.s i.src2).toNat, drawn := 0, panels := 0, phase := 0, status := 0, raw := [], lines := [], asked := [] }
    let mine (y : XStream) : Prop := y.ctx = sr.ctx ∧ y.owner = strandKey sr
    (issues 3 0x00 sr w s = true → ∀ d, ctxDesc s sr a = some d →
      ((d.kind = 1 ∨ d.kind = 2) → natBit d.rights 0 = true → off + 16 ≤ d.len → (d.base + off) % 16 = 0 →
        (s.stream sr.copse sr.cu = none → exec (.xstart sr w) s = .next (settle (retire sr (startDecode sr.copse sr.cu false
          (s.setStream sr.copse sr.cu { ctx := sr.ctx, owner := strandKey sr, opened := blk, queued := none }))))) ∧
        (∀ y, s.stream sr.copse sr.cu = some y → mine y → y.queued = none →
          exec (.xstart sr w) s = .next (settle (retire sr (s.setStream sr.copse sr.cu { y with queued := some blk })))) ∧
        (∀ y, s.stream sr.copse sr.cu = some y → (¬ mine y ∨ y.queued.isSome = true) → exec (.xstart sr w) s = .next (settle (waitFor sr .stream s)))) ∧
      (((d.kind ≠ 1 ∧ d.kind ≠ 2) ∨ natBit d.rights 0 = false ∨ d.len < off + 16) → exec (.xstart sr w) s = .next (settle (fault sr 0x0B (countIssue sr s))))) ∧
    (issues 3 0x02 sr w s = true → ∀ y, s.stream sr.copse sr.cu = some y → mine y → ∃ q, exec (.xcancel sr w) s = .next (retire sr q) ∧ q.stream sr.copse sr.cu = none ∧
      ∀ c u, (c ≠ sr.copse ∨ u ≠ sr.cu) → q.stream c u = s.stream c u) ∧
    (issues 3 0x01 sr w s = true →
      (s.stream sr.copse sr.cu = none → exec (.xstat sr w) s = .next (retire sr (s.setS sr i.dst 0))) ∧
      (∀ y, s.stream sr.copse sr.cu = some y → y.queued = none → 2 ≤ y.opened.phase →
        exec (.xstat sr w) s = .next (retire sr (s.setS sr i.dst (BitVec.ofNat 64 (y.opened.panels - y.opened.drawn)))))) ∧
    (issues 2 0x00 sr w s = true → i.src1 = 63 → ∀ fa fb, fmtOf (natBits i.imm 28 25) = some fa → fmtOf (natBits i.imm 24 21) = some fb → ∀ y, s.stream sr.copse sr.cu = some y →
      (¬ mine y → exec (.tmma sr w) s = .next (fault sr 0x27 (countIssue sr s))) ∧
      (mine y → y.opened.phase < 2 → exec (.tmma sr w) s = .next (waitFor sr .stream s)) ∧
      (mine y → y.opened.phase = 3 → exec (.tmma sr w) s = .next (failWith sr (Status.ofCode y.opened.status) st.pc (countIssue sr (drawPanel sr.copse sr.cu (countStall sr st s))))) ∧
      (mine y → y.opened.phase = 2 → fa = y.opened.nfmt → exec (.tmma sr w) s = .next (retire sr (multiplyInto sr i.dst
        (Panel.ofBytes fa ((y.opened.raw.drop (fa.panelBytes * y.opened.drawn)).take fa.panelBytes)) (tilePanel s sr fb i.src2 (natBits i.imm 13 9) (natBits i.imm 8 7))
        (drawPanel sr.copse sr.cu (countStall sr st s)))))) ∧
    (∀ t y, (s.upTo t).stream sr.copse sr.cu = some y →
      (y.opened.phase = 0 → exec (.queuedDecodeStart t sr.copse sr.cu) s = .next (settle (startDecode sr.copse sr.cu false (s.upTo t)))) ∧
      (2 ≤ y.opened.phase → ∀ z, y.queued = some z → z.phase = 0 → exec (.queuedDecodeStart t sr.copse sr.cu) s = .next (settle (startDecode sr.copse sr.cu true (s.upTo t)))) ∧
      (y.opened.phase = 1 → exec (.queuedDecodeStart t sr.copse sr.cu) s = .next (s.upTo t))) ∧
    (∀ t, exec (.expanderDecodeDone t sr.copse sr.cu) s = .next (settle (passEmpty sr.copse sr.cu (decodeDone sr.copse sr.cu (expFetch sr.copse sr.cu (s.upTo t))))))

/-- Where the block that decodes has a sound header, its payload within the descriptor is at hand and passes checks 3 to 7, the end of its decode leaves it decoded with the panels of its output and counts BLOCKS; where a check fails, the block is left damaged with the status of that check and its panels, and BAD_LEN or BAD_CODE is counted; where the header fails checks 1 or 2, it is damaged with at least one panel. -/
def Obligations.DecodedBlockYieldsItsPanels : Prop :=
  ∀ (s : State) (c u : Nat) (y : XStream) (h : List Byte) (d : Desc), s.stream c u = some y → y.opened.phase = 1 →
    blockBytes s c u y y.opened 0 16 = some h → blockDesc s c y y.opened = some d →
    let b := y.opened
    let raw := field h 4 4
    let clen := field h 8 4
    let panels := if b.want = 0 then raw / b.nfmt.panelBytes else min b.want (raw / b.nfmt.panelBytes)
    let left (q : State) (b' : XBlock) : Prop := q.stream c u = some { y with opened := b' } ∧ q = { s with ctl := q.ctl, mgmt := q.mgmt, nx := q.nx }
    (headerDamage h = none → b.off + 16 + clen ≤ d.len → ∀ p, blockBytes s c u y b 16 clen = some p →
      (∀ out, payloadCheck h p = .ok out → left (decodeDone c u s) { b with phase := 2, panels := panels, raw := out, lines := [] } ∧
        (decodeDone c u s).ctl = (s.fadd XP_CNT.BLOCKS [c / 16, c % 16, u] 1).ctl) ∧
      (∀ e, payloadCheck h p = .error e → left (decodeDone c u s) { b with phase := 3, status := e.code, panels := panels } ∧
        (decodeDone c u s).ctl = (s.fadd (if e = .dataLength then XP_CNT.BAD_LEN else XP_CNT.BAD_CODE) [c / 16, c % 16, u] 1).ctl)) ∧
    (∀ e, headerDamage h = some e → left (decodeDone c u s) { b with phase := 3, status := e.code, panels := if b.want = 0 then 1 else b.want })

/-- SORTBEG of a free sorter with nobody waiting, and K from 1 to 4,096, opens an empty list of K; of a sorter owned by another context, or with contexts waiting, it waits with its context in the queue. SORTPUT adds the pairs whose key is no NaN, keeps the first K in the order of key descending and payload ascending, and counts the others in SAT; SORTEND closes the list and writes its length; SORTGET writes 64 keys and payloads from a position on, 0 past the end; SORTREL gives the sorter up. A strand whose context does not own the sorter waits. A grant passes a free sorter to the first context in the queue. -/
def Obligations.SorterKeepsTheLargestPairs : Prop :=
  ∀ (s : State) (sr : StrandRef) (w : Word) (x : Ctx), s.ctx? sr.copse sr.ctx = some x → goesOn sr x = true →
    ∀ b, (x.strand (strandKey sr)).bay = some b →
    let st := x.strand (strandKey sr)
    let i := Ins.ofWord w
    let v (n : Nat) : List F32 := bytesF32 64 (readBytes x.bays (bayBase sr b + 256 * n) 256)
    let c := s.copse sr.copse
    let owned : Prop := c.sortOwner = some sr.ctx
    let became (c' : Copse) (y : Ctx) (r : State) : Prop := NxStepC sr y (s.setCopse sr.copse c').nx.copses s r
    let k := (st.s i.src1).toNat
    let le (p q : F32 × BitVec 32) : Prop := sortLe p q = true
    (issues 1 0x28 sr w s = true → (owned ∨ (c.sortOwner = none ∧ c.sortQ = [])) → 1 ≤ k → k ≤ 4096 → ∃ r, exec (.sortbeg sr w) s = .next r ∧
      became { c with sortOwner := some sr.ctx, sortK := k, sortL := [], sortOpen := true } x r) ∧
    (issues 1 0x28 sr w s = true → ¬ owned → (c.sortOwner ≠ none ∨ c.sortQ ≠ []) → ∃ q, exec (.sortbeg sr w) s = .next (waitFor sr .sorter q) ∧
      sr.ctx ∈ (q.copse sr.copse).sortQ ∧ (c.sortQ <+: (q.copse sr.copse).sortQ) ∧ (q.copse sr.copse).sortOwner = c.sortOwner) ∧
    (issues 1 0x29 sr w s = true → owned → c.sortOpen = true → ∃ r l n, exec (.sortput sr w) s = .next r ∧ became { c with sortL := l } { x with sat := x.sat + n } r ∧
      n = ((v i.src1).filter fun a => (f32num a).isNan).length ∧ l.length ≤ c.sortK ∧
      ((∀ p, p ∈ c.sortL → (f32num p.1).isNan = false) → List.Pairwise le c.sortL → List.Pairwise le l) ∧ (∀ p, p ∈ l → p ∈ c.sortL ∨ (p ∈ (v i.src1).zip (v i.src2) ∧ (f32num p.1).isNan = false)) ∧
      (∀ p, (p ∈ c.sortL ∨ (p ∈ (v i.src1).zip (v i.src2) ∧ (f32num p.1).isNan = false)) → p ∉ l → l.length = c.sortK ∧
        ((∀ p, p ∈ c.sortL → (f32num p.1).isNan = false) → List.Pairwise le c.sortL → ∀ q, q ∈ l → le q p))) ∧
    (issues 1 0x2A sr w s = true → owned → ∃ r, exec (.sortend sr w) s = .next r ∧
      became { c with sortOpen := false } (x.setStrand (strandKey sr) (st.setS i.dst (BitVec.ofNat 64 c.sortL.length))) r) ∧
    (issues 1 0x2B sr w s = true → owned → ∃ r keys pays, exec (.sortget sr w) s = .next r ∧ keys.length = 64 ∧ pays.length = 64 ∧
      NxStep sr { x with bays := writeBytes (writeBytes x.bays (bayBase sr b + 256 * i.dst) (f32Bytes keys)) (bayBase sr b + 256 * i.src1) (f32Bytes pays) } s r ∧
      ∀ n, n < 64 → (keys.getD n 0, pays.getD n 0) = c.sortL.getD ((st.s i.src2).toNat + n) (0, 0)) ∧
    (issues 1 0x2C sr w s = true → owned → ∃ r, exec (.sortrel sr w) s = .next r ∧ became { c with sortOwner := none, sortL := [], sortOpen := false } x r) ∧
    (issues 1 0x29 sr w s = true → ¬ owned → exec (.sortput sr w) s = .next (waitFor sr .sorter s)) ∧
    (∀ t n q, ((s.upTo t).copse sr.copse).sortOwner = none → ((s.upTo t).copse sr.copse).sortQ = n :: q → ∃ r, exec (.sorterGrant t sr.copse) s = .next r ∧
      r = (s.upTo t).setCopse sr.copse { (s.upTo t).copse sr.copse with sortOwner := some n, sortQ := q, sortL := [], sortOpen := false })

/-- Where the range that a local load names lies in its SCRATCH descriptor and its pages, is aligned and no word of it is bad, LDS writes s[DST] with the 8 bytes in little-endian order, and LDV, LDT, LDSEG and LDACC write their register of the bay; every other byte of the bay and all of the scratchpad are unchanged, the strand goes on, and everything else is unchanged. Where a word is bad the strand ends with status POISON, and where the range is refused it is a fault with its reason. -/
def Obligations.LocalLoadsReadTheScratchpad : Prop :=
  ∀ (s : State) (sr : StrandRef) (w : Word) (x : Ctx), s.ctx? sr.copse sr.ctx = some x → goesOn sr x = true →
    let st := x.strand (strandKey sr)
    let i := Ins.ofWord w
    let at_ (size align : Nat) := scratchAt s sr (natBits i.imm 28 26) (st.s i.src1 + BitVec.ofNat 64 (natBits i.imm 25 0)) size align false
    let fine (a size : Nat) : Prop := scratchBad s sr.copse sr.ctx sr.cu a size = false
    let bytes (a n : Nat) : List Byte := readBytes x.scratch (scratchBase sr.cu + a) n
    (issues 11 0x00 sr w s = true → ∀ a, at_ 8 8 = .ok a → fine a 8 → ∃ r, exec (.lds sr w) s = .next r ∧
      NxStep sr (x.setStrand (strandKey sr) (st.setS i.dst (BitVec.ofNat 64 (ofBytesLE (bytes a 8))))) s r) ∧
    (issues 11 0x00 sr w s = true → ∀ a, at_ 8 8 = .ok a → ¬ fine a 8 → exec (.lds sr w) s = .next (failWith sr .poison st.pc (countIssue sr s))) ∧
    (issues 11 0x00 sr w s = true → ∀ e, at_ 8 8 = .error e → exec (.lds sr w) s = .next (fault sr e (countIssue sr s))) ∧
    (∀ b, st.bay = some b →
      let loaded (dest a n : Nat) (r : State) : Prop := NxStep sr { x with bays := writeBytes x.bays (bayBase sr b + dest) (bytes a n) } s r
      (issues 11 0x02 sr w s = true → ∀ a, at_ 256 256 = .ok a → fine a 256 → ∃ r, exec (.ldv sr w) s = .next r ∧ loaded (256 * i.dst) a 256 r) ∧
      (issues 11 0x04 sr w s = true → ∀ a, at_ 1024 1024 = .ok a → fine a 1024 → ∃ r, exec (.ldt sr w) s = .next r ∧ loaded (8192 + 1024 * i.dst) a 1024 r) ∧
      (issues 11 0x06 sr w s = true → ∀ a, at_ 64 64 = .ok a → fine a 64 → ∃ r, exec (.ldseg sr w) s = .next r ∧ loaded (256 * i.dst + 64 * i.src2) a 64 r) ∧
      (issues 11 0x08 sr w s = true → ∀ a, at_ 4096 256 = .ok a → fine a 4096 → ∃ r, exec (.ldacc sr w) s = .next r ∧ loaded (4096 * i.dst) a 4096 r))

/-- Where the range that a local store names lies in its SCRATCH descriptor with the right to write, is aligned, and no word that it merges into is bad, STS stores s[DST] as 8 bytes in little-endian order and STV, STT, STSEG and STACC store their register of the bay at the address computed from the descriptor, s[SRC1] and IMM; every other byte of the context's scratchpads and all of its bays are unchanged, and the strand goes on. -/
def Obligations.LocalStoresWriteTheScratchpad : Prop :=
  ∀ (s : State) (sr : StrandRef) (w : Word) (x : Ctx), s.ctx? sr.copse sr.ctx = some x → goesOn sr x = true →
    let st := x.strand (strandKey sr)
    let i := Ins.ofWord w
    let at_ (size align : Nat) := scratchAt s sr (natBits i.imm 28 26) (st.s i.src1 + BitVec.ofNat 64 (natBits i.imm 25 0)) size align true
    let fine (a size : Nat) : Prop := scratchBad s sr.copse sr.ctx sr.cu a size = false
    let stored (a : Nat) (bs : List Byte) (q : State) : Prop := ∃ y, q.ctx? sr.copse sr.ctx = some y ∧ y = { x with scratch := y.scratch } ∧
      (∀ k, k < bs.length → SMap.get 0 y.scratch (scratchBase sr.cu + a + k) = bs.getD k 0) ∧
      (∀ k, (k < scratchBase sr.cu + a ∨ scratchBase sr.cu + a + bs.length ≤ k) → SMap.get 0 y.scratch k = SMap.get 0 x.scratch k) ∧
      q = { s with ctl := q.ctl, nx := q.nx, ecc := q.ecc } ∧ OtherWords [CW.addr .EC_DIAG_CTRL []] s q ∧ (s.ecc.raw = [] → q.ecc = s.ecc)
    (issues 11 0x01 sr w s = true → ∀ a, at_ 8 8 = .ok a → fine a 8 → ∃ q, exec (.sts sr w) s = .next (retire sr q) ∧ stored a (toBytesLE 8 (st.s i.dst).toNat) q) ∧
    (issues 11 0x01 sr w s = true → ∀ e, at_ 8 8 = .error e → exec (.sts sr w) s = .next (fault sr e (countIssue sr s))) ∧
    (∀ b, st.bay = some b →
      let bay (off n : Nat) : List Byte := readBytes x.bays (bayBase sr b + off) n
      (issues 11 0x03 sr w s = true → ∀ a, at_ 256 256 = .ok a → ∃ q, exec (.stv sr w) s = .next (retire sr q) ∧ stored a (bay (256 * i.dst) 256) q) ∧
      (issues 11 0x05 sr w s = true → ∀ a, at_ 1024 1024 = .ok a → ∃ q, exec (.stt sr w) s = .next (retire sr q) ∧ stored a (bay (8192 + 1024 * i.dst) 1024) q) ∧
      (issues 11 0x07 sr w s = true → ∀ a, at_ 64 64 = .ok a → ∃ q, exec (.stseg sr w) s = .next (retire sr q) ∧ stored a (bay (256 * i.dst + 64 * i.src2) 64) q) ∧
      (issues 11 0x09 sr w s = true → ∀ a, at_ 4096 256 = .ok a → ∃ q, exec (.stacc sr w) s = .next (retire sr q) ∧ stored a (bay (4096 * i.dst) 4096) q))

/-- Where the range of a fabric memory instruction lies in its descriptor with the rights that it needs, LDL of a line that the copse cache holds writes it into segment m of v[DST], LDL and PLD else issue a LOAD, STL a STORE of segment m, ATOM an ATOMIC with its operation and word, BRD a block read, PRD a page read of the page that holds the address, BWR a block write as segments, GATH a gather of its rows and HINT a hint of its pages, at the fabric address of descriptor and offset; the strand goes on. Where the range is refused, the instruction is a fault with its reason; a length outside its range ends the request with DENIED or SIZE. -/
def Obligations.FabricMemoryInstructionsIssueTheirRequests : Prop :=
  ∀ (s : State) (sr : StrandRef) (w : Word) (x : Ctx), s.ctx? sr.copse sr.ctx = some x →
    let st := x.strand (strandKey sr)
    let i := Ins.ofWord w
    let D := natBits i.imm 27 25
    let stat := statOf i i.src2
    let went (q : State) : Host.Outcome State Fault Refusal := .next (settle (retire sr q))
    let faulted (e : Nat) : Host.Outcome State Fault Refusal := .next (settle (fault sr e (countIssue sr s)))
    let off := (st.s i.src1).toNat + 64 * natBits i.imm 22 0
    let woff := (st.s i.src1).toNat + 8 * natBits i.imm 18 0
    let n := (st.s i.src2).toNat
    let spad (len : Nat) (wr : Bool) := scratchAt s sr (natBits i.imm 24 22) (st.s i.dst) len 1 wr
    let req (d : Desc) (a : Nat) (ret : RetData) : Req := strandReq s sr d a ret stat 0
    let ended (st' : Status) (q : State) : Prop := q = endReq (.strand sr .none stat st.pc) x.clr s.epoch 0 st' [] false s
    (issues 4 0x00 sr w s = true → ∀ d a, fabAt s sr D off 64 true false = .ok (d, a) →
      (∀ node ln viaW l, d.kind = 2 → cacheServes s (req d a .none) = true → landing s (req d a .none) = some (node, ln, viaW) →
        findLine (s.copse sr.copse) node ln = some l → stat = none →
        exec (.ldl sr w) s = went ((touchLine sr.copse node ln s).writeBay sr (256 * i.dst + 64 * natBits i.imm 24 23) (lineBytes l.data))) ∧
      ((d.kind ≠ 2 ∨ cacheServes s (req d a .none) = false) →
        exec (.ldl sr w) s = went (serveStrand sr d (req d a (.line i.dst (natBits i.imm 24 23) 0x10000 0 false false)) .load 1 s))) ∧
    (issues 4 0x00 sr w s = true → ∀ e, fabAt s sr D off 64 true false = .error e → exec (.ldl sr w) s = went (fault sr e s)) ∧
    (issues 4 0x02 sr w s = true → ∀ d a node ln viaW, fabAt s sr D off 64 true false = .ok (d, a) → d.kind = 2 → cacheServes s (req d a .none) = true →
      landing s (req d a .none) = some (node, ln, viaW) → findLine (s.copse sr.copse) node ln = none →
      exec (.pld sr w) s = went (serveStrand sr d (req d a (.line i.dst (natBits i.imm 24 23) node ln true viaW)) .load 1 s)) ∧
    (issues 4 0x01 sr w s = true → ∀ d a, fabAt s sr D off 64 false true = .ok (d, a) → landing s (req d a .none) = none →
      exec (.stl sr w) s = went (serveStrand sr d (req d a .none) (.store (bytesLine (s.readBay sr (256 * i.dst + 64 * natBits i.imm 24 23) 64))) 1 s)) ∧
    (issues 4 0x04 sr w s = true → ∀ d a, fabAt s sr D woff 8 true true = .ok (d, a) →
      exec (.atom sr w) s = went (serveStrand sr d (req d a (.sreg i.dst)) (.atomic (natBits i.imm 22 19) (a / 8 % 8) (st.s i.dst).toNat n) 1 s)) ∧
    (issues 4 0x08 sr w s = true → n ≠ 0 → n ≤ 65536 → n % 256 = 0 → ∀ d a dest, fabAt s sr D (st.s i.src1).toNat n true false = .ok (d, a) → spad n true = .ok dest →
      exec (.brd sr w) s = went (serveStrand sr d (req d a (.scratch dest n)) (.blkRd (n / 256)) 1 s)) ∧
    (issues 4 0x08 sr w s = true → (n = 0 ∨ 65536 < n ∨ n % 256 ≠ 0) → ∃ q, exec (.brd sr w) s = went q ∧ ended .denied q) ∧
    (issues 4 0x09 sr w s = true → n ≠ 0 → n ≤ 65536 → n % 64 = 0 → ∀ d a from_, fabAt s sr D (st.s i.src1).toNat n false true = .ok (d, a) → spad n false = .ok from_ →
      scratchBad s sr.copse sr.ctx sr.cu from_ n = false →
      let base := a / 64 * 64
      let segs := blockSegs 258 base n
      let r := req d base .none
      let p : Txn := { plainTxn r.src (.blkWr []) r.clr r.epoch r.node (reqDie sr) s with phase := .parts, parts := segs.length }
      exec (.bwr sr w) s = went (sendSegs sr d r p.id (readBytes x.scratch (scratchBase sr.cu + from_) n) base segs (s.addTxn p))) ∧
    (issues 4 0x09 sr w s = true → 0 < n → n ≤ 65536 → n % 64 ≠ 0 → ∃ q, exec (.bwr sr w) s = went q ∧ ended .size q) ∧
    (issues 4 0x0A sr w s = true → ∀ d0, ctxDesc s sr D = some d0 →
      let page := (d0.base + (st.s i.src1).toNat) / 4096 * 4096
      d0.base ≤ page → ∀ d a dest, fabAt s sr D (page - d0.base) 4096 true false = .ok (d, a) → spad 4096 true = .ok dest →
      exec (.prd sr w) s = went (serveStrand sr d (req d a (.scratch dest 4096)) .pageRd 1 s)) ∧
    (issues 4 0x0B sr w s = true →
      let rows := natBits i.imm 9 4 + 1
      let row := natBits i.imm 3 0 + 1
      ∀ ia dest, scratchAt s sr (natBits i.imm 24 22) (st.s (i.dst + 1)) (4 * rows) 1 false = .ok ia → spad (rows * row * 64) true = .ok dest → scratchBad s sr.copse sr.ctx sr.cu ia (4 * rows) = false →
      let idx := (List.range rows).map fun k => ofBytesLE (readBytes x.scratch (scratchBase sr.cu + (ia + 4 * k)) 4)
      ∀ d a, fabAt s sr D (st.s i.src1).toNat ((idx.foldl max 0 + 1) * (row * 64)) true false = .ok (d, a) →
      exec (.gath sr w) s = went (serveStrand sr d (req d a (.scratch dest (rows * row * 64))) (.gather (natBits i.imm 3 0) idx) 1 s)) ∧
    (issues 10 0x00 sr w s = true →
      let n := (st.s i.src1).toNat
      n ≠ 0 → n ≤ 16777216 → ∀ d0, ctxDesc s sr D = some d0 → d0.kind = 2 →
      let page := (d0.base + (st.s i.dst).toNat) / 4096 * 4096
      d0.base ≤ page → ∀ d a, fabAt s sr D (page - d0.base) (4096 * n) true false = .ok (d, a) →
      exec (.nxHint sr w) s = went (serveStrand sr d (strandReq s sr d a .none stat (natBits i.imm 1 0)) .hint n s))

/-- Where the offset s[SRC1] lies in the FABRIC descriptor with the right that the operation needs, each of the region instructions serves its one operation on the region of the window at that address and the strand goes on; PREP then waits until its request has ended; INVAL and PUBL first wait until every earlier request of the strand has ended; INVAL of no line or more than 2²⁴ ends with DENIED; a range outside the descriptor is a fault. -/
def Obligations.RegionInstructionsServeTheirRequests : Prop :=
  ∀ (s : State) (sr : StrandRef) (w : Word) (x : Ctx), s.ctx? sr.copse sr.ctx = some x →
    let st := x.strand (strandKey sr)
    let i := Ins.ofWord w
    let D := natBits i.imm 27 25
    let stat := statOf i i.src2
    let went (q : State) : Host.Outcome State Fault Refusal := .next (settle (retire sr q))
    let faulted (e : Nat) : Host.Outcome State Fault Refusal := .next (settle (fault sr e (countIssue sr s)))
    let at_ (rd wr : Bool) (len : Nat) := fabAt s sr D (st.s i.src1).toNat len rd wr
    let req (d : Desc) (a : Nat) (ret : RetData) : Req := strandReq s sr d a ret stat 0
    let n := (st.s i.dst).toNat
    (∀ d a, d.kind = 2 → at_ true false 1 = .ok (d, a) →
      (issues 4 0x10 sr w s = true → exec (.nxSub sr w) s = went (serveSubscribe (req d a .none) (reqDie sr) s)) ∧
      (issues 4 0x11 sr w s = true → exec (.nxUnsub sr w) s = went (serveUnsubscribe (req d a .none) (reqDie sr) s)) ∧
      (issues 4 0x15 sr w s = true → exec (.nxOpen sr w) s = went (serveOpen (req d a (.handle i.dst)) (reqDie sr) s)) ∧
      (issues 4 0x16 sr w s = true → exec (.nxClose sr w) s = went (serveClose (req d a .none) (reqDie sr) s))) ∧
    (issues 4 0x12 sr w s = true → outstanding s sr = 0 → n ≠ 0 → n ≤ 16777216 → ∀ d a, d.kind = 2 → at_ false true (64 * n) = .ok (d, a) →
      exec (.nxInval sr w) s = went (serveInval (req d a .none) n (reqDie sr) s)) ∧
    (issues 4 0x12 sr w s = true → outstanding s sr = 0 → (n = 0 ∨ 16777216 < n) →
      exec (.nxInval sr w) s = went (endReq (.strand sr .none stat st.pc) x.clr s.epoch 0 .denied [] false s)) ∧
    (issues 4 0x12 sr w s = true → 0 < outstanding s sr → exec (.nxInval sr w) s = .next (settle (waitFor sr .held s))) ∧
    (issues 4 0x14 sr w s = true → outstanding s sr = 0 → ∀ d a, d.kind = 2 → at_ false true 1 = .ok (d, a) →
      exec (.publ sr w) s = went (servePublish (req d a (.handle i.dst)) (reqDie sr) s)) ∧
    (issues 4 0x14 sr w s = true → 0 < outstanding s sr → exec (.publ sr w) s = .next (settle (waitFor sr .held s))) ∧
    (issues 4 0x13 sr w s = true → ∀ d a, d.kind = 2 → at_ false true 1 = .ok (d, a) → ∀ q, q = retire sr (servePrepare (req d a (.handle i.dst)) (reqDie sr) s) → (q.strand sr).live = true →
      exec (.prep sr w) s = .next (settle (waitFor sr .prep q))) ∧
    (issues 4 0x10 sr w s = true → ∀ e, at_ true false 1 = .error e → exec (.nxSub sr w) s = faulted e)

/-- A FENCE of scope below GLADE is done once no load of the strand is outstanding, and from GLADE on once no request of the strand is outstanding and no line of the copse cache is dirty; it then drops the writable lines. FENCE goes on when it is done and waits otherwise; REL and RELA issue their store or atomic once it is done; ACQ and ACQA issue their load or atomic first, and go on once it is done. WAITM goes on where at most IMM[15:0] requests of the strand are outstanding. BAR leaves the strand waiting at its barrier, which opens when every live strand waits there. -/
def Obligations.FencesBarriersAndWaits : Prop :=
  ∀ (s : State) (sr : StrandRef) (w : Word) (x : Ctx), s.ctx? sr.copse sr.ctx = some x →
    let st := x.strand (strandKey sr)
    let i := Ins.ofWord w
    let scope := natBits i.imm 2 0
    let done (q : State) : Prop := if scope < 2 then ∀ p, p ∈ q.reqsOf (srcIs sr) → returnsData p = false
      else q.reqsOf (srcIs sr) = [] ∧ ∀ l, l ∈ (q.copse sr.copse).cache → l.dirty = false
    let after (q : State) : State := if scope < 2 then q else dropWritable sr.copse q
    let fresh : Prop := st.wait ≠ .acq
    (issues 7 0x00 sr w s = true → (done s → exec (.fence sr w) s = .next (settle (retire sr (after s)))) ∧
      (¬ done s → exec (.fence sr w) s = .next (settle (waitFor sr .fence s)))) ∧
    (issues 7 0x01 sr w s = true → (done s → exec (.rel sr w) s = .next (settle (retire sr (storeLine sr i (natBits i.imm 22 3) st (after s))))) ∧
      (¬ done s → exec (.rel sr w) s = .next (settle (waitFor sr .fence s)))) ∧
    (issues 7 0x03 sr w s = true → (done s → exec (.rela sr w) s = .next (settle (retire sr (atomWord sr i (natBits i.imm 18 3) st (after s))))) ∧
      (¬ done s → exec (.rela sr w) s = .next (settle (waitFor sr .fence s)))) ∧
    (issues 7 0x02 sr w s = true → fresh → ∀ q, q = loadLine sr i (natBits i.imm 22 3) false st s → (q.strand sr).live = true →
      (done q → exec (.acq sr w) s = .next (settle (retire sr (after q)))) ∧ (¬ done q → exec (.acq sr w) s = .next (settle (waitFor sr .acq q)))) ∧
    (issues 7 0x04 sr w s = true → fresh → ∀ q, q = atomWord sr i (natBits i.imm 18 3) st s → (q.strand sr).live = true →
      (done q → exec (.acqa sr w) s = .next (settle (retire sr (after q)))) ∧ (¬ done q → exec (.acqa sr w) s = .next (settle (waitFor sr .acq q)))) ∧
    (issues 7 0x09 sr w s = true → (outstanding s sr ≤ natBits i.imm 15 0 → exec (.waitm sr w) s = .next (retire sr s)) ∧
      (natBits i.imm 15 0 < outstanding s sr → exec (.waitm sr w) s = .next (waitFor sr (.waitm (natBits i.imm 15 0)) s))) ∧
    (issues 7 0x08 sr w s = true → ∃ q, exec (.bar sr w) s = .next (afterStrand sr.copse sr.ctx (releaseBar sr.copse sr.ctx q)) ∧
      (q.strand sr) = { st with wait := .bar (natBits i.imm 3 0) })

/-- Where the message of SEND or SENDG lies in its SCRATCH descriptor, has a length of 16 to 65,536 in steps of 16 and no bad word, it is sent to the handle in s[SRC1] or to the group of the GROUP descriptor and the strand goes on; any other length ends with DENIED. RECV of an empty queue waits, or with IMM[28] writes 0; a message longer than the buffer stays queued and its length with bit 63 is written. RADD adds the widened chunks to the FP32 area element by element. RSTEP is the step of R337 in its format. -/
def Obligations.MessagesAndReductionsOfStrands : Prop :=
  ∀ (s : State) (sr : StrandRef) (w : Word) (x : Ctx), s.ctx? sr.copse sr.ctx = some x →
    let st := x.strand (strandKey sr)
    let i := Ins.ofWord w
    let D := natBits i.imm 27 25
    let stat := statOf i i.src2
    let went (q : State) : Host.Outcome State Fault Refusal := .next (settle (retire sr q))
    let faulted (e : Nat) : Host.Outcome State Fault Refusal := .next (settle (fault sr e (countIssue sr s)))
    let n := (st.s i.src2).toNat
    let at_ := scratchAt s sr D (st.s i.dst) n 1 false
    let fits : Prop := n ≠ 0 ∧ n ≤ 65536 ∧ n % 16 = 0
    let fine (a m : Nat) : Prop := scratchBad s sr.copse sr.ctx sr.cu a m = false
    let msg (a : Nat) : RxWait := { sender := BitVec.ofNat 64 (ctxHandle s sr.copse sr.ctx), tag := natBits i.imm 15 0, bytes := readBytes x.scratch (scratchBase sr.cu + a) n,
                                    src := .strand sr .none stat st.pc, clr := x.clr, epoch := s.epoch }
    (issues 6 0x00 sr w s = true → fits → ∀ a, at_ = .ok a → fine a n → exec (.send sr w) s = went (sendMessage (msg a) (st.s i.src1).toNat (reqDie sr) s)) ∧
    (issues 6 0x00 sr w s = true → ¬ fits → exec (.send sr w) s = went (endReq (.strand sr .none stat st.pc) x.clr s.epoch 0 .denied [] false s)) ∧
    (issues 6 0x01 sr w s = true → ∀ d, ctxDesc s sr (natBits i.imm 24 22) = some d →
      (d.kind = 4 → fits → ∀ a, at_ = .ok a → fine a n → exec (.sendg sr w) s = went (sendGroup (msg a) d.base (reqDie sr) s)) ∧
      (d.kind ≠ 4 → exec (.sendg sr w) s = faulted 0x0B)) ∧
    (issues 6 0x02 sr w s = true → x.rx = [] → natBit i.imm 28 = true → exec (.recv sr w) s = went (s.setS sr i.src2 0)) ∧
    (issues 6 0x02 sr w s = true → x.rx = [] → natBit i.imm 28 = false → exec (.recv sr w) s = .next (settle (waitFor sr .recv s))) ∧
    (issues 6 0x02 sr w s = true → ∀ m rest d, x.rx = m :: rest → ringOf x = some d →
      (n < m.len → exec (.recv sr w) s = went (s.setS sr i.src2 (BitVec.ofNat 64 (m.len + 2 ^ 63)))) ∧
      (m.len ≤ n → ∀ a, scratchAt s sr D (st.s i.dst) m.len 1 true = .ok a →
        let bs := readRing x.scratch (scratchBase 0 + d.base) d.len m.at_ (16 + m.len)
        let q := (s.putCtx sr.copse sr.ctx { x with rx := rest }).writeScratch sr.copse sr.ctx sr.cu a (bs.drop 16)
        exec (.recv sr w) s = went (pumpRing x.rxWait.length sr.copse sr.ctx
          (((q.setS sr i.src2 (BitVec.ofNat 64 m.len)).setS sr i.src1 (BitVec.ofNat 64 (field bs 0 8))).setS sr (i.dst + 1) (BitVec.ofNat 64 (field bs 12 4)))))) ∧
    (∀ f, fmtOf (natBits i.imm 21 18) = some f →
      (issues 5 0x00 sr w s = true →
        let nb := n * f.chunkBytes
        let fb := 4 * (n * f.chunkElems)
        ∀ from_ a, scratchAt s sr (natBits i.imm 24 22) (st.s i.src1) nb 1 false = .ok from_ → scratchAt s sr D (st.s i.dst) fb 1 false = .ok a → scratchAt s sr D (st.s i.dst) fb 1 true = .ok a →
        fine from_ nb → fine a fb → ∃ q, exec (.radd sr w) s = .next (retire sr q) ∧
          q = s.writeScratch sr.copse sr.ctx sr.cu a (f32Bytes (addVec (bytesF32 (n * f.chunkElems) (readBytes x.scratch (scratchBase sr.cu + a) fb))
            (widenChunks f (readBytes x.scratch (scratchBase sr.cu + from_) nb))))) ∧
      (issues 5 0x01 sr w s = true →
        let word := (st.s i.src2).toNat
        let stream := natBits word 43 32
        let m := (st.s (i.src2 + 1)).toNat
        let nb := (m + f.chunkElems - 1) / f.chunkElems
        let named := if (x.hdr.resid.any fun r => r.1 == stream) = true then some stream else none
        ∀ a dest, scratchAt s sr D (st.s i.src1) (4 * m) 1 false = .ok a → scratchAt s sr (natBits i.imm 24 22) (st.s i.dst) (nb * f.chunkBytes) 1 true = .ok dest → fine a (4 * m) →
        ∀ y b q, residStart sr.copse named (natBits word 31 0) m (bytesF32 m (readBytes x.scratch (scratchBase sr.cu + a) (4 * m))) s = (some (y, b), q) →
        let fill := nb * f.chunkBytes / f.chunkBytes * f.chunkElems - m
        (∀ o u, convertFor sr f (i.src2 + 2) (piecesOf f.block ((m + fill) / f.block) (y ++ List.replicate fill 0)) q = .ok (o, u) →
          exec (.rstep sr w) s = .next (retire sr ((residEnd sr.copse named (natBits word 31 0) m y ((o.blocks.map (OutBlock.values f)).flatten) u).writeScratch sr.copse sr.ctx sr.cu dest
            (packChunks f o.blocks)))) ∧
        (∀ e, convertFor sr f (i.src2 + 2) (piecesOf f.block ((m + fill) / f.block) (y ++ List.replicate fill 0)) q = .error e →
          exec (.rstep sr w) s = .next (fault sr e (countIssue sr q)))))

/-- Where no CTRL descriptor confines a control instruction and its address has 32 bits, CSRD writes the word that the program reads into s[DST], CSWR writes s[SRC2] under all bits and CSMW under the bits of s[DST]; the strand goes on where control space answers OK and ends with the status otherwise. A read of an event unit that has to wait leaves the strand waiting. An address outside a CTRL descriptor named with IMM[28] = 1 is a fault, and one of more than 32 bits is DENIED. -/
def Obligations.ControlInstructionsReachControlSpace : Prop :=
  ∀ (s : State) (sr : StrandRef) (w : Word) (x : Ctx), s.ctx? sr.copse sr.ctx = some x →
    let st := x.strand (strandKey sr)
    let i := Ins.ofWord w
    let a := (st.s i.src1).toNat
    let p : Prog := { privileged := x.hdr.priv, clr := x.clr, mcu := if 128 ≤ sr.copse then some (sr.copse - 128) else none }
    let confined : Prop := natBit i.imm 28 = true ∧ ∃ d, ctxDesc s sr (natBits i.imm 27 25) = some d ∧ d.kind = 5 ∧ (a < d.base ∨ d.base + d.len ≤ a)
    (issues 9 0x00 sr w s = true → natBit i.imm 28 = false → a < 2 ^ 32 →
      (∀ v q, ctlRead p a (some (sr, i.dst)) s = (some (.ok, v), q) → exec (.csrd sr w) s = .next (settle (retire sr (q.setS sr i.dst v)))) ∧
      (∀ e v q, e ≠ .ok → ctlRead p a (some (sr, i.dst)) s = (some (e, v), q) → exec (.csrd sr w) s = .next (settle (failWith sr e st.pc (countIssue sr q)))) ∧
      (∀ q, ctlRead p a (some (sr, i.dst)) s = (none, q) → exec (.csrd sr w) s = .next (settle (waitFor sr .take q)))) ∧
    (issues 9 0x01 sr w s = true → natBit i.imm 28 = false → a < 2 ^ 32 →
      (∀ q, ctlWrite p a (st.s i.src2) (BitVec.allOnes 64) s = (.ok, q) → exec (.cswr sr w) s = .next (settle (retire sr q))) ∧
      (∀ e q, e ≠ .ok → ctlWrite p a (st.s i.src2) (BitVec.allOnes 64) s = (e, q) → exec (.cswr sr w) s = .next (settle (failWith sr e st.pc (countIssue sr q))))) ∧
    (issues 9 0x02 sr w s = true → natBit i.imm 28 = false → a < 2 ^ 32 →
      (∀ q, ctlWrite p a (st.s i.src2) (st.s i.dst) s = (.ok, q) → exec (.csmw sr w) s = .next (settle (retire sr q))) ∧
      (∀ e q, e ≠ .ok → ctlWrite p a (st.s i.src2) (st.s i.dst) s = (e, q) → exec (.csmw sr w) s = .next (settle (failWith sr e st.pc (countIssue sr q))))) ∧
    (issues 9 0x00 sr w s = true → confined → exec (.csrd sr w) s = .next (settle (fault sr 0x0B (countIssue sr s)))) ∧
    (issues 9 0x01 sr w s = true → natBit i.imm 28 = false → 2 ^ 32 ≤ a → exec (.cswr sr w) s = .next (settle (failWith sr .denied st.pc (countIssue sr s))))

/-- With EN set, the transmitters on, light above the level on every lane and no retry awaited, a port that is DOWN takes the MODE of CFG and starts training at that time; with EN 0 it does not. EQ_REQ on a lane in training is answered by EQ_ACK. An EQ_ACK agrees the lane's taps, and the last one sends PARAMS. PARAMS of the same MODE gives credits of 8 slots a unit and the partner's needs; of another MODE the port is in MISMATCH. A step missed from 2 ms on takes the port DOWN, counted, with a retry 1 ms later, and that retry starts an attempt. By 11 ms the port is ACTIVE at full width, or SECURING where encryption is required and no keys are in force; a good SPDM session then makes it ACTIVE and encrypted with key generation 0, and a bad one takes it DOWN. Out of its state a step changes nothing but time; RETRAIN_REQ never changes more. -/
def Obligations.TrainingFollowsItsSteps : Prop :=
  ∀ (s : State) (t lp lane node mode : Nat) (enc : Bool) (power credits : List Nat) (root : Option (List Word)),
    let u := s.upTo t
    let p := u.lport lp
    let cfg := actingMode (u.fget FR_PORT_CFG.MODE (ppIx lp))
    let starts (q : State) : Prop := q.lpState lp = 1 ∧ (q.lport lp).trainAt = some u.now ∧ (q.lport lp).eqDone = false ∧ (q.lport lp).params = false ∧ (q.lport lp).retryAt = none
    let mayTrain : Prop := u.fget FR_PORT_CFG.EN (ppIx lp) = 1 ∧ SMap.get false u.link.txOn (lp / 4) = true ∧ u.fget CM_UNIT.STATE [384 + lp / 4] ≠ 3
    let fails (q : State) : Prop := q.lpState lp = 0 ∧ (q.lport lp).retryAt = some (u.now + 1000000) ∧ q.fget FR_SUB_CNT_LINK.TRAIN_FAIL (lpIx lp) = saturate 16 (u.fget FR_SUB_CNT_LINK.TRAIN_FAIL (lpIx lp) + 1)
    (lp < 512 →
      (mayTrain → u.lpState lp = 0 → p.retryAt = none → portIdle u (lp / 4) = true → lp % 4 ∈ modeSubs cfg → (∀ i, i < modeWidth cfg → 24 < power.getD i 0) →
        ∃ q, exec (.trainingStart t lp power) s = .next (settle q) ∧ starts q ∧ q.modeOf lp = cfg) ∧
      (u.fget FR_PORT_CFG.EN (ppIx lp) = 0 → ∃ q, exec (.trainingStart t lp power) s = .next (settle q) ∧ q.lpState lp = u.lpState lp ∧ q.link.ports = u.link.ports) ∧
      (p.params = false → u.lpState lp = 1 → p.eqDone = true → actingMode mode = u.modeOf lp → p.kept = none → ∃ q, exec (.params t lp node mode enc credits) s = .next (settle q) ∧
        q.fget FR_SUB_STATUS.PARTNER (lpIx lp) = node % 2 ^ 16 ∧ (q.lport lp).params = true ∧ (q.lport lp).partnerEnc = enc ∧ ∀ v, v < 5 → SMap.get 0 (q.lport lp).credits v = 8 * credits.getD v 0) ∧
      (u.lpState lp = 1 → p.eqDone = true → actingMode mode ≠ u.modeOf lp → p.kept = none → ∃ q, exec (.params t lp node mode enc credits) s = .next (settle q) ∧ q.lpState lp = 5) ∧
      (p.eqDone = false → exec (.params t lp node mode enc credits) s = .next (settle u)) ∧
      (∀ t0, u.lpState lp = 1 → p.trainAt = some t0 →
        (t0 + 2000000 ≤ u.now → p.kept = none → ∃ q, exec (.trainingStepFail t lp) s = .next (settle q) ∧ fails q) ∧
        (u.now < t0 + 2000000 → exec (.trainingStepFail t lp) s = .next u)) ∧
      (∀ r, u.lpState lp = 0 → p.retryAt = some r →
        (mayTrain → r ≤ u.now → portLight u lp = true → ∃ q, exec (.trainingRetry t lp) s = .next (settle q) ∧ starts q) ∧
        (u.now < r → exec (.trainingRetry t lp) s = .next u)) ∧
      (∀ t0, u.lpState lp = 1 → p.eqDone = true → p.params = true → p.trainAt = some t0 →
        (u.now ≤ t0 + 11000000 → needsEnc u lp = true → p.keysHeld = false → ∃ q, exec (.trainingDone t lp) s = .next (settle q) ∧ q.lpState lp = 2 ∧
          q.fget FR_SUB_STATUS.WIDTH (lpIx lp) = modeWidth (u.modeOf lp) ∧ q.link.sessions = u.link.sessions ++ [lp]) ∧
        (u.now ≤ t0 + 11000000 → needsEnc u lp = false → p.kept = none → (portRole u.com.inForce lp).isAgent = false → ∃ q, exec (.trainingDone t lp) s = .next (settle q) ∧ q.lpState lp = 3 ∧
          q.fget FR_SUB_STATUS.WIDTH (lpIx lp) = modeWidth (u.modeOf lp) ∧ (q.lport lp).activeAt = u.now) ∧
        (t0 + 11000000 < u.now → exec (.trainingDone t lp) s = .next u)) ∧
      (u.lpState lp = 2 → lp ∈ u.link.sessions.take 32 → p.kept = none →
        ((∃ d, root = some d ∧ anchored u d = true) → (portRole u.com.inForce lp).isAgent = false → ∃ q, exec (.spdmSessionDone t lp true root) s = .next (settle q) ∧ q.lpState lp = 3 ∧
          q.fget FR_SUB_STATUS.ENC (lpIx lp) = 1 ∧ q.fget FR_SUB_STATUS.KEY_GEN (lpIx lp) = 0 ∧ (q.lport lp).keysHeld = true ∧ lp ∉ q.link.sessions) ∧
        ((∃ d, root = some d ∧ anchored u d = false) → ∃ q, exec (.spdmSessionDone t lp true root) s = .next (settle q) ∧ fails q) ∧
        (∃ q, exec (.spdmSessionDone t lp false root) s = .next (settle q) ∧ fails q)) ∧
      (u.lpState lp ≠ 2 → exec (.spdmSessionDone t lp true root) s = .next u)) ∧
    (laneTrains u lane = true → exec (.eqReq t lane) s = .next { u with out := .lane lane 2 0 0 :: u.out } ∧
      ∀ l, laneLp u lane = some l → (u.lport l).eqDone = false → ∃ r, exec (.eqAck t lane) s = .next r ∧ (r.lane lane).taps = true ∧
        ((r.lport l).eqDone = true ↔ ∀ x, x ∈ lanesOf u l → x = lane ∨ (u.lane x).taps = true) ∧
        r.out = if (∀ x, x ∈ lanesOf u l → x = lane ∨ (u.lane x).taps = true) then .params l u.selfNode (u.modeOf l) (ownEnc u l) ((List.range 5).map fun v => vcCredit u (lpDie l) (lpClr u l) v) :: u.out else u.out) ∧
    (laneTrains u lane = false → exec (.eqReq t lane) s = .next u ∧ exec (.eqAck t lane) s = .next u) ∧
    exec (.retrainReq t lp) s = .next u

/-- On a port locked on flits: a bad CRC leaves ACK as it was, counts it, and the next flit sent carries NAK unless NAK was already set for the lost sequence. A good flit that is not the next in order leaves ACK as it was; a good IDLE flit's ACK takes the flits up to the one it names out of the replay buffer, and its CRCNT adds 8 slots for each unit of credit, modulo 128. The next flit in order moves ACK to it; a reserved FTYPE is counted; payload slots join the transaction being received. On a port in no such state a flit has no effect. With flits held, no advance of ACK for 10 µs sends them all again, counted; 8 replays of one sequence retrain the port and keep its work. -/
def Obligations.FlitsArriveInOrderAndAreKeptForReplay : Prop :=
  ∀ (s : State) (t lp : Nat) (slots : List (BitVec 128)) (trailer : BitVec 128),
    let u := s.upTo t
    let p := u.lport lp
    let tr := Trailer.ofBits trailer
    let locked : Prop := u.lpState lp = 1 ∨ u.lpState lp = 2 ∨ u.lpState lp = 3
    let good : Prop := tr.crc = flitCrc slots tr
    (¬ locked → exec (.flitRx t lp slots trailer) s = .next (settle u)) ∧
    (lp < 512 → locked → slots.length = 15 →
      (¬ good → ∃ q b, exec (.flitRx t lp slots trailer) s = .next (settle q) ∧ (q.lport lp).ackd = p.ackd ∧ (q.lport lp).nakSet = true ∧ (q.lport lp).txBuf = p.txBuf ∧
        q.fget FR_SUB_CNT_LINK.CRC_ERR (lpIx lp) = saturate 16 (u.fget FR_SUB_CNT_LINK.CRC_ERR (lpIx lp) + 1) ∧ q.out = .flit lp (List.replicate 15 nullSlot) b :: u.out ∧
        (Trailer.ofBits b).nak = (p.nakOwed || !p.nakSet) ∧ (Trailer.ofBits b).ack = p.ackd % 65536 ∧ (Trailer.ofBits b).ftype = 0) ∧
      (good → tr.nak = false → tr.ftype = 0 → p.txWait = [] → ∃ q, exec (.flitRx t lp slots trailer) s = .next (settle q) ∧ (q.lport lp).ackd = p.ackd ∧ (q.lport lp).nakSet = p.nakSet ∧
        (tr.ackv = false → (q.lport lp).txBuf = p.txBuf) ∧
        (tr.ackv = true → ∀ i f, p.txBuf[i]? = some f → f.seq = tr.ack → (∀ j g, j < i → p.txBuf[j]? = some g → g.seq ≠ tr.ack) → (q.lport lp).txBuf = p.txBuf.drop (i + 1) ∧ (q.lport lp).replayRuns = 0) ∧
        (tr.crvc < 5 → SMap.get 0 (q.lport lp).credits tr.crvc = SMap.get 0 p.credits tr.crvc + 8 * ((tr.crcnt + 128 - SMap.get 0 p.crSeen tr.crvc) % 128) ∧
          ∀ v, v ≠ tr.crvc → SMap.get 0 (q.lport lp).credits v = SMap.get 0 p.credits v)) ∧
      (good → tr.nak = false → tr.ackv = false → 1 ≤ tr.ftype → tr.ftype < 4 → tr.seq ≠ (p.ackd + 1) % 65536 → ∃ q, exec (.flitRx t lp slots trailer) s = .next (settle q) ∧
        (q.lport lp).ackd = p.ackd ∧ (q.lport lp).rxSlots = p.rxSlots ∧ (q.lport lp).group = p.group) ∧
      (good → tr.nak = false → tr.ackv = false → 4 ≤ tr.ftype → tr.seq = (p.ackd + 1) % 65536 → ∃ q, exec (.flitRx t lp slots trailer) s = .next (settle q) ∧
        (q.lport lp).ackd = tr.seq ∧ (q.lport lp).nakSet = false ∧ q.fget FR_SUB_CNT_DROP.BAD_FTYPE (lpIx lp) = saturate 16 (u.fget FR_SUB_CNT_DROP.BAD_FTYPE (lpIx lp) + 1)) ∧
      (good → tr.nak = false → tr.ackv = false → tr.ftype = 1 → u.lpState lp = 3 → u.encrypted lp = false → 15 < p.rxNeed → tr.seq = (p.ackd + 1) % 65536 →
        ∃ q, exec (.flitRx t lp slots trailer) s = .next (settle q) ∧ (q.lport lp).ackd = tr.seq ∧ (q.lport lp).rxSlots = p.rxSlots ++ slots ∧ (q.lport lp).rxNeed = p.rxNeed - 15)) ∧
    (lp < 512 → locked → p.kept = none → ∀ f fs, p.txBuf = f :: fs →
      (p.ackAt + 10000 ≤ u.now → ∃ r, exec (.replayTimer t lp) s = .next r ∧ (r.lport lp).txBuf = p.txBuf ∧ (r.lport lp).replaySeq = f.seq ∧ (r.lport lp).ackAt = u.now ∧ (r.lport lp).nakSet = false ∧
        r.fget FR_SUB_CNT_LINK.REPLAY (lpIx lp) = saturate 16 (u.fget FR_SUB_CNT_LINK.REPLAY (lpIx lp) + 1) ∧ r.out.length = u.out.length + p.txBuf.length) ∧
      (u.now < p.ackAt + 10000 → exec (.replayTimer t lp) s = .next u)) ∧
    (p.txBuf = [] → exec (.replayTimer t lp) s = .next u) ∧
    (lp < 512 → u.lpState lp = 3 → 8 ≤ p.replayRuns → u.fget CM_UNIT.STATE [384 + lp / 4] ≠ 3 → ∃ r, exec (.replayLimit t lp) s = .next r ∧ r.lpState lp = 1 ∧ (r.lport lp).kept = some u.now ∧
      (r.lport lp).replayRuns = 0 ∧ (r.lport lp).trainAt = some u.now ∧ (r.lport lp).txBuf = p.txBuf) ∧
    (p.replayRuns < 8 → exec (.replayLimit t lp) s = .next u)

/-- KEY_SWITCH on an encrypted port installs the next key beside the old one and is answered by KEY_SWITCH_ACK of the same generation; on a port in the clear it has no effect. KEY_SWITCH_ACK of the generation asked for makes KEYPH flip at the next group, and of another has no effect. A key generation that has sent KEY_LIFE groups asks for the next one, once. An SPDM fragment in order joins the message, and the last one hands it to the session engine; one out of order is dropped. PD_NOTICE notes the time on an ACTIVE port. PD_HOLD within 10 µs of a STANDBY check holds it back, and otherwise has no effect. PD_QUERY and PD_ACCEPT have none. -/
def Obligations.LinkMessagesHaveTheirEffects : Prop :=
  ∀ (s : State) (t lp gen off total target : Nat) (bytes : List Byte),
    let u := s.upTo t
    let p := u.lport lp
    let room : Prop := p.pausedBy = false ∧ p.txBuf.length < bufferShare (u.modeOf lp) ∧ p.txWait = []
    (u.encrypted lp = true → room → ∃ r b, exec (.keySwitch t lp gen) s = .next r ∧ r.out = .flit lp (linkMsgSlots 7 (toBytesLE 4 gen)) b :: u.out ∧ (Trailer.ofBits b).ftype = 2 ∧
      (r.lport lp).keyNext = some gen ∧ (r.lport lp).keyRx = p.keyRx ∧ r = { u with link := r.link, out := r.out, mgmt := r.mgmt }) ∧
    (u.encrypted lp = false → exec (.keySwitch t lp gen) s = .next u) ∧
    (p.keySent = some gen → ∃ r, exec (.keySwitchAck t lp gen) s = .next r ∧ r = { u with link := { u.link with ports := r.link.ports } } ∧ r.lport lp = { p with keyFlip := true } ∧
      ∀ k, k ≠ lp → r.lport k = u.lport k) ∧
    (p.keySent ≠ some gen → exec (.keySwitchAck t lp gen) s = .next u) ∧
    (keyLife u lp ≤ p.groups → u.lpState lp = 3 → u.encrypted lp = true → p.keySent = none → room →
      let g := (u.fget FR_SUB_STATUS.KEY_GEN (lpIx lp) + 1) % 2 ^ 32
      ∃ r b, exec (.keyLifeExpiry t lp) s = .next r ∧ (r.lport lp).keySent = some g ∧ r.out = .flit lp (linkMsgSlots 6 (toBytesLE 4 g)) b :: u.out) ∧
    ((p.groups < keyLife u lp ∨ p.keySent.isSome = true) → exec (.keyLifeExpiry t lp) s = .next u) ∧
    ((off = 0 ∨ off = p.spdm.length) →
      (off + bytes.length < total → ∃ r, exec (.spdm t lp off total bytes) s = .next r ∧ (r.lport lp).spdm = (if off = 0 then bytes else p.spdm ++ bytes) ∧ r.link.spdmIn = u.link.spdmIn) ∧
      (total ≤ off + bytes.length → ∃ r, exec (.spdm t lp off total bytes) s = .next r ∧ (r.lport lp).spdm = [] ∧
        r.link.spdmIn = u.link.spdmIn ++ [(lp, (if off = 0 then bytes else p.spdm ++ bytes).take total)])) ∧
    (off ≠ 0 → off ≠ p.spdm.length → exec (.spdm t lp off total bytes) s = .next u) ∧
    (u.lpState lp = 3 → ∃ r, exec (.pdNotice t lp) s = .next r ∧ r.lport lp = { p with noticeAt := some u.now } ∧ r = { u with link := { u.link with ports := r.link.ports } }) ∧
    (u.lpState lp ≠ 3 → exec (.pdNotice t lp) s = .next u) ∧
    (∀ t0, (u.pw.entry = .check1 1 t0 ∨ u.pw.entry = .check2 1 t0) →
      (u.now ≤ t0 + 10000 → ∃ r, exec (.pdHold t lp) s = .next r ∧ (∀ k, k ∈ r.pw.holds ↔ k = lp ∨ k ∈ u.pw.holds) ∧ r = { u with pw := { u.pw with holds := r.pw.holds } }) ∧
      (t0 + 10000 < u.now → exec (.pdHold t lp) s = .next u)) ∧
    (u.pw.entry = .idle → exec (.pdHold t lp) s = .next u) ∧
    exec (.pdQuery t lp target) s = .next u ∧ exec (.pdAccept t lp) s = .next u

/-- A port that leaves ACTIVE loses its keys and flits, the unacknowledged ones counted. A failed lane of an ACTIVE port reads ROLE failed; with a spare in STANDBY that serves its group it asks for it and new flits stop; with none, a port that may narrow asks for that, and otherwise goes DOWN. SPARE_ACK moves the lane to the spare; SPARE_REQ of the partner moves it and is answered; NARROW_ACK halves the width and flits go on; swap done, flits go on from the replay buffer. RESTORE_REQ and RESTORE_ACK take the lane back to its place and the spare to STANDBY. A spare that trains well is in STANDBY, and else failed. Loss of light outside a PD_NOTICE fails the lane; in the 1 ms after it, the port is POWERED_DOWN. A degraded lane moves only where a spare is free. A MISMATCH ends with loss of light. A lane whose own retraining ends well asks to come back, and one that ends badly reads failed. -/
def Obligations.LanesMoveNarrowAndComeBack : Prop :=
  ∀ (s : State) (t lane spare lp f n node code symbols : Nat) (good : Bool),
    let u := s.upTo t
    let x := u.lane lane
    let role (r : State) (l : Nat) : Nat := r.fget FR_LANE_STATUS.ROLE (laneIx l)
    let own : Prop := lane < 1024 ∧ lane % 64 < 32 ∧ laneLp u lane = some lp ∧ lp < 512
    let calm : Prop := laneGood u lane = true ∧ x.onSpare = none ∧ ∀ l, l ∈ lanesOf u lp → (u.lane l).spareAsked = none ∧ (u.lane l).narrowAsked = false
    let asks (k : Nat) (q : State) : Prop := role q lane = 2 ∧ (q.lane lane).spareAsked = some k ∧ (q.lport lp).pausedBy = true ∧ q.fget FR_SPARE.STATE (spareIx lane k) = 2 ∧
      q.fget FR_SPARE.LANE (spareIx lane k) = lane % 64 ∧ q.out.head? = some (.lane (64 * (lane / 64) + 32 + k) 3 (lane % 64) (32 + k))
    let moved (k : Nat) (q : State) : Prop := (q.lane lane).onSpare = some k ∧ (q.lane lane).spareAsked = none ∧ q.fget FR_SPARE.LANE (spareIx lane k) = lane % 64
    let home (k : Nat) (q : State) : Prop := (q.lane lane).onSpare = none ∧ role q lane = 0 ∧ q.fget FR_SPARE.STATE (spareIx lane k) = 1 ∧ q.fget FR_SPARE.LANE (spareIx lane k) = 0x3F
    let leaves : Prop := ∀ (q : State) (ev : Bool) (st : Nat), lp < 512 → st < 8 → q.lpState lp = 3 → ∃ w, linkFalls ev lp st q = leftActive lp ev w ∧ w.lpState lp = st ∧ w.lport lp = .reset ∧
      w.fget FR_SUB_STATUS.ENC (lpIx lp) = 0 ∧ w.fget FR_SUB_CNT_DROP.DROPPED (lpIx lp) = saturate 16 (q.fget FR_SUB_CNT_DROP.DROPPED (lpIx lp) + (q.lport lp).txBuf.length)
    (own → u.lpState lp = 3 → calm →
      (∀ k, findSpare u lane = some k → (∃ q, exec (.remoteFault t lane) s = .next (settle q) ∧ asks k q) ∧ (∃ q, exec (.laneFailed t lane none) s = .next (settle q) ∧ asks k q) ∧
        (∃ r, exec (.laneDegraded t lane symbols) s = .next r ∧ asks k r) ∧
        (code < 20 → (u.lport lp).noticeAt = none → ∃ q, exec (.laneFailed t lane (some code)) s = .next (settle q) ∧ asks k q ∧ (q.lane lane).light = false)) ∧
      (findSpare u lane = none →
        (∃ r, exec (.laneDegraded t lane symbols) s = .next r ∧ role r lane = role u lane ∧ r.link = u.link ∧ r.out = u.out) ∧
        ((u.fget FR_PORT_CFG.NARROW (ppIx lp) = 0 ∨ modeWidth (u.modeOf lp) = 1) → ∃ q, exec (.remoteFault t lane) s = .next (settle (linkDown lp 0 q)) ∧ role q lane = 2 ∧ q.lpState lp = 3)) ∧
      (∀ t0, code < 20 → (u.lport lp).noticeAt = some t0 → u.now ≤ t0 + 1000000 → ∃ q, exec (.laneFailed t lane (some code)) s = .next (settle (linkFalls false lp 6 q)) ∧ q.lpState lp = 3 ∧ (q.lane lane).light = false)) ∧
    leaves ∧
    (own → u.lpState lp ≠ 3 → exec (.remoteFault t lane) s = .next (settle u) ∧ exec (.narrowReq t lane) s = .next u ∧ exec (.narrowAck t lane) s = .next u ∧ exec (.spareReq t lane spare) s = .next u) ∧
    (own → ∀ k, k < 2 → x.spareAsked = some k → u.fget FR_SPARE.USE (spareIx lane k) = 0 → ∃ q, exec (.spareAck t lane) s = .next (settle q) ∧ moved k q ∧ q.lport lp = u.lport lp ∧ q.out = u.out) ∧
    (x.spareAsked = none → exec (.spareAck t lane) s = .next (settle u)) ∧
    (own → u.lpState lp = 3 → x.onSpare = none → x.spareAsked = none → spare < 2 → u.fget FR_SPARE.STATE (spareIx lane spare) = 1 → ∃ r, exec (.spareReq t lane spare) s = .next r ∧ moved spare r ∧
      (r.lport lp).pausedBy = true ∧ role r lane = 2 ∧ r.out = .lane (64 * (lane / 64) + 32 + spare) 4 (lane % 64) (32 + spare) :: u.out) ∧
    (own → u.lpState lp = 3 → x.narrowAsked = true → (u.lport lp).txBuf = [] → (u.lport lp).txWait = [] → ∀ ls, narrowTo u lp = some ls → ∃ q, exec (.narrowAck t lane) s = .next (settle q) ∧
      q.fget FR_SUB_STATUS.WIDTH (lpIx lp) = ls.length ∧ (q.lport lp).pausedBy = false ∧ (q.lane lane).narrowAsked = false ∧ q.out = .event (.laneMoved lp) :: u.out) ∧
    (own → u.lpState lp = 3 → u.fget FR_PORT_CFG.NARROW (ppIx lp) = 0 → ∃ q, exec (.narrowReq t lane) s = .next (settle (linkDown lp 0 q)) ∧ q.lpState lp = 3 ∧ role q lane = 2) ∧
    (lp < 512 → (u.lport lp).pausedBy = true → (u.lport lp).txBuf = [] → (u.lport lp).txWait = [] → (∀ l, l ∈ lanesOf u lp → (u.lane l).spareAsked = none ∧ (u.lane l).narrowAsked = false) →
      ∃ q, exec (.spareSwapResume t lp) s = .next (settle q) ∧ (q.lport lp).pausedBy = false ∧ q.out = .event (.laneMoved lp) :: u.out) ∧
    ((u.lport lp).pausedBy = false → exec (.spareSwapResume t lp) s = .next (settle u)) ∧
    (own → ∀ k, k < 2 → x.onSpare = some k →
      (∃ r, exec (.restoreReq t lane) s = .next r ∧ home k r ∧ r.out = .lane lane 8 (lane % 64) (32 + k) :: .event (.laneMoved lp) :: u.out) ∧
      (x.restoreAsked = true → ∃ r, exec (.restoreAck t lane) s = .next r ∧ home k r ∧ r.out = .event (.laneMoved lp) :: u.out)) ∧
    (x.onSpare = none → exec (.restoreReq t lane) s = .next u) ∧ (x.restoreAsked = false → exec (.restoreAck t lane) s = .next u) ∧
    (f < 16 → n < 2 → u.fget FR_SPARE.STATE [f, n] = 0 → (∃ k, k < 32 ∧ u.lpState (32 * f + k) = 3) → ∃ r, exec (.spareTraining t f n node good) s = .next r ∧
      r.fget FR_SPARE.STATE [f, n] = (if good = true then 1 else 3) ∧ r.fget FR_LANE_STATUS.ROLE [f, 32 + n] = 1) ∧
    (u.fget FR_SPARE.STATE [f, n] ≠ 0 → exec (.spareTraining t f n node good) s = .next u) ∧
    (own → u.lpState lp = 5 → (u.lport lp).kept = none →
      (code < 20 → ∃ q, exec (.mismatchDown t lane code) s = .next (settle q) ∧ q.lpState lp = 0) ∧ (20 ≤ code → exec (.mismatchDown t lane code) s = .next u)) ∧
    (own → x.recal = some 0 → ∀ k, k < 2 → x.onSpare = some k →
      (∃ r, exec (.laneRecalDone t lane true) s = .next r ∧ (r.lane lane).recal = none ∧ (r.lane lane).restoreAsked = true ∧ r.fget FR_LANE_STATUS.RECAL_RESULT (laneIx lane) = 2) ∧
      (∃ r, exec (.laneRecalDone t lane false) s = .next r ∧ (r.lane lane).recal = none ∧ role r lane = 2 ∧ r.fget FR_LANE_STATUS.RECAL_RESULT (laneIx lane) = 3 ∧ r.fget FR_SPARE.USE (spareIx lane k) = 0)) ∧
    (x.recal = none → exec (.laneRecalDone t lane good) s = .next u)

/-- On T0 a LOAD, BLK_RD, PAGE_RD or GATHER answers OK with the bytes of its lines, segments, page or rows; a STORE or a BLK_WR of whole lines writes its bytes and no others; an ATOMIC answers the old word and writes the word that Table 04.8 gives, and no other byte. A HINT on T2 becomes the newest range of its clearing, and elsewhere has no effect; a NARROW_STORE ends with SIZE and a UNIT_WR with DENIED. A LOAD on T1 leaves on the routed port under the lowest free tag. A request of an epoch not in force ends with STALE_EPOCH, one outside its window with DENIED, counted; of a port that may not send requests, or of a tag in use, with DENIED. Nothing arrives on a port that is not ACTIVE. -/
def Obligations.RequestsOfPartnersAreServed : Prop :=
  ∀ (s : State) (t : Nat) (q : PortReq) (line : Line) (aop word opd cmp len rowl count prio pages : Nat) (data : List (BitVec 128)) (m : Canopy) (w : Window) (a : Nat),
    let u := s.upTo t
    let back (n : Nat) : State := returnCredit q.lp vcReq n u
    let ans (st : Status) (d : List Byte) (r : State) : Host.Outcome State Fault Refusal := .next (settle (endReq (.port q.lp q.tag) q.clr q.epoch (lpDie q.lp) st d false r))
    let clean (n : Nat) : Prop := w.tier = .t0 ∧ t0Open a n = true ∧ t0Bad u a n = false
    let wrote (bs : List Byte) (r : State) : Prop := readBytes r.fab.t0 a bs.length = bs ∧ ∀ b, (b < a ∨ a + bs.length ≤ b) → SMap.get 0 r.fab.t0 b = SMap.get 0 u.fab.t0 b
    let idx := gatherIdx (count % 64) data
    let row := (rowl % 16 + 1) * 64
    (Passes vcReq q u →
      (Reaches .load 0 q m w a u → clean 64 → exec (.load t q) s = ans .ok (readBytes u.fab.t0 a 64) (back 1)) ∧
      (Reaches (.blkRd (len % 256 + 1)) 0 q m w a u → clean ((len % 256 + 1) * 256) → exec (.blkRd t q len) s = ans .ok (readBytes u.fab.t0 a ((len % 256 + 1) * 256)) (back 2)) ∧
      (Reaches .pageRd 0 q m w a u → clean 4096 → exec (.pageRd t q) s = ans .ok (readBytes u.fab.t0 a 4096) (back 2)) ∧
      (Reaches (.store (bytesLine (lineBytes line))) 0 q m w a u → w.tier = .t0 → t0Open a 64 = true → ∃ r, exec (.store t q line) s = ans .ok [] r ∧ wrote (lineBytes line) r) ∧
      (aop < 8 → word < 8 → opd < 2 ^ 64 → cmp < 2 ^ 64 → Reaches (.atomic aop word opd cmp) 0 q m w a u → clean 64 →
        ∃ r v, atomicOp aop (ofBytesLE (readBytes u.fab.t0 (a + 8 * word) 8)) opd cmp = some v ∧
          exec (.atomic t q aop word (BitVec.ofNat 64 opd) (BitVec.ofNat 64 cmp)) s = ans .ok (readBytes u.fab.t0 (a + 8 * word) 8 ++ List.replicate 8 0) r ∧
          readBytes r.fab.t0 (a + 8 * word) 8 = toBytesLE 8 v ∧ ∀ b, (b < a + 8 * word ∨ a + 8 * word + 8 ≤ b) → SMap.get 0 r.fab.t0 b = SMap.get 0 u.fab.t0 b) ∧
      (data.length = (count % 64 + 4) / 4 → Reaches (.gather (rowl % 16) idx) 0 q m w a u → w.tier = .t0 → rowsInside w (q.line * 64) a (rowl % 16) idx = true →
        (∀ i, i ∈ idx → t0Bad u (a + i * row) row = false) →
        exec (.gather t q rowl count data) s = ans .ok ((idx.map fun i => readBytes u.fab.t0 (a + i * row) row).flatten) (back (2 + data.length))) ∧
      (Reaches .hint (pages % 2 ^ 24 + 1) q m w a u →
        (w.tier = .t2 → ∃ r, exec (.hint t q prio pages) s = ans .ok [] r ∧ r.fab.hints.head? = some { clr := w.clr, node := w.pnode, page := a / 4096, count := pages % 2 ^ 24 + 1, prio := prio % 4 } ∧
          (r.fab.hints.filter fun h => h.clr == w.clr).length ≤ 64 ∧ r.fab.t0 = u.fab.t0) ∧
        (w.tier ≠ .t2 → exec (.hint t q prio pages) s = ans .ok [] (back 2))) ∧
      (1 ≤ data.length → data.length ≤ 3 → Reaches (.store []) 0 q m w a u → w.tier ≠ .t2 → exec (.narrowStore t q data) s = ans .size [] (back (1 + data.length))) ∧
      (Reaches .load 0 q m w a u → w.tier = .t1 → ∀ l n, routeOf m w.clr w.pnode = some l → portHolds u l = true → quarantined u l = false → t1Count u w.clr < t1Limit u w.clr →
        (∀ e, e ∈ u.fab.txns → e.1 < u.fab.nextTxn ∧ e.2.node ≠ w.pnode) → n < 8192 → tagUsed u l n = false → (∀ j, j < n → tagUsed u l j = true) →
        ∃ x r, exec (.load t q) s = .next (settle (emitTxn x l r)) ∧ r.txn? x.id = some x ∧ x.id = u.fab.nextTxn ∧ x.src = .port q.lp q.tag ∧ x.kind = .load ∧ x.phase = .sent ∧
          x.lport = some l ∧ x.tag = n ∧ x.node = w.pnode ∧ x.off = a ∧ x.counted = true) ∧
      (u.mapAt q.epoch = none → ∀ c, c ∈ ([.load t q, .blkRd t q len, .pageRd t q, .store t q line, .hint t q prio pages] : List Instr) → ∃ r, exec c s = ans .staleEpoch [] r ∧ r.fab = u.fab) ∧
      (∀ m, u.mapAt q.epoch = some m → portRole m q.lp ≠ .trunk → q.clr < 128 → translate m q.clr q.node (q.line * 64) 64 .r = none →
        ∃ r, exec (.load t q) s = ans .denied [] r ∧ r.fab = u.fab ∧ r.fget CM_CLR_TXN_ERR.DENIED_WINDOW [q.clr] = saturate 16 (u.fget CM_CLR_TXN_ERR.DENIED_WINDOW [q.clr] + 1))) ∧
    (¬ (1 ≤ data.length ∧ data.length ≤ 3) → exec (.narrowStore t q data) s = .next u) ∧
    (Passes vcBulk q u →
      (u.mapAt q.epoch ≠ none → ∃ r, exec (.unitWr t q data) s = ans .denied [] r ∧ r.fab = u.fab) ∧
      (0 < data.length → data.length ≤ 16 → data.length % 4 = 0 → a % 256 + data.length * 16 ≤ 256 → Reaches (.blkWr data) 0 q m w a u → w.tier = .t0 → t0Open a (data.length * 16) = true →
        ∃ r, exec (.blkWr t q data) s = ans .ok [] r ∧ wrote (slotsBytes data) r)) ∧
    (u.lpState q.lp = 3 → u.pw.ingressStopped = false → lpClr u q.lp = q.clr → q.clr ≠ 0xFF → landingHeld u q.lp = false → queuedAt u.sched.held q.lp vcReq = false → polOf u q.lp vcReq = none →
      (portDenies u q.lp = true ∨ tagPending u q.lp q.tag = true ∨ quarantined u q.lp = true) → exec (.load t q) s = ans .denied [] (back 1)) ∧
    (u.lpState q.lp ≠ 3 → ∀ c, c ∈ ([.load t q, .blkRd t q len, .pageRd t q, .store t q line, .hint t q prio pages, .unitWr t q data, .blkWr t q data, .gather t q rowl count data,
        .atomic t q aop word (BitVec.ofNat 64 opd) (BitVec.ofNat 64 cmp)] : List Instr) → exec c s = .next (settle u))

/-- A whole OK response to a LOAD ends it with the data; another status ends it with that status; a response that names no request is counted and frees the dead tag. The tier limit ends a request with TIMEOUT, counted, and keeps its tag dead until four times the limit; TAG_RELEASE frees it then, and HOME_HOLD_END a place kept at the home. The oldest T1 request that waits is admitted when the count allows. A page read ends with its last segment. A unit of 256 segments, with none of that unit in flight, goes to its tray as one write, its copies discarded; the tray's answer ends its waiters, and an incomplete unit ends at the T2 limit with TIMEOUT. At each 10 ms boundary the buckets gain their rate up to their burst, once. -/
def Obligations.RequestsEndByResponsesAndLimits : Prop :=
  ∀ (s : State) (t lp clr tag code seg id node unit : Nat) (last : Bool) (data : List (BitVec 128)) (x : Txn) (e : UnitAsm),
    let u := s.upTo t
    let lands : Prop := u.lpState lp = 3 ∧ u.pw.ingressStopped = false ∧ lpClr u lp = clr ∧ clr < 128 ∧ landingHeld u lp = false ∧ queuedAt u.sched.held lp vcRsp = false ∧ polOf u lp vcRsp = none
    let v := returnCredit lp vcRsp (1 + data.length) u
    let named : Prop := u.fab.txns.find? (fun e => e.2.lport == some lp && e.2.tag == tag) = some (x.id, x) ∧ x.ended = false
    let ends (c : Instr) (st : Status) (d : List Byte) : Prop := ∃ y, exec c s = .next (settle (endTxn y st d v)) ∧ y.id = x.id ∧ y.src = x.src ∧ y.lport = x.lport
    let late (x : Txn) : Prop := x.issued + tierLimit u x.tier ≤ u.now
    (lands →
      (named → x.kind = .load → x.got = [] → ((slotsBytes data).length = 64 → ends (.response t lp clr tag 0 0 true data) .ok (slotsBytes data)) ∧
        (Status.ofCode code ≠ .ok → Status.ofCode code ≠ .staleEpoch → ∃ d, ends (.response t lp clr tag code seg last data) (Status.ofCode code) d)) ∧
      (u.fab.txns.find? (fun e => e.2.lport == some lp && e.2.tag == tag) = none → ∃ r, exec (.response t lp clr tag code seg last data) s = .next (settle r) ∧
        r.fget CM_CLR_TXN_ERR.LATE_RSP [clr] = saturate 16 (u.fget CM_CLR_TXN_ERR.LATE_RSP [clr] + 1) ∧ (∀ d, d ∈ r.fab.deadTags ↔ d ∈ u.fab.deadTags ∧ ¬ (d.1 = lp ∧ d.2.1 = tag)) ∧ r.fab.txns = u.fab.txns) ∧
      (named → x.kind = .blkRd 16 → (∃ c n p, x.src = .page c n p) → data ≠ [] → last = true → (∀ i, i < 16 → i = seg ∨ (x.got.any fun g => g.1 == i) = true) → x.got.length = 15 → (x.got.any fun g => g.1 == seg) = false →
        ∃ y, exec (.stagingFill t lp clr tag 0 seg last data) s = .next (settle (endTxn y .ok (segData y) v)) ∧ y.id = x.id ∧ y.src = x.src ∧ y.got = x.got ++ [(seg, slotsBytes data)]) ∧
      (named → x.kind = .unitWr unit → data = [] → u.fab.units.find? (fun a => a.sent == some x.id) = some e → code = 0 → ∃ r, exec (.unitWrResponse t lp clr tag code) s =
          .next (settle (let z := endWaiters .ok e.waiters r; retryPages (z.fab.txns.map Prod.fst) z)) ∧
        r.fab.units = u.fab.units.filter (fun b => b.sent != some x.id) ∧ r.txn? x.id = none)) ∧
    (tagIs u lp tag (fun x => match x.src with
        | .page _ _ _ => true
        | _ => false) = false → exec (.stagingFill t lp clr tag code seg last data) s = .next u) ∧
    (tagIs u lp tag (fun x => match x.kind with
        | .unitWr _ => true
        | _ => false) = false → exec (.unitWrResponse t lp clr tag code) s = .next u) ∧
    (u.txn? id = some x → x.id = id →
      (late x → limitApplies x = true → x.kind ≠ .epochNote → (∀ n, x.kind ≠ .unitWr n) → x.clr < 128 → ∃ r,
        exec (.txnTimeout t id) s = .next (settle (endReq x.src x.clr x.epoch x.die .timeout [] false r)) ∧ r.txn? id = none ∧
        r.fget CM_CLR_TXN_ERR.TIMEOUT [x.clr] = saturate 16 (u.fget CM_CLR_TXN_ERR.TIMEOUT [x.clr] + 1) ∧
        (∀ l, x.lport = some l → r.fab.deadTags = u.fab.deadTags ++ [(l, x.tag, x.issued + 4 * tierLimit u x.tier)]) ∧ ∀ j, j ≠ id → r.txn? j = u.txn? j) ∧
      (¬ late x → exec (.txnTimeout t id) s = .next u ∧ exec (.homeHoldEnd t id) s = .next u) ∧
      (late x → x.phase = .timedOut → ∃ r, exec (.homeHoldEnd t id) s = .next (settle r) ∧ r = { u with fab := { u.fab with txns := r.fab.txns } } ∧ r.txn? id = none ∧ ∀ j, j ≠ id → r.txn? j = u.txn? j) ∧
      (x.phase = .inflight → x.tier = .t1 → x.counted = false →
        ((∃ y j, (j, y) ∈ u.fab.txns ∧ j < id ∧ y.phase = .inflight ∧ y.clr = x.clr) → exec (.t1Admit t id) s = .next u) ∧
        (∀ l n, (∀ j y, (j, y) ∈ u.fab.txns → (j < id → y.phase ≠ .inflight ∨ y.clr ≠ x.clr) ∧ (y.node ≠ x.node ∨ y.id = id)) → (∀ e, e ∈ u.fab.txns → e.1 = e.2.id) →
          routeOf ((u.mapAt x.epoch).getD u.com.inForce) x.clr x.node = some l → portHolds u l = true → spareRefuses u x.src x.kind l = false → t1Count u x.clr < t1Limit u x.clr →
          n < 8192 → tagUsed u l n = false → (∀ j, j < n → tagUsed u l j = true) →
          ∃ y r, exec (.t1Admit t id) s = .next (settle (emitTxn y l r)) ∧ r.txn? id = some y ∧ y.phase = .sent ∧ y.counted = true ∧ y.lport = some l ∧ y.tag = n))) ∧
    (u.txn? id = none → exec (.txnTimeout t id) s = .next u ∧ exec (.t1Admit t id) s = .next u ∧ exec (.homeHoldEnd t id) s = .next u) ∧
    (∃ r, exec (.tagRelease t lp tag) s = .next (settle r) ∧ r = { u with fab := { u.fab with deadTags := r.fab.deadTags } } ∧
      ∀ d, d ∈ r.fab.deadTags ↔ d ∈ u.fab.deadTags ∧ ¬ (d.1 = lp ∧ d.2.1 = tag ∧ d.2.2 ≤ u.now)) ∧
    (u.fab.units.find? (fun a => sameUnit clr node unit a && a.sent.isNone) = some e →
      (e.segs.length = 256 → unitInFlight u clr node unit = false → clr < 128 → ∀ n ns, e.waiters = n :: ns → u.txn? n = some x → ∃ y r, exec (.unitAssemblySend t clr node unit) s = .next (settle (startTxn y r)) ∧
        y.id = u.fab.nextTxn ∧ y.kind = .unitWr unit ∧ y.off = unit * 65536 ∧ y.src = .home ∧ (∀ c, c ∈ r.fab.staging ↔ c ∈ u.fab.staging ∧ ¬ (c.clr = clr ∧ c.node = node ∧ c.page / 16 = unit)) ∧
        r.fget CM_CLR_T2_STAT.UNITS [clr] = saturate 16 (u.fget CM_CLR_T2_STAT.UNITS [clr] + 1) ∧ unitInFlight r clr node unit = true) ∧
      (e.segs.length < 256 → exec (.unitAssemblySend t clr node unit) s = .next (settle u) ∧
        (e.firstAt + tierLimit u .t2 ≤ u.now → ∃ r, exec (.unitTimeout t clr node unit) s = .next (settle (endWaiters .timeout e.waiters r)) ∧
          ∀ a, a ∈ r.fab.units ↔ a ∈ u.fab.units ∧ ¬ (sameUnit clr node unit a = true ∧ a.sent = none)) ∧
        (u.now < e.firstAt + tierLimit u .t2 → exec (.unitTimeout t clr node unit) s = .next u))) ∧
    (u.now / 10000000 ≠ u.fab.refillAt → ∃ r, exec (.t2BucketRefill t) s = .next r ∧ r = { u with fab := { u.fab with buckets := r.fab.buckets, refillAt := u.now / 10000000 } } ∧
      ∀ c n, SMap.get? u.fab.buckets c = some n → SMap.get? r.fab.buckets c = some (min (quotaOf u.com.inForce c).t2Burst (n + (quotaOf u.com.inForce c).t2Rate))) ∧
    (u.now / 10000000 = u.fab.refillAt → exec (.t2BucketRefill t) s = .next u)

/-- SUBSCRIBE adds the port once, within 256 of a region; UNSUBSCRIBE removes it, and a lapsed one gets DENIED. INVAL waits for its issuer's cycle; held by both Lookouts with no subscriber it ends OK, its last INV_ACK ends it, and past INV_LIMIT those who have not answered lapse and it ends with TIMEOUT. PREPARE gives the first FREE slot or waits, up to its tier limit. PUBLISH with a prepared slot and no write outstanding goes to the Sequencer, and else is held and forwarded later. At a publish point the last ordered publish of a region makes its slot CURRENT with the next version, the earlier ones end SUPERSEDED, and the old slot is FREE unless pinned. OPEN pins the current slot and CLOSE drops the pin. The Sequencer admits an issuer's first waiting operation behind those in order, and acts on the first in order only. -/
def Obligations.SubscriptionsAndPublishesFollowTheSequencer : Prop :=
  ∀ (s : State) (t lp clr tag count id a k : Nat) (c? : Option Nat) (q : PortReq) (w : Window) (g : Region) (pr : PubRegion) (v : InvalRun) (x y : Txn) (o : SeqOp),
    let u := s.upTo t
    let me : Holder := .port q.lp
    let ans (st : Status) (d : List Byte) (r : State) : Host.Outcome State Fault Refusal := .next (settle (endReq (.port q.lp q.tag) q.clr q.epoch (lpDie q.lp) st d false r))
    let plain (n : Nat) (need : Right) : Prop := regionTarget u q.req n need .plain = .ok (w, a, g) ∧ g.region = w.region
    let pubd (need : Right) : Prop := regionTarget u q.req 64 need .published = .ok (w, a, g) ∧ g.region = w.region ∧ u.pub? w.region = some pr
    let live := u.coh.subs.filter fun x => !x.lapsed
    let seqNew (kind : SeqKind) (r : State) : Prop := r.coh.seqOps = u.coh.seqOps ++ [{ id := u.coh.nextOp, clr := some w.clr, kind := kind, positioned := false, at_ := 0 }]
    let newTxn? (kind : TxnKind) (ph : TxnPhase) (r : State) : Prop := ∃ z, r.txn? u.fab.nextTxn = some z ∧ z.kind = kind ∧ z.phase = ph ∧ z.src = .port q.lp q.tag
    (Passes vcReq q u → (∀ e, e ∈ u.fab.txns → e.1 < u.fab.nextTxn) →
      (plain 64 .r →
        (subscribed u w.region me = true → exec (.subscribe t q) s = ans .ok [] (returnCredit q.lp vcReq 2 u)) ∧
        (subscribed u w.region me = false → 256 ≤ (live.filter fun x => x.region == w.region).length → exec (.subscribe t q) s = ans .denied [] (returnCredit q.lp vcReq 2 u)) ∧
        (subscribed u w.region me = false → (live.filter fun x => x.region == w.region).length < 256 → (live.filter fun x => x.clr == g.clr).length < 4096 → invalOrdered u w.region = false →
          ∃ r, exec (.subscribe t q) s = ans .ok [] r ∧ subscribed r w.region me = true ∧ ∀ z, ¬ (z.region = w.region ∧ z.who = me) → (z ∈ r.coh.subs ↔ z ∈ u.coh.subs)) ∧
        (lapsed u (some me) w.region = true → exec (.unsubscribe t q) s = ans .denied [] (returnCredit q.lp vcReq 2 u)) ∧
        (lapsed u (some me) w.region = false → ∃ r, exec (.unsubscribe t q) s = ans .ok [] r ∧ ∀ z, z ∈ r.coh.subs ↔ z ∈ u.coh.subs ∧ ¬ (z.region = w.region ∧ z.who = me))) ∧
      (pubd .w → preparedSlot pr me = none → (∀ e, e ∈ u.fab.txns → e.2.kind ≠ .prepare) →
        (pr.slots.findIdx? (fun x => x == .free) = some k → ∃ r, exec (.prepare t q) s = ans .ok (verSlot pr.version k) r ∧ r.pub? w.region = some { pr with slots := pr.slots.set k (.prepared me) }) ∧
        (pr.slots.findIdx? (fun x => x == .free) = none → ∃ r, exec (.prepare t q) s = .next (settle r) ∧ newTxn? .prepare .slotWait r ∧ r.coh = u.coh)) ∧
      (pubd .w → (preparedSlot pr me).isSome = true → exec (.prepare t q) s = ans .denied [] (returnCredit q.lp vcReq 2 u)) ∧
      (pubd .r →
        (∃ r q', exec (.openRegion t q) s = ans .ok (verSlot pr.version pr.current) r ∧ r.pub? w.region = some q' ∧ q'.version = pr.version ∧ ∀ k, (me, k) ∈ q'.pins ↔ k = pr.current) ∧
        (∃ r q', exec (.closeRegion t q) s = ans .ok [] r ∧ r.pub? w.region = some q' ∧ q'.version = pr.version ∧ ∀ k, (me, k) ∉ q'.pins))) ∧
    (Passes vcOrd q u → (∀ e, e ∈ u.fab.txns → e.1 < u.fab.nextTxn) →
      (plain ((count % 2 ^ 24 + 1) * 64) .w → lapsed u (some me) w.region = false → ∃ r, exec (.inval t q count) s = .next (settle r) ∧ seqNew (.inval u.fab.nextTxn) r ∧ newTxn? (.invalidate (count % 2 ^ 24 + 1)) .seq r) ∧
      (pubd .w →
        (preparedSlot pr me = none → exec (.publish t q) s = ans .denied [] (returnCredit q.lp vcOrd 2 u)) ∧
        ((preparedSlot pr me).isSome = true → writesOut u me w.region = false → ∃ r, exec (.publish t q) s = .next (settle r) ∧ seqNew (.publish u.fab.nextTxn) r ∧ newTxn? .publish .seq r) ∧
        ((preparedSlot pr me).isSome = true → writesOut u me w.region = true → ∃ r, exec (.publish t q) s = .next (settle r) ∧ r.coh = u.coh ∧ newTxn? .publish .held r))) ∧
    (u.txn? id = some x → x.id = id →
      (x.phase = .held → x.kind = .publish → ∀ h, holderOf x.src = some h →
        (writesOut u h x.region = true → exec (.publishForward t id) s = .next (settle u)) ∧
        (writesOut u h x.region = false → ∃ r, exec (.publishForward t id) s = .next (settle r) ∧ r.txn? id = some { x with phase := .seq } ∧
          r.coh.seqOps = u.coh.seqOps ++ [{ id := u.coh.nextOp, clr := some x.clr, kind := .publish id, positioned := false, at_ := 0 }])) ∧
      (x.phase ≠ .held → exec (.publishForward t id) s = .next u) ∧
      (x.phase = .slotWait → x.ended = false → x.clr < 128 → x.issued + tierLimit u x.tier ≤ u.now → ∃ r, exec (.prepareTimeout t id) s = .next (settle (endReq x.src x.clr x.epoch x.die .timeout [] false r)) ∧
        r.txn? id = none ∧ r.fget CM_CLR_TXN_ERR.TIMEOUT [x.clr] = saturate 16 (u.fget CM_CLR_TXN_ERR.TIMEOUT [x.clr] + 1)) ∧
      (u.now < x.issued + tierLimit u x.tier → exec (.prepareTimeout t id) s = .next u)) ∧
    (u.now / 2000 = u.coh.pubPoint → exec (.publishPoint t) s = .next u) ∧
    (u.now / 2000 ≠ u.coh.pubPoint → u.coh.pubs = [pr] → pr.slots[pr.current]? = some .current → u.txn? id = some x → x.id = id → ∀ h, holderOf x.src = some h → preparedSlot pr h = some k →
      let done (r : State) : Prop := exec (.publishPoint t) s = .next (settle (endTxn x .ok (verSlot ((pr.version + 1) % 2 ^ 32) k) r)) ∧
        ∃ q', r.pub? pr.region = some q' ∧ q'.version = (pr.version + 1) % 2 ^ 32 ∧ q'.slots[k]? = some .current ∧ q'.ordered = [] ∧
          q'.slots[pr.current]? = some (if pr.pins.any (fun p => p.2 == pr.current) = true then .retired else .free)
      (pr.ordered = [id] → ∃ r, done r) ∧
      (pr.ordered = [y.id, id] → u.txn? y.id = some y → y.id ≠ id → y.ended = false → y.clr < 128 → (∃ sr rt st pc, y.src = .strand sr rt st pc) → holderOf y.src ≠ some h → ∃ r, done r ∧
        r.fab.ended = u.fab.ended ++ [{ src := y.src, status := .superseded, data := [] }] ∧ r.fget CM_CLR_COH_STAT.SUPERSEDED [y.clr] = saturate 16 (u.fget CM_CLR_COH_STAT.SUPERSEDED [y.clr] + 1))) ∧
    (u.lpState lp = 3 → u.pw.ingressStopped = false → lpClr u lp = clr → clr ≠ 0xFF → landingHeld u lp = false → queuedAt u.sched.held lp vcSnp = false → polOf u lp vcSnp = none →
      (u.coh.invals.find? (fun v => v.awaits.contains (.port lp, tag)) = none → exec (.invAck t lp clr tag) s = .next (settle (returnCredit lp vcSnp 1 u))) ∧
      (u.coh.invals.find? (fun v => v.awaits.contains (.port lp, tag)) = some v →
        (v.awaits = [(.port lp, tag)] → u.txn? v.txn = some x → ∃ r, exec (.invAck t lp clr tag) s = .next (settle (endTxn x .ok [] r)) ∧ ∀ z, z ∈ r.coh.invals ↔ z ∈ u.coh.invals ∧ z.txn ≠ v.txn) ∧
        ((∃ h, h ∈ v.awaits ∧ h ≠ (.port lp, tag)) → ∃ r, exec (.invAck t lp clr tag) s = .next (settle r) ∧ r.fab = u.fab ∧
          ∃ z, z ∈ r.coh.invals ∧ z.txn = v.txn ∧ ∀ h, h ∈ z.awaits ↔ h ∈ v.awaits ∧ h ≠ (.port lp, tag)))) ∧
    (u.coh.invals.find? (fun v => v.txn == id) = some v →
      (v.sentAt + invLimit u ≤ u.now → u.txn? v.txn = some x → (u.coh.subs.find? fun z => z.region == v.region).map Sub.clr = some clr → clr < 128 →
        ∃ r, exec (.invLimitExpiry t id) s = .next (settle (endTxn x .timeout [] r)) ∧ (∀ z, z ∈ r.coh.invals ↔ z ∈ u.coh.invals ∧ z.txn ≠ v.txn) ∧
          (∀ z, z ∈ u.coh.subs → z.region = v.region → z.who ∈ v.awaits.map Prod.fst → { z with lapsed := true } ∈ r.coh.subs) ∧
          r.fget CM_CLR_COH_STAT.LAPSED [clr] = saturate 16 (u.fget CM_CLR_COH_STAT.LAPSED [clr] + v.awaits.length)) ∧
      (u.now < v.sentAt + invLimit u → exec (.invLimitExpiry t id) s = .next u)) ∧
    (u.coh.seqOps.find? (fun o => !o.positioned && o.clr == c?) = some o → o.kind ≠ .commit → u.boot.seqRuns = true → ∃ r, exec (.sequencerAdmit t c?) s = .next (settle r) ∧
      r = { u with coh := { u.coh with seqOps := r.coh.seqOps } } ∧
      r.coh.seqOps = (u.coh.seqOps.filter fun z => z.id != o.id && z.positioned) ++ [{ o with positioned := true, at_ := u.pkg }] ++ (u.coh.seqOps.filter fun z => z.id != o.id && !z.positioned)) ∧
    (u.boot.seqRuns = false → exec (.sequencerAdmit t c?) s = .next u) ∧
    ((∀ z, u.coh.seqOps.head? = some z → z.positioned = false) → exec (.sequencerHold t) s = .next (settle u)) ∧
    (u.coh.seqOps.head? = some o → o.positioned = true →
      (o.kind = .inval id → u.txn? id = some x → x.id = id → x.kind = .invalidate count → (∀ z, z ∈ u.coh.subs → z.region ≠ x.region) → ∃ r, exec (.sequencerHold t) s = .next (settle (endTxn x .ok [] r)) ∧
        ∀ z, z ∈ r.coh.seqOps ↔ z ∈ u.coh.seqOps ∧ z.id ≠ o.id) ∧
      (o.kind = .publish id → u.txn? id = some x → u.pub? x.region = some pr → ∃ r, exec (.sequencerHold t) s = .next (settle r) ∧ r.pub? x.region = some { pr with ordered := pr.ordered ++ [id] } ∧
        ∀ z, z ∈ r.coh.seqOps ↔ z ∈ u.coh.seqOps ∧ z.id ≠ o.id))

/-- A coherent request of a port of another role ends with ACCESS_CLASS, of a port that is no member with DENIED, of a DOWN domain with DOMAIN_DOWN. EVICT without an entry or by the last holder ends OK with no entry left; a WB of the holder in M writes the line to the tray and frees the entry, and any other gets DENIED; UPG by the only holder makes M at once; a read of a line without an entry takes one and reads the tray; of a line that another holds it snoops that holder, to share for RD_S and to invalidate for RD_M. RspI drops a holder and RspS keeps it; without data on an M line the home waits for the WB; data goes to the request and to the tray. A missed snoop or retrain limit takes the domain DOWN: the member's M lines are poisoned. A reset starts only from DOWN; its sweep leaves poisoned lines only, and its end is UP. UNPOISON frees a poisoned line and writes it. A wait for a way ends at the T1 limit with TIMEOUT. -/
def Obligations.TheDirectoryServesCoherentRequests : Prop :=
  ∀ (s : State) (p : Prog) (t lp clr tag id d a l n : Nat) (q : PortReq) (line : Line) (w : Window) (g : Region) (dm : Domain) (e : DirEntry) (x : Txn) (sn : Snoop),
    let u := s.upTo t
    let ans (st : Status) (r : State) : Host.Outcome State Fault Refusal := .next (settle (endReq (.port q.lp q.tag) q.clr q.epoch (lpDie q.lp) st [] false r))
    let reach (need : Right) : Prop := regionTarget u q.req 64 need .coherent = .ok (w, a, g)
    let member (need : Right) : Prop := reach need ∧ portRole u.com.inForce q.lp = .agentCached ∧ domainRec u.com.inForce g.domain = some dm ∧ q.lp ∈ dm.members
    let up (need : Right) : Prop := member need ∧ domState u g.domain = 1 ∧ (g.domain, q.lp) ∉ u.coh.absent ∧ (∀ f, f ∈ u.fab.txns → f.1 < u.fab.nextTxn ∧ f.2.node ≠ w.pnode)
    let here : Prop := u.entry? w.pnode (a / 64) = some e ∧ e.node = w.pnode ∧ e.line = a / 64 ∧ e.busy = none ∧ e.evicting = false ∧ e.poisoned = false ∧ e.snoops = [] ∧ e.wbSince = none ∧
      ∀ f, f ∈ u.coh.dir → f.node = w.pnode → f.line = a / 64 → f = e
    let entry (r : State) : Option DirEntry := r.entry? w.pnode (a / 64)
    let mine (z : Txn) : Prop := z.id = u.fab.nextTxn ∧ z.src = .port q.lp q.tag ∧ z.node = w.pnode ∧ z.off = a
    let child (kind : TxnKind) (pos : Nat) (c : Instr) (f : State → Prop) : Prop := ∃ z r, exec c s = .next (settle (startTxn z r)) ∧ z.kind = kind ∧ z.src = .txn u.fab.nextTxn pos ∧ z.node = w.pnode ∧ z.off = a ∧ f r
    (Passes vcReq q u →
      (reach .r → portRole u.com.inForce q.lp ≠ .agentCached → ∃ r, exec (.rdS t q) s = ans .accessClass r ∧ exec (.evict t q) s = ans .accessClass r ∧ r.coh = u.coh) ∧
      (reach .r → portRole u.com.inForce q.lp = .agentCached → (∀ z, domainRec u.com.inForce g.domain = some z → q.lp ∉ z.members) → ∃ r, exec (.rdS t q) s = ans .denied r ∧ r.coh = u.coh) ∧
      (member .w → domState u g.domain ≠ 1 → ∃ r, exec (.rdM t q) s = ans .domainDown r ∧ exec (.upg t q) s = ans .domainDown r ∧ r.coh = u.coh) ∧
      (up .r → entry u = none → (∃ z r, exec (.evict t q) s = .next (settle (endTxn z .ok [] r)) ∧ mine z ∧ r.coh = u.coh)) ∧
      (up .r → here → e.holders = [q.lp] →
        (e.state ≠ .m → ∃ z r, exec (.evict t q) s = .next (settle (endTxn z .ok [] r)) ∧ mine z ∧ entry r = none) ∧
        (e.state = .m → ∃ z r, exec (.evict t q) s = .next (settle (endTxn z .denied [] r)) ∧ mine z ∧ r.coh = u.coh)) ∧
      (up .w → here → e.holders = [q.lp] → e.state ≠ .m → ∃ z r, exec (.upg t q) s = .next (settle (endTxn z .ok [] r)) ∧ mine z ∧
        entry r = some { e with state := .m, holders := [q.lp], usedAt := u.coh.dirSeq } ∧ r.coh.dirSeq = u.coh.dirSeq + 1) ∧
      (up .w → entry u = none → u.coh.dir = [] → child .load 0 (.rdM t q) fun r => ∃ f, entry r = some f ∧ f.busy = some u.fab.nextTxn ∧ f.holders = []) ∧
      (up .r → here → e.state = .s → child .load 0 (.rdS t q) fun r => entry r = some { e with busy := some u.fab.nextTxn, usedAt := u.coh.dirSeq }) ∧
      (here → e.holders = [l] → l ≠ q.lp → freeSnp u l = some n →
        let f (share : Bool) : DirEntry := { e with busy := some u.fab.nextTxn, usedAt := u.coh.dirSeq, snoops := [{ lp := l, tag := n, share := share, sentAt := u.now }] }
        (up .r → e.state ≠ .s → ∃ r die, exec (.rdS t q) s = .next (settle (cohAdvance u.fab.nextTxn (sendSnp die l w.clr 0 w.pnode (e.line * 64) n none r))) ∧ entry r = some (f true)) ∧
        (up .w → ∃ r die, exec (.rdM t q) s = .next (settle (cohAdvance u.fab.nextTxn (sendSnp die l w.clr 1 w.pnode (e.line * 64) n none r))) ∧ entry r = some (f false)))) ∧
    (Passes vcBulk q u → up .w → here → e.state = .m →
      (e.holders = [q.lp] → child (.store line) 1 (.wb t q line) fun r => entry r = none ∧ ∃ z, r.txn? u.fab.nextTxn = some z ∧ mine z ∧ z.phase = .sent ∧ z.parts = 1) ∧
      (q.lp ∉ e.holders → ∃ z r, exec (.wb t q line) s = .next (settle (endTxn z .denied [] r)) ∧ mine z ∧ r.coh = u.coh)) ∧
    (u.lpState lp = 3 → u.pw.ingressStopped = false → lpClr u lp = clr → clr ≠ 0xFF → landingHeld u lp = false → queuedAt u.sched.held lp vcSnp = false → polOf u lp vcSnp = none →
      (u.coh.dir.find? (fun e => e.snoops.any fun q => q.lp == lp && q.tag == tag) = none → ∃ r, exec (.rspI t lp clr tag) s = .next (settle r) ∧ exec (.rspS t lp clr tag) s = .next (settle r) ∧
        r.coh = { u.coh with lateSnps := r.coh.lateSnps } ∧ (lp, tag) ∉ r.coh.lateSnps) ∧
      (u.coh.dir.find? (fun e => e.snoops.any fun q => q.lp == lp && q.tag == tag) = some e → e.snoops = [sn] → e.busy = some x.id → u.txn? x.id = some x → e.evicting = false → e.wbSince = none →
        (e.state ≠ .m → (∃ r, exec (.rspI t lp clr tag) s = .next (settle r) ∧ r.entry? e.node e.line = some { e with snoops := [], holders := e.holders.filter (fun h => h != lp), state := .s }) ∧
          (∃ r, exec (.rspS t lp clr tag) s = .next (settle r) ∧ r.entry? e.node e.line = some { e with snoops := [], state := .s })) ∧
        (e.state = .m → lp ∈ e.holders → domState u e.domain = 1 → ∃ r, exec (.rspI t lp clr tag) s = .next (settle r) ∧ exec (.rspS t lp clr tag) s = .next (settle r) ∧
          r.entry? e.node e.line = some { e with snoops := [], wbSince := some u.now } ∧ r.txn? x.id = some { x with phase := .wbWait }) ∧
        (∃ z r, exec (.rspIData t lp clr tag line) s = .next (settle (startTxn z r)) ∧ z.kind = .store line ∧ z.src = .txn x.id 1 ∧ r.txn? x.id = some { x with got := [(0, lineBytes line)] } ∧
          r.entry? e.node e.line = some { e with snoops := [], holders := e.holders.filter (fun h => h != lp), state := .s }) ∧
        (∃ z r, exec (.rspSData t lp clr tag line) s = .next (settle (startTxn z r)) ∧ z.kind = .store line ∧ z.src = .txn x.id 1 ∧ r.txn? x.id = some { x with got := [(0, lineBytes line)] } ∧
          r.entry? e.node e.line = some { e with snoops := [], state := .s }))) ∧
    (u.txn? id = some x → x.id = id →
      (x.phase = .wayWait → x.ended = false → x.clr < 128 → x.issued + tierLimit u .t1 ≤ u.now → ∃ r, exec (.directoryWaitTimeout t id) s = .next (settle (endReq x.src x.clr x.epoch x.die .timeout [] false r)) ∧
        r.txn? id = none ∧ r.fget CM_CLR_TXN_ERR.TIMEOUT [x.clr] = saturate 16 (u.fget CM_CLR_TXN_ERR.TIMEOUT [x.clr] + 1)) ∧
      (u.now < x.issued + tierLimit u .t1 → exec (.directoryWaitTimeout t id) s = .next u)) ∧
    (∀ d lp, snoopOverdue u = some (d, lp) → exec (.snoopLimitExpiry t) s = .next (settle (domainDown d 2 lp none u))) ∧ (snoopOverdue u = none → exec (.snoopLimitExpiry t) s = .next u) ∧
    (∀ t0, (u.lport lp).kept = some t0 → u.com.inForce.domains = [dm] → lp ∈ dm.members → u.lpState lp ≠ 3 →
      (t0 + snoopLimit u ≤ u.now → exec (.memberRetrainLimit t lp) s = .next (settle (domainDown dm.domain 1 lp none u))) ∧
      (u.now < t0 + snoopLimit u → exec (.memberRetrainLimit t lp) s = .next u)) ∧
    (∀ cause, cause < 8 → d < 256 → lp < 512 → domState u d = 1 → ∃ r, domainDown d cause lp none u = domainEvent d (endDomain d (r.fab.txns.map Prod.fst) r) ∧ domState r d = 2 ∧ r.fget CM_DOM.CAUSE [d] = cause ∧
      r.fget CM_DOM.PORT [d] = lp ∧ (∀ f, f ∈ r.coh.dir → f.domain = d → (lp ∉ f.holders ∧ f.busy = none)) ∧
      ∀ f, f ∈ u.coh.dir → f.domain = d → f.state = .m → lp ∈ f.holders → ∃ h, h ∈ r.coh.dir ∧ h.node = f.node ∧ h.line = f.line ∧ h.poisoned = true ∧ h.holders = []) ∧
    (domState u d ≠ 1 → domainDown d 2 lp none u = u) ∧
    (d < 256 → p.privileged = true →
      (domState u d ≠ 2 → ∃ r, exec (.domainReset p t d) s = .next (settle r) ∧ r.fget CM_DOM.RESULT [d] = 2 ∧ domState r d = domState u d ∧ r.coh = u.coh ∧ r.out = .ctl .ok 0 :: u.out) ∧
      (domState u d = 2 → domainRec u.com.inForce d = some dm → (∀ f, f ∈ u.coh.dir → f.domain ≠ d) → ∃ r, exec (.domainReset p t d) s = .next (settle r) ∧ domState r d = 3 ∧
        r.coh.resets = u.coh.resets ++ [{ domain := d, t0 := u.now, sweeping := false }] ∧ (∀ m, m ∈ dm.members → u.lpState m ≠ 3 → (d, m) ∈ r.coh.absent)) ∧
      (n < 2 ^ 42 → l < 2 ^ 16 → u.coh.dir.find? (fun f => f.domain == d && f.poisoned && f.node == l && f.line == n) = some e → windowAt u.com.inForce ((domainRec u.com.inForce d).map Domain.clr |>.getD 0) l (n * 64) = some w →
        ∃ z r, exec (.unpoison p t d (l * 2 ^ 42 + n)) s = .next (settle ((startTxn z r).done .ok)) ∧ z.kind = .store [] ∧ z.node = l ∧ z.off = n * 64 ∧ r.entry? l n = none) ∧
      (n < 2 ^ 42 → l < 2 ^ 16 → u.coh.dir.find? (fun f => f.domain == d && f.poisoned && f.node == l && f.line == n) = none → ∃ r, exec (.unpoison p t d (l * 2 ^ 42 + n)) s = .next (settle r) ∧ r.coh = u.coh ∧
        r.out = .ctl .ok 0 :: u.out)) ∧
    (p.privileged = false → exec (.domainReset p t d) s = .next (settle { u with out := .ctl .denied 0 :: u.out }) ∧ exec (.unpoison p t d n) s = .next (settle { u with out := .ctl .denied 0 :: u.out })) ∧
    (d < 256 → (∃ r, r ∈ u.coh.resets ∧ r.domain = d ∧ r.sweeping = false ∧ r.t0 + snoopLimit u ≤ u.now) → ∃ r, exec (.domainResetPoison t d) s = .next (settle r) ∧
      (∀ f, f ∈ r.coh.dir → f.domain = d → f.poisoned = true ∧ f.snoops = []) ∧ (∀ f, f ∈ u.coh.dir → f.domain = d → f.state = .m → f.holders ≠ [] → ∃ h, h ∈ r.coh.dir ∧ h.node = f.node ∧ h.line = f.line ∧ h.poisoned = true) ∧
      (∀ z, z ∈ r.coh.resets → z.domain = d → z.sweeping = true) ∧ r.fget CM_DOM.POISONED [d] = saturate 32 (r.coh.dir.filter fun f => f.domain == d && f.poisoned).length) ∧
    ((∀ r, r ∈ u.coh.resets → r.domain ≠ d) → exec (.domainResetPoison t d) s = .next u ∧ exec (.domainResetDone t d) s = .next u) ∧
    (d < 256 → (∃ r, r ∈ u.coh.resets ∧ r.domain = d ∧ r.sweeping = true) → ∃ r, exec (.domainResetDone t d) s = .next (settle r) ∧ domState r d = 1 ∧ r.fget CM_DOM.RESULT [d] = 1 ∧ ∀ z, z ∈ r.coh.resets → z.domain ≠ d)

/-- On its arrival a cell ahead of its flow's next sequence is held, one 4,096 or more away is counted late, and the next in sequence is released, so that the sequence advances and a notice goes back. A notice frees its cell at the ingress die; 2 µs of timer time without an advance skips the gap, counted, with a skip notice; that ends what the skipped cells carried with SERVICE_INTERRUPTED. A failed wire holds its edge in REPAIR from 0.2 µs before; entries that use it are skipped with the gap timers suspended; a spare wire is used up and counted, or the edge goes DOWN with its cells lost; the held cells go, the edge is UP and the timers resume. A hop replay is counted. An edge that is not UP, is held, or whose core is frozen starts no cell; in a slot of a sealed clearing only that clearing's cell starts. A refused cell enters when admission takes it, and the head of an overflow returns to its queue. At the wheel boundary after an epoch the modes and slots are those of the map. -/
def Obligations.TheMeshCarriesCellsInOrder : Prop :=
  ∀ (s : State) (t g e sdie ddie c vc lp cls id n : Nat) (rd : CellRead) (m : MeshCell) (rest : List MeshCell) (x : Cell) (y : Txn),
    let u := s.upTo t
    let k := flowKey sdie ddie c vc
    let f := u.flow k
    let ed (r : State) : EdgeDir := r.edge g e
    let out (r : State) : Nat := r.fget FW_EDGE_STATUS.OUT [g, e]
    let far := [farDie g e, backEdge e]
    let inn (r : State) : Nat := r.fget FW_EDGE_STATUS.IN far
    let mf := u.flow m.flow
    let dist := (m.cell.seq + 65536 - mf.exp) % 65536
    (g < 8 → e < 4 →
      (∃ r, exec (.meshHopReplay t g e) s = .next r ∧ r = { u with ctl := r.ctl, mgmt := r.mgmt } ∧ OtherWords [CW.addr .FW_EDGE_STATUS [g, e]] u r ∧
        r.fget FW_EDGE_STATUS.CRC_RETRY [g, e] = saturate 32 (u.fget FW_EDGE_STATUS.CRC_RETRY [g, e] + 1)) ∧
      (out u = 0 → ∃ r, exec (.meshWireFail t g e) s = .next r ∧ out r = 1 ∧ inn r = 1 ∧ ed r = { ed u with failAt := some (u.now - 200), holding := true }) ∧
      (out u ≠ 0 → exec (.meshWireFail t g e) s = .next u) ∧
      ((ed u).holding = true → ∃ r, exec (.meshSpraySuspend t g e) s = .next r ∧ ed r = { ed u with skipped := true } ∧ r.fwd.gapSusp = some (u.fwd.gapSusp.getD u.now)) ∧
      ((ed u).holding = false → exec (.meshSpraySuspend t g e) s = .next u ∧ exec (.meshSpareWireTrained t g e) s = .next u) ∧
      ((ed u).holding = true →
        (0 < u.fget FW_EDGE_STATUS.SPARES far → ∃ r, exec (.meshSpareWireTrained t g e) s = .next r ∧ r.fget FW_EDGE_STATUS.SPARES far + 1 = u.fget FW_EDGE_STATUS.SPARES far ∧
          r.fget FW_CNT_MESH.EDGE_REPAIR [g] = saturate 16 (u.fget FW_CNT_MESH.EDGE_REPAIR [g] + 1) ∧ out r = out u ∧ r.fwd = u.fwd) ∧
        (u.fget FW_EDGE_STATUS.SPARES far = 0 → ∃ r, exec (.meshSpareWireTrained t g e) s = .next r ∧ out r = 2 ∧ inn r = 2 ∧ (ed r).flying = [] ∧ (ed r).holding = false)) ∧
      (out u = 1 → (∃ r, exec (.meshHeldResend t g e) s = .next r ∧ ed r = { ed u with holding := false } ∧ out r = 1) ∧
        (∃ r, exec (.meshEdgeUp t g e) s = .next r ∧ out r = 0 ∧ inn r = 0 ∧ ed r = { ed u with holding := false, skipped := false })) ∧
      (out u ≠ 1 → exec (.meshHeldResend t g e) s = .next u ∧ exec (.meshEdgeUp t g e) s = .next u) ∧
      (∃ r, exec (.gapTimerResume t g e) s = .next r ∧ ed r = { ed u with failAt := none } ∧
        (∀ t0, u.fwd.gapSusp = some t0 → (∀ d, d ∈ r.fwd.edges → d.2.failAt = none ∨ d.2.skipped = false) → (∀ k, k < 8 → coreFrozen u k = false) → r.fwd.gapSusp = none ∧ r.fwd.gapLost = u.fwd.gapLost + (u.now - t0)) ∧
        ((∃ k, k < 8 ∧ coreFrozen u k = true) → r.fwd.gapSusp = u.fwd.gapSusp)) ∧
      ((out u ≠ 0 ∨ (ed u).holding = true) → exec (.meshCellArrive t g e) s = .next (settle u)) ∧
      ((out u ≠ 0 ∨ (ed u).holding = true ∨ coreFrozen u g = true) → exec (.meshEdgeSelect t g e rd) s = .next (settle u)) ∧
      (out u = 0 → (ed u).holding = false → coreFrozen u g = false → slotOwner u g (wheelSlot u) = some c →
        (clrPick u g e c = none → exec (.meshEdgeSelect t g e rd) s = .next (settle u)) ∧
        (∀ p, clrPick u g e c = some p → 25 * (20 - u.pkg % 20) < p.units → exec (.meshEdgeSelect t g e rd) s = .next (settle u)) ∧
        (∀ i, clrPick u g e c = some (.transit n i m) → m.cell.units ≤ 25 * (20 - u.pkg % 20) → ∃ r, exec (.meshEdgeSelect t g e rd) s = .next (settle r) ∧
          (ed r).flying = (ed u).flying ++ [{ m with hop2 := none }] ∧ SMap.get EdgeDir.reset r.fwd.edges n = { SMap.get EdgeDir.reset u.fwd.edges n with flying := (SMap.get EdgeDir.reset u.fwd.edges n).flying.eraseIdx i })) ∧
      (out u = 0 → (ed u).holding = false → (ed u).flying = m :: rest → m.hop2 = none →
        (4096 ≤ dist → m.cell.ddie < 8 → ∃ r, exec (.meshCellArrive t g e) s = .next (settle r) ∧ (ed r).flying = rest ∧ r.flow m.flow = mf ∧
          r.fget FW_CNT_MESH.LATE_CELL [m.cell.ddie] = saturate 16 (u.fget FW_CNT_MESH.LATE_CELL [m.cell.ddie] + 1)) ∧
        (0 < dist → dist < 4096 → mf.exp < 65536 → ∃ r, exec (.meshCellArrive t g e) s = .next (settle r) ∧ (ed r).flying = rest ∧
          r.flow m.flow = { mf with held := mf.held ++ [m.cell], since := some (mf.since.getD (timerTime u)) }) ∧
        (m.cell.seq = mf.exp → mf.exp < 65536 → m.cell.void = true → mf.held = [] → ∃ r, exec (.meshCellArrive t g e) s = .next (settle r) ∧ (ed r).flying = rest ∧
          r.flow m.flow = { mf with exp := (mf.exp + 1) % 65536, notices := mf.notices ++ [mf.exp], held := [], since := none }))) ∧
    (∀ q qs, f.notices = q :: qs → ∃ r, exec (.releaseNotice t sdie ddie c vc) s = .next (settle r) ∧ r.flow k = { f with notices := qs, sent := f.sent.filter fun z => z.1 != q }) ∧
    (f.notices = [] → exec (.releaseNotice t sdie ddie c vc) s = .next (settle u)) ∧
    (f.skips = [] → exec (.skipNotice t sdie ddie c vc) s = .next (settle u)) ∧
    (∀ a qs, f.skips = (a, 1) :: qs → f.sent = [(a, x)] → a < 65536 → x.txn = some id → x.mcg = 0 → x.vc = vcReq → u.txn? id = some y →
      ∃ r, exec (.skipNotice t sdie ddie c vc) s = .next (settle (endTxn y .serviceInterrupted [] r)) ∧ r.flow k = { f with skips := qs, sent := [] }) ∧
    ((u.fwd.gapSusp.isSome = true ∨ f.since = none) → exec (.gapTimeout t sdie ddie c vc) s = .next (settle u)) ∧
    (∀ t0, u.fwd.gapSusp = none → f.since = some t0 →
      (timerTime u - t0 < 2000 → exec (.gapTimeout t sdie ddie c vc) s = .next (settle u)) ∧
      (2000 ≤ timerTime u - t0 → f.held = [x] → x.void = true → ddie < 8 → f.exp < 65536 → x.seq < 65536 →
        let n := (x.seq + 65536 - f.exp) % 65536
        ∃ r, exec (.gapTimeout t sdie ddie c vc) s = .next (settle r) ∧ r.fget FW_CNT_MESH.GAP_SKIP [ddie] = saturate 16 (u.fget FW_CNT_MESH.GAP_SKIP [ddie] + n) ∧
          r.flow k = { f with exp := (x.seq + 1) % 65536, skips := f.skips ++ [(f.exp, n)], notices := f.notices ++ [x.seq], held := [], since := none })) ∧
    ((u.egQ lp cls).ovf = [] → exec (.overflowRefill t lp cls) s = .next (settle u)) ∧
    (∀ xs ch, (u.egQ lp cls).ovf = x :: xs → lowChannel u.com.inForce (lpDie lp) x.clr = some ch →
      let adm := admitCharge u (lpDie lp) x.clr x.vc (classAlpha u (lpDie lp) x.clr x.cls) (qUnits (u.egQ lp cls).cells) x.units
      ((understoryFrozen u (ch / 32) = true ∨ adm = none) → exec (.overflowRefill t lp cls) s = .next (settle u)) ∧
      (∀ charge, understoryFrozen u (ch / 32) = false → adm = some charge → ∃ r, exec (.overflowRefill t lp cls) s = .next (settle r) ∧
        r.egQ lp cls = { cells := (u.egQ lp cls).cells ++ [{ cell := x, charge := charge }], ovf := xs })) ∧
    (u.fwd.refused = [] → exec (.cellAdmitRetry t g c) s = .next (settle u)) ∧
    (u.fwd.refused = [(g, x)] → x.clr = c → x.ddie = g → x.sdie ≠ g →
      (∀ r, admitEgress x.dest x { u with fwd := { u.fwd with refused := [] } } = some r → exec (.cellAdmitRetry t g c) s = .next (settle r)) ∧
      (admitEgress x.dest x { u with fwd := { u.fwd with refused := [] } } = none → exec (.cellAdmitRetry t g c) s = .next (settle u))) ∧
    (u.fwd.refused = [(g, x)] → x.clr ≠ c → exec (.cellAdmitRetry t g c) s = .next (settle u)) ∧
    (u.fwd.meshOwed = false → exec (.meshWheelBoundary t) s = .next u) ∧
    (u.fwd.meshOwed = true → ∃ r, exec (.meshWheelBoundary t) s = .next r ∧ r.fwd = { u.fwd with meshOwed := false } ∧
      ∀ g c, g < 8 → c < 128 → r.fget SC_MESH.MODE [g, c] = boolNat ((sealedClrs u.com.inForce).contains c) ∧ (c ∉ sealedClrs u.com.inForce → r.fget SC_MESH.SLOTS [g, c] = 0))

/-- A port that cannot start a transaction selects nothing. An eligible STRICT class above every other is selected, whatever waits below it. Each 1,000 ns of package time every shaper gains its rate up to its burst, and settings written since take effect then and not before: until then the written ones are PENDING and the old ones in force. COMMIT of a list that is pending reads BUSY, of a bad list BAD, and else switches at the first grid instant 10 µs or more away; CANCEL takes a pending switch back; at TS the shadow list and its count take over. When an entry ends, the grid's entry is in force and each class's GATE is its bit. A trail ring whose EN rises starts at index 0. A program that the words are not opened to gets DENIED. -/
def Obligations.TheEgressSchedulerKeepsItsSettings : Prop :=
  ∀ (s : State) (p : Prog) (t lp k g c n : Nat) (v : Word) (rd : CellRead),
    let u := s.upTo t
    let denied : Host.Outcome State Fault Refusal := .next (settle { u with out := .ctl .denied 0 :: u.out })
    let did (r : State) : Prop := r.out = .ctl .ok 0 :: u.out
    let ctrl (f : Fld) (r : State) : Nat := r.fget f (scIx lp)
    (portStarts u lp = false → exec (.egressSelect t lp rd) s = .next (settle u)) ∧
    (portStarts u lp = true → (∀ z, (selectClass lp u).1 = some z → exec (.egressSelect t lp rd) s = .next (settle (egressSend lp z rd (selectClass lp u).2))) ∧
      ((selectClass lp u).1 = none → exec (.egressSelect t lp rd) s = .next (settle (selectClass lp u).2))) ∧
    (k < 16 → isStrict u lp k = true → headEligible u lp k = true → (∀ j, k < j → j < 16 → isStrict u lp j = false ∨ headEligible u lp j = false) → (selectClass lp u).1 = some k) ∧
    (∀ x xs, (u.egQ lp k).cells = x :: xs → x.cell.mcg = 0 → (∀ w, w.ecc = u.ecc → w.draws = u.draws → (readCell (lpDie lp) rd w).1 = false) → ((egressSend lp k rd u).egQ lp k) = { u.egQ lp k with cells := xs } ∧
      SMap.get 0 ((egressSend lp k rd u).lport lp).credits x.cell.vc = SMap.get 0 (u.lport lp).credits x.cell.vc - x.cell.nslot) ∧
    (u.pkg / 1000 = u.sched.refill → exec (.shaperRefill t) s = .next u) ∧
    (u.pkg / 1000 ≠ u.sched.refill → u.sched.held = [] → ∃ r, exec (.shaperRefill t) s = .next (settle r) ∧ r.sched.refill = u.pkg / 1000 ∧ ∀ lp k, lp < 512 → k < 17 →
      shaperTokens r lp k = refilled (shaperNow u lp k) (shaperWords u lp k) (shaperTokens u lp k) % 2 ^ 24 ∧ shaperNow r lp k = shaperWords u lp k ∧ SMap.get? r.sched.oldShapers (shaperKey lp k) = none) ∧
    (p.privileged = true → lp < 512 → k ≤ 16 → ∃ r, exec (.shaperWrite p t lp k v) s = .next (settle r) ∧ did r ∧ shaperNow r lp k = shaperNow u lp k ∧
      (k < 16 → r.fget SC_CLASS_CFG.RATE (clsIx lp k) = bitsOf v 45 28 ∧ r.fget SC_CLASS_CFG.BURST (clsIx lp k) = bitsOf v 27 4 ∧ r.fget SC_CLASS_CFG.MODE (clsIx lp k) = bitsOf v 63 63 ∧
        r.fget SC_CLASS_CFG.PENDING (clsIx lp k) = 1) ∧
      (k = 16 → r.fget SC_SCHED.PRATE (scIx lp) = bitsOf v 54 37 ∧ r.fget SC_SCHED.PBURST (scIx lp) = bitsOf v 36 13 ∧ r.fget SC_SCHED.PENDING (scIx lp) = 1)) ∧
    (p.privileged = true → g < 8 → c < 128 → n < 15 → ∃ r, exec (.policerWrite p t g c n v) s = .next (settle r) ∧ did r ∧ polNow r ((128 * g + c) * 16 + n) = polNow u ((128 * g + c) * 16 + n) ∧
      r.fget SC_POL_CFG.MODE [g, c, n] = bitsOf v 63 62 ∧ r.fget SC_POL_CFG.RATE [g, c, n] = bitsOf v 61 44 ∧ r.fget SC_POL_CFG.BURST [g, c, n] = bitsOf v 43 20 ∧ r.fget SC_POL_CFG.PENDING [g, c, n] = 1) ∧
    (p.privileged = true → lp < 512 →
      (ctrl SC_GATE_CTRL.PENDING u = 1 → (∃ r, exec (.gateCommit p t lp) s = .next (settle r) ∧ did r ∧ ctrl SC_GATE_CTRL.RESULT r = 3 ∧ r.sched = u.sched) ∧
        (∃ r, exec (.gateCancel p t lp) s = .next (settle r) ∧ did r ∧ ctrl SC_GATE_CTRL.PENDING r = 0 ∧ ctrl SC_GATE_CTRL.RESULT r = 4 ∧ (r.schedPort lp).switchAt = none)) ∧
      (ctrl SC_GATE_CTRL.PENDING u = 0 →
        let bad : Prop := ctrl SC_GATE_CTRL.COUNT u = 0 ∨ 1024 < ctrl SC_GATE_CTRL.COUNT u ∨ ctrl SC_GATE_CYCLE.CYCLE u < 1000
        (bad → ∃ r, exec (.gateCommit p t lp) s = .next (settle r) ∧ did r ∧ ctrl SC_GATE_CTRL.RESULT r = 2 ∧ r.sched = u.sched) ∧
        (¬ bad → ∃ r ts, exec (.gateCommit p t lp) s = .next (settle r) ∧ did r ∧ ctrl SC_GATE_CTRL.PENDING r = 1 ∧ (r.schedPort lp).switchAt = some ts ∧ u.pkg + 10000 ≤ ts ∧
          ctrl SC_GATE_BASE.BASE u ≤ ts ∧ (ts - ctrl SC_GATE_BASE.BASE u) % ctrl SC_GATE_CYCLE.CYCLE u = 0 ∧ (ctrl SC_GATE_BASE.BASE u < u.pkg + 10000 → ts < u.pkg + 10000 + ctrl SC_GATE_CYCLE.CYCLE u)) ∧
        (∃ r, exec (.gateCancel p t lp) s = .next (settle r) ∧ did r ∧ ctrl SC_GATE_CTRL.RESULT r = ctrl SC_GATE_CTRL.RESULT u ∧ r.sched = u.sched))) ∧
    (lp < 512 →
      (∀ ts, (u.schedPort lp).switchAt = some ts →
        (ts ≤ u.pkg → ∃ r, exec (.gateSwitch t lp) s = .next (settle r) ∧ ctrl SC_GATE_CTRL.ACTIVE r = 1 - ctrl SC_GATE_CTRL.ACTIVE u ∧ ctrl SC_GATE_CTRL.ACOUNT r = ctrl SC_GATE_CTRL.COUNT u ∧
          ctrl SC_GATE_CTRL.PENDING r = 0 ∧ ctrl SC_GATE_CTRL.RESULT r = 1 ∧ ctrl SC_GATE_TS.TS r = ts % 2 ^ 64 ∧ r.schedPort lp = { u.schedPort lp with switchAt := none, cycle := (u.schedPort lp).pendCycle }) ∧
        (u.pkg < ts → exec (.gateSwitch t lp) s = .next u)) ∧
      ((u.schedPort lp).switchAt = none → exec (.gateSwitch t lp) s = .next u) ∧
      (∃ r, exec (.gateEntryEnd t lp) s = .next (settle r) ∧ ctrl SC_GATE_CTRL.INDEX r = entryAt u lp (gateList u lp) (gatePhase u lp) (ctrl SC_GATE_CTRL.ACOUNT u) 0 0 % 2 ^ 11 ∧
        ∀ k, k < 16 → r.fget SC_CLASS_STATE.GATE (clsIx lp k) = boolNat (gateReads r lp k))) ∧
    (p.privileged = true → g < 8 → c ≤ 128 →
      let cfg : CW := if c = 128 then .FW_TRAILFM_CFG else .FW_TRAIL_CFG
      let idx : CW := if c = 128 then .FW_TRAILFM_IDX else .FW_TRAIL_IDX
      let ix := if c = 128 then [g] else [g, c]
      ∃ r, exec (.trailCfgWrite p t g c v) s = .next (settle r) ∧ did r ∧ bitsOf (r.word cfg ix) 63 9 = bitsOf v 63 9 ∧
        (bitsOf (u.word cfg ix) 63 63 = 0 → bitsOf v 63 63 = 1 → r.word idx ix = 0) ∧
        (bitsOf (u.word cfg ix) 63 63 = bitsOf v 63 63 → bitsOf (u.word cfg ix) 61 56 = bitsOf v 61 56 → r.word idx ix = u.word idx ix)) ∧
    (opened u p .lport (scIx lp) = false → exec (.gateCommit p t lp) s = denied ∧ exec (.gateCancel p t lp) s = denied ∧ exec (.shaperWrite p t lp 16 v) s = denied ∧ exec (.shaperWrite p t lp 3 v) s = denied) ∧
    (opened u p .clr1 [g, c] = false → exec (.policerWrite p t g c n v) s = denied ∧ (c ≠ 128 → exec (.trailCfgWrite p t g c v) s = denied))
end

