-- ==== Sys2Proof/Laws/Store.lean ====
section
/-! SUPPORT. The laws of the sparse maps and byte stores: a read after a write, and that every operation keeps the canonical form. -/

namespace Sys2Proof.Machine

variable {α : Type}

theorem SMap.sorted_cons (e : Nat × α) (m : SMap α) : SMap.sorted (e :: m) = true ↔ (∀ x ∈ m, e.1 < x.1) ∧ SMap.sorted m = true := by
  induction m generalizing e with
  | nil => simp [SMap.sorted]
  | cons x m ih =>
    obtain ⟨a, v⟩ := e
    obtain ⟨b, w⟩ := x
    simp only [SMap.sorted, Bool.and_eq_true, decide_eq_true_eq, List.mem_cons, forall_eq_or_imp]
    constructor
    · rintro ⟨hab, h⟩
      exact ⟨⟨hab, fun x hx => lt_trans hab (((ih _).1 h).1 x hx)⟩, h⟩
    · rintro ⟨⟨hab, -⟩, h⟩
      exact ⟨hab, h⟩

theorem SMap.mem_erase {m : SMap α} {a : Nat} {x : Nat × α} : x ∈ SMap.erase m a ↔ x ∈ m ∧ x.1 ≠ a := by
  induction m with
  | nil => simp [SMap.erase]
  | cons e m ih =>
    obtain ⟨k, v⟩ := e
    unfold SMap.erase
    split
    · rename_i h
      subst h
      rw [ih]
      constructor
      · rintro ⟨h1, h2⟩
        exact ⟨List.mem_cons_of_mem _ h1, h2⟩
      · rintro ⟨h1, h2⟩
        rcases List.mem_cons.1 h1 with rfl | h1
        · exact absurd rfl h2
        · exact ⟨h1, h2⟩
    · rename_i h
      rw [List.mem_cons, List.mem_cons, ih]
      constructor
      · rintro (rfl | ⟨h1, h2⟩)
        · exact ⟨.inl rfl, h⟩
        · exact ⟨.inr h1, h2⟩
      · rintro ⟨rfl | h1, h2⟩
        · exact .inl rfl
        · exact .inr ⟨h1, h2⟩

theorem SMap.mem_insert {m : SMap α} {a : Nat} {v : α} {x : Nat × α} : x ∈ SMap.insert m a v ↔ x = (a, v) ∨ x ∈ m := by
  induction m with
  | nil => simp [SMap.insert]
  | cons e m ih =>
    obtain ⟨k, w⟩ := e
    unfold SMap.insert
    split
    · simp
    · rw [List.mem_cons, ih, List.mem_cons]
      tauto

theorem SMap.sorted_erase {m : SMap α} (h : SMap.sorted m = true) (a : Nat) : SMap.sorted (SMap.erase m a) = true := by
  induction m with
  | nil => rfl
  | cons e m ih =>
    obtain ⟨k, v⟩ := e
    have h' := (SMap.sorted_cons _ _).1 h
    unfold SMap.erase
    split
    · exact ih h'.2
    · exact (SMap.sorted_cons _ _).2 ⟨fun x hx => h'.1 x (SMap.mem_erase.1 hx).1, ih h'.2⟩

/-- An entry put at a number that is not listed keeps the order. -/
theorem SMap.sorted_insert {m : SMap α} (h : SMap.sorted m = true) {a : Nat} (ha : ∀ x ∈ m, x.1 ≠ a) (v : α) : SMap.sorted (SMap.insert m a v) = true := by
  induction m with
  | nil => rfl
  | cons e m ih =>
    obtain ⟨k, w⟩ := e
    have h' := (SMap.sorted_cons _ _).1 h
    unfold SMap.insert
    split
    · rename_i hk
      refine (SMap.sorted_cons _ _).2 ⟨fun x hx => ?_, h⟩
      rcases List.mem_cons.1 hx with rfl | hx
      · exact hk
      · exact lt_trans hk (h'.1 x hx)
    · rename_i hk
      have hne : k ≠ a := ha (k, w) (List.mem_cons_self ..)
      refine (SMap.sorted_cons _ _).2 ⟨fun x hx => ?_, ih h'.2 fun x hx => ha x (List.mem_cons_of_mem _ hx)⟩
      rcases SMap.mem_insert.1 hx with rfl | hx
      · show k < a
        omega
      · exact h'.1 x hx

theorem SMap.sorted_put {m : SMap α} (h : SMap.sorted m = true) (a : Nat) (v : α) : SMap.sorted (SMap.put m a v) = true :=
  SMap.sorted_insert (SMap.sorted_erase h a) (fun _ hx => (SMap.mem_erase.1 hx).2) v

theorem SMap.sorted_set [DecidableEq α] (d : α) {m : SMap α} (h : SMap.sorted m = true) (a : Nat) (v : α) : SMap.sorted (SMap.set d m a v) = true := by
  unfold SMap.set
  split
  · exact SMap.sorted_erase h a
  · exact SMap.sorted_put h a v

theorem SMap.sorted_filter {m : SMap α} (h : SMap.sorted m = true) (p : Nat × α → Bool) : SMap.sorted (m.filter p) = true := by
  induction m with
  | nil => rfl
  | cons e m ih =>
    have h' := (SMap.sorted_cons _ _).1 h
    rw [List.filter_cons]
    split
    · exact (SMap.sorted_cons _ _).2 ⟨fun x hx => h'.1 x (List.mem_filter.1 hx).1, ih h'.2⟩
    · exact ih h'.2

theorem SMap.sorted_keep {m : SMap α} (h : SMap.sorted m = true) (p : Nat → α → Bool) : SMap.sorted (SMap.keep p m) = true := SMap.sorted_filter h _

/-! Reads after writes. -/

theorem SMap.get_erase (d : α) (m : SMap α) (a b : Nat) : SMap.get d (SMap.erase m a) b = if a = b then d else SMap.get d m b := by
  induction m with
  | nil => simp [SMap.erase, SMap.get]
  | cons e m ih =>
    obtain ⟨k, v⟩ := e
    unfold SMap.erase
    by_cases hk : k = a
    · rw [if_pos hk, ih]
      by_cases hb : a = b
      · simp [hb]
      · have : k ≠ b := fun h => hb (hk ▸ h)
        simp [hb, SMap.get, this]
    · rw [if_neg hk]
      by_cases hb : k = b
      · have : a ≠ b := fun h => hk (hb.trans h.symm)
        simp [SMap.get, hb, this]
      · simp [SMap.get, hb, ih]

theorem SMap.get_insert (d : α) {m : SMap α} {a : Nat} (ha : ∀ x ∈ m, x.1 ≠ a) (v : α) (b : Nat) :
    SMap.get d (SMap.insert m a v) b = if a = b then v else SMap.get d m b := by
  induction m with
  | nil => simp [SMap.insert, SMap.get]
  | cons e m ih =>
    obtain ⟨k, w⟩ := e
    have hne : k ≠ a := ha (k, w) (List.mem_cons_self ..)
    unfold SMap.insert
    split
    · simp [SMap.get]
    · by_cases hb : k = b
      · have : a ≠ b := fun h => hne (hb.trans h.symm)
        simp [SMap.get, hb, this]
      · simp [SMap.get, hb, ih fun x hx => ha x (List.mem_cons_of_mem _ hx)]

theorem SMap.get_put (d : α) (m : SMap α) (a : Nat) (v : α) (b : Nat) : SMap.get d (SMap.put m a v) b = if a = b then v else SMap.get d m b := by
  unfold SMap.put
  rw [SMap.get_insert d (fun x hx => (SMap.mem_erase.1 hx).2), SMap.get_erase]
  split <;> rfl

/-- A read after a store: the stored value at its number, and every other number as before. -/
theorem SMap.get_set [DecidableEq α] (d : α) (m : SMap α) (a : Nat) (v : α) (b : Nat) : SMap.get d (SMap.set d m a v) b = if a = b then v else SMap.get d m b := by
  unfold SMap.set
  split
  · rename_i h
    rw [SMap.get_erase, h]
  · exact SMap.get_put d m a v b

@[simp] theorem SMap.get_set_self [DecidableEq α] (d : α) (m : SMap α) (a : Nat) (v : α) : SMap.get d (SMap.set d m a v) a = v := by simp [SMap.get_set]

@[simp] theorem SMap.get_put_self (d : α) (m : SMap α) (a : Nat) (v : α) : SMap.get d (SMap.put m a v) a = v := by simp [SMap.get_put]

/-! The canonical form. -/

theorem SMap.wf_iff [DecidableEq α] (d : α) (m : SMap α) : SMap.wf d m = true ↔ SMap.sorted m = true ∧ ∀ e ∈ m, e.2 ≠ d := by
  simp [SMap.wf]

theorem SMap.wf_set [DecidableEq α] (d : α) {m : SMap α} (h : SMap.wf d m = true) (a : Nat) (v : α) : SMap.wf d (SMap.set d m a v) = true := by
  rw [SMap.wf_iff] at h ⊢
  refine ⟨SMap.sorted_set d h.1 a v, fun e he => ?_⟩
  unfold SMap.set at he
  split at he
  · exact h.2 e (SMap.mem_erase.1 he).1
  · rename_i hv
    rcases SMap.mem_insert.1 he with rfl | he
    · exact hv
    · exact h.2 e (SMap.mem_erase.1 he).1

theorem SMap.wf_keep [DecidableEq α] (d : α) {m : SMap α} (h : SMap.wf d m = true) (p : Nat → α → Bool) : SMap.wf d (SMap.keep p m) = true := by
  rw [SMap.wf_iff] at h ⊢
  exact ⟨SMap.sorted_keep h.1 p, fun e he => h.2 e (List.mem_filter.1 he).1⟩

/-- Writing bytes keeps the canonical form of a store. -/
theorem writeBytes_wf {m : Store} (h : SMap.wf 0 m = true) (a : Nat) (bs : List Byte) : SMap.wf 0 (writeBytes m a bs) = true := by
  induction bs generalizing m a with
  | nil => exact h
  | cons b bs ih => exact ih (SMap.wf_set 0 h a b) (a + 1)

/-- A byte outside the written range reads as before. -/
theorem get_writeBytes_of_lt (m : Store) (a : Nat) (bs : List Byte) {b : Nat} (hb : b < a ∨ a + bs.length ≤ b) :
    SMap.get 0 (writeBytes m a bs) b = SMap.get 0 m b := by
  induction bs generalizing m a with
  | nil => rfl
  | cons x bs ih =>
    rw [List.length_cons] at hb
    rw [writeBytes, ih _ _ (by omega), SMap.get_set, if_neg (by omega)]

/-- A byte of the written range reads what was written there. -/
theorem get_writeBytes (m : Store) (a : Nat) (bs : List Byte) {i : Nat} (hi : i < bs.length) : SMap.get 0 (writeBytes m a bs) (a + i) = bs[i] := by
  induction bs generalizing m a i with
  | nil => simp at hi
  | cons x bs ih =>
    cases i with
    | zero => rw [writeBytes, get_writeBytes_of_lt _ _ _ (by omega)]; simp
    | succ i =>
      have := ih (SMap.set 0 m a x) (a + 1) (i := i) (by simpa using hi)
      rw [writeBytes, show a + (i + 1) = a + 1 + i by omega, this]
      rfl

/-- What is read back after a write of as many bytes is what was written. -/
theorem readBytes_writeBytes (m : Store) (a : Nat) (bs : List Byte) : readBytes (writeBytes m a bs) a bs.length = bs := by
  induction bs generalizing m a with
  | nil => rfl
  | cons x bs ih =>
    rw [List.length_cons, readBytes, writeBytes, ih, get_writeBytes_of_lt _ _ _ (by omega), SMap.get_set_self]

end Sys2Proof.Machine
end

