-- ==== Sys2Proof/Laws/State.lean ====
section
/-! SUPPORT. What the named updates of the state leave alone, and what a field reads after a field is set. -/

namespace Sys2Proof.Machine

/-- States with the same fields are the same. -/
theorem State.ext {s r : State} (h0 : s.pending = r.pending) (h1 : s.now = r.now) (h2 : s.pkgRuns = r.pkgRuns) (h3 : s.pkg = r.pkg) (h4 : s.draws = r.draws) (h5 : s.ctl = r.ctl) (h6 : s.out = r.out) (h7 : s.pw = r.pw) (h8 : s.boot = r.boot) (h9 : s.link = r.link) (h10 : s.fab = r.fab) (h11 : s.coh = r.coh) (h12 : s.fwd = r.fwd) (h13 : s.sched = r.sched) (h14 : s.nx = r.nx) (h15 : s.svc = r.svc) (h16 : s.clr = r.clr) (h17 : s.com = r.com) (h18 : s.ecc = r.ecc) (h19 : s.mgmt = r.mgmt) : s = r := by
  cases s; cases r; simp only at *; subst_vars; rfl

@[simp] theorem State.setWord_pending (s : State) (w : CW) (ix : List Nat) (v : Word) : (s.setWord w ix v).pending = s.pending := by unfold State.setWord; split <;> rfl
@[simp] theorem State.setWord_now (s : State) (w : CW) (ix : List Nat) (v : Word) : (s.setWord w ix v).now = s.now := by unfold State.setWord; split <;> rfl
@[simp] theorem State.setWord_pkgRuns (s : State) (w : CW) (ix : List Nat) (v : Word) : (s.setWord w ix v).pkgRuns = s.pkgRuns := by unfold State.setWord; split <;> rfl
@[simp] theorem State.setWord_pkg (s : State) (w : CW) (ix : List Nat) (v : Word) : (s.setWord w ix v).pkg = s.pkg := by unfold State.setWord; split <;> rfl
@[simp] theorem State.setWord_draws (s : State) (w : CW) (ix : List Nat) (v : Word) : (s.setWord w ix v).draws = s.draws := by unfold State.setWord; split <;> rfl
@[simp] theorem State.setWord_out (s : State) (w : CW) (ix : List Nat) (v : Word) : (s.setWord w ix v).out = s.out := by unfold State.setWord; split <;> rfl
@[simp] theorem State.setWord_pw (s : State) (w : CW) (ix : List Nat) (v : Word) : (s.setWord w ix v).pw = s.pw := by unfold State.setWord; split <;> rfl
@[simp] theorem State.setWord_boot (s : State) (w : CW) (ix : List Nat) (v : Word) : (s.setWord w ix v).boot = s.boot := by unfold State.setWord; split <;> rfl
@[simp] theorem State.setWord_link (s : State) (w : CW) (ix : List Nat) (v : Word) : (s.setWord w ix v).link = s.link := by unfold State.setWord; split <;> rfl
@[simp] theorem State.setWord_fab (s : State) (w : CW) (ix : List Nat) (v : Word) : (s.setWord w ix v).fab = s.fab := by unfold State.setWord; split <;> rfl
@[simp] theorem State.setWord_coh (s : State) (w : CW) (ix : List Nat) (v : Word) : (s.setWord w ix v).coh = s.coh := by unfold State.setWord; split <;> rfl
@[simp] theorem State.setWord_fwd (s : State) (w : CW) (ix : List Nat) (v : Word) : (s.setWord w ix v).fwd = s.fwd := by unfold State.setWord; split <;> rfl
@[simp] theorem State.setWord_sched (s : State) (w : CW) (ix : List Nat) (v : Word) : (s.setWord w ix v).sched = s.sched := by unfold State.setWord; split <;> rfl
@[simp] theorem State.setWord_nx (s : State) (w : CW) (ix : List Nat) (v : Word) : (s.setWord w ix v).nx = s.nx := by unfold State.setWord; split <;> rfl
@[simp] theorem State.setWord_svc (s : State) (w : CW) (ix : List Nat) (v : Word) : (s.setWord w ix v).svc = s.svc := by unfold State.setWord; split <;> rfl
@[simp] theorem State.setWord_clr (s : State) (w : CW) (ix : List Nat) (v : Word) : (s.setWord w ix v).clr = s.clr := by unfold State.setWord; split <;> rfl
@[simp] theorem State.setWord_com (s : State) (w : CW) (ix : List Nat) (v : Word) : (s.setWord w ix v).com = s.com := by unfold State.setWord; split <;> rfl
@[simp] theorem State.setWord_ecc (s : State) (w : CW) (ix : List Nat) (v : Word) : (s.setWord w ix v).ecc = s.ecc := by unfold State.setWord; split <;> rfl
@[simp] theorem State.setWord_mgmt (s : State) (w : CW) (ix : List Nat) (v : Word) : (s.setWord w ix v).mgmt = s.mgmt := by unfold State.setWord; split <;> rfl

@[simp] theorem State.fset_pending (s : State) (f : Fld) (ix : List Nat) (v : Nat) : (s.fset f ix v).pending = s.pending := by simp [State.fset]
@[simp] theorem State.fset_now (s : State) (f : Fld) (ix : List Nat) (v : Nat) : (s.fset f ix v).now = s.now := by simp [State.fset]
@[simp] theorem State.fset_pkgRuns (s : State) (f : Fld) (ix : List Nat) (v : Nat) : (s.fset f ix v).pkgRuns = s.pkgRuns := by simp [State.fset]
@[simp] theorem State.fset_pkg (s : State) (f : Fld) (ix : List Nat) (v : Nat) : (s.fset f ix v).pkg = s.pkg := by simp [State.fset]
@[simp] theorem State.fset_draws (s : State) (f : Fld) (ix : List Nat) (v : Nat) : (s.fset f ix v).draws = s.draws := by simp [State.fset]
@[simp] theorem State.fset_out (s : State) (f : Fld) (ix : List Nat) (v : Nat) : (s.fset f ix v).out = s.out := by simp [State.fset]
@[simp] theorem State.fset_pw (s : State) (f : Fld) (ix : List Nat) (v : Nat) : (s.fset f ix v).pw = s.pw := by simp [State.fset]
@[simp] theorem State.fset_boot (s : State) (f : Fld) (ix : List Nat) (v : Nat) : (s.fset f ix v).boot = s.boot := by simp [State.fset]
@[simp] theorem State.fset_link (s : State) (f : Fld) (ix : List Nat) (v : Nat) : (s.fset f ix v).link = s.link := by simp [State.fset]
@[simp] theorem State.fset_fab (s : State) (f : Fld) (ix : List Nat) (v : Nat) : (s.fset f ix v).fab = s.fab := by simp [State.fset]
@[simp] theorem State.fset_coh (s : State) (f : Fld) (ix : List Nat) (v : Nat) : (s.fset f ix v).coh = s.coh := by simp [State.fset]
@[simp] theorem State.fset_fwd (s : State) (f : Fld) (ix : List Nat) (v : Nat) : (s.fset f ix v).fwd = s.fwd := by simp [State.fset]
@[simp] theorem State.fset_sched (s : State) (f : Fld) (ix : List Nat) (v : Nat) : (s.fset f ix v).sched = s.sched := by simp [State.fset]
@[simp] theorem State.fset_nx (s : State) (f : Fld) (ix : List Nat) (v : Nat) : (s.fset f ix v).nx = s.nx := by simp [State.fset]
@[simp] theorem State.fset_svc (s : State) (f : Fld) (ix : List Nat) (v : Nat) : (s.fset f ix v).svc = s.svc := by simp [State.fset]
@[simp] theorem State.fset_clr (s : State) (f : Fld) (ix : List Nat) (v : Nat) : (s.fset f ix v).clr = s.clr := by simp [State.fset]
@[simp] theorem State.fset_com (s : State) (f : Fld) (ix : List Nat) (v : Nat) : (s.fset f ix v).com = s.com := by simp [State.fset]
@[simp] theorem State.fset_ecc (s : State) (f : Fld) (ix : List Nat) (v : Nat) : (s.fset f ix v).ecc = s.ecc := by simp [State.fset]
@[simp] theorem State.fset_mgmt (s : State) (f : Fld) (ix : List Nat) (v : Nat) : (s.fset f ix v).mgmt = s.mgmt := by simp [State.fset]

@[simp] theorem State.addTotal_pending (s : State) (k n : Nat) : (s.addTotal k n).pending = s.pending := rfl
@[simp] theorem State.addTotal_now (s : State) (k n : Nat) : (s.addTotal k n).now = s.now := rfl
@[simp] theorem State.addTotal_pkgRuns (s : State) (k n : Nat) : (s.addTotal k n).pkgRuns = s.pkgRuns := rfl
@[simp] theorem State.addTotal_pkg (s : State) (k n : Nat) : (s.addTotal k n).pkg = s.pkg := rfl
@[simp] theorem State.addTotal_draws (s : State) (k n : Nat) : (s.addTotal k n).draws = s.draws := rfl
@[simp] theorem State.addTotal_out (s : State) (k n : Nat) : (s.addTotal k n).out = s.out := rfl
@[simp] theorem State.addTotal_pw (s : State) (k n : Nat) : (s.addTotal k n).pw = s.pw := rfl
@[simp] theorem State.addTotal_boot (s : State) (k n : Nat) : (s.addTotal k n).boot = s.boot := rfl
@[simp] theorem State.addTotal_link (s : State) (k n : Nat) : (s.addTotal k n).link = s.link := rfl
@[simp] theorem State.addTotal_fab (s : State) (k n : Nat) : (s.addTotal k n).fab = s.fab := rfl
@[simp] theorem State.addTotal_coh (s : State) (k n : Nat) : (s.addTotal k n).coh = s.coh := rfl
@[simp] theorem State.addTotal_fwd (s : State) (k n : Nat) : (s.addTotal k n).fwd = s.fwd := rfl
@[simp] theorem State.addTotal_sched (s : State) (k n : Nat) : (s.addTotal k n).sched = s.sched := rfl
@[simp] theorem State.addTotal_nx (s : State) (k n : Nat) : (s.addTotal k n).nx = s.nx := rfl
@[simp] theorem State.addTotal_svc (s : State) (k n : Nat) : (s.addTotal k n).svc = s.svc := rfl
@[simp] theorem State.addTotal_clr (s : State) (k n : Nat) : (s.addTotal k n).clr = s.clr := rfl
@[simp] theorem State.addTotal_com (s : State) (k n : Nat) : (s.addTotal k n).com = s.com := rfl
@[simp] theorem State.addTotal_ecc (s : State) (k n : Nat) : (s.addTotal k n).ecc = s.ecc := rfl

@[simp] theorem State.addTotal_ctl (s : State) (k n : Nat) : (s.addTotal k n).ctl = s.ctl := rfl

@[simp] theorem State.fadd_pending (s : State) (f : Fld) (ix : List Nat) (n : Nat) : (s.fadd f ix n).pending = s.pending := by simp [State.fadd]
@[simp] theorem State.fadd_now (s : State) (f : Fld) (ix : List Nat) (n : Nat) : (s.fadd f ix n).now = s.now := by simp [State.fadd]
@[simp] theorem State.fadd_pkgRuns (s : State) (f : Fld) (ix : List Nat) (n : Nat) : (s.fadd f ix n).pkgRuns = s.pkgRuns := by simp [State.fadd]
@[simp] theorem State.fadd_pkg (s : State) (f : Fld) (ix : List Nat) (n : Nat) : (s.fadd f ix n).pkg = s.pkg := by simp [State.fadd]
@[simp] theorem State.fadd_draws (s : State) (f : Fld) (ix : List Nat) (n : Nat) : (s.fadd f ix n).draws = s.draws := by simp [State.fadd]
@[simp] theorem State.fadd_out (s : State) (f : Fld) (ix : List Nat) (n : Nat) : (s.fadd f ix n).out = s.out := by simp [State.fadd]
@[simp] theorem State.fadd_pw (s : State) (f : Fld) (ix : List Nat) (n : Nat) : (s.fadd f ix n).pw = s.pw := by simp [State.fadd]
@[simp] theorem State.fadd_boot (s : State) (f : Fld) (ix : List Nat) (n : Nat) : (s.fadd f ix n).boot = s.boot := by simp [State.fadd]
@[simp] theorem State.fadd_link (s : State) (f : Fld) (ix : List Nat) (n : Nat) : (s.fadd f ix n).link = s.link := by simp [State.fadd]
@[simp] theorem State.fadd_fab (s : State) (f : Fld) (ix : List Nat) (n : Nat) : (s.fadd f ix n).fab = s.fab := by simp [State.fadd]
@[simp] theorem State.fadd_coh (s : State) (f : Fld) (ix : List Nat) (n : Nat) : (s.fadd f ix n).coh = s.coh := by simp [State.fadd]
@[simp] theorem State.fadd_fwd (s : State) (f : Fld) (ix : List Nat) (n : Nat) : (s.fadd f ix n).fwd = s.fwd := by simp [State.fadd]
@[simp] theorem State.fadd_sched (s : State) (f : Fld) (ix : List Nat) (n : Nat) : (s.fadd f ix n).sched = s.sched := by simp [State.fadd]
@[simp] theorem State.fadd_nx (s : State) (f : Fld) (ix : List Nat) (n : Nat) : (s.fadd f ix n).nx = s.nx := by simp [State.fadd]
@[simp] theorem State.fadd_svc (s : State) (f : Fld) (ix : List Nat) (n : Nat) : (s.fadd f ix n).svc = s.svc := by simp [State.fadd]
@[simp] theorem State.fadd_clr (s : State) (f : Fld) (ix : List Nat) (n : Nat) : (s.fadd f ix n).clr = s.clr := by simp [State.fadd]
@[simp] theorem State.fadd_com (s : State) (f : Fld) (ix : List Nat) (n : Nat) : (s.fadd f ix n).com = s.com := by simp [State.fadd]
@[simp] theorem State.fadd_ecc (s : State) (f : Fld) (ix : List Nat) (n : Nat) : (s.fadd f ix n).ecc = s.ecc := by simp [State.fadd]

@[simp] theorem State.fwrap_pending (s : State) (f : Fld) (ix : List Nat) (n : Nat) : (s.fwrap f ix n).pending = s.pending := by simp [State.fwrap]
@[simp] theorem State.fwrap_now (s : State) (f : Fld) (ix : List Nat) (n : Nat) : (s.fwrap f ix n).now = s.now := by simp [State.fwrap]
@[simp] theorem State.fwrap_pkgRuns (s : State) (f : Fld) (ix : List Nat) (n : Nat) : (s.fwrap f ix n).pkgRuns = s.pkgRuns := by simp [State.fwrap]
@[simp] theorem State.fwrap_pkg (s : State) (f : Fld) (ix : List Nat) (n : Nat) : (s.fwrap f ix n).pkg = s.pkg := by simp [State.fwrap]
@[simp] theorem State.fwrap_draws (s : State) (f : Fld) (ix : List Nat) (n : Nat) : (s.fwrap f ix n).draws = s.draws := by simp [State.fwrap]
@[simp] theorem State.fwrap_out (s : State) (f : Fld) (ix : List Nat) (n : Nat) : (s.fwrap f ix n).out = s.out := by simp [State.fwrap]
@[simp] theorem State.fwrap_pw (s : State) (f : Fld) (ix : List Nat) (n : Nat) : (s.fwrap f ix n).pw = s.pw := by simp [State.fwrap]
@[simp] theorem State.fwrap_boot (s : State) (f : Fld) (ix : List Nat) (n : Nat) : (s.fwrap f ix n).boot = s.boot := by simp [State.fwrap]
@[simp] theorem State.fwrap_link (s : State) (f : Fld) (ix : List Nat) (n : Nat) : (s.fwrap f ix n).link = s.link := by simp [State.fwrap]
@[simp] theorem State.fwrap_fab (s : State) (f : Fld) (ix : List Nat) (n : Nat) : (s.fwrap f ix n).fab = s.fab := by simp [State.fwrap]
@[simp] theorem State.fwrap_coh (s : State) (f : Fld) (ix : List Nat) (n : Nat) : (s.fwrap f ix n).coh = s.coh := by simp [State.fwrap]
@[simp] theorem State.fwrap_fwd (s : State) (f : Fld) (ix : List Nat) (n : Nat) : (s.fwrap f ix n).fwd = s.fwd := by simp [State.fwrap]
@[simp] theorem State.fwrap_sched (s : State) (f : Fld) (ix : List Nat) (n : Nat) : (s.fwrap f ix n).sched = s.sched := by simp [State.fwrap]
@[simp] theorem State.fwrap_nx (s : State) (f : Fld) (ix : List Nat) (n : Nat) : (s.fwrap f ix n).nx = s.nx := by simp [State.fwrap]
@[simp] theorem State.fwrap_svc (s : State) (f : Fld) (ix : List Nat) (n : Nat) : (s.fwrap f ix n).svc = s.svc := by simp [State.fwrap]
@[simp] theorem State.fwrap_clr (s : State) (f : Fld) (ix : List Nat) (n : Nat) : (s.fwrap f ix n).clr = s.clr := by simp [State.fwrap]
@[simp] theorem State.fwrap_com (s : State) (f : Fld) (ix : List Nat) (n : Nat) : (s.fwrap f ix n).com = s.com := by simp [State.fwrap]
@[simp] theorem State.fwrap_ecc (s : State) (f : Fld) (ix : List Nat) (n : Nat) : (s.fwrap f ix n).ecc = s.ecc := by simp [State.fwrap]

@[simp] theorem State.emit_pending (s : State) (o : Output) : (s.emit o).pending = s.pending := rfl
@[simp] theorem State.emit_now (s : State) (o : Output) : (s.emit o).now = s.now := rfl
@[simp] theorem State.emit_pkgRuns (s : State) (o : Output) : (s.emit o).pkgRuns = s.pkgRuns := rfl
@[simp] theorem State.emit_pkg (s : State) (o : Output) : (s.emit o).pkg = s.pkg := rfl
@[simp] theorem State.emit_draws (s : State) (o : Output) : (s.emit o).draws = s.draws := rfl
@[simp] theorem State.emit_pw (s : State) (o : Output) : (s.emit o).pw = s.pw := rfl
@[simp] theorem State.emit_boot (s : State) (o : Output) : (s.emit o).boot = s.boot := rfl
@[simp] theorem State.emit_link (s : State) (o : Output) : (s.emit o).link = s.link := rfl
@[simp] theorem State.emit_fab (s : State) (o : Output) : (s.emit o).fab = s.fab := rfl
@[simp] theorem State.emit_coh (s : State) (o : Output) : (s.emit o).coh = s.coh := rfl
@[simp] theorem State.emit_fwd (s : State) (o : Output) : (s.emit o).fwd = s.fwd := rfl
@[simp] theorem State.emit_sched (s : State) (o : Output) : (s.emit o).sched = s.sched := rfl
@[simp] theorem State.emit_nx (s : State) (o : Output) : (s.emit o).nx = s.nx := rfl
@[simp] theorem State.emit_svc (s : State) (o : Output) : (s.emit o).svc = s.svc := rfl
@[simp] theorem State.emit_clr (s : State) (o : Output) : (s.emit o).clr = s.clr := rfl
@[simp] theorem State.emit_com (s : State) (o : Output) : (s.emit o).com = s.com := rfl
@[simp] theorem State.emit_ecc (s : State) (o : Output) : (s.emit o).ecc = s.ecc := rfl
@[simp] theorem State.emit_mgmt (s : State) (o : Output) : (s.emit o).mgmt = s.mgmt := rfl

@[simp] theorem State.emit_ctl (s : State) (o : Output) : (s.emit o).ctl = s.ctl := rfl
@[simp] theorem State.emit_out (s : State) (o : Output) : (s.emit o).out = o :: s.out := rfl

@[simp] theorem State.done_pending (s : State) (st : Status) (v : Word) : (s.done st v).pending = s.pending := rfl
@[simp] theorem State.done_now (s : State) (st : Status) (v : Word) : (s.done st v).now = s.now := rfl
@[simp] theorem State.done_pkgRuns (s : State) (st : Status) (v : Word) : (s.done st v).pkgRuns = s.pkgRuns := rfl
@[simp] theorem State.done_pkg (s : State) (st : Status) (v : Word) : (s.done st v).pkg = s.pkg := rfl
@[simp] theorem State.done_draws (s : State) (st : Status) (v : Word) : (s.done st v).draws = s.draws := rfl
@[simp] theorem State.done_pw (s : State) (st : Status) (v : Word) : (s.done st v).pw = s.pw := rfl
@[simp] theorem State.done_boot (s : State) (st : Status) (v : Word) : (s.done st v).boot = s.boot := rfl
@[simp] theorem State.done_link (s : State) (st : Status) (v : Word) : (s.done st v).link = s.link := rfl
@[simp] theorem State.done_fab (s : State) (st : Status) (v : Word) : (s.done st v).fab = s.fab := rfl
@[simp] theorem State.done_coh (s : State) (st : Status) (v : Word) : (s.done st v).coh = s.coh := rfl
@[simp] theorem State.done_fwd (s : State) (st : Status) (v : Word) : (s.done st v).fwd = s.fwd := rfl
@[simp] theorem State.done_sched (s : State) (st : Status) (v : Word) : (s.done st v).sched = s.sched := rfl
@[simp] theorem State.done_nx (s : State) (st : Status) (v : Word) : (s.done st v).nx = s.nx := rfl
@[simp] theorem State.done_svc (s : State) (st : Status) (v : Word) : (s.done st v).svc = s.svc := rfl
@[simp] theorem State.done_clr (s : State) (st : Status) (v : Word) : (s.done st v).clr = s.clr := rfl
@[simp] theorem State.done_com (s : State) (st : Status) (v : Word) : (s.done st v).com = s.com := rfl
@[simp] theorem State.done_ecc (s : State) (st : Status) (v : Word) : (s.done st v).ecc = s.ecc := rfl
@[simp] theorem State.done_mgmt (s : State) (st : Status) (v : Word) : (s.done st v).mgmt = s.mgmt := rfl

@[simp] theorem State.done_ctl (s : State) (st : Status) (v : Word) : (s.done st v).ctl = s.ctl := rfl
@[simp] theorem State.done_out (s : State) (st : Status) (v : Word) : (s.done st v).out = .ctl st v :: s.out := rfl

@[simp] theorem State.draw_pending (s : State) : (s.draw).pending = s.pending := rfl
@[simp] theorem State.draw_now (s : State) : (s.draw).now = s.now := rfl
@[simp] theorem State.draw_pkgRuns (s : State) : (s.draw).pkgRuns = s.pkgRuns := rfl
@[simp] theorem State.draw_pkg (s : State) : (s.draw).pkg = s.pkg := rfl
@[simp] theorem State.draw_out (s : State) : (s.draw).out = s.out := rfl
@[simp] theorem State.draw_pw (s : State) : (s.draw).pw = s.pw := rfl
@[simp] theorem State.draw_boot (s : State) : (s.draw).boot = s.boot := rfl
@[simp] theorem State.draw_link (s : State) : (s.draw).link = s.link := rfl
@[simp] theorem State.draw_fab (s : State) : (s.draw).fab = s.fab := rfl
@[simp] theorem State.draw_coh (s : State) : (s.draw).coh = s.coh := rfl
@[simp] theorem State.draw_fwd (s : State) : (s.draw).fwd = s.fwd := rfl
@[simp] theorem State.draw_sched (s : State) : (s.draw).sched = s.sched := rfl
@[simp] theorem State.draw_nx (s : State) : (s.draw).nx = s.nx := rfl
@[simp] theorem State.draw_svc (s : State) : (s.draw).svc = s.svc := rfl
@[simp] theorem State.draw_clr (s : State) : (s.draw).clr = s.clr := rfl
@[simp] theorem State.draw_com (s : State) : (s.draw).com = s.com := rfl
@[simp] theorem State.draw_ecc (s : State) : (s.draw).ecc = s.ecc := rfl
@[simp] theorem State.draw_mgmt (s : State) : (s.draw).mgmt = s.mgmt := rfl


/-! Words. -/

theorem State.word_of_ctl {s r : State} (h : r.ctl = s.ctl) (w : CW) (ix : List Nat) : r.word w ix = s.word w ix := by simp [State.word, h]

theorem State.fget_of_ctl {s r : State} (h : r.ctl = s.ctl) (f : Fld) (ix : List Nat) : r.fget f ix = s.fget f ix := by simp [State.fget, State.word_of_ctl h]

/-- A word that is written reads as written. -/
theorem State.word_setWord (s : State) {w : CW} {ix : List Nat} (h : w.inRange ix = true) (v : Word) : (s.setWord w ix v).word w ix = v := by
  simp [State.word, State.setWord, h]

/-- A write leaves every other address alone. -/
theorem State.get_setWord_ne (s : State) (w : CW) (ix : List Nat) (v d : Word) {a : Nat} (h : w.addr (w.home ix) ≠ a) :
    SMap.get d (s.setWord w ix v).ctl a = SMap.get d s.ctl a := by
  unfold State.setWord
  split
  · simp only [SMap.set]
    split
    · simp [SMap.get_erase, h]
    · rw [SMap.get_insert d (fun x hx => (SMap.mem_erase.1 hx).2)]
      simp [SMap.get_erase, h]
  · rfl

theorem State.word_setWord_ne (s : State) (w : CW) (ix : List Nat) (v : Word) {w' : CW} {ix' : List Nat} (h : w.addr (w.home ix) ≠ w'.addr (w'.home ix')) :
    (s.setWord w ix v).word w' ix' = s.word w' ix' := by
  simp [State.word, State.get_setWord_ne s w ix v _ h]

theorem State.word_fset_ne (s : State) (f : Fld) (ix : List Nat) (v : Nat) {w' : CW} {ix' : List Nat} (h : f.w.addr (f.w.home ix) ≠ w'.addr (w'.home ix')) :
    (s.fset f ix v).word w' ix' = s.word w' ix' := State.word_setWord_ne s f.w ix _ h

theorem State.fget_fset_ne (s : State) (f : Fld) (ix : List Nat) (v : Nat) {g : Fld} {ix' : List Nat} (h : f.w.addr (f.w.home ix) ≠ g.w.addr (g.w.home ix')) :
    (s.fset f ix v).fget g ix' = s.fget g ix' := by simp [State.fget, State.word_fset_ne s f ix v h]

/-! Fields of a word. -/

theorem setBits_toNat (w : Word) {hi lo : Nat} (h : lo ≤ hi) (h' : hi < 64) (v : Nat) :
    (setBits w hi lo v).toNat = w.toNat / 2 ^ (hi + 1) * 2 ^ (hi + 1) + v % 2 ^ (hi + 1 - lo) * 2 ^ lo + w.toNat % 2 ^ lo := by
  unfold setBits
  rw [BitVec.toNat_ofNat]
  apply Nat.mod_eq_of_lt
  have hw : w.toNat < 2 ^ 64 := w.isLt
  have e1 : (2 : Nat) ^ (hi + 1) = 2 ^ (hi + 1 - lo) * 2 ^ lo := by rw [← Nat.pow_add]; congr 1; omega
  have e2 : (2 : Nat) ^ 64 = 2 ^ (64 - (hi + 1)) * 2 ^ (hi + 1) := by rw [← Nat.pow_add]; congr 1; omega
  have b1 : v % 2 ^ (hi + 1 - lo) < 2 ^ (hi + 1 - lo) := Nat.mod_lt _ (by positivity)
  have b2 : w.toNat % 2 ^ lo < 2 ^ lo := Nat.mod_lt _ (by positivity)
  have b3 : w.toNat / 2 ^ (hi + 1) < 2 ^ (64 - (hi + 1)) := by
    rw [Nat.div_lt_iff_lt_mul (by positivity), ← e2]; exact hw
  have c1 : v % 2 ^ (hi + 1 - lo) * 2 ^ lo + w.toNat % 2 ^ lo < 2 ^ (hi + 1) := by
    rw [e1]
    calc v % 2 ^ (hi + 1 - lo) * 2 ^ lo + w.toNat % 2 ^ lo < v % 2 ^ (hi + 1 - lo) * 2 ^ lo + 2 ^ lo := by omega
      _ = (v % 2 ^ (hi + 1 - lo) + 1) * 2 ^ lo := by ring
      _ ≤ 2 ^ (hi + 1 - lo) * 2 ^ lo := Nat.mul_le_mul_right _ b1
  rw [e2]
  calc _ < w.toNat / 2 ^ (hi + 1) * 2 ^ (hi + 1) + 2 ^ (hi + 1) := by omega
    _ = (w.toNat / 2 ^ (hi + 1) + 1) * 2 ^ (hi + 1) := by ring
    _ ≤ 2 ^ (64 - (hi + 1)) * 2 ^ (hi + 1) := Nat.mul_le_mul_right _ b3

/-- A field that is set reads as set, cut to its width. -/
theorem bitsOf_setBits (w : Word) {hi lo : Nat} (h : lo ≤ hi) (h' : hi < 64) (v : Nat) : bitsOf (setBits w hi lo v) hi lo = v % 2 ^ (hi + 1 - lo) := by
  unfold bitsOf natBits
  rw [setBits_toNat w h h' v]
  have e1 : (2 : Nat) ^ (hi + 1) = 2 ^ (hi + 1 - lo) * 2 ^ lo := by rw [← Nat.pow_add]; congr 1; omega
  have b2 : w.toNat % 2 ^ lo < 2 ^ lo := Nat.mod_lt _ (by positivity)
  have : w.toNat / 2 ^ (hi + 1) * 2 ^ (hi + 1) + v % 2 ^ (hi + 1 - lo) * 2 ^ lo + w.toNat % 2 ^ lo
      = (w.toNat / 2 ^ (hi + 1) * 2 ^ (hi + 1 - lo) + v % 2 ^ (hi + 1 - lo)) * 2 ^ lo + w.toNat % 2 ^ lo := by rw [e1]; ring
  rw [this, Nat.add_comm, Nat.add_mul_div_right _ _ (by positivity), Nat.div_eq_of_lt b2, Nat.zero_add, Nat.add_comm,
    Nat.add_mul_mod_self_right, Nat.mod_mod]

/-- A field below the one that is set keeps its value. -/
theorem bitsOf_setBits_below (w : Word) {hi lo h2 l2 : Nat} (h : lo ≤ hi) (h' : hi < 64) (hl : l2 ≤ h2) (hd : h2 < lo) (v : Nat) :
    bitsOf (setBits w hi lo v) h2 l2 = bitsOf w h2 l2 := by
  unfold bitsOf natBits
  rw [setBits_toNat w h h' v]
  have key : ∀ n : Nat, n / 2 ^ l2 % 2 ^ (h2 + 1 - l2) = n % 2 ^ lo / 2 ^ l2 % 2 ^ (h2 + 1 - l2) := by
    intro n
    have e : (2 : Nat) ^ lo = 2 ^ l2 * 2 ^ (lo - l2) := by rw [← Nat.pow_add]; congr 1; omega
    have e' : (2 : Nat) ^ (lo - l2) = 2 ^ (h2 + 1 - l2) * 2 ^ (lo - (h2 + 1)) := by rw [← Nat.pow_add]; congr 1; omega
    rw [e, Nat.mod_mul_right_div_self, e', Nat.mod_mul_right_mod]
  have e1 : (2 : Nat) ^ (hi + 1) = 2 ^ (hi + 1 - lo) * 2 ^ lo := by rw [← Nat.pow_add]; congr 1; omega
  rw [key, key w.toNat]
  congr 2
  have : w.toNat / 2 ^ (hi + 1) * 2 ^ (hi + 1) + v % 2 ^ (hi + 1 - lo) * 2 ^ lo + w.toNat % 2 ^ lo
      = w.toNat % 2 ^ lo + (w.toNat / 2 ^ (hi + 1) * 2 ^ (hi + 1 - lo) + v % 2 ^ (hi + 1 - lo)) * 2 ^ lo := by rw [e1]; ring
  rw [this, Nat.add_mul_mod_self_right, Nat.mod_mod]

/-- A field above the one that is set keeps its value. -/
theorem bitsOf_setBits_above (w : Word) {hi lo h2 l2 : Nat} (h : lo ≤ hi) (h' : hi < 64) (hd : hi < l2) (v : Nat) :
    bitsOf (setBits w hi lo v) h2 l2 = bitsOf w h2 l2 := by
  unfold bitsOf natBits
  rw [setBits_toNat w h h' v]
  have e1 : (2 : Nat) ^ (hi + 1) = 2 ^ (hi + 1 - lo) * 2 ^ lo := by rw [← Nat.pow_add]; congr 1; omega
  have b1 : v % 2 ^ (hi + 1 - lo) < 2 ^ (hi + 1 - lo) := Nat.mod_lt _ (by positivity)
  have b2 : w.toNat % 2 ^ lo < 2 ^ lo := Nat.mod_lt _ (by positivity)
  have c1 : v % 2 ^ (hi + 1 - lo) * 2 ^ lo + w.toNat % 2 ^ lo < 2 ^ (hi + 1) := by
    rw [e1]
    calc v % 2 ^ (hi + 1 - lo) * 2 ^ lo + w.toNat % 2 ^ lo < v % 2 ^ (hi + 1 - lo) * 2 ^ lo + 2 ^ lo := by omega
      _ = (v % 2 ^ (hi + 1 - lo) + 1) * 2 ^ lo := by ring
      _ ≤ 2 ^ (hi + 1 - lo) * 2 ^ lo := Nat.mul_le_mul_right _ b1
  have e : (2 : Nat) ^ l2 = 2 ^ (hi + 1) * 2 ^ (l2 - (hi + 1)) := by rw [← Nat.pow_add]; congr 1; omega
  congr 1
  rw [e, ← Nat.div_div_eq_div_mul, ← Nat.div_div_eq_div_mul, Nat.add_assoc, Nat.add_comm, Nat.add_mul_div_right _ _ (by positivity), Nat.div_eq_of_lt c1, Nat.zero_add]

/-- A field that is set reads as set. -/
theorem State.fget_fset (s : State) {f : Fld} {ix : List Nat} (h : f.w.inRange ix = true) (hl : f.lo ≤ f.hi) (hh : f.hi < 64) (v : Nat) :
    (s.fset f ix v).fget f ix = v % 2 ^ (f.hi + 1 - f.lo) := by
  rw [State.fget, State.fset, State.word_setWord s h, bitsOf_setBits _ hl hh]

/-- Another field of the word keeps its value. -/
theorem State.fget_fset_other (s : State) {f g : Fld} {ix : List Nat} (hw : f.w = g.w) (hl : f.lo ≤ f.hi) (hh : f.hi < 64) (gl : g.lo ≤ g.hi)
    (hd : g.hi < f.lo ∨ f.hi < g.lo) (v : Nat) : (s.fset f ix v).fget g ix = s.fget g ix := by
  by_cases h : f.w.inRange ix = true
  · rw [State.fget, State.fset, ← hw, State.word_setWord s h, State.fget, ← hw]
    rcases hd with hd | hd
    · exact bitsOf_setBits_below _ hl hh gl hd v
    · exact bitsOf_setBits_above _ hl hh hd v
  · simp [State.fget, State.fset, State.setWord, h]

/-! Time. -/

@[simp] theorem State.upTo_pending (s : State) (t : Nat) : (s.upTo t).pending = s.pending := by unfold State.upTo runPackage; dsimp only; (repeat' split) <;> simp
@[simp] theorem State.upTo_pkgRuns (s : State) (t : Nat) : (s.upTo t).pkgRuns = s.pkgRuns := by unfold State.upTo runPackage; dsimp only; (repeat' split) <;> simp
@[simp] theorem State.upTo_draws (s : State) (t : Nat) : (s.upTo t).draws = s.draws := by unfold State.upTo runPackage; dsimp only; (repeat' split) <;> simp
@[simp] theorem State.upTo_out (s : State) (t : Nat) : (s.upTo t).out = s.out := by unfold State.upTo runPackage; dsimp only; (repeat' split) <;> simp
@[simp] theorem State.upTo_pw (s : State) (t : Nat) : (s.upTo t).pw = s.pw := by unfold State.upTo runPackage; dsimp only; (repeat' split) <;> simp
@[simp] theorem State.upTo_boot (s : State) (t : Nat) : (s.upTo t).boot = s.boot := by unfold State.upTo runPackage; dsimp only; (repeat' split) <;> simp
@[simp] theorem State.upTo_link (s : State) (t : Nat) : (s.upTo t).link = s.link := by unfold State.upTo runPackage; dsimp only; (repeat' split) <;> simp
@[simp] theorem State.upTo_fab (s : State) (t : Nat) : (s.upTo t).fab = s.fab := by unfold State.upTo runPackage; dsimp only; (repeat' split) <;> simp
@[simp] theorem State.upTo_coh (s : State) (t : Nat) : (s.upTo t).coh = s.coh := by unfold State.upTo runPackage; dsimp only; (repeat' split) <;> simp
@[simp] theorem State.upTo_fwd (s : State) (t : Nat) : (s.upTo t).fwd = s.fwd := by unfold State.upTo runPackage; dsimp only; (repeat' split) <;> simp
@[simp] theorem State.upTo_sched (s : State) (t : Nat) : (s.upTo t).sched = s.sched := by unfold State.upTo runPackage; dsimp only; (repeat' split) <;> simp
@[simp] theorem State.upTo_nx (s : State) (t : Nat) : (s.upTo t).nx = s.nx := by unfold State.upTo runPackage; dsimp only; (repeat' split) <;> simp
@[simp] theorem State.upTo_svc (s : State) (t : Nat) : (s.upTo t).svc = s.svc := by unfold State.upTo runPackage; dsimp only; (repeat' split) <;> simp
@[simp] theorem State.upTo_clr (s : State) (t : Nat) : (s.upTo t).clr = s.clr := by unfold State.upTo runPackage; dsimp only; (repeat' split) <;> simp
@[simp] theorem State.upTo_com (s : State) (t : Nat) : (s.upTo t).com = s.com := by unfold State.upTo runPackage; dsimp only; (repeat' split) <;> simp
@[simp] theorem State.upTo_ecc (s : State) (t : Nat) : (s.upTo t).ecc = s.ecc := by unfold State.upTo runPackage; dsimp only; (repeat' split) <;> simp

/-- Time is the command's, or stands. -/
theorem State.upTo_now (s : State) (t : Nat) : (s.upTo t).now = max s.now t := by
  unfold State.upTo runPackage; dsimp only; (repeat' split) <;> simp <;> omega

/-- Only CUT_TICKS counts with time. -/
theorem State.get_upTo_ne (s : State) (t : Nat) (d : Word) {a : Nat} (h : CW.addr .PW_THERM [] ≠ a) : SMap.get d (s.upTo t).ctl a = SMap.get d s.ctl a := by
  have e : ∀ k, SMap.get d (s.fwrap PW_THERM.CUT_TICKS [] k).ctl a = SMap.get d s.ctl a := fun k => State.get_setWord_ne s .PW_THERM [] _ d h
  unfold State.upTo runPackage; dsimp only; (repeat' split) <;> simp [e]

end Sys2Proof.Machine
end

