-- ==== Sys2Proof/Laws/Issue.lean ====
section
/-! SUPPORT. An instruction that issues runs its body, and a strand that retires goes on. -/

namespace Sys2Proof.Machine

theorem SMap.get?_erase {α : Type} (m : SMap α) (a b : Nat) : SMap.get? (SMap.erase m a) b = if a = b then none else SMap.get? m b := by
  induction m with
  | nil => simp [SMap.erase, SMap.get?]
  | cons e m ih =>
    obtain ⟨k, v⟩ := e
    by_cases h : k = a
    · simp only [SMap.erase, if_pos h, ih, SMap.get?]
      by_cases hb : a = b
      · simp [hb]
      · simp [hb, h ▸ hb]
    · simp only [SMap.erase, if_neg h, SMap.get?, ih]
      by_cases hb : k = b
      · simp [hb, Ne.symm (hb ▸ h)]
      · simp [hb]

theorem SMap.get?_insert {α : Type} {m : SMap α} {a : Nat} (ha : ∀ x ∈ m, x.1 ≠ a) (v : α) (b : Nat) :
    SMap.get? (SMap.insert m a v) b = if a = b then some v else SMap.get? m b := by
  induction m with
  | nil => simp [SMap.insert, SMap.get?]
  | cons e m ih =>
    obtain ⟨k, u⟩ := e
    have hk : k ≠ a := ha _ (List.mem_cons_self ..)
    have ih := ih (fun x hx => ha x (List.mem_cons_of_mem _ hx))
    unfold SMap.insert
    split
    · rfl
    · simp only [SMap.get?, ih]
      by_cases hb : k = b
      · simp [hb, Ne.symm (hb ▸ hk)]
      · simp [hb]

/-- An entry that is put is found. -/
theorem SMap.get?_put {α : Type} (m : SMap α) (a : Nat) (v : α) (b : Nat) : SMap.get? (SMap.put m a v) b = if a = b then some v else SMap.get? m b := by
  unfold SMap.put
  rw [SMap.get?_insert (fun x hx => (SMap.mem_erase.1 hx).2), SMap.get?_erase]
  split <;> rfl

theorem State.ctx?_eq (s : State) (c n : Nat) : s.ctx? c n = SMap.get? s.nx.ctxs (ctxKey c n) := rfl

theorem State.ctx?_putCtx (s : State) (c n : Nat) (x : Ctx) (c' n' : Nat) : (s.putCtx c n x).ctx? c' n' = if ctxKey c n = ctxKey c' n' then some x else s.ctx? c' n' := by
  rw [State.ctx?_eq, State.putCtx, SMap.get?_put]; rfl

@[simp] theorem State.ctx?_putCtx_self (s : State) (c n : Nat) (x : Ctx) : (s.putCtx c n x).ctx? c n = some x := by simp [State.ctx?_putCtx]

theorem State.modCtx_of (s : State) {c n : Nat} {x : Ctx} (h : s.ctx? c n = some x) (f : Ctx → Ctx) : s.modCtx c n f = s.putCtx c n (f x) := by simp [State.modCtx, h]

/-- A strand of a context that has been put. -/
@[simp] theorem Ctx.strand_setStrand (x : Ctx) (k : Nat) (st : Strand) : (x.setStrand k st).strand k = st := by simp [Ctx.strand, Ctx.setStrand]

@[simp] theorem Ctx.setStrand_hdr (x : Ctx) (k : Nat) (st : Strand) : (x.setStrand k st).hdr = x.hdr := rfl
@[simp] theorem Ctx.setStrand_state (x : Ctx) (k : Nat) (st : Strand) : (x.setStrand k st).state = x.state := rfl
@[simp] theorem Ctx.setStrand_bays (x : Ctx) (k : Nat) (st : Strand) : (x.setStrand k st).bays = x.bays := rfl
@[simp] theorem Ctx.setStrand_scratch (x : Ctx) (k : Nat) (st : Strand) : (x.setStrand k st).scratch = x.scratch := rfl

theorem State.modStrand_of (s : State) {sr : StrandRef} {x : Ctx} (h : s.ctx? sr.copse sr.ctx = some x) (f : Strand → Strand) :
    s.modStrand sr f = s.putCtx sr.copse sr.ctx (x.setStrand (strandKey sr) (f (x.strand (strandKey sr)))) := by rw [State.modStrand, State.modCtx_of s h]

theorem State.setS_of (s : State) {sr : StrandRef} {x : Ctx} (h : s.ctx? sr.copse sr.ctx = some x) (n : Nat) (v : Word) :
    s.setS sr n v = s.putCtx sr.copse sr.ctx (x.setStrand (strandKey sr) ((x.strand (strandKey sr)).setS n v)) := State.modStrand_of s h _

/-- What issues has a live strand of a running or blocked context. -/
theorem issues_ctx {cls op : Nat} {sr : StrandRef} {w : Word} {s : State} {x : Ctx} (hx : s.ctx? sr.copse sr.ctx = some x) (h : issues cls op sr w s = true) :
    (x.state = .running ∨ x.state = .blocked) ∧ (x.strand (strandKey sr)).live = true := by
  simp only [issues, hx, canIssue, Bool.and_eq_true, Bool.or_eq_true, beq_iff_eq] at h
  exact ⟨h.1.1.1.1.1.1.1.1.1.1.1.1, h.1.1.1.1.1.1.1.1.1.1.2⟩

/-- An instruction that issues does what its body says. -/
theorem issue_of_issues {cls op : Nat} {sr : StrandRef} {w : Word} {s : State} {x : Ctx} (hx : s.ctx? sr.copse sr.ctx = some x) (h : issues cls op sr w s = true)
    (body : Ins → Strand → State → State) : issue cls op sr w body s = body (Ins.ofWord w) (x.strand (strandKey sr)) s := by
  simp only [issues, hx, Bool.and_eq_true, beq_iff_eq, bne_iff_ne] at h
  obtain ⟨⟨⟨⟨⟨⟨⟨⟨⟨h1, h2⟩, h3⟩, h4⟩, h5⟩, h6⟩, h7⟩, h8⟩, h9⟩, h10⟩ := h
  have c : (canIssue x (x.strand (strandKey sr)) && codeAt x (x.strand (strandKey sr)).pc == w && (Ins.ofWord w).cls == cls && (Ins.ofWord w).op == op
      && !(s.com.stopped && (Ins.ofWord w).asks)) = true := by simp only [h1, h3, h4, h5, h6, beq_self_eq_true, Bool.and_self]
  have h2' : ((x.strand (strandKey sr)).wait == Wait.acq) = false := by simpa using h2
  simp only [Bool.not_eq_true'] at h7 h9 h10
  simp only [issue, hx, c, if_true, h2', h7, h8, h9, h10, Bool.false_eq_true, if_false, Bool.not_true]

theorem NxFrame.refl (sr : StrandRef) (s : State) : NxFrame sr s.nx.copses s s := ⟨fun _ _ _ => rfl, rfl, rfl, rfl, fun _ => rfl, fun _ _ _ => rfl⟩

/-- A context that is put leaves the rest alone. -/
theorem NxFrame.putCtx {sr : StrandRef} {cs : SMap Copse} {s q : State} (h : NxFrame sr cs s q) (y : Ctx) : NxFrame sr cs s (q.putCtx sr.copse sr.ctx y) := by
  obtain ⟨h1, h2, h3, h4, h5, h6⟩ := h
  refine ⟨fun c n hne => ?_, ?_, ?_, h4, h5, h6⟩
  · rw [State.ctx?_putCtx, if_neg (Ne.symm hne)]; exact h1 c n hne
  · have e : ∀ N, { q with nx := N } = { s with ctl := q.ctl, mgmt := q.mgmt, nx := N, ecc := q.ecc } := by intro N; rw [h2]
    exact e _
  · have e : ∀ C, { q.nx with ctxs := C } = { s.nx with ctxs := C, copses := cs } := by intro C; rw [h3]
    exact e _

/-- A strand that is not at its last instruction goes on. -/
theorem retire_nxStep {sr : StrandRef} {s q : State} {x : Ctx} (hx : q.ctx? sr.copse sr.ctx = some x) (hs : x.state = .running ∨ x.state = .blocked)
    (hl : (x.strand (strandKey sr)).live = true) (hg : goesOn sr x = true) {cs : SMap Copse} (hf : NxFrame sr cs s q) :
    NxStepC sr x cs s (retire sr q) := by
  have hk : SMap.get? q.nx.ctxs (ctxKey sr.copse sr.ctx) = some x := hx
  simp only [goesOn, decide_eq_true_eq] at hg
  -- the context as it stands when the strand has gone on
  obtain ⟨y, hy⟩ : ∃ y : Strand, y = { x.strand (strandKey sr) with pc := (x.strand (strandKey sr)).pc + 8, wait := .none } := ⟨_, rfl⟩
  obtain ⟨z, hz⟩ : ∃ z : Ctx, z = { x with issued := x.issued + 1, strands := SMap.put x.strands (strandKey sr) y } := ⟨_, rfl⟩
  obtain ⟨p, hp⟩ : ∃ p : State, p = countIssue sr q := ⟨_, rfl⟩
  have hpc : p.ctx? sr.copse sr.ctx = some { x with issued := x.issued + 1 } := by
    rw [hp, countIssue, State.modCtx_of q hx, State.ctx?_eq, State.fadd_nx, ← State.ctx?_eq, State.ctx?_putCtx_self]
  have hret : retire sr q = reblock sr.copse sr.ctx (p.putCtx sr.copse sr.ctx z) := by
    have hl' : ¬ (!(Ctx.strand { x with issued := x.issued + 1 } (strandKey sr)).live) = true := by
      have : (Ctx.strand { x with issued := x.issued + 1 } (strandKey sr)).live = true := hl
      simp [this]
    have hg' : ¬ (Ctx.strand { x with issued := x.issued + 1 } (strandKey sr)).pc = x.hdr.codeLen - 8 := hg
    simp only [retire, ← hp, hpc]
    rw [if_neg hl', if_neg hg', hz, hy]; rfl
  have hnb : (z.strands.filter fun e => e.2.live).all (fun e => e.2.wait.blocks) = false := by
    rw [List.all_eq_false]
    refine ⟨(strandKey sr, y), ?_, by rw [hy]; simp [Wait.blocks]⟩
    rw [List.mem_filter, hz]
    exact ⟨SMap.mem_insert.2 (.inl rfl), by rw [hy]; exact hl⟩
  have hreb : reblock sr.copse sr.ctx (p.putCtx sr.copse sr.ctx z) = (if x.state = .running then p.putCtx sr.copse sr.ctx z
      else (p.putCtx sr.copse sr.ctx z).putCtx sr.copse sr.ctx { z with state := .running }) := by
    have hzs : z.state = x.state := by rw [hz]
    unfold reblock
    simp only [State.ctx?_putCtx_self, hnb, hzs]
    rcases hs with h | h <;> simp [h]
  have fin : ∀ r : State, r = retire sr q → r.nx = { q.nx with ctxs := r.nx.ctxs } ∧ r = { q with ctl := r.ctl, mgmt := r.mgmt, nx := r.nx } ∧ r.ctl = p.ctl ∧ r.mgmt = p.mgmt := by
    intro r hr
    rw [hret, hreb] at hr
    subst hr
    have a1 : p.nx = { q.nx with ctxs := p.nx.ctxs } := by rw [hp, countIssue, State.modCtx_of q hx]; simp [State.putCtx]
    have a2 : p = { q with ctl := p.ctl, mgmt := p.mgmt, nx := p.nx } := by
      rw [hp, countIssue, State.modCtx_of q hx]
      have : ∀ (u v : State), u.pending = v.pending → u.now = v.now → u.pkgRuns = v.pkgRuns → u.pkg = v.pkg → u.draws = v.draws → u.out = v.out → u.pw = v.pw → u.boot = v.boot
          → u.link = v.link → u.fab = v.fab → u.coh = v.coh → u.fwd = v.fwd → u.sched = v.sched → u.svc = v.svc → u.clr = v.clr → u.com = v.com → u.ecc = v.ecc
          → u = { v with ctl := u.ctl, mgmt := u.mgmt, nx := u.nx } := by
        intro u v; cases u; cases v; simp only; intros; subst_vars; rfl
      apply this <;> simp [State.putCtx]
    have c1 : ∀ C, { p.nx with ctxs := C } = { q.nx with ctxs := C } := by intro C; rw [a1]
    have c2 : ∀ N, { p with nx := N } = { q with ctl := p.ctl, mgmt := p.mgmt, nx := N } := by intro N; rw [a2]
    have b : ∀ u : Ctx, (p.putCtx sr.copse sr.ctx u).nx = { q.nx with ctxs := (p.putCtx sr.copse sr.ctx u).nx.ctxs } ∧
        (p.putCtx sr.copse sr.ctx u) = { q with ctl := p.ctl, mgmt := p.mgmt, nx := (p.putCtx sr.copse sr.ctx u).nx } := fun u => ⟨c1 _, c2 _⟩
    split
    · exact ⟨(b z).1, (b z).2, rfl, rfl⟩
    · exact ⟨c1 _, c2 _, rfl, rfl⟩
  obtain ⟨f1, f2, f3, f4⟩ := fin _ rfl
  have hpm : p.mgmt = { q.mgmt with totals := p.mgmt.totals } := by
    rw [hp, countIssue, State.modCtx_of q hx]
    simp only [State.fadd, State.addTotal, State.fset_mgmt, State.putCtx]
  have hpo : ∀ c n, ctxKey c n ≠ ctxKey sr.copse sr.ctx → p.ctx? c n = q.ctx? c n := by
    intro c n hne
    rw [hp, countIssue, State.modCtx_of q hx, State.ctx?_eq, State.fadd_nx, ← State.ctx?_eq, State.ctx?_putCtx, if_neg (Ne.symm hne)]
  refine ⟨⟨?_, ?_, ?_, ?_, ?_, ?_⟩, ?_⟩
  · intro c n hne
    rw [← hf.others c n hne, ← hpo c n hne, hret, hreb]
    split <;> simp [State.ctx?_putCtx, Ne.symm hne]
  · have e : ∀ A B C, { q with ctl := A, mgmt := B, nx := C } = { s with ctl := A, mgmt := B, nx := C, ecc := q.ecc } := by intro A B C; rw [hf.rest]
    have he : (retire sr q).ecc = q.ecc := by rw [f2]
    exact f2.trans ((e _ _ _).trans (by rw [he]))
  · have e : ∀ C, { q.nx with ctxs := C } = { s.nx with ctxs := C, copses := cs } := by intro C; rw [hf.nx]
    exact f1.trans (e _)
  · have e : ∀ T, { q.mgmt with totals := T } = { s.mgmt with totals := T } := by intro T; rw [hf.mgmt]
    rw [f4]; exact hpm.trans (e _)
  · intro h
    rw [f2]; exact hf.ecc h
  · intro a d ha
    rw [f3, hp, countIssue, State.modCtx_of q hx]
    have : CW.addr .GL_CNT_ISSUE (cuIx sr) ≠ a := fun e => ha (by simp [e])
    rw [State.fadd, State.addTotal_ctl, State.fset]
    refine (State.get_setWord_ne _ .GL_CNT_ISSUE (cuIx sr) _ d this).trans ?_
    exact hf.words a d ha
  · rw [hret, hreb, hz, hy]
    rcases hs with h | h
    · rw [if_pos h, State.ctx?_putCtx_self]; simp [h]
    · rw [if_neg (by simp [h]), State.ctx?_putCtx_self]

/-- An operation on the strand alone. -/
theorem issueReg_step {cls op : Nat} {sr : StrandRef} {w : Word} {s : State} {x : Ctx} (hx : s.ctx? sr.copse sr.ctx = some x) (hg : goesOn sr x = true)
    (h : issues cls op sr w s = true) {f : Ins → Strand → State → Strand} {st : Strand}
    (hv : f (Ins.ofWord w) (x.strand (strandKey sr)) s = st) (hl : st.live = (x.strand (strandKey sr)).live) (hp : st.pc = (x.strand (strandKey sr)).pc) :
    NxStep sr (x.setStrand (strandKey sr) st) s (issueReg cls op sr w f s) := by
  subst hv
  obtain ⟨hs, hlive⟩ := issues_ctx hx h
  rw [issueReg, issue_of_issues hx h, State.modStrand_of s hx]
  refine retire_nxStep (x := x.setStrand (strandKey sr) (f (Ins.ofWord w) (x.strand (strandKey sr)) s)) (State.ctx?_putCtx_self ..) hs (by rw [Ctx.strand_setStrand, hl, hlive]) ?_ ((NxFrame.refl sr s).putCtx _)
  simpa [goesOn, hp, Ctx.setStrand_hdr] using hg

theorem scalarOp_step {op : Nat} {sr : StrandRef} {w : Word} {s : State} {x : Ctx} (hx : s.ctx? sr.copse sr.ctx = some x) (hg : goesOn sr x = true)
    (h : issues 0 op sr w s = true) {f : Word → Word → Word} {v : Word}
    (hv : f ((x.strand (strandKey sr)).s (Ins.ofWord w).src1) ((x.strand (strandKey sr)).s (Ins.ofWord w).src2) = v) :
    NxStep sr (x.setStrand (strandKey sr) ((x.strand (strandKey sr)).setS (Ins.ofWord w).dst v)) s (scalarOp op sr w f s) := by
  subst hv; exact issueReg_step hx hg h rfl rfl rfl

/-- A counted instruction. -/
theorem countIssue_ctx {sr : StrandRef} {q : State} {x : Ctx} (hx : q.ctx? sr.copse sr.ctx = some x) :
    (countIssue sr q).ctx? sr.copse sr.ctx = some { x with issued := x.issued + 1 } := by
  rw [countIssue, State.modCtx_of q hx, State.ctx?_eq, State.fadd_nx, ← State.ctx?_eq, State.ctx?_putCtx_self]

theorem NxFrame.countIssue {sr : StrandRef} {cs : SMap Copse} {s q : State} (h : NxFrame sr cs s q) {x : Ctx} (hx : q.ctx? sr.copse sr.ctx = some x) :
    NxFrame sr cs s (countIssue sr q) := by
  rw [Machine.countIssue, State.modCtx_of q hx]
  obtain ⟨h1, h2, h3, h4, h5, h6⟩ := h.putCtx { x with issued := x.issued + 1 }
  refine ⟨fun c n hne => ?_, ?_, ?_, ?_, ?_, ?_⟩
  · rw [State.ctx?_eq, State.fadd_nx]; exact h1 c n hne
  · apply State.ext <;> simp <;> rw [h2]
  · rw [State.fadd_nx]; exact h3
  · have e : ∀ T, { (q.putCtx sr.copse sr.ctx { x with issued := x.issued + 1 }).mgmt with totals := T } = { s.mgmt with totals := T } := by intro T; rw [h4]
    simp only [State.fadd, State.addTotal, State.fset_mgmt]
    exact e _
  · intro e; rw [State.fadd_ecc]; exact h5 e
  · intro a d ha
    have : CW.addr .GL_CNT_ISSUE (cuIx sr) ≠ a := fun e => ha (by simp [e])
    rw [State.fadd, State.addTotal_ctl]
    exact (State.get_setWord_ne _ .GL_CNT_ISSUE (cuIx sr) _ d this).trans (h6 a d ha)

/-! Bays and scratchpads. -/

/-- Words that are written anew lose their marks, and nothing else changes. -/
theorem NxFrame.clearWords {sr : StrandRef} {cs : SMap Copse} {s q : State} (h : NxFrame sr cs s q) (hr : s.ecc.raw ≠ []) (die array inst lo hi : Nat) :
    NxFrame sr cs s (clearWords die array inst lo hi q) := by
  unfold Machine.clearWords
  generalize (List.partition _ _) = p
  obtain ⟨gone, kept⟩ := p
  dsimp only
  split
  · exact h
  · obtain ⟨h1, h2, h3, h4, h5, h6⟩ := h
    refine ⟨fun c n hne => ?_, ?_, ?_, ?_, fun e => absurd e hr, ?_⟩
    · rw [State.ctx?_eq, State.fset_nx]; exact h1 c n hne
    · apply State.ext <;> simp <;> rw [h2]
    · rw [State.fset_nx]; exact h3
    · rw [State.fset_mgmt]; exact h4
    · intro a d ha
      have : CW.addr .EC_DIAG_CTRL [] ≠ a := fun e => ha (by simp [e])
      exact (State.get_setWord_ne _ .EC_DIAG_CTRL [] _ d this).trans (h6 a d ha)

/-- Bytes that are written to a strand's bay. -/
theorem writeBay_of {sr : StrandRef} {cs : SMap Copse} {s q : State} {x : Ctx} {b : Nat} (hf : NxFrame sr cs s q) (hq : q.ctx? sr.copse sr.ctx = some x)
    (hb : (x.strand (strandKey sr)).bay = some b) (he : s.ecc.raw = [] → q.ecc.raw = []) (off : Nat) (bs : List Byte) :
    NxFrame sr cs s (q.writeBay sr off bs) ∧ (q.writeBay sr off bs).ctx? sr.copse sr.ctx = some { x with bays := writeBytes x.bays (bayBase sr b + off) bs } ∧
      (s.ecc.raw = [] → (q.writeBay sr off bs).ecc.raw = []) := by
  unfold State.writeBay
  rw [State.modCtx_of q hq]
  simp only [hb]
  have hp := hf.putCtx { x with bays := writeBytes x.bays (bayBase sr b + off) bs }
  have hc : (q.putCtx sr.copse sr.ctx { x with bays := writeBytes x.bays (bayBase sr b + off) bs }).ctx? sr.copse sr.ctx
      = some { x with bays := writeBytes x.bays (bayBase sr b + off) bs } := State.ctx?_putCtx_self ..
  split
  · exact ⟨hp, hc, he⟩
  · rename_i hr
    have hne : s.ecc.raw ≠ [] := fun e => hr (.inl (he e))
    split
    · refine ⟨hp.clearWords hne .., ?_, fun e => absurd e hne⟩
      rw [← hc]
      unfold Machine.clearWords
      generalize (List.partition _ _) = p
      obtain ⟨gone, kept⟩ := p
      dsimp only
      split
      · rfl
      · rw [State.ctx?_eq, State.fset_nx]; rfl
    · exact ⟨hp, hc, fun e => absurd e hne⟩

end Sys2Proof.Machine
end

