-- ==== Sys2Proof/Laws/Kept.lean ====
section
/-! SUPPORT. What every command keeps: the canonical form, the queue, and the order of time, free values and outputs; with the closure lemmas of this property. -/

namespace Sys2Proof.Machine

/-- What every command keeps, from a state q on: -/
structure Kept (q s : State) : Prop where
  ctl : SMap.sorted s.ctl = true
  t0 : SMap.wf 0 s.fab.t0 = true
  seed0 : SMap.wf 0 s.boot.seed0 = true
  seed1 : SMap.wf 0 s.boot.seed1 = true
  pending : s.pending = q.pending
  now : q.now ≤ s.now
  draws : q.draws ≤ s.draws
  out : q.out <:+ s.out

variable {q : State}

theorem kept_mk {pending now pkgRuns pkg draws ctl out pw boot link fab coh fwd sched nx svc clr com ecc mgmt} :
    Kept q (State.mk pending now pkgRuns pkg draws ctl out pw boot link fab coh fwd sched nx svc clr com ecc mgmt) ↔
      SMap.sorted ctl = true ∧ SMap.wf 0 fab.t0 = true ∧ SMap.wf 0 boot.seed0 = true ∧ SMap.wf 0 boot.seed1 = true ∧ pending = q.pending ∧ q.now ≤ now
        ∧ q.draws ≤ draws ∧ q.out <:+ out :=
  ⟨fun h => ⟨h.ctl, h.t0, h.seed0, h.seed1, h.pending, h.now, h.draws, h.out⟩,
   fun h => ⟨h.1, h.2.1, h.2.2.1, h.2.2.2.1, h.2.2.2.2.1, h.2.2.2.2.2.1, h.2.2.2.2.2.2.1, h.2.2.2.2.2.2.2⟩⟩

theorem kept_all {x : State} (h : Kept q x) :
    SMap.sorted x.ctl = true ∧ SMap.wf 0 x.fab.t0 = true ∧ SMap.wf 0 x.boot.seed0 = true ∧ SMap.wf 0 x.boot.seed1 = true ∧ x.pending = q.pending ∧ q.now ≤ x.now
      ∧ q.draws ≤ x.draws ∧ q.out <:+ x.out :=
  ⟨h.ctl, h.t0, h.seed0, h.seed1, h.pending, h.now, h.draws, h.out⟩

theorem kept_ctl {x : State} {c : SMap Word} (h : Kept q x) (hc : SMap.sorted c = true) :
    SMap.sorted c = true ∧ SMap.wf 0 x.fab.t0 = true ∧ SMap.wf 0 x.boot.seed0 = true ∧ SMap.wf 0 x.boot.seed1 = true ∧ x.pending = q.pending ∧ q.now ≤ x.now
      ∧ q.draws ≤ x.draws ∧ q.out <:+ x.out :=
  ⟨hc, h.t0, h.seed0, h.seed1, h.pending, h.now, h.draws, h.out⟩

theorem kept_t0 {x : State} {m : Store} (h : Kept q x) (hm : SMap.wf 0 m = true) :
    SMap.sorted x.ctl = true ∧ SMap.wf 0 m = true ∧ SMap.wf 0 x.boot.seed0 = true ∧ SMap.wf 0 x.boot.seed1 = true ∧ x.pending = q.pending ∧ q.now ≤ x.now
      ∧ q.draws ≤ x.draws ∧ q.out <:+ x.out :=
  ⟨h.ctl, hm, h.seed0, h.seed1, h.pending, h.now, h.draws, h.out⟩

theorem kept_seed0 {x : State} {m : Store} (h : Kept q x) (hm : SMap.wf 0 m = true) :
    SMap.sorted x.ctl = true ∧ SMap.wf 0 x.fab.t0 = true ∧ SMap.wf 0 m = true ∧ SMap.wf 0 x.boot.seed1 = true ∧ x.pending = q.pending ∧ q.now ≤ x.now
      ∧ q.draws ≤ x.draws ∧ q.out <:+ x.out :=
  ⟨h.ctl, h.t0, hm, h.seed1, h.pending, h.now, h.draws, h.out⟩

theorem kept_seed1 {x : State} {m : Store} (h : Kept q x) (hm : SMap.wf 0 m = true) :
    SMap.sorted x.ctl = true ∧ SMap.wf 0 x.fab.t0 = true ∧ SMap.wf 0 x.boot.seed0 = true ∧ SMap.wf 0 m = true ∧ x.pending = q.pending ∧ q.now ≤ x.now
      ∧ q.draws ≤ x.draws ∧ q.out <:+ x.out :=
  ⟨h.ctl, h.t0, h.seed0, hm, h.pending, h.now, h.draws, h.out⟩

theorem wf_nil : SMap.wf (0 : Byte) [] = true := rfl

theorem copyRegion_wf {r : Nat} {a b : Store} (h : SMap.wf 0 b = true) : SMap.wf 0 (copyRegion r a b) = true := by
  unfold copyRegion
  dsimp only
  generalize SMap.keep _ a = l
  have h' : SMap.wf 0 (clearRange b (regionSpan r).1 (regionSpan r).2) = true := SMap.wf_keep 0 h _
  generalize clearRange b (regionSpan r).1 (regionSpan r).2 = m at h'
  induction l generalizing m with
  | nil => exact h'
  | cons e l ih => exact ih _ (SMap.wf_set 0 h' _ _)

theorem kept_ite {c : Prop} [Decidable c] {a b : State} (h1 : Kept q a) (h2 : Kept q b) : Kept q (if c then a else b) := by split <;> assumption

theorem kept_foldl {α : Type} {f : State → α → State} {l : List α} {s : State} (h : Kept q s) (hf : ∀ s e, Kept q s → Kept q (f s e)) : Kept q (l.foldl f s) := by
  induction l generalizing s with
  | nil => exact h
  | cons a l ih => exact ih (hf _ _ h)

theorem kept_foldr {α : Type} {f : α → State → State} {l : List α} {s : State} (h : Kept q s) (hf : ∀ e s, Kept q s → Kept q (f e s)) : Kept q (l.foldr f s) := by
  induction l with
  | nil => exact h
  | cons a l ih => exact hf _ _ ih

theorem kept_foldl2 {α β : Type} {f : β × State → α → β × State} {l : List α} {p : β × State} (h : Kept q p.2) (hf : ∀ p e, Kept q p.2 → Kept q (f p e).2) :
    Kept q (l.foldl f p).2 := by
  induction l generalizing p with
  | nil => exact h
  | cons a l ih => exact ih (hf _ _ h)

theorem kept_ite2 {α : Type} {c : Prop} [Decidable c] {a b : α × State} (h1 : Kept q a.2) (h2 : Kept q b.2) : Kept q (if c then a else b).2 := by
  split <;> assumption

theorem kept_snd {α : Type} {p : α × State} {a : α} {s' : State} (e : p = (a, s')) (h : Kept q p.2) : Kept q s' := by
  rw [e] at h
  exact h

/-- A state that may be absent. -/
structure KeptOpt (q : State) (o : Option State) : Prop where
  some : ∀ s, o = Option.some s → Kept q s

theorem kept_some {p : Option State} {s' : State} (e : p = some s') (h : KeptOpt q p) : Kept q s' := h.some _ e

theorem keptOpt_none : KeptOpt q none := ⟨fun _ h => nomatch h⟩

theorem keptOpt_some {s : State} (h : Kept q s) : KeptOpt q (some s) := ⟨fun _ e => by cases e; exact h⟩

theorem keptOpt_ite {c : Prop} [Decidable c] {a b : Option State} (h1 : KeptOpt q a) (h2 : KeptOpt q b) : KeptOpt q (if c then a else b) := by
  split <;> assumption

theorem keptOpt_map {f : State → State} {o : Option State} (h : KeptOpt q o) (hf : ∀ s, Kept q s → Kept q (f s)) : KeptOpt q (o.map f) := by
  cases o with
  | none => exact keptOpt_none
  | some s => exact keptOpt_some (hf s (h.some s rfl))

theorem kept_getD {o : Option State} {d : State} (h : KeptOpt q o) (h' : Kept q d) : Kept q (o.getD d) := by
  cases o with
  | none => exact h'
  | some s => exact h.some s rfl

/-- A command's answer. -/
structure KeptOut (q : State) (o : Out) : Prop where
  next : ∀ s, o = .next s → Kept q s

theorem keptOut_next {s : State} (h : Kept q s) : KeptOut q (.next s) := ⟨fun _ e => by cases e; exact h⟩

theorem keptOut_ite {c : Prop} [Decidable c] {a b : Out} (h1 : KeptOut q a) (h2 : KeptOut q b) : KeptOut q (if c then a else b) := by
  split <;> assumption

end Sys2Proof.Machine
end

