-- ==== Sys2Proof/Laws/KeptA.lean ====
section
/-! SUPPORT. The operations keep it, first part. -/

namespace Sys2Proof.Machine

set_option linter.unusedTactic false
set_option linter.unreachableTactic false
set_option linter.unusedVariables false

variable {q : State}



theorem State.addTotal_kept {s0 x1 x2} (h0 : Kept q s0) : Kept q (State.addTotal s0 x1 x2) := by
  unfold State.addTotal
  try dsimp only
  repeat' (first | (with_reducible first | assumption | apply kept_all) | (simp only [kept_mk]))

theorem State.setWord_kept {s : State} {w ix v} (h : Kept q s) : Kept q (s.setWord w ix v) := by
  unfold State.setWord
  split
  · exact ⟨SMap.sorted_set _ h.ctl _ _, h.t0, h.seed0, h.seed1, h.pending, h.now, h.draws, h.out⟩
  · exact h

theorem State.fset_kept {s0 x1 x2 x3} (h0 : Kept q s0) : Kept q (State.fset s0 x1 x2 x3) := by
  unfold State.fset
  try dsimp only
  repeat' (first | (with_reducible first | assumption | apply State.setWord_kept))

theorem State.fadd_kept {s0 x1 x2 x3} (h0 : Kept q s0) : Kept q (State.fadd s0 x1 x2 x3) := by
  unfold State.fadd
  try dsimp only
  repeat' (first | (with_reducible first | assumption | apply State.addTotal_kept | apply State.fset_kept))

theorem State.fwrap_kept {s0 x1 x2 x3} (h0 : Kept q s0) : Kept q (State.fwrap s0 x1 x2 x3) := by
  unfold State.fwrap
  try dsimp only
  repeat' (first | (with_reducible first | assumption | apply State.addTotal_kept | apply State.fset_kept))

theorem State.setEvAux_kept {s0 x1 x2 x3} (h0 : Kept q s0) : Kept q (State.setEvAux s0 x1 x2 x3) := by
  unfold State.setEvAux
  try dsimp only
  repeat' (first | (with_reducible first | assumption | apply kept_all) | (simp only [kept_mk]))

theorem countEdge_kept {x0 x1 s2} (h2 : Kept q s2) : Kept q (countEdge x0 x1 s2) := by
  unfold countEdge
  try dsimp only
  repeat' (first | (with_reducible first | assumption | apply kept_ite | apply kept_ite2 | apply kept_getD | apply State.fset_kept | apply State.fwrap_kept | apply State.setEvAux_kept) | split | (dsimp only))

theorem runPackage_kept {x0 s1} (h1 : Kept q s1) : Kept q (runPackage x0 s1) := by
  unfold runPackage
  try dsimp only
  repeat' (first | (with_reducible first | assumption | apply kept_all) | (simp only [kept_mk]) | (with_reducible first | apply kept_ite | apply kept_ite2) | split | (dsimp only))

theorem State.setNow_kept {s : State} {n : Nat} (h : Kept q s) (hn : s.now ≤ n) : Kept q { s with now := n } :=
  ⟨h.ctl, h.t0, h.seed0, h.seed1, h.pending, h.now.trans hn, h.draws, h.out⟩

theorem State.upTo_kept {s : State} {t} (h : Kept q s) : Kept q (s.upTo t) := by
  unfold State.upTo
  dsimp only
  have h1 : Kept q { (if s.fget PW_THERM.CUT [] = 0 then s else s.fwrap PW_THERM.CUT_TICKS [] (aoTicksAt s.pw.aoStart (s.now + (t - s.now)) - s.aoTicks)) with
      now := s.now + (t - s.now) } := by
    apply State.setNow_kept
    · exact kept_ite h (State.fwrap_kept h)
    · split
      · exact Nat.le_add_right ..
      · rw [State.fwrap_now]
        exact Nat.le_add_right ..
  split
  · exact runPackage_kept h1
  · exact h1

theorem sampleSource_kept {x0 x1 x2 s3} (h3 : Kept q s3) : Kept q (sampleSource x0 x1 x2 s3) := by
  unfold sampleSource
  try dsimp only
  repeat' (first | (with_reducible first | assumption | apply kept_ite | apply kept_ite2 | apply State.fset_kept | apply countEdge_kept) | split | (dsimp only) | (with_reducible first | refine kept_snd (by with_reducible assumption) ?_ | refine kept_some (by with_reducible assumption) ?_))

theorem setSource_kept {x0 x1 s2} (h2 : Kept q s2) : Kept q (setSource x0 x1 s2) := by
  unfold setSource
  try dsimp only
  repeat' (first | (with_reducible first | assumption | apply sampleSource_kept))

theorem ok_kept {s0} (h0 : Kept q s0) : KeptOut q (ok s0) := by
  unfold ok
  try dsimp only
  repeat' (first | (with_reducible first | assumption | apply keptOut_next))

theorem State.emit_kept {s : State} {o} (h : Kept q s) : Kept q (s.emit o) :=
  ⟨h.ctl, h.t0, h.seed0, h.seed1, h.pending, h.now, h.draws, h.out.trans (List.suffix_cons ..)⟩

theorem State.done_kept {s0 x1 x2} (h0 : Kept q s0) : Kept q (State.done s0 x1 x2) := by
  unfold State.done
  try dsimp only
  repeat' (first | (with_reducible first | assumption | apply State.emit_kept))

theorem State.draw_kept {s : State} (h : Kept q s) : Kept q s.draw :=
  ⟨h.ctl, h.t0, h.seed0, h.seed1, h.pending, h.now, Nat.le_succ_of_le h.draws, h.out⟩

theorem fullReset_kept {c} {s : State} (h : Kept q s) : Kept q (fullReset c s) :=
  ⟨rfl, rfl, h.seed0, h.seed1, h.pending, h.now, h.draws, h.out⟩

theorem whenever_kept {x0 s1 s2} (h1 : Kept q s1) (h2 : Kept q s2) : KeptOut q (whenever x0 s1 s2) := by
  unfold whenever
  try dsimp only
  repeat' (first | (with_reducible first | assumption | apply kept_ite | apply kept_ite2 | apply keptOut_next | apply keptOut_ite) | split | (dsimp only))

theorem pulse_kept {x0 s1} (h1 : Kept q s1) : Kept q (pulse x0 s1) := by
  unfold pulse
  try dsimp only
  repeat' (first | (with_reducible first | assumption | apply setSource_kept))

theorem State.setLport_kept {s0 x1 x2} (h0 : Kept q s0) : Kept q (State.setLport s0 x1 x2) := by
  unfold State.setLport
  try dsimp only
  repeat' (first | (with_reducible first | assumption | apply kept_all) | (simp only [kept_mk]))

theorem groupStart_kept {x0 s1} (h1 : Kept q s1) : Kept q (groupStart x0 s1) := by
  unfold groupStart
  try dsimp only
  repeat' (first | (with_reducible first | assumption | apply State.fset_kept | apply State.setLport_kept) | split | (dsimp only) | (with_reducible first | refine kept_snd (by with_reducible assumption) ?_ | refine kept_some (by with_reducible assumption) ?_))

theorem makeFlit_kept {x0 x1 x2 x3 s4} (h4 : Kept q s4) : Kept q (makeFlit x0 x1 x2 x3 s4).2 := by
  unfold makeFlit
  try dsimp only
  repeat' (first | (with_reducible first | assumption | apply kept_ite | apply kept_ite2 | apply groupStart_kept | apply State.setLport_kept) | split | (dsimp only) | (with_reducible first | refine kept_snd (by with_reducible assumption) ?_ | refine kept_some (by with_reducible assumption) ?_))

theorem transmit_kept {x0 x1 s2} (h2 : Kept q s2) : Kept q (transmit x0 x1 s2) := by
  unfold transmit
  try dsimp only
  repeat' (first | (with_reducible first | assumption | apply State.addTotal_kept | apply State.emit_kept | apply State.setLport_kept))

theorem sendSequenced_kept {x0 x1 x2 x3 s4} (h4 : Kept q s4) : Kept q (sendSequenced x0 x1 x2 x3 s4) := by
  unfold sendSequenced
  try dsimp only
  repeat' (first | (with_reducible first | assumption | apply kept_ite | apply kept_ite2 | apply State.setLport_kept | apply makeFlit_kept | apply transmit_kept) | split | (dsimp only) | (with_reducible first | refine kept_snd (by with_reducible assumption) ?_ | refine kept_some (by with_reducible assumption) ?_))

theorem sendLinkMsg_kept {x0 x1 x2 s3} (h3 : Kept q s3) : Kept q (sendLinkMsg x0 x1 x2 s3) := by
  unfold sendLinkMsg
  try dsimp only
  repeat' (first | (with_reducible first | assumption | apply sendSequenced_kept))

theorem replayFlits_kept {x0 x1 s2} (h2 : Kept q s2) : Kept q (replayFlits x0 x1 s2) := by
  induction x1 generalizing x0 s2 with
  | nil =>
    unfold replayFlits
    try dsimp only
    repeat' (first | (with_reducible first | assumption | apply transmit_kept) | split | (dsimp only) | (with_reducible first | refine kept_snd (by with_reducible assumption) ?_ | refine kept_some (by with_reducible assumption) ?_))
  | cons a l ih =>
    unfold replayFlits
    try dsimp only
    repeat' (first | (with_reducible first | assumption | apply ih | apply transmit_kept) | split | (dsimp only) | (with_reducible first | refine kept_snd (by with_reducible assumption) ?_ | refine kept_some (by with_reducible assumption) ?_))

theorem startReplay_kept {x0 s1} (h1 : Kept q s1) : Kept q (startReplay x0 s1) := by
  unfold startReplay
  try dsimp only
  repeat' (first | (with_reducible first | assumption | apply kept_ite | apply kept_ite2 | apply State.setLport_kept | apply replayFlits_kept | apply State.fadd_kept) | split | (dsimp only) | (with_reducible first | refine kept_snd (by with_reducible assumption) ?_ | refine kept_some (by with_reducible assumption) ?_))

theorem sendSlots_kept {x0 x1 x2 s3} (h3 : Kept q s3) : Kept q (sendSlots x0 x1 x2 s3) := by
  unfold sendSlots
  try dsimp only
  repeat' (first | (with_reducible first | assumption | apply kept_ite | apply kept_ite2 | apply sendSequenced_kept) | split | (dsimp only) | (with_reducible first | refine kept_snd (by with_reducible assumption) ?_ | refine kept_some (by with_reducible assumption) ?_))

theorem drainWait_kept {x0 x1 s2} (h2 : Kept q s2) : Kept q (drainWait x0 x1 s2) := by
  induction x0 generalizing x1 s2 with
  | zero =>
    unfold drainWait
    try dsimp only
    repeat' (first | (with_reducible first | assumption | apply kept_ite | apply kept_ite2 | apply sendSequenced_kept | apply State.setLport_kept) | split | (dsimp only) | (with_reducible first | refine kept_snd (by with_reducible assumption) ?_ | refine kept_some (by with_reducible assumption) ?_))
  | succ k ih =>
    unfold drainWait
    try dsimp only
    repeat' (first | (with_reducible first | assumption | apply kept_ite | apply kept_ite2 | apply ih | apply sendSequenced_kept | apply State.setLport_kept) | split | (dsimp only) | (with_reducible first | refine kept_snd (by with_reducible assumption) ?_ | refine kept_some (by with_reducible assumption) ?_))

theorem resend_kept {x0 s1} (h1 : Kept q s1) : Kept q (resend x0 s1) := by
  unfold resend
  try dsimp only
  repeat' (first | (with_reducible first | assumption | apply drainWait_kept | apply replayFlits_kept | apply State.setLport_kept))

theorem sendLane_kept {x0 x1 x2 x3 s4} (h4 : Kept q s4) : Kept q (sendLane x0 x1 x2 x3 s4) := by
  unfold sendLane
  try dsimp only
  repeat' (first | (with_reducible first | assumption | apply State.emit_kept))

theorem State.setFwUse_kept {s0 x1 x2 x3} (h0 : Kept q s0) : Kept q (State.setFwUse s0 x1 x2 x3) := by
  unfold State.setFwUse
  try dsimp only
  repeat' (first | (with_reducible first | assumption | apply kept_all) | (simp only [kept_mk]))

theorem addCharge_kept {x0 x1 x2 x3 x4 s5} (h5 : Kept q s5) : Kept q (addCharge x0 x1 x2 x3 x4 s5) := by
  unfold addCharge
  try dsimp only
  repeat' (first | (with_reducible first | assumption | apply State.setFwUse_kept) | split | (dsimp only) | (with_reducible first | refine kept_snd (by with_reducible assumption) ?_ | refine kept_some (by with_reducible assumption) ?_))

theorem State.setEgQ_kept {s0 x1 x2 x3} (h0 : Kept q s0) : Kept q (State.setEgQ s0 x1 x2 x3) := by
  unfold State.setEgQ
  try dsimp only
  repeat' (first | (with_reducible first | assumption | apply kept_all) | (simp only [kept_mk]))

theorem admitPointer_kept {x0 x1 x2 s3} (h3 : Kept q s3) : KeptOpt q (admitPointer x0 x1 x2 s3) := by
  unfold admitPointer
  try dsimp only
  repeat' (first | (with_reducible first | assumption | apply kept_ite | apply kept_ite2 | apply keptOpt_map | apply keptOpt_some | exact keptOpt_none | apply keptOpt_ite | apply addCharge_kept | apply State.setEgQ_kept) | split | (dsimp only))

theorem writeChannel_kept {a b c} {s : State} (h : Kept q s) : Kept q (writeChannel a b c s) :=
  ⟨h.ctl, writeBytes_wf h.t0 .., h.seed0, h.seed1, h.pending, h.now, h.draws, h.out⟩

theorem trailRing_kept {x0 x1 x2 x3 x4 x5 x6 x7 s8} (h8 : Kept q s8) : Kept q (trailRing x0 x1 x2 x3 x4 x5 x6 x7 s8) := by
  unfold trailRing
  try dsimp only
  repeat' (first | (with_reducible first | assumption | apply kept_all) | (simp only [kept_mk]) | (with_reducible first | apply kept_ite | apply kept_ite2 | apply State.fadd_kept | apply writeChannel_kept | apply State.setWord_kept) | split | (dsimp only) | (with_reducible first | refine kept_snd (by with_reducible assumption) ?_ | refine kept_some (by with_reducible assumption) ?_))

theorem trail_kept {x0 x1 s2} (h2 : Kept q s2) : Kept q (trail x0 x1 s2) := by
  unfold trail
  try dsimp only
  repeat' (first | (with_reducible first | assumption | apply kept_ite | apply kept_ite2 | apply trailRing_kept) | split | (dsimp only))

theorem refuseCell_kept {x0 x1 s2} (h2 : Kept q s2) : Kept q (refuseCell x0 x1 s2) := by
  unfold refuseCell
  try dsimp only
  repeat' (first | (with_reducible first | assumption | apply kept_all) | (simp only [kept_mk]) | (with_reducible first | apply State.fadd_kept | refine kept_snd (by with_reducible assumption) ?_ | refine kept_some (by with_reducible assumption) ?_))

theorem toOverflow_kept {x0 x1 s2} (h2 : Kept q s2) : KeptOpt q (toOverflow x0 x1 s2) := by
  unfold toOverflow
  try dsimp only
  repeat' (first | (with_reducible first | assumption | apply kept_ite | apply kept_ite2 | apply keptOpt_map | apply keptOpt_some | exact keptOpt_none | apply keptOpt_ite | apply trail_kept | apply State.fadd_kept | apply State.setEgQ_kept) | split | (dsimp only) | (with_reducible first | refine kept_snd (by with_reducible assumption) ?_ | refine kept_some (by with_reducible assumption) ?_))

theorem admitEgress_kept {x0 x1 s2} (h2 : Kept q s2) : KeptOpt q (admitEgress x0 x1 s2) := by
  unfold admitEgress
  try dsimp only
  repeat' (first | (with_reducible first | assumption | apply kept_ite | apply kept_ite2 | apply keptOpt_map | apply keptOpt_some | exact keptOpt_none | apply keptOpt_ite | apply toOverflow_kept | apply State.setEgQ_kept | apply addCharge_kept) | split | (dsimp only) | (with_reducible first | refine kept_snd (by with_reducible assumption) ?_ | refine kept_some (by with_reducible assumption) ?_))

theorem State.setFlow_kept {s0 x1 x2} (h0 : Kept q s0) : Kept q (State.setFlow s0 x1 x2) := by
  unfold State.setFlow
  try dsimp only
  repeat' (first | (with_reducible first | assumption | apply kept_all) | (simp only [kept_mk]))

theorem admitMesh_kept {x0 s1} (h1 : Kept q s1) : KeptOpt q (admitMesh x0 s1) := by
  unfold admitMesh
  try dsimp only
  repeat' (first | (with_reducible first | assumption | apply keptOpt_map | apply keptOpt_some | exact keptOpt_none | apply keptOpt_ite | apply State.setFlow_kept | apply addCharge_kept) | split | (dsimp only) | (with_reducible first | refine kept_snd (by with_reducible assumption) ?_ | refine kept_some (by with_reducible assumption) ?_))

theorem tryEnter_kept {x0 s1} (h1 : Kept q s1) : KeptOpt q (tryEnter x0 s1) := by
  unfold tryEnter
  try dsimp only
  repeat' (first | (with_reducible assumption) | (intro _) | (with_reducible first | apply kept_ite | apply kept_ite2 | apply keptOpt_map | apply keptOpt_some | exact keptOpt_none | apply keptOpt_ite | apply admitEgress_kept | apply admitMesh_kept | apply trail_kept) | split | (dsimp only))

theorem enterCell_kept {x0 s1} (h1 : Kept q s1) : Kept q (enterCell x0 s1) := by
  unfold enterCell
  try dsimp only
  repeat' (first | (with_reducible first | assumption | apply kept_ite | apply kept_ite2 | apply keptOpt_map | apply keptOpt_some | exact keptOpt_none | apply keptOpt_ite | apply kept_getD | apply refuseCell_kept | apply tryEnter_kept) | split | (dsimp only))

theorem sendCell_kept {x0 x1 x2 x3 x4 x5 x6 x7 x8 x9 s10} (h10 : Kept q s10) : Kept q (sendCell x0 x1 x2 x3 x4 x5 x6 x7 x8 x9 s10) := by
  unfold sendCell
  try dsimp only
  repeat' (first | (with_reducible first | assumption | apply enterCell_kept))

theorem dropCharge_kept {x0 x1 x2 x3 x4 s5} (h5 : Kept q s5) : Kept q (dropCharge x0 x1 x2 x3 x4 s5) := by
  unfold dropCharge
  try dsimp only
  repeat' (first | (with_reducible first | assumption | apply State.setFwUse_kept) | split | (dsimp only) | (with_reducible first | refine kept_snd (by with_reducible assumption) ?_ | refine kept_some (by with_reducible assumption) ?_))

theorem dropPointer_kept {x0 s1} (h1 : Kept q s1) : Kept q (dropPointer x0 s1) := by
  unfold dropPointer
  try dsimp only
  repeat' (first | (with_reducible first | assumption | apply kept_all) | (simp only [kept_mk]) | (with_reducible first | apply kept_ite | apply kept_ite2 | apply dropCharge_kept) | split | (dsimp only) | (with_reducible first | refine kept_snd (by with_reducible assumption) ?_ | refine kept_some (by with_reducible assumption) ?_))

theorem mcPointers_kept {x0 x1 x2 x3 s4} (h4 : Kept q s4) : Kept q (mcPointers x0 x1 x2 x3 s4).2 := by
  induction x2 generalizing x0 x1 x3 s4 with
  | nil =>
    unfold mcPointers
    try dsimp only
    repeat' (first | (with_reducible first | assumption | apply kept_ite | apply kept_ite2 | apply keptOpt_map | apply keptOpt_some | exact keptOpt_none | apply keptOpt_ite | apply admitPointer_kept | apply toOverflow_kept | apply refuseCell_kept) | split | (dsimp only) | (with_reducible first | refine kept_snd (by with_reducible assumption) ?_ | refine kept_some (by with_reducible assumption) ?_))
  | cons a l ih =>
    unfold mcPointers
    try dsimp only
    repeat' (first | (with_reducible first | assumption | apply kept_ite | apply kept_ite2 | apply keptOpt_map | apply keptOpt_some | exact keptOpt_none | apply keptOpt_ite | apply ih | apply admitPointer_kept | apply toOverflow_kept | apply refuseCell_kept) | split | (dsimp only) | (with_reducible first | refine kept_snd (by with_reducible assumption) ?_ | refine kept_some (by with_reducible assumption) ?_))

theorem returnCredit_kept {x0 x1 x2 s3} (h3 : Kept q s3) : Kept q (returnCredit x0 x1 x2 s3) := by
  unfold returnCredit
  try dsimp only
  repeat' (first | (with_reducible first | assumption | apply State.setLport_kept))

theorem mcLocal_kept {x0 x1 s2} (h2 : Kept q s2) : Kept q (mcLocal x0 x1 s2) := by
  unfold mcLocal
  try dsimp only
  repeat' (first | (with_reducible first | assumption | apply kept_all) | (simp only [kept_mk]) | (with_reducible first | apply kept_ite | apply kept_ite2 | apply mcPointers_kept | apply State.fadd_kept) | split | (dsimp only) | (with_reducible first | refine kept_snd (by with_reducible assumption) ?_ | refine kept_some (by with_reducible assumption) ?_))

theorem mcEnter_kept {x0 s1} (h1 : Kept q s1) : Kept q (mcEnter x0 s1) := by
  unfold mcEnter
  try dsimp only
  repeat' (first | (with_reducible assumption) | (intro _) | (with_reducible first | apply kept_ite | apply kept_ite2 | apply kept_foldl | apply kept_foldl2 | apply keptOpt_map | apply keptOpt_some | exact keptOpt_none | apply keptOpt_ite | apply kept_getD | apply refuseCell_kept | apply admitMesh_kept | apply mcLocal_kept) | split | (dsimp only))

theorem sendReq_kept {x0 x1 x2 x3 x4 s5} (h5 : Kept q s5) : Kept q (sendReq x0 x1 x2 x3 x4 s5) := by
  unfold sendReq
  try dsimp only
  repeat' (first | (with_reducible assumption) | (intro _) | (with_reducible apply sendCell_kept))

theorem sendUnitSegs_kept {x0 x1 x2 s3} (h3 : Kept q s3) : Kept q (sendUnitSegs x0 x1 x2 s3) := by
  induction x2 generalizing x0 x1 s3 with
  | nil =>
    unfold sendUnitSegs
    try dsimp only
    repeat' (first | (with_reducible first | assumption | apply sendReq_kept) | split | (dsimp only) | (with_reducible first | refine kept_snd (by with_reducible assumption) ?_ | refine kept_some (by with_reducible assumption) ?_))
  | cons a l ih =>
    unfold sendUnitSegs
    try dsimp only
    repeat' (first | (with_reducible first | assumption | apply ih | apply sendReq_kept) | split | (dsimp only) | (with_reducible first | refine kept_snd (by with_reducible assumption) ?_ | refine kept_some (by with_reducible assumption) ?_))

theorem sendMsgSegs_kept {x0 x1 x2 x3 x4 x5 x6 x7 x8 s9} (h9 : Kept q s9) : Kept q (sendMsgSegs x0 x1 x2 x3 x4 x5 x6 x7 x8 s9) := by
  induction x6 generalizing x0 x1 x2 x3 x4 x5 x7 x8 s9 with
  | zero =>
    unfold sendMsgSegs
    try dsimp only
    repeat' (first | (with_reducible first | assumption | apply sendCell_kept) | split | (dsimp only) | (with_reducible first | refine kept_snd (by with_reducible assumption) ?_ | refine kept_some (by with_reducible assumption) ?_))
  | succ k ih =>
    unfold sendMsgSegs
    try dsimp only
    repeat' (first | (with_reducible first | assumption | apply ih | apply sendCell_kept) | split | (dsimp only) | (with_reducible first | refine kept_snd (by with_reducible assumption) ?_ | refine kept_some (by with_reducible assumption) ?_))

theorem emitTxn_kept {x0 x1 s2} (h2 : Kept q s2) : Kept q (emitTxn x0 x1 s2) := by
  unfold emitTxn
  try dsimp only
  repeat' (first | (with_reducible first | assumption | apply kept_ite | apply kept_ite2 | apply sendReq_kept | apply sendUnitSegs_kept | apply sendMsgSegs_kept) | split | (dsimp only) | (with_reducible first | refine kept_snd (by with_reducible assumption) ?_ | refine kept_some (by with_reducible assumption) ?_))

theorem State.putTxn_kept {s0 x1} (h0 : Kept q s0) : Kept q (State.putTxn s0 x1) := by
  unfold State.putTxn
  try dsimp only
  repeat' (first | (with_reducible first | assumption | apply kept_all) | (simp only [kept_mk]))

theorem State.delTxn_kept {s0 x1} (h0 : Kept q s0) : Kept q (State.delTxn s0 x1) := by
  unfold State.delTxn
  try dsimp only
  repeat' (first | (with_reducible first | assumption | apply kept_all) | (simp only [kept_mk]))

theorem respond_kept {x0 x1 x2 x3 x4 x5 x6 x7 x8 x9 s10} (h10 : Kept q s10) : Kept q (respond x0 x1 x2 x3 x4 x5 x6 x7 x8 x9 s10) := by
  unfold respond
  try dsimp only
  repeat' (first | (with_reducible first | assumption | apply kept_ite | apply kept_ite2 | apply sendCell_kept | apply State.fadd_kept) | split | (dsimp only))

theorem respondSegs_kept {x0 x1 x2 x3 x4 x5 x6 x7 x8 s9} (h9 : Kept q s9) : Kept q (respondSegs x0 x1 x2 x3 x4 x5 x6 x7 x8 s9) := by
  induction x7 generalizing x0 x1 x2 x3 x4 x5 x6 x8 s9 with
  | zero =>
    unfold respondSegs
    try dsimp only
    repeat' (first | (with_reducible first | assumption | apply respond_kept) | split | (dsimp only) | (with_reducible first | refine kept_snd (by with_reducible assumption) ?_ | refine kept_some (by with_reducible assumption) ?_))
  | succ k ih =>
    unfold respondSegs
    try dsimp only
    repeat' (first | (with_reducible first | assumption | apply ih | apply respond_kept) | split | (dsimp only) | (with_reducible first | refine kept_snd (by with_reducible assumption) ?_ | refine kept_some (by with_reducible assumption) ?_))

theorem endReq_kept {x0 x1 x2 x3 x4 x5 x6 s7} (h7 : Kept q s7) : Kept q (endReq x0 x1 x2 x3 x4 x5 x6 s7) := by
  unfold endReq
  try dsimp only
  repeat' (first | (with_reducible first | assumption | apply kept_all) | (simp only [kept_mk]) | (with_reducible first | apply kept_ite | apply kept_ite2 | apply respondSegs_kept | apply respond_kept) | split | (dsimp only) | (with_reducible first | refine kept_snd (by with_reducible assumption) ?_ | refine kept_some (by with_reducible assumption) ?_))

theorem endTxn_kept {x0 x1 x2 s3} (h3 : Kept q s3) : Kept q (endTxn x0 x1 x2 s3) := by
  unfold endTxn
  try dsimp only
  repeat' (first | (with_reducible first | assumption | apply kept_ite | apply kept_ite2 | apply State.delTxn_kept | apply endReq_kept) | split | (dsimp only))

theorem timeoutTxn_kept {x0 s1} (h1 : Kept q s1) : Kept q (timeoutTxn x0 s1) := by
  unfold timeoutTxn
  try dsimp only
  repeat' (first | (with_reducible first | assumption | apply kept_ite | apply kept_ite2 | apply endTxn_kept | apply State.fadd_kept) | split | (dsimp only))

theorem launch_kept {x0 x1 s2} (h2 : Kept q s2) : Kept q (launch x0 x1 s2) := by
  unfold launch
  try dsimp only
  repeat' (first | (with_reducible first | assumption | apply kept_ite | apply kept_ite2 | apply emitTxn_kept | apply State.putTxn_kept | apply timeoutTxn_kept) | split | (dsimp only) | (with_reducible first | refine kept_snd (by with_reducible assumption) ?_ | refine kept_some (by with_reducible assumption) ?_))

theorem atomicStore_kept {x0 s1} (h1 : Kept q s1) : Kept q (atomicStore x0 s1) := by
  unfold atomicStore
  try dsimp only
  repeat' (first | (with_reducible first | assumption | apply launch_kept | apply State.putTxn_kept) | split | (dsimp only) | (with_reducible first | refine kept_snd (by with_reducible assumption) ?_ | refine kept_some (by with_reducible assumption) ?_))

theorem State.addTxn_kept {s0 x1} (h0 : Kept q s0) : Kept q (State.addTxn s0 x1) := by
  unfold State.addTxn
  try dsimp only
  repeat' (first | (with_reducible first | assumption | apply kept_all) | (simp only [kept_mk]))

theorem joinUnit_kept {x0 x1 s2} (h2 : Kept q s2) : Kept q (joinUnit x0 x1 s2) := by
  unfold joinUnit
  try dsimp only
  repeat' (first | (with_reducible first | assumption | apply kept_all) | (simp only [kept_mk]) | (with_reducible first | apply kept_ite | apply kept_ite2 | apply State.addTxn_kept) | split | (dsimp only) | (with_reducible first | refine kept_snd (by with_reducible assumption) ?_ | refine kept_some (by with_reducible assumption) ?_))

theorem finishPages_kept {x0 s1} (h1 : Kept q s1) : Kept q (finishPages x0 s1) := by
  unfold finishPages
  try dsimp only
  repeat' (first | (with_reducible first | assumption | apply kept_ite | apply kept_ite2 | apply kept_getD | apply endTxn_kept | apply State.putTxn_kept) | split | (dsimp only) | (with_reducible first | refine kept_snd (by with_reducible assumption) ?_ | refine kept_some (by with_reducible assumption) ?_))

theorem finishIfHeld_kept {x0 s1} (h1 : Kept q s1) : Kept q (finishIfHeld x0 s1) := by
  unfold finishIfHeld
  try dsimp only
  repeat' (first | (with_reducible first | assumption | apply kept_ite | apply kept_ite2 | apply finishPages_kept) | split | (dsimp only) | (with_reducible first | refine kept_snd (by with_reducible assumption) ?_ | refine kept_some (by with_reducible assumption) ?_))

theorem routeTxn_kept {x0 s1} (h1 : Kept q s1) : Kept q (routeTxn x0 s1) := by
  unfold routeTxn
  try dsimp only
  repeat' (first | (with_reducible first | assumption | apply kept_ite | apply kept_ite2 | apply kept_getD | apply endTxn_kept | apply State.putTxn_kept | apply launch_kept) | split | (dsimp only) | (with_reducible first | refine kept_snd (by with_reducible assumption) ?_ | refine kept_some (by with_reducible assumption) ?_))

theorem startTxn_kept {x0 s1} (h1 : Kept q s1) : Kept q (startTxn x0 s1) := by
  unfold startTxn
  try dsimp only
  repeat' (first | (with_reducible first | assumption | apply routeTxn_kept | apply State.addTxn_kept))

theorem startPageRead_kept {x0 x1 s2} (h2 : Kept q s2) : Kept q (startPageRead x0 x1 s2) := by
  unfold startPageRead
  try dsimp only
  repeat' (first | (with_reducible first | assumption | apply kept_ite | apply kept_ite2 | apply startTxn_kept | apply State.fadd_kept) | split | (dsimp only))

theorem fetchPages_kept {x0 x1 s2} (h2 : Kept q s2) : Kept q (fetchPages x0 x1 s2) := by
  induction x1 generalizing x0 s2 with
  | nil =>
    unfold fetchPages
    try dsimp only
    repeat' (first | (with_reducible first | assumption | apply kept_all) | (simp only [kept_mk]) | (with_reducible first | apply kept_ite | apply kept_ite2 | apply State.fadd_kept | apply State.putTxn_kept | apply startPageRead_kept) | split | (dsimp only) | (with_reducible first | refine kept_snd (by with_reducible assumption) ?_ | refine kept_some (by with_reducible assumption) ?_))
  | cons a l ih =>
    unfold fetchPages
    try dsimp only
    repeat' (first | (with_reducible first | assumption | apply kept_all) | (simp only [kept_mk]) | (with_reducible first | apply kept_ite | apply kept_ite2 | apply ih | apply State.fadd_kept | apply State.putTxn_kept | apply startPageRead_kept) | split | (dsimp only) | (with_reducible first | refine kept_snd (by with_reducible assumption) ?_ | refine kept_some (by with_reducible assumption) ?_))

theorem retryPages_kept {x0 s1} (h1 : Kept q s1) : Kept q (retryPages x0 s1) := by
  induction x0 generalizing s1 with
  | nil =>
    unfold retryPages
    try dsimp only
    repeat' (first | (with_reducible first | assumption | apply kept_ite | apply kept_ite2 | apply finishIfHeld_kept | apply fetchPages_kept) | split | (dsimp only) | (with_reducible first | refine kept_snd (by with_reducible assumption) ?_ | refine kept_some (by with_reducible assumption) ?_))
  | cons a l ih =>
    unfold retryPages
    try dsimp only
    repeat' (first | (with_reducible first | assumption | apply kept_ite | apply kept_ite2 | apply ih | apply finishIfHeld_kept | apply fetchPages_kept) | split | (dsimp only) | (with_reducible first | refine kept_snd (by with_reducible assumption) ?_ | refine kept_some (by with_reducible assumption) ?_))

theorem denyWindow_kept {x0 x1 s2} (h2 : Kept q s2) : Kept q (denyWindow x0 x1 s2) := by
  unfold denyWindow
  try dsimp only
  repeat' (first | (with_reducible first | assumption | apply endReq_kept | apply State.fadd_kept))

theorem clearWords_kept {x0 x1 x2 x3 x4 s5} (h5 : Kept q s5) : Kept q (clearWords x0 x1 x2 x3 x4 s5) := by
  unfold clearWords
  try dsimp only
  repeat' (first | (with_reducible first | assumption | apply kept_all) | (simp only [kept_mk]) | (with_reducible first | apply kept_ite | apply kept_ite2 | apply State.fset_kept) | split | (dsimp only) | (with_reducible first | refine kept_snd (by with_reducible assumption) ?_ | refine kept_some (by with_reducible assumption) ?_))

theorem t0Write_kept {off bs} {s : State} (h : Kept q s) : Kept q (t0Write off bs s) :=
  clearWords_kept ⟨h.ctl, writeBytes_wf h.t0 .., h.seed0, h.seed1, h.pending, h.now, h.draws, h.out⟩

theorem hint_kept {x0 x1 x2 x3 x4 s5} (h5 : Kept q s5) : Kept q (hint x0 x1 x2 x3 x4 s5) := by
  unfold hint
  try dsimp only
  repeat' (first | (with_reducible first | assumption | apply kept_all) | (simp only [kept_mk]) | (with_reducible first | apply kept_ite | apply kept_ite2) | split | (dsimp only))

theorem serveT2Read_kept {x0 s1} (h1 : Kept q s1) : Kept q (serveT2Read x0 s1) := by
  unfold serveT2Read
  try dsimp only
  repeat' (first | (with_reducible first | assumption | apply finishIfHeld_kept | apply fetchPages_kept | apply State.addTxn_kept))

theorem startParts_kept {x0 x1 s2} (h2 : Kept q s2) : Kept q (startParts x0 x1 s2) := by
  induction x1 generalizing x0 s2 with
  | nil =>
    unfold startParts
    try dsimp only
    repeat' (first | (with_reducible first | assumption | apply kept_ite | apply kept_ite2 | apply startTxn_kept) | split | (dsimp only) | (with_reducible first | refine kept_snd (by with_reducible assumption) ?_ | refine kept_some (by with_reducible assumption) ?_))
  | cons a l ih =>
    unfold startParts
    try dsimp only
    repeat' (first | (with_reducible first | assumption | apply kept_ite | apply kept_ite2 | apply ih | apply startTxn_kept) | split | (dsimp only) | (with_reducible first | refine kept_snd (by with_reducible assumption) ?_ | refine kept_some (by with_reducible assumption) ?_))

theorem startGather_kept {x0 s1} (h1 : Kept q s1) : Kept q (startGather x0 s1) := by
  unfold startGather
  try dsimp only
  repeat' (first | (with_reducible first | assumption | apply startParts_kept | apply State.addTxn_kept))

theorem serveT0_kept {x0 x1 x2 x3 s4} (h4 : Kept q s4) : Kept q (serveT0 x0 x1 x2 x3 s4) := by
  unfold serveT0
  try dsimp only
  repeat' (first | (with_reducible first | assumption | apply kept_ite | apply kept_ite2 | apply endReq_kept | apply t0Write_kept) | split | (dsimp only) | (with_reducible first | refine kept_snd (by with_reducible assumption) ?_ | refine kept_some (by with_reducible assumption) ?_))

theorem serveTier_kept {x0 x1 x2 x3 x4 x5 s6} (h6 : Kept q s6) : Kept q (serveTier x0 x1 x2 x3 x4 x5 s6) := by
  unfold serveTier
  try dsimp only
  repeat' (first | (with_reducible first | assumption | apply kept_ite | apply kept_ite2 | apply endReq_kept | apply hint_kept | apply serveT2Read_kept | apply startGather_kept | apply serveT0_kept | apply State.fadd_kept | apply joinUnit_kept | apply startTxn_kept) | split | (dsimp only) | (with_reducible first | refine kept_snd (by with_reducible assumption) ?_ | refine kept_some (by with_reducible assumption) ?_))

theorem dropNote_kept {x0 s1} (h1 : Kept q s1) : Kept q (dropNote x0 s1) := by
  unfold dropNote
  try dsimp only
  repeat' (first | (with_reducible first | assumption | apply State.delTxn_kept))

theorem endWaiters_kept {x0 x1 s2} (h2 : Kept q s2) : Kept q (endWaiters x0 x1 s2) := by
  induction x1 generalizing x0 s2 with
  | nil =>
    unfold endWaiters
    try dsimp only
    repeat' (first | (with_reducible first | assumption | apply endTxn_kept) | split | (dsimp only) | (with_reducible first | refine kept_snd (by with_reducible assumption) ?_ | refine kept_some (by with_reducible assumption) ?_))
  | cons a l ih =>
    unfold endWaiters
    try dsimp only
    repeat' (first | (with_reducible first | assumption | apply ih | apply endTxn_kept) | split | (dsimp only) | (with_reducible first | refine kept_snd (by with_reducible assumption) ?_ | refine kept_some (by with_reducible assumption) ?_))

theorem unitEnded_kept {x0 x1 s2} (h2 : Kept q s2) : Kept q (unitEnded x0 x1 s2) := by
  unfold unitEnded
  try dsimp only
  repeat' (first | (with_reducible first | assumption | apply kept_all) | (simp only [kept_mk]) | (with_reducible first | apply State.delTxn_kept | apply endWaiters_kept | apply retryPages_kept) | split | (dsimp only) | (with_reducible first | refine kept_snd (by with_reducible assumption) ?_ | refine kept_some (by with_reducible assumption) ?_))

theorem deadTag_kept {x0 s1} (h1 : Kept q s1) : Kept q (deadTag x0 s1) := by
  unfold deadTag
  try dsimp only
  repeat' (first | (with_reducible first | assumption | apply kept_all) | (simp only [kept_mk]) | split | (dsimp only) | (with_reducible first | refine kept_snd (by with_reducible assumption) ?_ | refine kept_some (by with_reducible assumption) ?_))

theorem cutTxn_kept {x0 s1} (h1 : Kept q s1) : Kept q (cutTxn x0 s1) := by
  unfold cutTxn
  try dsimp only
  repeat' (first | (with_reducible first | assumption | apply kept_ite | apply kept_ite2 | apply dropNote_kept | apply unitEnded_kept | apply State.fadd_kept | apply deadTag_kept | apply timeoutTxn_kept | apply State.putTxn_kept) | split | (dsimp only) | (with_reducible first | refine kept_snd (by with_reducible assumption) ?_ | refine kept_some (by with_reducible assumption) ?_))

theorem spareProgress_kept {x0 s1} (h1 : Kept q s1) : Kept q (spareProgress x0 s1) := by
  unfold spareProgress
  try dsimp only
  repeat' (first | (with_reducible first | assumption | apply kept_all) | (simp only [kept_mk]) | (with_reducible first | apply kept_ite | apply kept_ite2 | apply State.fset_kept) | split | (dsimp only) | (with_reducible first | refine kept_snd (by with_reducible assumption) ?_ | refine kept_some (by with_reducible assumption) ?_))

theorem retryEpoch_kept {x0 s1} (h1 : Kept q s1) : Kept q (retryEpoch x0 s1) := by
  unfold retryEpoch
  try dsimp only
  repeat' (first | (with_reducible assumption) | (intro _) | (with_reducible first | apply kept_getD | apply routeTxn_kept | apply endTxn_kept) | split | (dsimp only) | (with_reducible first | refine kept_snd (by with_reducible assumption) ?_ | refine kept_some (by with_reducible assumption) ?_))

theorem endSent_kept {x0 x1 s2} (h2 : Kept q s2) : Kept q (endSent x0 x1 s2) := by
  unfold endSent
  try dsimp only
  repeat' (first | (with_reducible assumption) | (intro _) | (with_reducible first | apply kept_ite | apply kept_ite2 | apply kept_getD | apply spareProgress_kept | apply retryEpoch_kept | apply unitEnded_kept | apply endTxn_kept) | split | (dsimp only) | (with_reducible first | refine kept_snd (by with_reducible assumption) ?_ | refine kept_some (by with_reducible assumption) ?_))

theorem response_kept {x0 x1 x2 x3 x4 x5 x6 s7} (h7 : Kept q s7) : Kept q (response x0 x1 x2 x3 x4 x5 x6 s7) := by
  unfold response
  try dsimp only
  repeat' (first | (with_reducible first | assumption | apply kept_all) | (simp only [kept_mk]) | (with_reducible first | apply kept_ite | apply kept_ite2 | apply State.fadd_kept | apply endSent_kept | apply atomicStore_kept | apply State.putTxn_kept) | split | (dsimp only) | (with_reducible first | refine kept_snd (by with_reducible assumption) ?_ | refine kept_some (by with_reducible assumption) ?_))

theorem pumpHome_kept {x0 s1} (h1 : Kept q s1) : Kept q (pumpHome x0 s1) := by
  induction x0 generalizing s1 with
  | nil =>
    unfold pumpHome
    try dsimp only
    repeat' (first | (with_reducible first | assumption | apply kept_ite | apply kept_ite2 | apply routeTxn_kept | apply launch_kept) | split | (dsimp only) | (with_reducible first | refine kept_snd (by with_reducible assumption) ?_ | refine kept_some (by with_reducible assumption) ?_))
  | cons a l ih =>
    unfold pumpHome
    try dsimp only
    repeat' (first | (with_reducible first | assumption | apply kept_ite | apply kept_ite2 | apply ih | apply routeTxn_kept | apply launch_kept) | split | (dsimp only) | (with_reducible first | refine kept_snd (by with_reducible assumption) ?_ | refine kept_some (by with_reducible assumption) ?_))

theorem servePage_kept {x0 x1 x2 x3 x4 x5 s6} (h6 : Kept q s6) : Kept q (servePage x0 x1 x2 x3 x4 x5 s6) := by
  induction x5 generalizing x0 x1 x2 x3 x4 s6 with
  | nil =>
    unfold servePage
    try dsimp only
    repeat' (first | (with_reducible first | assumption | apply kept_ite | apply kept_ite2 | apply finishPages_kept) | split | (dsimp only) | (with_reducible first | refine kept_snd (by with_reducible assumption) ?_ | refine kept_some (by with_reducible assumption) ?_))
  | cons a l ih =>
    unfold servePage
    try dsimp only
    repeat' (first | (with_reducible first | assumption | apply kept_ite | apply kept_ite2 | apply ih | apply finishPages_kept) | split | (dsimp only) | (with_reducible first | refine kept_snd (by with_reducible assumption) ?_ | refine kept_some (by with_reducible assumption) ?_))

theorem serveMem_kept {x0 x1 x2 x3 x4 s5} (h5 : Kept q s5) : Kept q (serveMem x0 x1 x2 x3 x4 s5) := by
  unfold serveMem
  try dsimp only
  repeat' (first | (with_reducible assumption) | (intro _) | (with_reducible first | apply kept_ite | apply kept_ite2 | apply kept_getD | apply endReq_kept | apply denyWindow_kept | apply serveTier_kept) | split | (dsimp only) | (with_reducible first | refine kept_snd (by with_reducible assumption) ?_ | refine kept_some (by with_reducible assumption) ?_))

theorem cutPort_kept {x0 x1 s2} (h2 : Kept q s2) : Kept q (cutPort x0 x1 s2) := by
  induction x1 generalizing x0 s2 with
  | nil =>
    unfold cutPort
    try dsimp only
    repeat' (first | (with_reducible first | assumption | apply kept_ite | apply kept_ite2 | apply cutTxn_kept) | split | (dsimp only) | (with_reducible first | refine kept_snd (by with_reducible assumption) ?_ | refine kept_some (by with_reducible assumption) ?_))
  | cons a l ih =>
    unfold cutPort
    try dsimp only
    repeat' (first | (with_reducible first | assumption | apply kept_ite | apply kept_ite2 | apply ih | apply cutTxn_kept) | split | (dsimp only) | (with_reducible first | refine kept_snd (by with_reducible assumption) ?_ | refine kept_some (by with_reducible assumption) ?_))

theorem stagePage_kept {x0 x1 x2 x3 s4} (h4 : Kept q s4) : Kept q (stagePage x0 x1 x2 x3 s4) := by
  unfold stagePage
  try dsimp only
  repeat' (first | (with_reducible first | assumption | apply kept_all) | (simp only [kept_mk]) | (with_reducible first | apply kept_ite | apply kept_ite2) | split | (dsimp only) | (with_reducible first | refine kept_snd (by with_reducible assumption) ?_ | refine kept_some (by with_reducible assumption) ?_))

theorem pageEnded_kept {x0 x1 x2 x3 x4 s5} (h5 : Kept q s5) : Kept q (pageEnded x0 x1 x2 x3 x4 s5) := by
  unfold pageEnded
  try dsimp only
  repeat' (first | (with_reducible first | assumption | apply kept_ite | apply kept_ite2 | apply stagePage_kept | apply servePage_kept) | split | (dsimp only))

theorem partEnded_kept {x0 x1 x2 x3 s4} (h4 : Kept q s4) : Kept q (partEnded x0 x1 x2 x3 s4) := by
  unfold partEnded
  try dsimp only
  repeat' (first | (with_reducible assumption) | (intro _) | (with_reducible first | apply kept_ite | apply kept_ite2 | apply kept_foldl | apply kept_foldl2 | apply State.putTxn_kept | apply endTxn_kept) | split | (dsimp only) | (with_reducible first | refine kept_snd (by with_reducible assumption) ?_ | refine kept_some (by with_reducible assumption) ?_))

theorem sendUnit_kept {x0 x1 x2 s3} (h3 : Kept q s3) : Kept q (sendUnit x0 x1 x2 s3) := by
  unfold sendUnit
  try dsimp only
  repeat' (first | (with_reducible first | assumption | apply kept_all) | (simp only [kept_mk]) | (with_reducible first | apply kept_ite | apply kept_ite2 | apply startTxn_kept | apply State.fadd_kept) | split | (dsimp only) | (with_reducible first | refine kept_snd (by with_reducible assumption) ?_ | refine kept_some (by with_reducible assumption) ?_))

theorem limitTxn_kept {x0 s1} (h1 : Kept q s1) : Kept q (limitTxn x0 s1) := by
  unfold limitTxn
  try dsimp only
  repeat' (first | (with_reducible first | assumption | apply dropNote_kept | apply unitEnded_kept | apply State.fadd_kept | apply deadTag_kept | apply timeoutTxn_kept) | split | (dsimp only) | (with_reducible first | refine kept_snd (by with_reducible assumption) ?_ | refine kept_some (by with_reducible assumption) ?_))

theorem State.putEntry_kept {s0 x1} (h0 : Kept q s0) : Kept q (State.putEntry s0 x1) := by
  unfold State.putEntry
  try dsimp only
  repeat' (first | (with_reducible first | assumption | apply kept_all) | (simp only [kept_mk]))

theorem cohFinish_kept {x0 x1 x2 s3} (h3 : Kept q s3) : Kept q (cohFinish x0 x1 x2 s3) := by
  unfold cohFinish
  try dsimp only
  repeat' (first | (with_reducible first | assumption | apply kept_all) | (intro _) | (simp only [kept_mk]) | (with_reducible first | apply kept_ite | apply kept_ite2 | apply kept_getD | apply State.putEntry_kept | apply endTxn_kept) | split | (dsimp only) | (with_reducible first | refine kept_snd (by with_reducible assumption) ?_ | refine kept_some (by with_reducible assumption) ?_))

theorem State.setPub_kept {s0 x1} (h0 : Kept q s0) : Kept q (State.setPub s0 x1) := by
  unfold State.setPub
  try dsimp only
  repeat' (first | (with_reducible first | assumption | apply kept_all) | (simp only [kept_mk]) | (with_reducible first | apply kept_ite | apply kept_ite2) | split | (dsimp only))

theorem refuseOp_kept {x0 x1 x2 x3 x4 s5} (h5 : Kept q s5) : Kept q (refuseOp x0 x1 x2 x3 x4 s5) := by
  unfold refuseOp
  try dsimp only
  repeat' (first | (with_reducible first | assumption | apply kept_ite | apply kept_ite2 | apply denyWindow_kept | apply endReq_kept) | split | (dsimp only))

theorem serveOpen_kept {x0 x1 s2} (h2 : Kept q s2) : Kept q (serveOpen x0 x1 s2) := by
  unfold serveOpen
  try dsimp only
  repeat' (first | (with_reducible first | assumption | apply endReq_kept | apply State.setPub_kept | apply refuseOp_kept) | split | (dsimp only) | (with_reducible first | refine kept_snd (by with_reducible assumption) ?_ | refine kept_some (by with_reducible assumption) ?_))

theorem State.delEntry_kept {s0 x1 x2} (h0 : Kept q s0) : Kept q (State.delEntry s0 x1 x2) := by
  unfold State.delEntry
  try dsimp only
  repeat' (first | (with_reducible first | assumption | apply kept_all) | (simp only [kept_mk]))

theorem sendSnp_kept {x0 x1 x2 x3 x4 x5 x6 x7 s8} (h8 : Kept q s8) : Kept q (sendSnp x0 x1 x2 x3 x4 x5 x6 x7 s8) := by
  unfold sendSnp
  try dsimp only
  repeat' (first | (with_reducible first | assumption | apply sendCell_kept) | split | (dsimp only) | (with_reducible first | refine kept_snd (by with_reducible assumption) ?_ | refine kept_some (by with_reducible assumption) ?_))

theorem sendSnoops_kept {x0 x1 x2 x3 s4} (h4 : Kept q s4) : Kept q (sendSnoops x0 x1 x2 x3 s4) := by
  induction x3 generalizing x0 x1 x2 s4 with
  | nil =>
    unfold sendSnoops
    try dsimp only
    repeat' (first | (with_reducible first | assumption | apply kept_ite | apply kept_ite2 | apply kept_getD | apply State.putEntry_kept | apply sendSnp_kept) | split | (dsimp only) | (with_reducible first | refine kept_snd (by with_reducible assumption) ?_ | refine kept_some (by with_reducible assumption) ?_))
  | cons a l ih =>
    unfold sendSnoops
    try dsimp only
    repeat' (first | (with_reducible first | assumption | apply kept_ite | apply kept_ite2 | apply ih | apply kept_getD | apply State.putEntry_kept | apply sendSnp_kept) | split | (dsimp only) | (with_reducible first | refine kept_snd (by with_reducible assumption) ?_ | refine kept_some (by with_reducible assumption) ?_))

theorem snoopDomain_kept {x0 x1 s2} (h2 : Kept q s2) : Kept q (snoopDomain x0 x1 s2) := by
  induction x1 generalizing x0 s2 with
  | nil =>
    unfold snoopDomain
    try dsimp only
    repeat' (first | (with_reducible first | assumption | apply sendSnoops_kept) | split | (dsimp only) | (with_reducible first | refine kept_snd (by with_reducible assumption) ?_ | refine kept_some (by with_reducible assumption) ?_))
  | cons a l ih =>
    unfold snoopDomain
    try dsimp only
    repeat' (first | (with_reducible first | assumption | apply ih | apply sendSnoops_kept) | split | (dsimp only) | (with_reducible first | refine kept_snd (by with_reducible assumption) ?_ | refine kept_some (by with_reducible assumption) ?_))

theorem invExpire_kept {x0 s1} (h1 : Kept q s1) : Kept q (invExpire x0 s1) := by
  unfold invExpire
  try dsimp only
  repeat' (first | (with_reducible first | assumption | apply kept_all) | (intro _) | (simp only [kept_mk]) | (with_reducible first | apply kept_ite | apply kept_ite2 | apply kept_getD | apply State.fadd_kept | apply endTxn_kept) | split | (dsimp only) | (with_reducible first | refine kept_snd (by with_reducible assumption) ?_ | refine kept_some (by with_reducible assumption) ?_))

theorem dropLines_kept {x0 x1 x2 x3 s4} (h4 : Kept q s4) : Kept q (dropLines x0 x1 x2 x3 s4) := by
  unfold dropLines
  try dsimp only
  repeat' (first | (with_reducible first | assumption | apply kept_all) | (simp only [kept_mk]))

theorem domainReset_kept {x0 s1} (h1 : Kept q s1) : Kept q (domainReset x0 s1) := by
  unfold domainReset
  try dsimp only
  repeat' (first | (with_reducible first | assumption | apply kept_all) | (simp only [kept_mk]) | (with_reducible first | apply kept_ite | apply kept_ite2 | apply State.fset_kept | apply snoopDomain_kept) | split | (dsimp only) | (with_reducible first | refine kept_snd (by with_reducible assumption) ?_ | refine kept_some (by with_reducible assumption) ?_))

theorem childTxn_kept {x0 x1 x2 s3} (h3 : Kept q s3) : Kept q (childTxn x0 x1 x2 s3) := by
  unfold childTxn
  try dsimp only
  repeat' (first | (with_reducible first | assumption | apply startTxn_kept))

theorem cohAdvance_kept {x0 s1} (h1 : Kept q s1) : Kept q (cohAdvance x0 s1) := by
  unfold cohAdvance
  try dsimp only
  repeat' (first | (with_reducible first | assumption | apply kept_ite | apply kept_ite2 | apply childTxn_kept | apply State.putTxn_kept | apply cohFinish_kept) | split | (dsimp only) | (with_reducible first | refine kept_snd (by with_reducible assumption) ?_ | refine kept_some (by with_reducible assumption) ?_))

theorem cohStart_kept {x0 x1 s2} (h2 : Kept q s2) : Kept q (cohStart x0 x1 s2) := by
  unfold cohStart
  try dsimp only
  repeat' (first | (with_reducible first | assumption | apply kept_ite | apply kept_ite2 | apply State.putTxn_kept | apply State.putEntry_kept | apply endTxn_kept | apply childTxn_kept | apply State.delEntry_kept | apply cohAdvance_kept | apply sendSnoops_kept) | split | (dsimp only) | (with_reducible first | refine kept_snd (by with_reducible assumption) ?_ | refine kept_some (by with_reducible assumption) ?_))

theorem cohAllocate_kept {x0 x1 s2} (h2 : Kept q s2) : Kept q (cohAllocate x0 x1 s2) := by
  unfold cohAllocate
  try dsimp only
  repeat' (first | (with_reducible assumption) | (intro _) | (with_reducible first | apply kept_ite | apply kept_ite2 | apply kept_foldl | apply kept_foldl2 | apply kept_getD | apply cohAdvance_kept | apply State.putTxn_kept | apply State.putEntry_kept | apply State.fadd_kept | apply sendSnoops_kept) | split | (dsimp only) | (with_reducible first | refine kept_snd (by with_reducible assumption) ?_ | refine kept_some (by with_reducible assumption) ?_))

theorem cohTry_kept {x0 s1} (h1 : Kept q s1) : Kept q (cohTry x0 s1) := by
  unfold cohTry
  try dsimp only
  repeat' (first | (with_reducible assumption) | (intro _) | (with_reducible first | apply kept_ite | apply kept_ite2 | apply kept_getD | apply cohStart_kept | apply endTxn_kept | apply cohAllocate_kept) | split | (dsimp only) | (with_reducible first | refine kept_snd (by with_reducible assumption) ?_ | refine kept_some (by with_reducible assumption) ?_))

theorem servePrepare_kept {x0 x1 s2} (h2 : Kept q s2) : Kept q (servePrepare x0 x1 s2) := by
  unfold servePrepare
  try dsimp only
  repeat' (first | (with_reducible first | assumption | apply kept_ite | apply kept_ite2 | apply endReq_kept | apply State.setPub_kept | apply State.addTxn_kept | apply refuseOp_kept) | split | (dsimp only) | (with_reducible first | refine kept_snd (by with_reducible assumption) ?_ | refine kept_some (by with_reducible assumption) ?_))

theorem wbCross_kept {x0 x1 x2 x3 s4} (h4 : Kept q s4) : Kept q (wbCross x0 x1 x2 x3 s4) := by
  unfold wbCross
  try dsimp only
  repeat' (first | (with_reducible first | assumption | apply kept_all) | (simp only [kept_mk]) | (with_reducible first | apply kept_ite | apply kept_ite2 | apply State.fadd_kept | apply State.delEntry_kept | apply State.putEntry_kept | apply State.putTxn_kept | apply childTxn_kept) | split | (dsimp only) | (with_reducible first | refine kept_snd (by with_reducible assumption) ?_ | refine kept_some (by with_reducible assumption) ?_))

theorem serveClose_kept {x0 x1 s2} (h2 : Kept q s2) : Kept q (serveClose x0 x1 s2) := by
  unfold serveClose
  try dsimp only
  repeat' (first | (with_reducible first | assumption | apply endReq_kept | apply State.setPub_kept | apply refuseOp_kept) | split | (dsimp only) | (with_reducible first | refine kept_snd (by with_reducible assumption) ?_ | refine kept_some (by with_reducible assumption) ?_))

theorem seqAdd_kept {x0 x1 s2} (h2 : Kept q s2) : Kept q (seqAdd x0 x1 s2) := by
  unfold seqAdd
  try dsimp only
  repeat' (first | (with_reducible first | assumption | apply kept_all) | (simp only [kept_mk]))

theorem serveInval_kept {x0 x1 x2 s3} (h3 : Kept q s3) : Kept q (serveInval x0 x1 x2 s3) := by
  unfold serveInval
  try dsimp only
  repeat' (first | (with_reducible first | assumption | apply kept_ite | apply kept_ite2 | apply endReq_kept | apply seqAdd_kept | apply State.addTxn_kept | apply refuseOp_kept) | split | (dsimp only) | (with_reducible first | refine kept_snd (by with_reducible assumption) ?_ | refine kept_some (by with_reducible assumption) ?_))

theorem syncPoison_kept {x0 s1} (h1 : Kept q s1) : Kept q (syncPoison x0 s1) := by
  unfold syncPoison
  try dsimp only
  repeat' (first | (with_reducible first | assumption | apply State.fset_kept))

theorem domainSweep_kept {x0 s1} (h1 : Kept q s1) : Kept q (domainSweep x0 s1) := by
  unfold domainSweep
  try dsimp only
  repeat' (first | (with_reducible first | assumption | apply kept_all) | (simp only [kept_mk]) | (with_reducible first | apply kept_ite | apply kept_ite2 | apply syncPoison_kept) | split | (dsimp only))

theorem supersede_kept {x0 x1 s2} (h2 : Kept q s2) : Kept q (supersede x0 x1 s2).2 := by
  induction x1 generalizing x0 s2 with
  | nil =>
    unfold supersede
    try dsimp only
    repeat' (first | (with_reducible first | assumption | apply endTxn_kept | apply State.fadd_kept) | split | (dsimp only) | (with_reducible first | refine kept_snd (by with_reducible assumption) ?_ | refine kept_some (by with_reducible assumption) ?_))
  | cons a l ih =>
    unfold supersede
    try dsimp only
    repeat' (first | (with_reducible first | assumption | apply ih | apply endTxn_kept | apply State.fadd_kept) | split | (dsimp only) | (with_reducible first | refine kept_snd (by with_reducible assumption) ?_ | refine kept_some (by with_reducible assumption) ?_))

theorem snoopAnswer_kept {x0 x1 x2 x3 s4} (h4 : Kept q s4) : Kept q (snoopAnswer x0 x1 x2 x3 s4) := by
  unfold snoopAnswer
  try dsimp only
  repeat' (first | (with_reducible first | assumption | apply kept_all) | (intro _) | (simp only [kept_mk]) | (with_reducible first | apply kept_ite | apply kept_ite2 | apply kept_getD | apply State.putEntry_kept | apply State.putTxn_kept | apply State.delEntry_kept | apply childTxn_kept | apply startTxn_kept) | split | (dsimp only) | (with_reducible first | refine kept_snd (by with_reducible assumption) ?_ | refine kept_some (by with_reducible assumption) ?_))

theorem domainEvent_kept {x0 s1} (h1 : Kept q s1) : Kept q (domainEvent x0 s1) := by
  unfold domainEvent
  try dsimp only
  repeat' (first | (with_reducible first | assumption | apply pulse_kept) | split | (dsimp only) | (with_reducible first | refine kept_snd (by with_reducible assumption) ?_ | refine kept_some (by with_reducible assumption) ?_))

theorem endDomain_kept {x0 x1 s2} (h2 : Kept q s2) : Kept q (endDomain x0 x1 s2) := by
  induction x1 generalizing x0 s2 with
  | nil =>
    unfold endDomain
    try dsimp only
    repeat' (first | (with_reducible first | assumption | apply kept_ite | apply kept_ite2 | apply endTxn_kept) | split | (dsimp only) | (with_reducible first | refine kept_snd (by with_reducible assumption) ?_ | refine kept_some (by with_reducible assumption) ?_))
  | cons a l ih =>
    unfold endDomain
    try dsimp only
    repeat' (first | (with_reducible first | assumption | apply kept_ite | apply kept_ite2 | apply ih | apply endTxn_kept) | split | (dsimp only) | (with_reducible first | refine kept_snd (by with_reducible assumption) ?_ | refine kept_some (by with_reducible assumption) ?_))

theorem domainDown_kept {x0 x1 x2 x3 s4} (h4 : Kept q s4) : Kept q (domainDown x0 x1 x2 x3 s4) := by
  unfold domainDown
  try dsimp only
  repeat' (first | (with_reducible first | assumption | apply kept_all) | (simp only [kept_mk]) | (with_reducible first | apply kept_ite | apply kept_ite2 | apply syncPoison_kept | apply State.fset_kept | apply domainEvent_kept | apply endDomain_kept) | split | (dsimp only) | (with_reducible first | refine kept_snd (by with_reducible assumption) ?_ | refine kept_some (by with_reducible assumption) ?_))

theorem memberLost_kept {x0 x1 x2 s3} (h3 : Kept q s3) : Kept q (memberLost x0 x1 x2 s3) := by
  induction x2 generalizing x0 x1 s3 with
  | nil =>
    unfold memberLost
    try dsimp only
    repeat' (first | (with_reducible first | assumption | apply kept_ite | apply kept_ite2 | apply domainDown_kept) | split | (dsimp only) | (with_reducible first | refine kept_snd (by with_reducible assumption) ?_ | refine kept_some (by with_reducible assumption) ?_))
  | cons a l ih =>
    unfold memberLost
    try dsimp only
    repeat' (first | (with_reducible first | assumption | apply kept_ite | apply kept_ite2 | apply ih | apply domainDown_kept) | split | (dsimp only) | (with_reducible first | refine kept_snd (by with_reducible assumption) ?_ | refine kept_some (by with_reducible assumption) ?_))

theorem addSub_kept {x0 x1 x2 s3} (h3 : Kept q s3) : Kept q (addSub x0 x1 x2 s3) := by
  unfold addSub
  try dsimp only
  repeat' (first | (with_reducible first | assumption | apply kept_all) | (simp only [kept_mk]))

theorem serveSubscribe_kept {x0 x1 s2} (h2 : Kept q s2) : Kept q (serveSubscribe x0 x1 s2) := by
  unfold serveSubscribe
  try dsimp only
  repeat' (first | (with_reducible first | assumption | apply kept_ite | apply kept_ite2 | apply endReq_kept | apply State.addTxn_kept | apply addSub_kept | apply refuseOp_kept) | split | (dsimp only) | (with_reducible first | refine kept_snd (by with_reducible assumption) ?_ | refine kept_some (by with_reducible assumption) ?_))

theorem publishOrdered_kept {x0 s1} (h1 : Kept q s1) : Kept q (publishOrdered x0 s1) := by
  unfold publishOrdered
  try dsimp only
  repeat' (first | (with_reducible first | assumption | apply kept_all) | (simp only [kept_mk]) | (with_reducible first | apply kept_ite | apply kept_ite2) | split | (dsimp only) | (with_reducible first | refine kept_snd (by with_reducible assumption) ?_ | refine kept_some (by with_reducible assumption) ?_))

theorem publishPoint_kept {x0 s1} (h1 : Kept q s1) : Kept q (publishPoint x0 s1) := by
  unfold publishPoint
  try dsimp only
  repeat' (first | (with_reducible first | assumption | apply supersede_kept | apply endTxn_kept | apply State.setPub_kept) | split | (dsimp only) | (with_reducible first | refine kept_snd (by with_reducible assumption) ?_ | refine kept_some (by with_reducible assumption) ?_))

theorem seqPosition_kept {x0 s1} (h1 : Kept q s1) : Kept q (seqPosition x0 s1) := by
  unfold seqPosition
  try dsimp only
  repeat' (first | (with_reducible first | assumption | apply kept_all) | (simp only [kept_mk]) | split | (dsimp only) | (with_reducible first | refine kept_snd (by with_reducible assumption) ?_ | refine kept_some (by with_reducible assumption) ?_))

theorem publishAll_kept {x0 s1} (h1 : Kept q s1) : Kept q (publishAll x0 s1) := by
  induction x0 generalizing s1 with
  | nil =>
    unfold publishAll
    try dsimp only
    repeat' (first | (with_reducible first | assumption | apply publishPoint_kept) | split | (dsimp only) | (with_reducible first | refine kept_snd (by with_reducible assumption) ?_ | refine kept_some (by with_reducible assumption) ?_))
  | cons a l ih =>
    unfold publishAll
    try dsimp only
    repeat' (first | (with_reducible first | assumption | apply ih | apply publishPoint_kept) | split | (dsimp only) | (with_reducible first | refine kept_snd (by with_reducible assumption) ?_ | refine kept_some (by with_reducible assumption) ?_))

theorem pumpSubs_kept {x0 s1} (h1 : Kept q s1) : Kept q (pumpSubs x0 s1) := by
  induction x0 generalizing s1 with
  | nil =>
    unfold pumpSubs
    try dsimp only
    repeat' (first | (with_reducible first | assumption | apply kept_ite | apply kept_ite2 | apply endTxn_kept | apply addSub_kept) | split | (dsimp only) | (with_reducible first | refine kept_snd (by with_reducible assumption) ?_ | refine kept_some (by with_reducible assumption) ?_))
  | cons a l ih =>
    unfold pumpSubs
    try dsimp only
    repeat' (first | (with_reducible first | assumption | apply kept_ite | apply kept_ite2 | apply ih | apply endTxn_kept | apply addSub_kept) | split | (dsimp only) | (with_reducible first | refine kept_snd (by with_reducible assumption) ?_ | refine kept_some (by with_reducible assumption) ?_))

theorem publishForward_kept {x0 s1} (h1 : Kept q s1) : Kept q (publishForward x0 s1) := by
  unfold publishForward
  try dsimp only
  repeat' (first | (with_reducible first | assumption | apply kept_ite | apply kept_ite2 | apply seqAdd_kept | apply State.putTxn_kept) | split | (dsimp only) | (with_reducible first | refine kept_snd (by with_reducible assumption) ?_ | refine kept_some (by with_reducible assumption) ?_))

theorem serveCoh_kept {x0 x1 x2 s3} (h3 : Kept q s3) : Kept q (serveCoh x0 x1 x2 s3) := by
  unfold serveCoh
  try dsimp only
  repeat' (first | (with_reducible first | assumption | apply kept_ite | apply kept_ite2 | apply endReq_kept | apply refuseOp_kept | apply childTxn_kept | apply State.addTxn_kept | apply State.delEntry_kept | apply wbCross_kept | apply cohTry_kept) | split | (dsimp only) | (with_reducible first | refine kept_snd (by with_reducible assumption) ?_ | refine kept_some (by with_reducible assumption) ?_))

theorem dropHolder_kept {x0 s1} (h1 : Kept q s1) : Kept q (dropHolder x0 s1) := by
  unfold dropHolder
  try dsimp only
  repeat' (first | (with_reducible first | assumption | apply kept_all) | (simp only [kept_mk]))

theorem seqRemove_kept {x0 s1} (h1 : Kept q s1) : Kept q (seqRemove x0 s1) := by
  unfold seqRemove
  try dsimp only
  repeat' (first | (with_reducible first | assumption | apply kept_all) | (simp only [kept_mk]))

theorem servePublish_kept {x0 x1 s2} (h2 : Kept q s2) : Kept q (servePublish x0 x1 s2) := by
  unfold servePublish
  try dsimp only
  repeat' (first | (with_reducible first | assumption | apply publishForward_kept | apply State.addTxn_kept | apply endReq_kept | apply refuseOp_kept) | split | (dsimp only) | (with_reducible first | refine kept_snd (by with_reducible assumption) ?_ | refine kept_some (by with_reducible assumption) ?_))

theorem unpoison_kept {x0 x1 x2 s3} (h3 : Kept q s3) : Kept q (unpoison x0 x1 x2 s3) := by
  unfold unpoison
  try dsimp only
  repeat' (first | (with_reducible assumption) | (intro _) | (with_reducible first | apply kept_getD | apply syncPoison_kept | apply State.delEntry_kept | apply startTxn_kept) | split | (dsimp only) | (with_reducible first | refine kept_snd (by with_reducible assumption) ?_ | refine kept_some (by with_reducible assumption) ?_))

theorem pumpPrepare_kept {x0 s1} (h1 : Kept q s1) : Kept q (pumpPrepare x0 s1) := by
  induction x0 generalizing s1 with
  | nil =>
    unfold pumpPrepare
    try dsimp only
    repeat' (first | (with_reducible assumption) | (intro _) | (with_reducible first | apply kept_ite | apply kept_ite2 | apply endTxn_kept | apply State.setPub_kept) | split | (dsimp only) | (with_reducible first | refine kept_snd (by with_reducible assumption) ?_ | refine kept_some (by with_reducible assumption) ?_))
  | cons a l ih =>
    unfold pumpPrepare
    try dsimp only
    repeat' (first | (with_reducible assumption) | (intro _) | (with_reducible first | apply kept_ite | apply kept_ite2 | apply ih | apply endTxn_kept | apply State.setPub_kept) | split | (dsimp only) | (with_reducible first | refine kept_snd (by with_reducible assumption) ?_ | refine kept_some (by with_reducible assumption) ?_))

theorem sendInvRanges_kept {x0 x1 x2 s3} (h3 : Kept q s3) : Kept q (sendInvRanges x0 x1 x2 s3).2 := by
  induction x2 generalizing x0 x1 s3 with
  | nil =>
    unfold sendInvRanges
    try dsimp only
    repeat' (first | (with_reducible first | assumption | apply kept_all) | (simp only [kept_mk]) | (with_reducible first | apply dropLines_kept | apply sendSnp_kept) | split | (dsimp only) | (with_reducible first | refine kept_snd (by with_reducible assumption) ?_ | refine kept_some (by with_reducible assumption) ?_))
  | cons a l ih =>
    unfold sendInvRanges
    try dsimp only
    repeat' (first | (with_reducible first | assumption | apply kept_all) | (simp only [kept_mk]) | (with_reducible first | apply ih | apply dropLines_kept | apply sendSnp_kept) | split | (dsimp only) | (with_reducible first | refine kept_snd (by with_reducible assumption) ?_ | refine kept_some (by with_reducible assumption) ?_))

theorem inval_kept {x0 s1} (h1 : Kept q s1) : Kept q (inval x0 s1) := by
  unfold inval
  try dsimp only
  repeat' (first | (with_reducible first | assumption | apply kept_all) | (simp only [kept_mk]) | (with_reducible first | apply kept_ite | apply kept_ite2 | apply sendInvRanges_kept | apply endTxn_kept | apply State.putTxn_kept) | split | (dsimp only) | (with_reducible first | refine kept_snd (by with_reducible assumption) ?_ | refine kept_some (by with_reducible assumption) ?_))

theorem domainUp_kept {x0 s1} (h1 : Kept q s1) : Kept q (domainUp x0 s1) := by
  unfold domainUp
  try dsimp only
  repeat' (first | (with_reducible first | assumption | apply kept_all) | (simp only [kept_mk]) | (with_reducible first | apply domainEvent_kept | apply State.fset_kept))

theorem invAck_kept {x0 x1 s2} (h2 : Kept q s2) : Kept q (invAck x0 x1 s2) := by
  unfold invAck
  try dsimp only
  repeat' (first | (with_reducible first | assumption | apply kept_all) | (simp only [kept_mk]) | (with_reducible first | apply kept_ite | apply kept_ite2 | apply endTxn_kept) | split | (dsimp only) | (with_reducible first | refine kept_snd (by with_reducible assumption) ?_ | refine kept_some (by with_reducible assumption) ?_))

theorem cohPart_kept {x0 x1 x2 x3 s4} (h4 : Kept q s4) : Kept q (cohPart x0 x1 x2 x3 s4) := by
  unfold cohPart
  try dsimp only
  repeat' (first | (with_reducible first | assumption | apply kept_ite | apply kept_ite2 | apply endTxn_kept | apply cohAdvance_kept | apply State.putTxn_kept | apply domainDown_kept | apply State.delEntry_kept | apply State.putEntry_kept) | split | (dsimp only) | (with_reducible first | refine kept_snd (by with_reducible assumption) ?_ | refine kept_some (by with_reducible assumption) ?_))

theorem serveUnsubscribe_kept {x0 x1 s2} (h2 : Kept q s2) : Kept q (serveUnsubscribe x0 x1 s2) := by
  unfold serveUnsubscribe
  try dsimp only
  repeat' (first | (with_reducible first | assumption | apply kept_all) | (simp only [kept_mk]) | (with_reducible first | apply kept_ite | apply kept_ite2 | apply endReq_kept | apply refuseOp_kept) | split | (dsimp only) | (with_reducible first | refine kept_snd (by with_reducible assumption) ?_ | refine kept_some (by with_reducible assumption) ?_))

theorem pumpCoh_kept {x0 s1} (h1 : Kept q s1) : Kept q (pumpCoh x0 s1) := by
  induction x0 generalizing s1 with
  | nil =>
    unfold pumpCoh
    try dsimp only
    repeat' (first | (with_reducible first | assumption | apply kept_ite | apply kept_ite2 | apply cohTry_kept | apply cohAdvance_kept) | split | (dsimp only) | (with_reducible first | refine kept_snd (by with_reducible assumption) ?_ | refine kept_some (by with_reducible assumption) ?_))
  | cons a l ih =>
    unfold pumpCoh
    try dsimp only
    repeat' (first | (with_reducible first | assumption | apply kept_ite | apply kept_ite2 | apply ih | apply cohTry_kept | apply cohAdvance_kept) | split | (dsimp only) | (with_reducible first | refine kept_snd (by with_reducible assumption) ?_ | refine kept_some (by with_reducible assumption) ?_))

theorem invExpireAll_kept {x0 s1} (h1 : Kept q s1) : Kept q (invExpireAll x0 s1) := by
  induction x0 generalizing s1 with
  | nil =>
    unfold invExpireAll
    try dsimp only
    repeat' (first | (with_reducible first | assumption | apply kept_ite | apply kept_ite2 | apply invExpire_kept) | split | (dsimp only) | (with_reducible first | refine kept_snd (by with_reducible assumption) ?_ | refine kept_some (by with_reducible assumption) ?_))
  | cons a l ih =>
    unfold invExpireAll
    try dsimp only
    repeat' (first | (with_reducible first | assumption | apply kept_ite | apply kept_ite2 | apply ih | apply invExpire_kept) | split | (dsimp only) | (with_reducible first | refine kept_snd (by with_reducible assumption) ?_ | refine kept_some (by with_reducible assumption) ?_))

theorem wakeUnits_kept {x0 x1 s2} (h2 : Kept q s2) : Kept q (wakeUnits x0 x1 s2) := by
  unfold wakeUnits
  try dsimp only
  repeat' (first | (with_reducible first | assumption | apply kept_all) | (intro _) | (simp only [kept_mk]) | (with_reducible first | apply kept_ite | apply kept_ite2 | apply kept_foldl | apply kept_foldl2) | split | (dsimp only) | (with_reducible first | refine kept_snd (by with_reducible assumption) ?_ | refine kept_some (by with_reducible assumption) ?_))

theorem State.putCtx_kept {s0 x1 x2 x3} (h0 : Kept q s0) : Kept q (State.putCtx s0 x1 x2 x3) := by
  unfold State.putCtx
  try dsimp only
  repeat' (first | (with_reducible first | assumption | apply kept_all) | (simp only [kept_mk]))

theorem State.setCopse_kept {s0 x1 x2} (h0 : Kept q s0) : Kept q (State.setCopse s0 x1 x2) := by
  unfold State.setCopse
  try dsimp only
  repeat' (first | (with_reducible first | assumption | apply kept_all) | (simp only [kept_mk]))

theorem makeResident_kept {x0 x1 x2 s3} (h3 : Kept q s3) : Kept q (makeResident x0 x1 x2 s3) := by
  unfold makeResident
  try dsimp only
  repeat' (first | (with_reducible first | assumption | apply kept_ite | apply kept_ite2 | apply wakeUnits_kept | apply State.putCtx_kept | apply State.setCopse_kept) | split | (dsimp only))

theorem State.modCtx_kept {s0 x1 x2 x3} (h0 : Kept q s0) : Kept q (State.modCtx s0 x1 x2 x3) := by
  unfold State.modCtx
  try dsimp only
  repeat' (first | (with_reducible first | assumption | apply State.putCtx_kept) | split | (dsimp only) | (with_reducible first | refine kept_snd (by with_reducible assumption) ?_ | refine kept_some (by with_reducible assumption) ?_))

theorem startSave_kept {x0 x1 x2 x3 s4} (h4 : Kept q s4) : Kept q (startSave x0 x1 x2 x3 s4) := by
  unfold startSave
  try dsimp only
  repeat' (first | (with_reducible first | assumption | apply kept_ite | apply kept_ite2 | apply State.modCtx_kept | apply State.fadd_kept) | split | (dsimp only))

theorem startSaves_kept {x0 x1 x2 x3 s4} (h4 : Kept q s4) : Kept q (startSaves x0 x1 x2 x3 s4) := by
  induction x3 generalizing x0 x1 x2 s4 with
  | nil =>
    unfold startSaves
    try dsimp only
    repeat' (first | (with_reducible first | assumption | apply startSave_kept) | split | (dsimp only) | (with_reducible first | refine kept_snd (by with_reducible assumption) ?_ | refine kept_some (by with_reducible assumption) ?_))
  | cons a l ih =>
    unfold startSaves
    try dsimp only
    repeat' (first | (with_reducible first | assumption | apply ih | apply startSave_kept) | split | (dsimp only) | (with_reducible first | refine kept_snd (by with_reducible assumption) ?_ | refine kept_some (by with_reducible assumption) ?_))

theorem schedule_kept {x0 s1} (h1 : Kept q s1) : Kept q (schedule x0 s1) := by
  unfold schedule
  try dsimp only
  repeat' (first | (with_reducible first | assumption | apply kept_ite | apply kept_ite2 | apply makeResident_kept | apply startSaves_kept | apply State.setCopse_kept) | split | (dsimp only) | (with_reducible first | refine kept_snd (by with_reducible assumption) ?_ | refine kept_some (by with_reducible assumption) ?_))

theorem scheduleAll_kept {x0 x1 s2} (h2 : Kept q s2) : Kept q (scheduleAll x0 x1 s2) := by
  induction x0 generalizing x1 s2 with
  | zero =>
    unfold scheduleAll
    try dsimp only
    repeat' (first | (with_reducible first | assumption | apply kept_ite | apply kept_ite2 | apply schedule_kept) | split | (dsimp only) | (with_reducible first | refine kept_snd (by with_reducible assumption) ?_ | refine kept_some (by with_reducible assumption) ?_))
  | succ k ih =>
    unfold scheduleAll
    try dsimp only
    repeat' (first | (with_reducible first | assumption | apply kept_ite | apply kept_ite2 | apply ih | apply schedule_kept) | split | (dsimp only) | (with_reducible first | refine kept_snd (by with_reducible assumption) ?_ | refine kept_some (by with_reducible assumption) ?_))

theorem reblock_kept {x0 x1 s2} (h2 : Kept q s2) : Kept q (reblock x0 x1 s2) := by
  unfold reblock
  try dsimp only
  repeat' (first | (with_reducible first | assumption | apply kept_ite | apply kept_ite2 | apply scheduleAll_kept | apply State.putCtx_kept | apply State.setCopse_kept) | split | (dsimp only) | (with_reducible first | refine kept_snd (by with_reducible assumption) ?_ | refine kept_some (by with_reducible assumption) ?_))

theorem State.modStrand_kept {s0 x1 x2} (h0 : Kept q s0) : Kept q (State.modStrand s0 x1 x2) := by
  unfold State.modStrand
  try dsimp only
  repeat' (first | (with_reducible first | assumption | apply State.modCtx_kept))

theorem waitFor_kept {x0 x1 s2} (h2 : Kept q s2) : Kept q (waitFor x0 x1 s2) := by
  unfold waitFor
  try dsimp only
  repeat' (first | (with_reducible first | assumption | apply reblock_kept | apply State.modStrand_kept))

theorem countIssue_kept {x0 s1} (h1 : Kept q s1) : Kept q (countIssue x0 s1) := by
  unfold countIssue
  try dsimp only
  repeat' (first | (with_reducible first | assumption | apply State.fadd_kept | apply State.modCtx_kept))

theorem releaseUnits_kept {x0 x1 s2} (h2 : Kept q s2) : Kept q (releaseUnits x0 x1 s2) := by
  unfold releaseUnits
  try dsimp only
  repeat' (first | (with_reducible first | assumption | apply kept_ite | apply kept_ite2 | apply State.setCopse_kept) | split | (dsimp only))

theorem endProgram_kept {x0 x1 x2 s3} (h3 : Kept q s3) : Kept q (endProgram x0 x1 x2 s3) := by
  unfold endProgram
  try dsimp only
  repeat' (first | (with_reducible assumption) | (intro _) | (with_reducible first | apply kept_ite | apply kept_ite2 | apply kept_getD | apply State.putCtx_kept | apply releaseUnits_kept | apply State.fadd_kept | apply State.setCopse_kept) | split | (dsimp only) | (with_reducible first | refine kept_snd (by with_reducible assumption) ?_ | refine kept_some (by with_reducible assumption) ?_))

theorem afterStrand_kept {x0 x1 s2} (h2 : Kept q s2) : Kept q (afterStrand x0 x1 s2) := by
  unfold afterStrand
  try dsimp only
  repeat' (first | (with_reducible first | assumption | apply kept_ite | apply kept_ite2 | apply endProgram_kept | apply reblock_kept) | split | (dsimp only) | (with_reducible first | refine kept_snd (by with_reducible assumption) ?_ | refine kept_some (by with_reducible assumption) ?_))

theorem freeBay_kept {x0 x1 s2} (h2 : Kept q s2) : Kept q (freeBay x0 x1 s2) := by
  unfold freeBay
  try dsimp only
  repeat' (first | (with_reducible first | assumption | apply State.setCopse_kept | apply State.modCtx_kept | refine kept_snd (by with_reducible assumption) ?_ | refine kept_some (by with_reducible assumption) ?_))

theorem finishStrand_kept {x0 s1} (h1 : Kept q s1) : Kept q (finishStrand x0 s1) := by
  unfold finishStrand
  try dsimp only
  repeat' (first | (with_reducible first | assumption | apply kept_ite | apply kept_ite2 | apply freeBay_kept | apply State.modCtx_kept | apply State.setCopse_kept) | split | (dsimp only) | (with_reducible first | refine kept_snd (by with_reducible assumption) ?_ | refine kept_some (by with_reducible assumption) ?_))

theorem leaveBar_kept {x0 x1 x2 s3 x4} (h3 : Kept q s3) : Kept q (leaveBar x0 x1 x2 s3 x4) := by
  unfold leaveBar
  try dsimp only
  repeat' (first | (with_reducible first | assumption | apply kept_ite | apply kept_ite2 | apply State.fadd_kept | apply State.modCtx_kept | apply finishStrand_kept | apply State.modStrand_kept) | split | (dsimp only))

theorem releaseBar_kept {x0 x1 s2} (h2 : Kept q s2) : Kept q (releaseBar x0 x1 s2) := by
  unfold releaseBar
  try dsimp only
  repeat' (first | (with_reducible assumption) | (intro _) | (with_reducible first | apply kept_ite | apply kept_ite2 | apply kept_foldl | apply kept_foldl2 | apply leaveBar_kept) | split | (dsimp only) | (with_reducible first | refine kept_snd (by with_reducible assumption) ?_ | refine kept_some (by with_reducible assumption) ?_))

theorem endStrand_kept {x0 s1} (h1 : Kept q s1) : Kept q (endStrand x0 s1) := by
  unfold endStrand
  try dsimp only
  repeat' (first | (with_reducible first | assumption | apply afterStrand_kept | apply releaseBar_kept | apply finishStrand_kept))

theorem retire_kept {x0 s1} (h1 : Kept q s1) : Kept q (retire x0 s1) := by
  unfold retire
  try dsimp only
  repeat' (first | (with_reducible first | assumption | apply kept_ite | apply kept_ite2 | apply countIssue_kept | apply endStrand_kept | apply reblock_kept | apply State.putCtx_kept) | split | (dsimp only) | (with_reducible first | refine kept_snd (by with_reducible assumption) ?_ | refine kept_some (by with_reducible assumption) ?_))

theorem endWith_kept {x0 x1 x2 x3 x4 s5} (h5 : Kept q s5) : Kept q (endWith x0 x1 x2 x3 x4 s5) := by
  unfold endWith
  try dsimp only
  repeat' (first | (with_reducible first | assumption | apply endProgram_kept) | split | (dsimp only) | (with_reducible first | refine kept_snd (by with_reducible assumption) ?_ | refine kept_some (by with_reducible assumption) ?_))

theorem fault_kept {x0 x1 s2} (h2 : Kept q s2) : Kept q (fault x0 x1 s2) := by
  unfold fault
  try dsimp only
  repeat' (first | (with_reducible first | assumption | apply endWith_kept))

theorem failWith_kept {x0 x1 x2 s3} (h3 : Kept q s3) : Kept q (failWith x0 x1 x2 s3) := by
  unfold failWith
  try dsimp only
  repeat' (first | (with_reducible first | assumption | apply kept_ite | apply kept_ite2 | apply endWith_kept) | split | (dsimp only))

theorem issue_kept {x0 x1 x2 x3 f4 s5} (h4 : ∀ y0 y1 y2,Kept q y2 →  Kept q (f4 y0 y1 y2)) (h5 : Kept q s5) : Kept q (issue x0 x1 x2 x3 f4 s5) := by
  unfold issue
  try dsimp only
  repeat' (first | (with_reducible first | assumption | apply kept_ite | apply kept_ite2 | apply h4 | apply waitFor_kept | apply retire_kept | apply fault_kept | apply countIssue_kept | apply failWith_kept) | split | (dsimp only) | (with_reducible first | refine kept_snd (by with_reducible assumption) ?_ | refine kept_some (by with_reducible assumption) ?_))

theorem dropWaiting_kept {x0 x1 s2} (h2 : Kept q s2) : Kept q (dropWaiting x0 x1 s2) := by
  induction x0 generalizing x1 s2 with
  | nil =>
    unfold dropWaiting
    try dsimp only
    repeat' (first | (with_reducible first | assumption | apply endReq_kept) | split | (dsimp only) | (with_reducible first | refine kept_snd (by with_reducible assumption) ?_ | refine kept_some (by with_reducible assumption) ?_))
  | cons a l ih =>
    unfold dropWaiting
    try dsimp only
    repeat' (first | (with_reducible first | assumption | apply ih | apply endReq_kept) | split | (dsimp only) | (with_reducible first | refine kept_snd (by with_reducible assumption) ?_ | refine kept_some (by with_reducible assumption) ?_))

theorem clearScratch_kept {x0 x1 x2 x3 x4 s5} (h5 : Kept q s5) : Kept q (clearScratch x0 x1 x2 x3 x4 s5) := by
  unfold clearScratch
  try dsimp only
  repeat' (first | (with_reducible assumption) | (intro _) | (with_reducible first | apply kept_ite | apply kept_ite2 | apply kept_foldl | apply kept_foldl2 | apply clearWords_kept) | split | (dsimp only) | (with_reducible first | refine kept_snd (by with_reducible assumption) ?_ | refine kept_some (by with_reducible assumption) ?_))

theorem State.writeScratch_kept {s0 x1 x2 x3 x4 x5} (h0 : Kept q s0) : Kept q (State.writeScratch s0 x1 x2 x3 x4 x5) := by
  unfold State.writeScratch
  try dsimp only
  repeat' (first | (with_reducible first | assumption | apply clearScratch_kept | apply State.modCtx_kept))

theorem sendRecord_kept {x0 x1 x2 x3 s4} (h4 : Kept q s4) : Kept q (sendRecord x0 x1 x2 x3 s4) := by
  unfold sendRecord
  try dsimp only
  repeat' (first | (with_reducible first | assumption | apply kept_all) | (simp only [kept_mk]) | (with_reducible apply serveMem_kept) | split | (dsimp only) | (with_reducible first | refine kept_snd (by with_reducible assumption) ?_ | refine kept_some (by with_reducible assumption) ?_))

theorem completeCtx_kept {x0 x1 s2} (h2 : Kept q s2) : Kept q (completeCtx x0 x1 s2) := by
  unfold completeCtx
  try dsimp only
  repeat' (first | (with_reducible first | assumption | apply kept_all) | (simp only [kept_mk]) | (with_reducible first | apply kept_ite | apply kept_ite2 | apply State.fadd_kept | apply State.setCopse_kept | apply dropHolder_kept | apply dropWaiting_kept | apply scheduleAll_kept | apply sendRecord_kept) | split | (dsimp only) | (with_reducible first | refine kept_snd (by with_reducible assumption) ?_ | refine kept_some (by with_reducible assumption) ?_))

theorem saved_kept {x0 x1 s2} (h2 : Kept q s2) : Kept q (saved x0 x1 s2) := by
  unfold saved
  try dsimp only
  repeat' (first | (with_reducible first | assumption | apply State.setCopse_kept | apply State.putCtx_kept) | split | (dsimp only) | (with_reducible first | refine kept_snd (by with_reducible assumption) ?_ | refine kept_some (by with_reducible assumption) ?_))

theorem landMsg_kept {x0 x1 x2 x3 x4 x5 s6} (h6 : Kept q s6) : Kept q (landMsg x0 x1 x2 x3 x4 x5 s6) := by
  unfold landMsg
  try dsimp only
  repeat' (first | (with_reducible first | assumption | apply kept_all) | (simp only [kept_mk]) | (with_reducible first | apply kept_ite | apply kept_ite2 | apply reblock_kept | apply State.putCtx_kept) | split | (dsimp only) | (with_reducible first | refine kept_snd (by with_reducible assumption) ?_ | refine kept_some (by with_reducible assumption) ?_))

theorem msgToCtx_kept {x0 x1 x2 x3 s4} (h4 : Kept q s4) : Kept q (msgToCtx x0 x1 x2 x3 s4) := by
  unfold msgToCtx
  try dsimp only
  repeat' (first | (with_reducible first | assumption | apply kept_ite | apply kept_ite2 | apply endReq_kept | apply landMsg_kept | apply State.putCtx_kept | apply scheduleAll_kept | apply State.setCopse_kept) | split | (dsimp only) | (with_reducible first | refine kept_snd (by with_reducible assumption) ?_ | refine kept_some (by with_reducible assumption) ?_))

theorem crecEnded_kept {x0 x1 x2 s3} (h3 : Kept q s3) : Kept q (crecEnded x0 x1 x2 s3) := by
  unfold crecEnded
  try dsimp only
  repeat' (first | (with_reducible first | assumption | apply kept_all) | (simp only [kept_mk]) | (with_reducible first | apply kept_ite | apply kept_ite2 | apply State.fadd_kept) | split | (dsimp only) | (with_reducible first | refine kept_snd (by with_reducible assumption) ?_ | refine kept_some (by with_reducible assumption) ?_))

theorem restored_kept {x0 x1 s2} (h2 : Kept q s2) : Kept q (restored x0 x1 s2) := by
  unfold restored
  try dsimp only
  repeat' (first | (with_reducible assumption) | (intro _) | (with_reducible first | apply kept_foldl | apply kept_foldl2 | apply State.setCopse_kept | apply reblock_kept | apply State.putCtx_kept) | split | (dsimp only) | (with_reducible first | refine kept_snd (by with_reducible assumption) ?_ | refine kept_some (by with_reducible assumption) ?_))

theorem State.setS_kept {s0 x1 x2 x3} (h0 : Kept q s0) : Kept q (State.setS s0 x1 x2 x3) := by
  unfold State.setS
  try dsimp only
  repeat' (first | (with_reducible first | assumption | apply State.modStrand_kept))

theorem groupSegs_kept {x0 x1 x2 x3 x4 x5 x6 x7 s8} (h8 : Kept q s8) : Kept q (groupSegs x0 x1 x2 x3 x4 x5 x6 x7 s8) := by
  induction x5 generalizing x0 x1 x2 x3 x4 x6 x7 s8 with
  | zero =>
    unfold groupSegs
    try dsimp only
    repeat' (first | (with_reducible first | assumption | apply mcEnter_kept) | split | (dsimp only) | (with_reducible first | refine kept_snd (by with_reducible assumption) ?_ | refine kept_some (by with_reducible assumption) ?_))
  | succ k ih =>
    unfold groupSegs
    try dsimp only
    repeat' (first | (with_reducible first | assumption | apply ih | apply mcEnter_kept) | split | (dsimp only) | (with_reducible first | refine kept_snd (by with_reducible assumption) ?_ | refine kept_some (by with_reducible assumption) ?_))

theorem sendGroup_kept {x0 x1 x2 s3} (h3 : Kept q s3) : Kept q (sendGroup x0 x1 x2 s3) := by
  unfold sendGroup
  try dsimp only
  repeat' (first | (with_reducible first | assumption | apply kept_ite | apply kept_ite2 | apply endReq_kept | apply groupSegs_kept | apply State.addTxn_kept) | split | (dsimp only) | (with_reducible first | refine kept_snd (by with_reducible assumption) ?_ | refine kept_some (by with_reducible assumption) ?_))

theorem branchTo_kept {x0 x1 s2} (h2 : Kept q s2) : Kept q (branchTo x0 x1 s2) := by
  unfold branchTo
  try dsimp only
  repeat' (first | (with_reducible first | assumption | apply kept_ite | apply kept_ite2 | apply State.modStrand_kept | apply countIssue_kept | apply fault_kept) | split | (dsimp only) | (with_reducible first | refine kept_snd (by with_reducible assumption) ?_ | refine kept_some (by with_reducible assumption) ?_))

theorem refusedRecord_kept {x0 x1 x2 x3 x4 x5 s6} (h6 : Kept q s6) : Kept q (refusedRecord x0 x1 x2 x3 x4 x5 s6) := by
  unfold refusedRecord
  try dsimp only
  repeat' (first | (with_reducible first | assumption | apply sendRecord_kept))

theorem sendMessage_kept {x0 x1 x2 s3} (h3 : Kept q s3) : Kept q (sendMessage x0 x1 x2 s3) := by
  unfold sendMessage
  try dsimp only
  repeat' (first | (with_reducible first | assumption | apply kept_ite | apply kept_ite2 | apply endReq_kept | apply launch_kept | apply State.addTxn_kept | apply msgToCtx_kept) | split | (dsimp only) | (with_reducible first | refine kept_snd (by with_reducible assumption) ?_ | refine kept_some (by with_reducible assumption) ?_))

theorem savedAll_kept {x0 x1 s2} (h2 : Kept q s2) : Kept q (savedAll x0 x1 s2) := by
  induction x1 generalizing x0 s2 with
  | nil =>
    unfold savedAll
    try dsimp only
    repeat' (first | (with_reducible first | assumption | apply saved_kept) | split | (dsimp only) | (with_reducible first | refine kept_snd (by with_reducible assumption) ?_ | refine kept_some (by with_reducible assumption) ?_))
  | cons a l ih =>
    unfold savedAll
    try dsimp only
    repeat' (first | (with_reducible first | assumption | apply ih | apply saved_kept) | split | (dsimp only) | (with_reducible first | refine kept_snd (by with_reducible assumption) ?_ | refine kept_some (by with_reducible assumption) ?_))

theorem swapOutCopse_kept {x0 s1} (h1 : Kept q s1) : Kept q (swapOutCopse x0 s1) := by
  unfold swapOutCopse
  try dsimp only
  repeat' (first | (with_reducible first | assumption | apply kept_all) | (simp only [kept_mk]) | (with_reducible first | apply kept_ite | apply kept_ite2 | apply startSaves_kept | apply savedAll_kept | apply State.setCopse_kept) | split | (dsimp only) | (with_reducible first | refine kept_snd (by with_reducible assumption) ?_ | refine kept_some (by with_reducible assumption) ?_))

theorem pumpRing_kept {x0 x1 x2 s3} (h3 : Kept q s3) : Kept q (pumpRing x0 x1 x2 s3) := by
  induction x0 generalizing x1 x2 s3 with
  | zero =>
    unfold pumpRing
    try dsimp only
    repeat' (first | (with_reducible first | assumption | apply kept_ite | apply kept_ite2 | apply endReq_kept | apply landMsg_kept | apply State.putCtx_kept) | split | (dsimp only) | (with_reducible first | refine kept_snd (by with_reducible assumption) ?_ | refine kept_some (by with_reducible assumption) ?_))
  | succ k ih =>
    unfold pumpRing
    try dsimp only
    repeat' (first | (with_reducible first | assumption | apply kept_ite | apply kept_ite2 | apply ih | apply endReq_kept | apply landMsg_kept | apply State.putCtx_kept) | split | (dsimp only) | (with_reducible first | refine kept_snd (by with_reducible assumption) ?_ | refine kept_some (by with_reducible assumption) ?_))

theorem wakeStrand_kept {x0 s1} (h1 : Kept q s1) : Kept q (wakeStrand x0 s1) := by
  unfold wakeStrand
  try dsimp only
  repeat' (first | (with_reducible first | assumption | apply kept_ite | apply kept_ite2 | apply reblock_kept | apply State.putCtx_kept) | split | (dsimp only) | (with_reducible first | refine kept_snd (by with_reducible assumption) ?_ | refine kept_some (by with_reducible assumption) ?_))

theorem startCtx_kept {x0 x1 x2 s3} (h3 : Kept q s3) : Kept q (startCtx x0 x1 x2 s3) := by
  unfold startCtx
  try dsimp only
  repeat' (first | (with_reducible assumption) | (intro _) | (with_reducible first | apply kept_foldl | apply kept_foldl2 | apply State.putCtx_kept | refine kept_snd (by with_reducible assumption) ?_ | refine kept_some (by with_reducible assumption) ?_))

theorem State.writeBay_kept {s0 x1 x2 x3} (h0 : Kept q s0) : Kept q (State.writeBay s0 x1 x2 x3) := by
  unfold State.writeBay
  try dsimp only
  repeat' (first | (with_reducible first | assumption | apply kept_ite | apply kept_ite2 | apply State.modCtx_kept | apply clearWords_kept) | split | (dsimp only) | (with_reducible first | refine kept_snd (by with_reducible assumption) ?_ | refine kept_some (by with_reducible assumption) ?_))

theorem issueReg_kept {x0 x1 x2 x3 x4 s5} (h5 : Kept q s5) : Kept q (issueReg x0 x1 x2 x3 x4 s5) := by
  unfold issueReg
  try dsimp only
  repeat' (first | (with_reducible assumption) | (intro _) | (with_reducible first | apply issue_kept | apply retire_kept | apply State.modStrand_kept))

theorem dropWritable_kept {x0 s1} (h1 : Kept q s1) : Kept q (dropWritable x0 s1) := by
  unfold dropWritable
  try dsimp only
  repeat' (first | (with_reducible first | assumption | apply State.setCopse_kept))

theorem fenceEnd_kept {x0 x1 s2} (h2 : Kept q s2) : Kept q (fenceEnd x0 x1 s2) := by
  unfold fenceEnd
  try dsimp only
  repeat' (first | (with_reducible first | assumption | apply kept_ite | apply kept_ite2 | apply dropWritable_kept) | split | (dsimp only))

theorem fenceThen_kept {x0 x1 f2 s3} (h2 : ∀ y0,Kept q y0 →  Kept q (f2 y0)) (h3 : Kept q s3) : Kept q (fenceThen x0 x1 f2 s3) := by
  unfold fenceThen
  try dsimp only
  repeat' (first | (with_reducible first | assumption | apply kept_ite | apply kept_ite2 | apply h2 | apply fenceEnd_kept | apply waitFor_kept) | split | (dsimp only))

theorem thenFence_kept {x0 x1 x2 f3 s4} (h3 : ∀ y0,Kept q y0 →  Kept q (f3 y0)) (h4 : Kept q s4) : Kept q (thenFence x0 x1 x2 f3 s4) := by
  unfold thenFence
  try dsimp only
  repeat' (first | (with_reducible first | assumption | apply kept_ite | apply kept_ite2 | apply h3 | apply retire_kept | apply fenceEnd_kept | apply countIssue_kept | apply waitFor_kept) | split | (dsimp only))

theorem endNow_kept {x0 x1 s2} (h2 : Kept q s2) : Kept q (endNow x0 x1 s2) := by
  unfold endNow
  try dsimp only
  repeat' (first | (with_reducible first | assumption | apply endReq_kept))

theorem serveStrand_kept {x0 x1 x2 x3 x4 s5} (h5 : Kept q s5) : Kept q (serveStrand x0 x1 x2 x3 x4 s5) := by
  unfold serveStrand
  try dsimp only
  repeat' (first | (with_reducible first | assumption | apply kept_ite | apply kept_ite2 | apply endNow_kept | apply endReq_kept | apply serveMem_kept) | split | (dsimp only) | (with_reducible first | refine kept_snd (by with_reducible assumption) ?_ | refine kept_some (by with_reducible assumption) ?_))

theorem sendSegs_kept {x0 x1 x2 x3 x4 x5 x6 s7} (h7 : Kept q s7) : Kept q (sendSegs x0 x1 x2 x3 x4 x5 x6 s7) := by
  induction x6 generalizing x0 x1 x2 x3 x4 x5 s7 with
  | nil =>
    unfold sendSegs
    try dsimp only
    repeat' (first | (with_reducible first | assumption | apply serveStrand_kept) | split | (dsimp only) | (with_reducible first | refine kept_snd (by with_reducible assumption) ?_ | refine kept_some (by with_reducible assumption) ?_))
  | cons a l ih =>
    unfold sendSegs
    try dsimp only
    repeat' (first | (with_reducible first | assumption | apply ih | apply serveStrand_kept) | split | (dsimp only) | (with_reducible first | refine kept_snd (by with_reducible assumption) ?_ | refine kept_some (by with_reducible assumption) ?_))

theorem writeBlock_kept {x0 x1 x2 x3 s4} (h4 : Kept q s4) : Kept q (writeBlock x0 x1 x2 x3 s4) := by
  unfold writeBlock
  try dsimp only
  repeat' (first | (with_reducible first | assumption | apply kept_ite | apply kept_ite2 | apply fault_kept | apply countIssue_kept | apply retire_kept | apply endNow_kept | apply sendSegs_kept | apply State.addTxn_kept) | split | (dsimp only) | (with_reducible first | refine kept_snd (by with_reducible assumption) ?_ | refine kept_some (by with_reducible assumption) ?_))

theorem touchLine_kept {x0 x1 x2 s3} (h3 : Kept q s3) : Kept q (touchLine x0 x1 x2 s3) := by
  unfold touchLine
  try dsimp only
  repeat' (first | (with_reducible first | assumption | apply kept_ite | apply kept_ite2 | apply State.setCopse_kept) | split | (dsimp only))

theorem loadLine_kept {x0 x1 x2 x3 x4 s5} (h5 : Kept q s5) : Kept q (loadLine x0 x1 x2 x3 x4 s5) := by
  unfold loadLine
  try dsimp only
  repeat' (first | (with_reducible first | assumption | apply kept_ite | apply kept_ite2 | apply fault_kept | apply State.writeBay_kept | apply touchLine_kept | apply State.setS_kept | apply serveStrand_kept) | split | (dsimp only) | (with_reducible first | refine kept_snd (by with_reducible assumption) ?_ | refine kept_some (by with_reducible assumption) ?_))

theorem fillLine_kept {x0 x1 x2 x3 x4 x5 x6 x7 s8} (h8 : Kept q s8) : Kept q (fillLine x0 x1 x2 x3 x4 x5 x6 x7 s8) := by
  unfold fillLine
  try dsimp only
  repeat' (first | (with_reducible assumption) | (intro _) | (with_reducible first | apply kept_ite | apply kept_ite2 | apply kept_foldl | apply kept_foldl2 | apply State.setCopse_kept | apply State.fadd_kept) | split | (dsimp only) | (with_reducible first | refine kept_snd (by with_reducible assumption) ?_ | refine kept_some (by with_reducible assumption) ?_))

theorem writeBack_kept {x0 x1 x2 s3} (h3 : Kept q s3) : Kept q (writeBack x0 x1 x2 s3) := by
  unfold writeBack
  try dsimp only
  repeat' (first | (with_reducible first | assumption | apply kept_ite | apply kept_ite2 | apply State.setS_kept | apply State.writeScratch_kept | apply State.writeBay_kept | apply fillLine_kept) | split | (dsimp only) | (with_reducible first | refine kept_snd (by with_reducible assumption) ?_ | refine kept_some (by with_reducible assumption) ?_))

theorem countScrub_kept {x0 x1 x2 s3} (h3 : Kept q s3) : Kept q (countScrub x0 x1 x2 s3) := by
  unfold countScrub
  try dsimp only
  repeat' (first | (with_reducible first | assumption | apply kept_all) | (simp only [kept_mk]) | (with_reducible first | apply kept_ite | apply kept_ite2) | split | (dsimp only))

theorem atomWord_kept {x0 x1 x2 x3 s4} (h4 : Kept q s4) : Kept q (atomWord x0 x1 x2 x3 s4) := by
  unfold atomWord
  try dsimp only
  repeat' (first | (with_reducible first | assumption | apply fault_kept | apply serveStrand_kept) | split | (dsimp only) | (with_reducible first | refine kept_snd (by with_reducible assumption) ?_ | refine kept_some (by with_reducible assumption) ?_))

theorem readBlock_kept {x0 x1 x2 x3 x4 x5 s6} (h6 : Kept q s6) : Kept q (readBlock x0 x1 x2 x3 x4 x5 s6) := by
  unfold readBlock
  try dsimp only
  repeat' (first | (with_reducible first | assumption | apply kept_ite | apply kept_ite2 | apply fault_kept | apply countIssue_kept | apply retire_kept | apply serveStrand_kept) | split | (dsimp only) | (with_reducible first | refine kept_snd (by with_reducible assumption) ?_ | refine kept_some (by with_reducible assumption) ?_))

theorem cleanLine_kept {x0 x1 x2 x3 s4} (h4 : Kept q s4) : Kept q (cleanLine x0 x1 x2 x3 s4) := by
  unfold cleanLine
  try dsimp only
  repeat' (first | (with_reducible first | assumption | apply kept_ite | apply kept_ite2 | apply countScrub_kept | apply State.setCopse_kept) | split | (dsimp only) | (with_reducible first | refine kept_snd (by with_reducible assumption) ?_ | refine kept_some (by with_reducible assumption) ?_))

theorem storeLine_kept {x0 x1 x2 x3 s4} (h4 : Kept q s4) : Kept q (storeLine x0 x1 x2 x3 s4) := by
  unfold storeLine
  try dsimp only
  repeat' (first | (with_reducible first | assumption | apply kept_ite | apply kept_ite2 | apply fault_kept | apply fillLine_kept | apply serveStrand_kept) | split | (dsimp only) | (with_reducible first | refine kept_snd (by with_reducible assumption) ?_ | refine kept_some (by with_reducible assumption) ?_))

theorem gatherRows_kept {x0 x1 x2 s3} (h3 : Kept q s3) : Kept q (gatherRows x0 x1 x2 s3) := by
  unfold gatherRows
  try dsimp only
  repeat' (first | (with_reducible assumption) | (intro _) | (with_reducible first | apply kept_ite | apply kept_ite2 | apply kept_foldl | apply kept_foldl2 | apply fault_kept | apply countIssue_kept | apply retire_kept | apply endNow_kept | apply serveStrand_kept) | split | (dsimp only) | (with_reducible first | refine kept_snd (by with_reducible assumption) ?_ | refine kept_some (by with_reducible assumption) ?_))

theorem deliverStrand_kept {x0 x1 x2 x3 x4 x5 s6} (h6 : Kept q s6) : Kept q (deliverStrand x0 x1 x2 x3 x4 x5 s6) := by
  unfold deliverStrand
  try dsimp only
  repeat' (first | (with_reducible assumption) | (intro _) | (with_reducible first | apply kept_ite | apply kept_ite2 | apply kept_getD | apply cleanLine_kept | apply writeBack_kept | apply State.setS_kept | apply failWith_kept | apply wakeStrand_kept) | split | (dsimp only) | (with_reducible first | refine kept_snd (by with_reducible assumption) ?_ | refine kept_some (by with_reducible assumption) ?_))

theorem scalarOp_kept {x0 x1 x2 x3 s4} (h4 : Kept q s4) : Kept q (scalarOp x0 x1 x2 x3 s4) := by
  unfold scalarOp
  try dsimp only
  repeat' (first | (with_reducible first | assumption | apply issueReg_kept))

theorem execShl_kept {x0 x1 s2} (h2 : Kept q s2) : KeptOut q (execShl x0 x1 s2) := by
  unfold execShl
  try dsimp only
  repeat' (first | (with_reducible first | assumption | apply keptOut_next | apply ok_kept | apply scalarOp_kept))

theorem execMinu_kept {x0 x1 s2} (h2 : Kept q s2) : KeptOut q (execMinu x0 x1 s2) := by
  unfold execMinu
  try dsimp only
  repeat' (first | (with_reducible first | assumption | apply kept_ite | apply kept_ite2 | apply keptOut_next | apply keptOut_ite | apply ok_kept | apply scalarOp_kept) | split | (dsimp only))

theorem execCmpi_kept {x0 x1 s2} (h2 : Kept q s2) : KeptOut q (execCmpi x0 x1 s2) := by
  unfold execCmpi
  try dsimp only
  repeat' (first | (with_reducible first | assumption | apply keptOut_next | apply ok_kept | apply issueReg_kept))

theorem takeBay_kept {x0 x1 s2} (h2 : Kept q s2) : Kept q (takeBay x0 x1 s2) := by
  unfold takeBay
  try dsimp only
  repeat' (first | (with_reducible first | assumption | apply State.modStrand_kept | apply State.modCtx_kept))

theorem execBayGrant_kept {x0 x1 x2 s3} (h3 : Kept q s3) : KeptOut q (execBayGrant x0 x1 x2 s3) := by
  unfold execBayGrant
  try dsimp only
  repeat' (first | (with_reducible first | assumption | apply keptOut_next | apply State.upTo_kept | apply ok_kept | apply retire_kept | apply takeBay_kept | apply State.setCopse_kept) | split | (dsimp only) | (with_reducible first | refine kept_snd (by with_reducible assumption) ?_ | refine kept_some (by with_reducible assumption) ?_))

theorem execClz_kept {x0 x1 s2} (h2 : Kept q s2) : KeptOut q (execClz x0 x1 s2) := by
  unfold execClz
  try dsimp only
  repeat' (first | (with_reducible first | assumption | apply keptOut_next | apply ok_kept | apply issueReg_kept))

theorem execSetcvt_kept {x0 x1 s2} (h2 : Kept q s2) : KeptOut q (execSetcvt x0 x1 s2) := by
  unfold execSetcvt
  try dsimp only
  repeat' (first | (with_reducible first | assumption | apply keptOut_next | apply ok_kept | apply issueReg_kept))

theorem execSeta_kept {x0 x1 s2} (h2 : Kept q s2) : KeptOut q (execSeta x0 x1 s2) := by
  unfold execSeta
  try dsimp only
  repeat' (first | (with_reducible first | assumption | apply keptOut_next | apply ok_kept | apply issueReg_kept))

theorem execMovz_kept {x0 x1 s2} (h2 : Kept q s2) : KeptOut q (execMovz x0 x1 s2) := by
  unfold execMovz
  try dsimp only
  repeat' (first | (with_reducible first | assumption | apply keptOut_next | apply ok_kept | apply issueReg_kept))

theorem execCall_kept {x0 x1 s2} (h2 : Kept q s2) : KeptOut q (execCall x0 x1 s2) := by
  unfold execCall
  try dsimp only
  repeat' (first | (with_reducible assumption) | (intro _) | (with_reducible first | apply keptOut_next | apply ok_kept | apply issue_kept | apply branchTo_kept | apply State.setS_kept))

theorem execAddi_kept {x0 x1 s2} (h2 : Kept q s2) : KeptOut q (execAddi x0 x1 s2) := by
  unfold execAddi
  try dsimp only
  repeat' (first | (with_reducible first | assumption | apply keptOut_next | apply ok_kept | apply issueReg_kept))

theorem execMaxu_kept {x0 x1 s2} (h2 : Kept q s2) : KeptOut q (execMaxu x0 x1 s2) := by
  unfold execMaxu
  try dsimp only
  repeat' (first | (with_reducible first | assumption | apply kept_ite | apply kept_ite2 | apply keptOut_next | apply keptOut_ite | apply ok_kept | apply scalarOp_kept) | split | (dsimp only))

theorem execBr_kept {x0 x1 s2} (h2 : Kept q s2) : KeptOut q (execBr x0 x1 s2) := by
  unfold execBr
  try dsimp only
  repeat' (first | (with_reducible assumption) | (intro _) | (with_reducible first | apply keptOut_next | apply ok_kept | apply issue_kept | apply branchTo_kept))

theorem execPopc_kept {x0 x1 s2} (h2 : Kept q s2) : KeptOut q (execPopc x0 x1 s2) := by
  unfold execPopc
  try dsimp only
  repeat' (first | (with_reducible first | assumption | apply keptOut_next | apply ok_kept | apply issueReg_kept))

theorem execMulhu_kept {x0 x1 s2} (h2 : Kept q s2) : KeptOut q (execMulhu x0 x1 s2) := by
  unfold execMulhu
  try dsimp only
  repeat' (first | (with_reducible first | assumption | apply keptOut_next | apply ok_kept | apply scalarOp_kept))

end Sys2Proof.Machine
end

