-- ==== Sys2Proof/Laws/KeptB.lean ====
section
/-! SUPPORT. The operations keep it, second part. -/

namespace Sys2Proof.Machine

set_option linter.unusedTactic false
set_option linter.unreachableTactic false
set_option linter.unusedVariables false

variable {q : State}

theorem execMaxs_kept {x0 x1 s2} (h2 : Kept q s2) : KeptOut q (execMaxs x0 x1 s2) := by
  unfold execMaxs
  try dsimp only
  repeat' (first | (with_reducible first | assumption | apply kept_ite | apply kept_ite2 | apply keptOut_next | apply keptOut_ite | apply ok_kept | apply scalarOp_kept) | split | (dsimp only))

theorem execSub_kept {x0 x1 s2} (h2 : Kept q s2) : KeptOut q (execSub x0 x1 s2) := by
  unfold execSub
  try dsimp only
  repeat' (first | (with_reducible first | assumption | apply keptOut_next | apply ok_kept | apply scalarOp_kept))

theorem execOr_kept {x0 x1 s2} (h2 : Kept q s2) : KeptOut q (execOr x0 x1 s2) := by
  unfold execOr
  try dsimp only
  repeat' (first | (with_reducible first | assumption | apply keptOut_next | apply ok_kept | apply scalarOp_kept))

theorem execTime_kept {x0 x1 s2} (h2 : Kept q s2) : KeptOut q (execTime x0 x1 s2) := by
  unfold execTime
  try dsimp only
  repeat' (first | (with_reducible first | assumption | apply keptOut_next | apply ok_kept | apply issueReg_kept))

theorem execShr_kept {x0 x1 s2} (h2 : Kept q s2) : KeptOut q (execShr x0 x1 s2) := by
  unfold execShr
  try dsimp only
  repeat' (first | (with_reducible first | assumption | apply keptOut_next | apply ok_kept | apply scalarOp_kept))

theorem execBayrel_kept {x0 x1 s2} (h2 : Kept q s2) : KeptOut q (execBayrel x0 x1 s2) := by
  unfold execBayrel
  try dsimp only
  repeat' (first | (with_reducible assumption) | (intro _) | (with_reducible first | apply keptOut_next | apply ok_kept | apply issue_kept | apply retire_kept | apply State.modStrand_kept | apply freeBay_kept) | split | (dsimp only) | (with_reducible first | refine kept_snd (by with_reducible assumption) ?_ | refine kept_some (by with_reducible assumption) ?_))

theorem bayAcquire_kept {x0 x1 s2} (h2 : Kept q s2) : Kept q (bayAcquire x0 x1 s2) := by
  unfold bayAcquire
  try dsimp only
  repeat' (first | (with_reducible first | assumption | apply kept_ite | apply kept_ite2 | apply retire_kept | apply fault_kept | apply countIssue_kept | apply takeBay_kept | apply waitFor_kept | apply State.setCopse_kept | apply State.fadd_kept) | split | (dsimp only) | (with_reducible first | refine kept_snd (by with_reducible assumption) ?_ | refine kept_some (by with_reducible assumption) ?_))

theorem execBayacq_kept {x0 x1 s2} (h2 : Kept q s2) : KeptOut q (execBayacq x0 x1 s2) := by
  unfold execBayacq
  try dsimp only
  repeat' (first | (with_reducible assumption) | (intro _) | (with_reducible first | apply keptOut_next | apply ok_kept | apply issue_kept | apply bayAcquire_kept))

theorem execMins_kept {x0 x1 s2} (h2 : Kept q s2) : KeptOut q (execMins x0 x1 s2) := by
  unfold execMins
  try dsimp only
  repeat' (first | (with_reducible first | assumption | apply kept_ite | apply kept_ite2 | apply keptOut_next | apply keptOut_ite | apply ok_kept | apply scalarOp_kept) | split | (dsimp only))

theorem execMul_kept {x0 x1 s2} (h2 : Kept q s2) : KeptOut q (execMul x0 x1 s2) := by
  unfold execMul
  try dsimp only
  repeat' (first | (with_reducible first | assumption | apply keptOut_next | apply ok_kept | apply scalarOp_kept))

theorem execPlog_kept {x0 x1 s2} (h2 : Kept q s2) : KeptOut q (execPlog x0 x1 s2) := by
  unfold execPlog
  try dsimp only
  repeat' (first | (with_reducible first | assumption | apply keptOut_next | apply ok_kept | apply issueReg_kept))

theorem execXor_kept {x0 x1 s2} (h2 : Kept q s2) : KeptOut q (execXor x0 x1 s2) := by
  unfold execXor
  try dsimp only
  repeat' (first | (with_reducible first | assumption | apply keptOut_next | apply ok_kept | apply scalarOp_kept))

theorem execNop_kept {x0 x1 s2} (h2 : Kept q s2) : KeptOut q (execNop x0 x1 s2) := by
  unfold execNop
  try dsimp only
  repeat' (first | (with_reducible first | assumption | apply keptOut_next | apply ok_kept | apply issueReg_kept))

theorem execMovk_kept {x0 x1 s2} (h2 : Kept q s2) : KeptOut q (execMovk x0 x1 s2) := by
  unfold execMovk
  try dsimp only
  repeat' (first | (with_reducible first | assumption | apply keptOut_next | apply ok_kept | apply issueReg_kept))

theorem execBrr_kept {x0 x1 s2} (h2 : Kept q s2) : KeptOut q (execBrr x0 x1 s2) := by
  unfold execBrr
  try dsimp only
  repeat' (first | (with_reducible assumption) | (intro _) | (with_reducible first | apply keptOut_next | apply ok_kept | apply issue_kept | apply branchTo_kept))

theorem execAnd_kept {x0 x1 s2} (h2 : Kept q s2) : KeptOut q (execAnd x0 x1 s2) := by
  unfold execAnd
  try dsimp only
  repeat' (first | (with_reducible first | assumption | apply keptOut_next | apply ok_kept | apply scalarOp_kept))

theorem execSar_kept {x0 x1 s2} (h2 : Kept q s2) : KeptOut q (execSar x0 x1 s2) := by
  unfold execSar
  try dsimp only
  repeat' (first | (with_reducible first | assumption | apply keptOut_next | apply ok_kept | apply scalarOp_kept))

theorem execCmp_kept {x0 x1 s2} (h2 : Kept q s2) : KeptOut q (execCmp x0 x1 s2) := by
  unfold execCmp
  try dsimp only
  repeat' (first | (with_reducible first | assumption | apply keptOut_next | apply ok_kept | apply issueReg_kept))

theorem execAdd_kept {x0 x1 s2} (h2 : Kept q s2) : KeptOut q (execAdd x0 x1 s2) := by
  unfold execAdd
  try dsimp only
  repeat' (first | (with_reducible first | assumption | apply keptOut_next | apply ok_kept | apply scalarOp_kept))

theorem execEndStrand_kept {x0 x1 s2} (h2 : Kept q s2) : KeptOut q (execEndStrand x0 x1 s2) := by
  unfold execEndStrand
  try dsimp only
  repeat' (first | (with_reducible assumption) | (intro _) | (with_reducible first | apply keptOut_next | apply ok_kept | apply issue_kept | apply endStrand_kept | apply countIssue_kept))

theorem countRestart_kept {x0 x1 s2} (h2 : Kept q s2) : Kept q (countRestart x0 x1 s2) := by
  unfold countRestart
  try dsimp only
  repeat' (first | (with_reducible first | assumption | apply kept_ite | apply kept_ite2 | apply State.fadd_kept) | split | (dsimp only))

theorem setResid_kept {x0 x1 x2 s3} (h3 : Kept q s3) : Kept q (setResid x0 x1 x2 s3) := by
  unfold setResid
  try dsimp only
  repeat' (first | (with_reducible first | assumption | apply State.setCopse_kept))

theorem residStart_kept {x0 x1 x2 x3 x4 s5} (h5 : Kept q s5) : Kept q (residStart x0 x1 x2 x3 x4 s5).2 := by
  unfold residStart
  try dsimp only
  repeat' (first | (with_reducible first | assumption | apply kept_ite | apply kept_ite2 | apply countRestart_kept | apply setResid_kept) | split | (dsimp only) | (with_reducible first | refine kept_snd (by with_reducible assumption) ?_ | refine kept_some (by with_reducible assumption) ?_))

theorem writeResid_kept {x0 x1 x2 x3 s4} (h4 : Kept q s4) : Kept q (writeResid x0 x1 x2 x3 s4) := by
  induction x3 generalizing x0 x1 x2 s4 with
  | nil =>
    unfold writeResid
    try dsimp only
    repeat' (first | (with_reducible first | assumption | apply t0Write_kept) | split | (dsimp only) | (with_reducible first | refine kept_snd (by with_reducible assumption) ?_ | refine kept_some (by with_reducible assumption) ?_))
  | cons a l ih =>
    unfold writeResid
    try dsimp only
    repeat' (first | (with_reducible first | assumption | apply ih | apply t0Write_kept) | split | (dsimp only) | (with_reducible first | refine kept_snd (by with_reducible assumption) ?_ | refine kept_some (by with_reducible assumption) ?_))

theorem residEnd_kept {x0 x1 x2 x3 x4 x5 s6} (h6 : Kept q s6) : Kept q (residEnd x0 x1 x2 x3 x4 x5 s6) := by
  unfold residEnd
  try dsimp only
  repeat' (first | (with_reducible first | assumption | apply setResid_kept | apply writeResid_kept) | split | (dsimp only) | (with_reducible first | refine kept_snd (by with_reducible assumption) ?_ | refine kept_some (by with_reducible assumption) ?_))

theorem amaxRoll_kept {x0 x1 s2} (h2 : Kept q s2) : Kept q (amaxRoll x0 x1 s2) := by
  unfold amaxRoll
  try dsimp only
  repeat' (first | (with_reducible first | assumption | apply kept_ite | apply kept_ite2 | apply State.setCopse_kept) | split | (dsimp only))

theorem amaxUpdate_kept {x0 x1 x2 s3} (h3 : Kept q s3) : Kept q (amaxUpdate x0 x1 x2 s3) := by
  unfold amaxUpdate
  try dsimp only
  repeat' (first | (with_reducible first | assumption | apply kept_ite | apply kept_ite2 | apply State.setCopse_kept) | split | (dsimp only))

theorem writeTags_kept {x0 x1 x2 x3 x4 x5 s6} (h6 : Kept q s6) : Kept q (writeTags x0 x1 x2 x3 x4 x5 s6) := by
  induction x4 generalizing x0 x1 x2 x3 x5 s6 with
  | nil =>
    unfold writeTags
    try dsimp only
    repeat' (first | (with_reducible first | assumption | apply kept_ite | apply kept_ite2 | apply State.writeScratch_kept) | split | (dsimp only) | (with_reducible first | refine kept_snd (by with_reducible assumption) ?_ | refine kept_some (by with_reducible assumption) ?_))
  | cons a l ih =>
    unfold writeTags
    try dsimp only
    repeat' (first | (with_reducible first | assumption | apply kept_ite | apply kept_ite2 | apply ih | apply State.writeScratch_kept) | split | (dsimp only) | (with_reducible first | refine kept_snd (by with_reducible assumption) ?_ | refine kept_some (by with_reducible assumption) ?_))

theorem convertFor_kept {sr f w b s} {o : ConvOut} {s' : State} (e : convertFor sr f w b s = .ok (o, s')) (h : Kept q s) : Kept q s' := by
  unfold convertFor at e
  split at e
  · cases e
  · dsimp only at e
    split at e
    · cases e
    · cases e
      repeat' (first | (with_reducible assumption) | (with_reducible apply State.modStrand_kept) | (with_reducible apply State.modCtx_kept) | (with_reducible apply State.fadd_kept) | (with_reducible apply State.writeScratch_kept) | (with_reducible apply writeTags_kept) | (with_reducible apply amaxUpdate_kept) | split)

theorem writeV_kept {x0 x1 x2 s3} (h3 : Kept q s3) : Kept q (writeV x0 x1 x2 s3) := by
  unfold writeV
  try dsimp only
  repeat' (first | (with_reducible first | assumption | apply State.writeBay_kept))

theorem laneOp_kept {x0 x1 x2 x3 s4} (h4 : Kept q s4) : Kept q (laneOp x0 x1 x2 x3 s4) := by
  unfold laneOp
  try dsimp only
  repeat' (first | (with_reducible assumption) | (intro _) | (with_reducible first | apply issue_kept | apply retire_kept | apply writeV_kept))

theorem execVadd_kept {x0 x1 s2} (h2 : Kept q s2) : KeptOut q (execVadd x0 x1 s2) := by
  unfold execVadd
  try dsimp only
  repeat' (first | (with_reducible first | assumption | apply keptOut_next | apply ok_kept | apply laneOp_kept))

theorem execVfma_kept {x0 x1 s2} (h2 : Kept q s2) : KeptOut q (execVfma x0 x1 s2) := by
  unfold execVfma
  try dsimp only
  repeat' (first | (with_reducible assumption) | (intro _) | (with_reducible first | apply keptOut_next | apply ok_kept | apply issue_kept | apply retire_kept | apply writeV_kept))

theorem execVabs_kept {x0 x1 s2} (h2 : Kept q s2) : KeptOut q (execVabs x0 x1 s2) := by
  unfold execVabs
  try dsimp only
  repeat' (first | (with_reducible assumption) | (intro _) | (with_reducible first | apply keptOut_next | apply ok_kept | apply issue_kept | apply retire_kept | apply writeV_kept))

theorem sorterOp_kept {x0 x1 x2 f3 s4} (h3 : ∀ y0 y1 y2 y3,Kept q y3 →  Kept q (f3 y0 y1 y2 y3)) (h4 : Kept q s4) : Kept q (sorterOp x0 x1 x2 f3 s4) := by
  unfold sorterOp
  try dsimp only
  repeat' (first | (with_reducible assumption) | (intro _) | (with_reducible first | apply kept_ite | apply kept_ite2 | apply h3 | apply issue_kept | apply waitFor_kept) | split | (dsimp only))

theorem execSortput_kept {x0 x1 s2} (h2 : Kept q s2) : KeptOut q (execSortput x0 x1 s2) := by
  unfold execSortput
  try dsimp only
  repeat' (first | (with_reducible assumption) | (intro _) | (with_reducible first | apply kept_ite | apply kept_ite2 | apply keptOut_next | apply keptOut_ite | apply ok_kept | apply sorterOp_kept | apply State.setCopse_kept | apply retire_kept | apply State.modCtx_kept) | split | (dsimp only))

theorem execSortrel_kept {x0 x1 s2} (h2 : Kept q s2) : KeptOut q (execSortrel x0 x1 s2) := by
  unfold execSortrel
  try dsimp only
  repeat' (first | (with_reducible assumption) | (intro _) | (with_reducible first | apply keptOut_next | apply ok_kept | apply sorterOp_kept | apply retire_kept | apply State.setCopse_kept))

theorem execVaddi_kept {x0 x1 s2} (h2 : Kept q s2) : KeptOut q (execVaddi x0 x1 s2) := by
  unfold execVaddi
  try dsimp only
  repeat' (first | (with_reducible first | assumption | apply keptOut_next | apply ok_kept | apply laneOp_kept))

theorem execSortend_kept {x0 x1 s2} (h2 : Kept q s2) : KeptOut q (execSortend x0 x1 s2) := by
  unfold execSortend
  try dsimp only
  repeat' (first | (with_reducible assumption) | (intro _) | (with_reducible first | apply keptOut_next | apply ok_kept | apply sorterOp_kept | apply retire_kept | apply State.setS_kept | apply State.setCopse_kept))

theorem execVmin_kept {x0 x1 s2} (h2 : Kept q s2) : KeptOut q (execVmin x0 x1 s2) := by
  unfold execVmin
  try dsimp only
  repeat' (first | (with_reducible first | assumption | apply keptOut_next | apply ok_kept | apply laneOp_kept))

theorem execSortget_kept {x0 x1 s2} (h2 : Kept q s2) : KeptOut q (execSortget x0 x1 s2) := by
  unfold execSortget
  try dsimp only
  repeat' (first | (with_reducible assumption) | (intro _) | (with_reducible first | apply keptOut_next | apply ok_kept | apply sorterOp_kept | apply writeV_kept | apply retire_kept | refine kept_snd (by with_reducible assumption) ?_ | refine kept_some (by with_reducible assumption) ?_))

theorem execSorterGrant_kept {x0 x1 s2} (h2 : Kept q s2) : KeptOut q (execSorterGrant x0 x1 s2) := by
  unfold execSorterGrant
  try dsimp only
  repeat' (first | (with_reducible first | assumption | apply keptOut_next | apply State.upTo_kept | apply ok_kept | apply State.setCopse_kept) | split | (dsimp only) | (with_reducible first | refine kept_snd (by with_reducible assumption) ?_ | refine kept_some (by with_reducible assumption) ?_))

theorem execVor_kept {x0 x1 s2} (h2 : Kept q s2) : KeptOut q (execVor x0 x1 s2) := by
  unfold execVor
  try dsimp only
  repeat' (first | (with_reducible first | assumption | apply keptOut_next | apply ok_kept | apply laneOp_kept))

theorem execVsum_kept {x0 x1 s2} (h2 : Kept q s2) : KeptOut q (execVsum x0 x1 s2) := by
  unfold execVsum
  try dsimp only
  repeat' (first | (with_reducible assumption) | (intro _) | (with_reducible first | apply keptOut_next | apply ok_kept | apply issue_kept | apply retire_kept | apply State.setS_kept))

theorem execVsubi_kept {x0 x1 s2} (h2 : Kept q s2) : KeptOut q (execVsubi x0 x1 s2) := by
  unfold execVsubi
  try dsimp only
  repeat' (first | (with_reducible first | assumption | apply keptOut_next | apply ok_kept | apply laneOp_kept))

theorem execVmax_kept {x0 x1 s2} (h2 : Kept q s2) : KeptOut q (execVmax x0 x1 s2) := by
  unfold execVmax
  try dsimp only
  repeat' (first | (with_reducible first | assumption | apply keptOut_next | apply ok_kept | apply laneOp_kept))

theorem execCvtn_kept {x0 x1 s2} (h2 : Kept q s2) : KeptOut q (execCvtn x0 x1 s2) := by
  unfold execCvtn
  try dsimp only
  repeat' (first | (with_reducible assumption) | (intro _) | (with_reducible first | apply kept_ite | apply kept_ite2 | apply keptOut_next | apply keptOut_ite | refine convertFor_kept (by with_reducible assumption) ?_ | apply ok_kept | apply issue_kept | apply State.writeBay_kept | apply retire_kept | apply fault_kept | apply countIssue_kept) | split | (dsimp only) | (with_reducible first | refine kept_snd (by with_reducible assumption) ?_ | refine kept_some (by with_reducible assumption) ?_))

theorem execVand_kept {x0 x1 s2} (h2 : Kept q s2) : KeptOut q (execVand x0 x1 s2) := by
  unfold execVand
  try dsimp only
  repeat' (first | (with_reducible first | assumption | apply keptOut_next | apply ok_kept | apply laneOp_kept))

theorem execVxor_kept {x0 x1 s2} (h2 : Kept q s2) : KeptOut q (execVxor x0 x1 s2) := by
  unfold execVxor
  try dsimp only
  repeat' (first | (with_reducible first | assumption | apply keptOut_next | apply ok_kept | apply laneOp_kept))

theorem execAroll_kept {x0 x1 s2} (h2 : Kept q s2) : KeptOut q (execAroll x0 x1 s2) := by
  unfold execAroll
  try dsimp only
  repeat' (first | (with_reducible assumption) | (intro _) | (with_reducible first | apply kept_ite | apply kept_ite2 | apply keptOut_next | apply keptOut_ite | apply ok_kept | apply issue_kept | apply retire_kept | apply amaxRoll_kept) | split | (dsimp only) | (with_reducible first | refine kept_snd (by with_reducible assumption) ?_ | refine kept_some (by with_reducible assumption) ?_))

theorem execSortbeg_kept {x0 x1 s2} (h2 : Kept q s2) : KeptOut q (execSortbeg x0 x1 s2) := by
  unfold execSortbeg
  try dsimp only
  repeat' (first | (with_reducible assumption) | (intro _) | (with_reducible first | apply kept_ite | apply kept_ite2 | apply keptOut_next | apply keptOut_ite | apply ok_kept | apply issue_kept | apply State.draw_kept | apply retire_kept | apply State.setCopse_kept | apply waitFor_kept) | split | (dsimp only))

theorem execVsel_kept {x0 x1 s2} (h2 : Kept q s2) : KeptOut q (execVsel x0 x1 s2) := by
  unfold execVsel
  try dsimp only
  repeat' (first | (with_reducible assumption) | (intro _) | (with_reducible first | apply kept_ite | apply kept_ite2 | apply keptOut_next | apply keptOut_ite | apply ok_kept | apply issue_kept | apply retire_kept | apply writeV_kept) | split | (dsimp only))

theorem execVext_kept {x0 x1 s2} (h2 : Kept q s2) : KeptOut q (execVext x0 x1 s2) := by
  unfold execVext
  try dsimp only
  repeat' (first | (with_reducible assumption) | (intro _) | (with_reducible first | apply keptOut_next | apply ok_kept | apply issue_kept | apply retire_kept | apply State.setS_kept))

theorem execCvtw_kept {x0 x1 s2} (h2 : Kept q s2) : KeptOut q (execCvtw x0 x1 s2) := by
  unfold execCvtw
  try dsimp only
  repeat' (first | (with_reducible assumption) | (intro _) | (with_reducible first | apply keptOut_next | apply ok_kept | apply issue_kept | apply retire_kept | apply writeV_kept) | split | (dsimp only) | (with_reducible first | refine kept_snd (by with_reducible assumption) ?_ | refine kept_some (by with_reducible assumption) ?_))

theorem execVmul_kept {x0 x1 s2} (h2 : Kept q s2) : KeptOut q (execVmul x0 x1 s2) := by
  unfold execVmul
  try dsimp only
  repeat' (first | (with_reducible first | assumption | apply keptOut_next | apply ok_kept | apply laneOp_kept))

theorem execVcmp_kept {x0 x1 s2} (h2 : Kept q s2) : KeptOut q (execVcmp x0 x1 s2) := by
  unfold execVcmp
  try dsimp only
  repeat' (first | (with_reducible assumption) | (intro _) | (with_reducible first | apply kept_ite | apply kept_ite2 | apply keptOut_next | apply keptOut_ite | apply ok_kept | apply issue_kept | apply retire_kept | apply writeV_kept) | split | (dsimp only))

theorem execCvta_kept {x0 x1 s2} (h2 : Kept q s2) : KeptOut q (execCvta x0 x1 s2) := by
  unfold execCvta
  try dsimp only
  repeat' (first | (with_reducible assumption) | (intro _) | (with_reducible first | apply kept_ite | apply kept_ite2 | apply keptOut_next | apply keptOut_ite | refine convertFor_kept (by with_reducible assumption) ?_ | apply ok_kept | apply issue_kept | apply retire_kept | apply State.writeScratch_kept | apply fault_kept | apply countIssue_kept) | split | (dsimp only) | (with_reducible first | refine kept_snd (by with_reducible assumption) ?_ | refine kept_some (by with_reducible assumption) ?_))

theorem execVbcast_kept {x0 x1 s2} (h2 : Kept q s2) : KeptOut q (execVbcast x0 x1 s2) := by
  unfold execVbcast
  try dsimp only
  repeat' (first | (with_reducible assumption) | (intro _) | (with_reducible first | apply keptOut_next | apply ok_kept | apply issue_kept | apply retire_kept | apply writeV_kept))

theorem execVsub_kept {x0 x1 s2} (h2 : Kept q s2) : KeptOut q (execVsub x0 x1 s2) := by
  unfold execVsub
  try dsimp only
  repeat' (first | (with_reducible first | assumption | apply keptOut_next | apply ok_kept | apply laneOp_kept))

theorem State.setSvc_kept {s0 x1 x2} (h0 : Kept q s0) : Kept q (State.setSvc s0 x1 x2) := by
  unfold State.setSvc
  try dsimp only
  repeat' (first | (with_reducible first | assumption | apply kept_all) | (simp only [kept_mk]))

theorem State.modSvc_kept {s0 x1 x2} (h0 : Kept q s0) : Kept q (State.modSvc s0 x1 x2) := by
  unfold State.modSvc
  try dsimp only
  repeat' (first | (with_reducible first | assumption | apply State.setSvc_kept) | split | (dsimp only) | (with_reducible first | refine kept_snd (by with_reducible assumption) ?_ | refine kept_some (by with_reducible assumption) ?_))

theorem takeMsg_kept {x0 x1 s2} (h2 : Kept q s2) : Kept q (takeMsg x0 x1 s2) := by
  unfold takeMsg
  try dsimp only
  repeat' (first | (with_reducible assumption) | (intro _) | (with_reducible first | apply kept_getD | apply State.modSvc_kept | apply pumpRing_kept))

theorem dropJob_kept {x0 x1 s2} (h2 : Kept q s2) : Kept q (dropJob x0 x1 s2) := by
  unfold dropJob
  try dsimp only
  repeat' (first | (with_reducible first | assumption | apply State.modSvc_kept))

theorem newJob_kept {x0 x1 x2 s3} (h3 : Kept q s3) : Kept q (newJob x0 x1 x2 s3).2 := by
  unfold newJob
  try dsimp only
  repeat' (first | (with_reducible first | assumption | apply State.setSvc_kept | refine kept_snd (by with_reducible assumption) ?_ | refine kept_some (by with_reducible assumption) ?_))

theorem svcSend_kept {x0 x1 x2 x3 s4} (h4 : Kept q s4) : Kept q (svcSend x0 x1 x2 x3 s4) := by
  unfold svcSend
  try dsimp only
  repeat' (first | (with_reducible first | assumption | apply kept_ite | apply kept_ite2 | apply newJob_kept | apply State.modSvc_kept | apply endReq_kept | apply sendMessage_kept) | split | (dsimp only) | (with_reducible first | refine kept_snd (by with_reducible assumption) ?_ | refine kept_some (by with_reducible assumption) ?_))

theorem svcResult_kept {x0 x1 x2 s3} (h3 : Kept q s3) : Kept q (svcResult x0 x1 x2 s3) := by
  unfold svcResult
  try dsimp only
  repeat' (first | (with_reducible first | assumption | apply svcSend_kept))

theorem svcConvert_kept {x0 x1 x2 x3 s4} (h4 : Kept q s4) : Kept q (svcConvert x0 x1 x2 x3 s4).2 := by
  unfold svcConvert
  try dsimp only
  repeat' (first | (with_reducible first | assumption | apply kept_ite | apply kept_ite2 | apply amaxUpdate_kept | apply State.modCtx_kept | apply State.fadd_kept | apply State.modSvc_kept) | split | (dsimp only) | (with_reducible first | refine kept_snd (by with_reducible assumption) ?_ | refine kept_some (by with_reducible assumption) ?_))

theorem svcStore_kept {x0 x1 x2 s3} (h3 : Kept q s3) : Kept q (svcStore x0 x1 x2 s3) := by
  unfold svcStore
  try dsimp only
  repeat' (first | (with_reducible first | assumption | apply newJob_kept | apply serveMem_kept) | split | (dsimp only) | (with_reducible first | refine kept_snd (by with_reducible assumption) ?_ | refine kept_some (by with_reducible assumption) ?_))

theorem svcStats_kept {x0 s1} (h1 : Kept q s1) : Kept q (svcStats x0 s1) := by
  unfold svcStats
  try dsimp only
  repeat' (first | (with_reducible first | assumption | apply svcStore_kept))

theorem svcSendGroup_kept {x0 x1 s2} (h2 : Kept q s2) : Kept q (svcSendGroup x0 x1 s2) := by
  unfold svcSendGroup
  try dsimp only
  repeat' (first | (with_reducible first | assumption | apply newJob_kept | apply State.modSvc_kept | apply sendGroup_kept) | split | (dsimp only) | (with_reducible first | refine kept_snd (by with_reducible assumption) ?_ | refine kept_some (by with_reducible assumption) ?_))

theorem readLines_kept {x0 x1 x2 x3 x4 s5} (h5 : Kept q s5) : Kept q (readLines x0 x1 x2 x3 x4 s5) := by
  induction x3 generalizing x0 x1 x2 x4 s5 with
  | zero =>
    unfold readLines
    try dsimp only
    repeat' (first | (with_reducible first | assumption | apply serveMem_kept) | split | (dsimp only) | (with_reducible first | refine kept_snd (by with_reducible assumption) ?_ | refine kept_some (by with_reducible assumption) ?_))
  | succ k ih =>
    unfold readLines
    try dsimp only
    repeat' (first | (with_reducible first | assumption | apply ih | apply serveMem_kept) | split | (dsimp only) | (with_reducible first | refine kept_snd (by with_reducible assumption) ?_ | refine kept_some (by with_reducible assumption) ?_))

theorem svcRest_kept {x0 s1} (h1 : Kept q s1) : Kept q (svcRest x0 s1) := by
  unfold svcRest
  try dsimp only
  repeat' (first | (with_reducible first | assumption | apply kept_ite | apply kept_ite2 | apply reblock_kept | apply State.modCtx_kept) | split | (dsimp only))

theorem svcEnd_kept {x0 s1} (h1 : Kept q s1) : Kept q (svcEnd x0 s1) := by
  unfold svcEnd
  try dsimp only
  repeat' (first | (with_reducible first | assumption | apply kept_ite | apply kept_ite2 | apply svcStats_kept | apply endProgram_kept | apply State.modCtx_kept) | split | (dsimp only))

theorem sendOut_kept {x0 x1 s2} (h2 : Kept q s2) : Kept q (sendOut x0 x1 s2) := by
  unfold sendOut
  try dsimp only
  repeat' (first | (with_reducible first | assumption | apply svcResult_kept | apply State.setSvc_kept) | split | (dsimp only) | (with_reducible first | refine kept_snd (by with_reducible assumption) ?_ | refine kept_some (by with_reducible assumption) ?_))

theorem joinOut_kept {x0 x1 x2 s3} (h3 : Kept q s3) : Kept q (joinOut x0 x1 x2 s3) := by
  unfold joinOut
  try dsimp only
  repeat' (first | (with_reducible first | assumption | apply kept_ite | apply kept_ite2 | apply kept_getD | apply sendOut_kept | apply State.setSvc_kept) | split | (dsimp only) | (with_reducible first | refine kept_snd (by with_reducible assumption) ?_ | refine kept_some (by with_reducible assumption) ?_))

theorem answerToken_kept {x0 x1 x2 s3} (h3 : Kept q s3) : Kept q (answerToken x0 x1 x2 s3) := by
  unfold answerToken
  try dsimp only
  repeat' (first | (with_reducible first | assumption | apply kept_ite | apply kept_ite2 | apply State.modSvc_kept | apply joinOut_kept | apply svcConvert_kept) | split | (dsimp only) | (with_reducible first | refine kept_snd (by with_reducible assumption) ?_ | refine kept_some (by with_reducible assumption) ?_))

theorem putToken_kept {x0 x1 s2} (h2 : Kept q s2) : Kept q (putToken x0 x1 s2) := by
  unfold putToken
  try dsimp only
  repeat' (first | (with_reducible first | assumption | apply kept_ite | apply kept_ite2 | apply answerToken_kept | apply State.modSvc_kept) | split | (dsimp only))

theorem expertEntries_kept {x0 x1 s2} (h2 : Kept q s2) : Kept q (expertEntries x0 x1 s2) := by
  induction x1 generalizing x0 s2 with
  | nil =>
    unfold expertEntries
    try dsimp only
    repeat' (first | (with_reducible assumption) | (intro _) | (with_reducible first | apply kept_ite | apply kept_ite2 | apply kept_getD | apply putToken_kept | apply State.modSvc_kept) | split | (dsimp only) | (with_reducible first | refine kept_snd (by with_reducible assumption) ?_ | refine kept_some (by with_reducible assumption) ?_))
  | cons a l ih =>
    unfold expertEntries
    try dsimp only
    repeat' (first | (with_reducible assumption) | (intro _) | (with_reducible first | apply kept_ite | apply kept_ite2 | apply ih | apply kept_getD | apply putToken_kept | apply State.modSvc_kept) | split | (dsimp only) | (with_reducible first | refine kept_snd (by with_reducible assumption) ?_ | refine kept_some (by with_reducible assumption) ?_))

theorem handleExpertOut_kept {x0 x1 x2 s3} (h3 : Kept q s3) : Kept q (handleExpertOut x0 x1 x2 s3) := by
  unfold handleExpertOut
  try dsimp only
  repeat' (first | (with_reducible first | assumption | apply expertEntries_kept | apply takeMsg_kept))

theorem sendRelease_kept {x0 x1 x2 s3} (h3 : Kept q s3) : Kept q (sendRelease x0 x1 x2 s3) := by
  unfold sendRelease
  try dsimp only
  repeat' (first | (with_reducible first | assumption | apply kept_all) | (intro _) | (simp only [kept_mk]) | (with_reducible first | apply kept_foldl | apply kept_foldl2 | apply svcSendGroup_kept | apply seqAdd_kept) | split | (dsimp only) | (with_reducible first | refine kept_snd (by with_reducible assumption) ?_ | refine kept_some (by with_reducible assumption) ?_))

theorem releaseBarrier_kept {x0 x1 s2} (h2 : Kept q s2) : Kept q (releaseBarrier x0 x1 s2) := by
  unfold releaseBarrier
  try dsimp only
  repeat' (first | (with_reducible assumption) | (intro _) | (with_reducible first | apply kept_ite | apply kept_ite2 | apply kept_foldl | apply kept_foldl2 | apply State.setSvc_kept | apply svcStore_kept | apply sendRelease_kept) | split | (dsimp only) | (with_reducible first | refine kept_snd (by with_reducible assumption) ?_ | refine kept_some (by with_reducible assumption) ?_))

theorem failChoice_kept {x0 x1 x2 x3 x4 s5} (h5 : Kept q s5) : Kept q (failChoice x0 x1 x2 x3 x4 s5) := by
  unfold failChoice
  try dsimp only
  repeat' (first | (with_reducible first | assumption | apply putToken_kept) | split | (dsimp only) | (with_reducible first | refine kept_snd (by with_reducible assumption) ?_ | refine kept_some (by with_reducible assumption) ?_))

theorem sendBatch_kept {x0 x1 s2} (h2 : Kept q s2) : Kept q (sendBatch x0 x1 s2) := by
  unfold sendBatch
  try dsimp only
  repeat' (first | (with_reducible first | assumption | apply kept_ite | apply kept_ite2 | apply State.modSvc_kept | apply svcSend_kept) | split | (dsimp only) | (with_reducible first | refine kept_snd (by with_reducible assumption) ?_ | refine kept_some (by with_reducible assumption) ?_))

theorem joinBatch_kept {x0 x1 x2 x3 x4 s5} (h5 : Kept q s5) : Kept q (joinBatch x0 x1 x2 x3 x4 s5) := by
  unfold joinBatch
  try dsimp only
  repeat' (first | (with_reducible first | assumption | apply kept_ite | apply kept_ite2 | apply sendBatch_kept | apply State.modSvc_kept | apply State.setSvc_kept) | split | (dsimp only) | (with_reducible first | refine kept_snd (by with_reducible assumption) ?_ | refine kept_some (by with_reducible assumption) ?_))

theorem resolveChoice_kept {x0 x1 x2 x3 x4 s5} (h5 : Kept q s5) : Kept q (resolveChoice x0 x1 x2 x3 x4 s5) := by
  unfold resolveChoice
  try dsimp only
  repeat' (first | (with_reducible first | assumption | apply kept_ite | apply kept_ite2 | apply failChoice_kept | apply joinBatch_kept) | split | (dsimp only) | (with_reducible first | refine kept_snd (by with_reducible assumption) ?_ | refine kept_some (by with_reducible assumption) ?_))

theorem resolveAll_kept {x0 x1 x2 x3 s4} (h4 : Kept q s4) : Kept q (resolveAll x0 x1 x2 x3 s4) := by
  induction x3 generalizing x0 x1 x2 s4 with
  | nil =>
    unfold resolveAll
    try dsimp only
    repeat' (first | (with_reducible first | assumption | apply resolveChoice_kept) | split | (dsimp only) | (with_reducible first | refine kept_snd (by with_reducible assumption) ?_ | refine kept_some (by with_reducible assumption) ?_))
  | cons a l ih =>
    unfold resolveAll
    try dsimp only
    repeat' (first | (with_reducible first | assumption | apply ih | apply resolveChoice_kept) | split | (dsimp only) | (with_reducible first | refine kept_snd (by with_reducible assumption) ?_ | refine kept_some (by with_reducible assumption) ?_))

theorem dispatchTokens_kept {x0 x1 x2 s3} (h3 : Kept q s3) : Kept q (dispatchTokens x0 x1 x2 s3) := by
  induction x2 generalizing x0 x1 s3 with
  | nil =>
    unfold dispatchTokens
    try dsimp only
    repeat' (first | (with_reducible first | assumption | apply kept_ite | apply kept_ite2 | apply State.modSvc_kept | apply resolveAll_kept | apply State.setSvc_kept) | split | (dsimp only) | (with_reducible first | refine kept_snd (by with_reducible assumption) ?_ | refine kept_some (by with_reducible assumption) ?_))
  | cons a l ih =>
    unfold dispatchTokens
    try dsimp only
    repeat' (first | (with_reducible first | assumption | apply kept_ite | apply kept_ite2 | apply ih | apply State.modSvc_kept | apply resolveAll_kept | apply State.setSvc_kept) | split | (dsimp only) | (with_reducible first | refine kept_snd (by with_reducible assumption) ?_ | refine kept_some (by with_reducible assumption) ?_))

theorem handleDispatch_kept {x0 x1 x2 s3} (h3 : Kept q s3) : Kept q (handleDispatch x0 x1 x2 s3) := by
  unfold handleDispatch
  try dsimp only
  repeat' (first | (with_reducible first | assumption | apply dispatchTokens_kept | apply takeMsg_kept))

theorem handleArrive_kept {x0 x1 x2 s3} (h3 : Kept q s3) : Kept q (handleArrive x0 x1 x2 s3) := by
  unfold handleArrive
  try dsimp only
  repeat' (first | (with_reducible first | assumption | apply kept_ite | apply kept_ite2 | apply takeMsg_kept | apply State.modSvc_kept | apply releaseBarrier_kept) | split | (dsimp only))

theorem arrivals_kept {x0 x1 s2} (h2 : Kept q s2) : Kept q (arrivals x0 x1 s2) := by
  induction x1 generalizing x0 s2 with
  | zero =>
    unfold arrivals
    try dsimp only
    repeat' (first | (with_reducible first | assumption | apply handleArrive_kept) | split | (dsimp only) | (with_reducible first | refine kept_snd (by with_reducible assumption) ?_ | refine kept_some (by with_reducible assumption) ?_))
  | succ k ih =>
    unfold arrivals
    try dsimp only
    repeat' (first | (with_reducible first | assumption | apply ih | apply handleArrive_kept) | split | (dsimp only) | (with_reducible first | refine kept_snd (by with_reducible assumption) ?_ | refine kept_some (by with_reducible assumption) ?_))

theorem barrierTimeout_kept {x0 s1} (h1 : Kept q s1) : Kept q (barrierTimeout x0 s1) := by
  unfold barrierTimeout
  try dsimp only
  repeat' (first | (with_reducible first | assumption | apply kept_ite | apply kept_ite2 | apply arrivals_kept | apply releaseBarrier_kept) | split | (dsimp only))

theorem bagEntries_kept {x0 x1 x2 x3 x4 s5} (h5 : Kept q s5) : Kept q (bagEntries x0 x1 x2 x3 x4 s5).2 := by
  induction x3 generalizing x0 x1 x2 x4 s5 with
  | nil =>
    unfold bagEntries
    try dsimp only
    repeat' (first | (with_reducible first | assumption | apply kept_ite | apply kept_ite2 | apply svcConvert_kept) | split | (dsimp only) | (with_reducible first | refine kept_snd (by with_reducible assumption) ?_ | refine kept_some (by with_reducible assumption) ?_))
  | cons a l ih =>
    unfold bagEntries
    try dsimp only
    repeat' (first | (with_reducible first | assumption | apply kept_ite | apply kept_ite2 | apply ih | apply svcConvert_kept) | split | (dsimp only) | (with_reducible first | refine kept_snd (by with_reducible assumption) ?_ | refine kept_some (by with_reducible assumption) ?_))

theorem svcStart_kept {x0 s1} (h1 : Kept q s1) : Kept q (svcStart x0 s1) := by
  unfold svcStart
  try dsimp only
  repeat' (first | (with_reducible first | assumption | apply kept_ite | apply kept_ite2 | apply newJob_kept | apply State.modSvc_kept | apply readLines_kept) | split | (dsimp only) | (with_reducible first | refine kept_snd (by with_reducible assumption) ?_ | refine kept_some (by with_reducible assumption) ?_))

theorem sendSegResult_kept {x0 x1 x2 x3 x4 x5 x6 s7} (h7 : Kept q s7) : Kept q (sendSegResult x0 x1 x2 x3 x4 x5 x6 s7) := by
  unfold sendSegResult
  try dsimp only
  repeat' (first | (with_reducible first | assumption | apply kept_ite | apply kept_ite2 | apply svcSendGroup_kept | apply svcResult_kept) | split | (dsimp only) | (with_reducible first | refine kept_snd (by with_reducible assumption) ?_ | refine kept_some (by with_reducible assumption) ?_))

theorem emitted_kept {x0 x1 x2 s3} (h3 : Kept q s3) : Kept q (emitted x0 x1 x2 s3) := by
  unfold emitted
  try dsimp only
  repeat' (first | (with_reducible first | assumption | apply kept_ite | apply kept_ite2 | apply State.modSvc_kept) | split | (dsimp only) | (with_reducible first | refine kept_snd (by with_reducible assumption) ?_ | refine kept_some (by with_reducible assumption) ?_))

theorem timeoutSegs_kept {x0 x1 x2 x3 x4 s5} (h5 : Kept q s5) : Kept q (timeoutSegs x0 x1 x2 x3 x4 s5) := by
  induction x4 generalizing x0 x1 x2 x3 s5 with
  | nil =>
    unfold timeoutSegs
    try dsimp only
    repeat' (first | (with_reducible first | assumption | apply sendSegResult_kept | apply emitted_kept) | split | (dsimp only) | (with_reducible first | refine kept_snd (by with_reducible assumption) ?_ | refine kept_some (by with_reducible assumption) ?_))
  | cons a l ih =>
    unfold timeoutSegs
    try dsimp only
    repeat' (first | (with_reducible first | assumption | apply ih | apply sendSegResult_kept | apply emitted_kept) | split | (dsimp only) | (with_reducible first | refine kept_snd (by with_reducible assumption) ?_ | refine kept_some (by with_reducible assumption) ?_))

theorem sendBlocks_kept {x0 x1 x2 x3 x4 s5} (h5 : Kept q s5) : Kept q (sendBlocks x0 x1 x2 x3 x4 s5) := by
  unfold sendBlocks
  try dsimp only
  repeat' (first | (with_reducible first | assumption | apply kept_ite | apply kept_ite2 | apply sendSegResult_kept | apply emitted_kept) | split | (dsimp only) | (with_reducible first | refine kept_snd (by with_reducible assumption) ?_ | refine kept_some (by with_reducible assumption) ?_))

theorem sendSegs2_kept {x0 x1 x2 x3 x4 x5 s6} (h6 : Kept q s6) : Kept q (sendSegs2 x0 x1 x2 x3 x4 x5 s6) := by
  induction x4 generalizing x0 x1 x2 x3 x5 s6 with
  | nil =>
    unfold sendSegs2
    try dsimp only
    repeat' (first | (with_reducible first | assumption | apply sendBlocks_kept) | split | (dsimp only) | (with_reducible first | refine kept_snd (by with_reducible assumption) ?_ | refine kept_some (by with_reducible assumption) ?_))
  | cons a l ih =>
    unfold sendSegs2
    try dsimp only
    repeat' (first | (with_reducible first | assumption | apply ih | apply sendBlocks_kept) | split | (dsimp only) | (with_reducible first | refine kept_snd (by with_reducible assumption) ?_ | refine kept_some (by with_reducible assumption) ?_))

theorem residStep_kept {x0 x1 x2 s3} (h3 : Kept q s3) : Kept q (residStep x0 x1 x2 s3) := by
  unfold residStep
  try dsimp only
  repeat' (first | (with_reducible first | assumption | apply kept_ite | apply kept_ite2 | apply timeoutSegs_kept | apply State.modSvc_kept | apply residStart_kept | apply svcConvert_kept | apply residEnd_kept | apply sendSegs2_kept) | split | (dsimp only) | (with_reducible first | refine kept_snd (by with_reducible assumption) ?_ | refine kept_some (by with_reducible assumption) ?_))

theorem emitSeg_kept {x0 x1 s2} (h2 : Kept q s2) : Kept q (emitSeg x0 x1 s2) := by
  unfold emitSeg
  try dsimp only
  repeat' (first | (with_reducible first | assumption | apply svcConvert_kept | apply sendBlocks_kept) | split | (dsimp only) | (with_reducible first | refine kept_snd (by with_reducible assumption) ?_ | refine kept_some (by with_reducible assumption) ?_))

theorem trySeg_kept {x0 x1 x2 s3} (h3 : Kept q s3) : Kept q (trySeg x0 x1 x2 s3) := by
  unfold trySeg
  try dsimp only
  repeat' (first | (with_reducible first | assumption | apply kept_ite | apply kept_ite2 | apply residStep_kept | apply emitSeg_kept) | split | (dsimp only) | (with_reducible first | refine kept_snd (by with_reducible assumption) ?_ | refine kept_some (by with_reducible assumption) ?_))

theorem addSeg_kept {x0 x1 x2 x3 s4} (h4 : Kept q s4) : Kept q (addSeg x0 x1 x2 x3 s4) := by
  unfold addSeg
  try dsimp only
  repeat' (first | (with_reducible first | assumption | apply kept_getD | apply trySeg_kept | apply State.setSvc_kept))

theorem contribute_kept {x0 x1 x2 x3 x4 s5} (h5 : Kept q s5) : Kept q (contribute x0 x1 x2 x3 x4 s5) := by
  induction x3 generalizing x0 x1 x2 x4 s5 with
  | nil =>
    unfold contribute
    try dsimp only
    repeat' (first | (with_reducible first | assumption | apply kept_ite | apply kept_ite2 | apply State.modSvc_kept | apply addSeg_kept) | split | (dsimp only) | (with_reducible first | refine kept_snd (by with_reducible assumption) ?_ | refine kept_some (by with_reducible assumption) ?_))
  | cons a l ih =>
    unfold contribute
    try dsimp only
    repeat' (first | (with_reducible first | assumption | apply kept_ite | apply kept_ite2 | apply ih | apply State.modSvc_kept | apply addSeg_kept) | split | (dsimp only) | (with_reducible first | refine kept_snd (by with_reducible assumption) ?_ | refine kept_some (by with_reducible assumption) ?_))

theorem handleContrib_kept {x0 x1 x2 s3} (h3 : Kept q s3) : Kept q (handleContrib x0 x1 x2 s3) := by
  unfold handleContrib
  try dsimp only
  repeat' (first | (with_reducible first | assumption | apply kept_ite | apply kept_ite2 | apply contribute_kept | apply takeMsg_kept) | split | (dsimp only) | (with_reducible first | refine kept_snd (by with_reducible assumption) ?_ | refine kept_some (by with_reducible assumption) ?_))

theorem contribBefore_kept {x0 x1 x2 s3} (h3 : Kept q s3) : Kept q (contribBefore x0 x1 x2 s3) := by
  induction x2 generalizing x0 x1 s3 with
  | zero =>
    unfold contribBefore
    try dsimp only
    repeat' (first | (with_reducible first | assumption | apply handleContrib_kept) | split | (dsimp only) | (with_reducible first | refine kept_snd (by with_reducible assumption) ?_ | refine kept_some (by with_reducible assumption) ?_))
  | succ k ih =>
    unfold contribBefore
    try dsimp only
    repeat' (first | (with_reducible first | assumption | apply ih | apply handleContrib_kept) | split | (dsimp only) | (with_reducible first | refine kept_snd (by with_reducible assumption) ?_ | refine kept_some (by with_reducible assumption) ?_))

theorem expireSegs_kept {x0 x1 s2} (h2 : Kept q s2) : Kept q (expireSegs x0 x1 s2) := by
  induction x1 generalizing x0 s2 with
  | nil =>
    unfold expireSegs
    try dsimp only
    repeat' (first | (with_reducible first | assumption | apply kept_ite | apply kept_ite2 | apply State.modSvc_kept | apply sendSegResult_kept | apply emitted_kept | apply residStep_kept) | split | (dsimp only) | (with_reducible first | refine kept_snd (by with_reducible assumption) ?_ | refine kept_some (by with_reducible assumption) ?_))
  | cons a l ih =>
    unfold expireSegs
    try dsimp only
    repeat' (first | (with_reducible first | assumption | apply kept_ite | apply kept_ite2 | apply ih | apply State.modSvc_kept | apply sendSegResult_kept | apply emitted_kept | apply residStep_kept) | split | (dsimp only) | (with_reducible first | refine kept_snd (by with_reducible assumption) ?_ | refine kept_some (by with_reducible assumption) ?_))

theorem tokenTimeouts_kept {x0 s1} (h1 : Kept q s1) : Kept q (tokenTimeouts x0 s1) := by
  unfold tokenTimeouts
  try dsimp only
  repeat' (first | (with_reducible assumption) | (intro _) | (with_reducible first | apply kept_foldl | apply kept_foldl2 | apply answerToken_kept | apply State.modSvc_kept))

theorem gatherRuns_kept {x0 x1 x2 x3 s4} (h4 : Kept q s4) : Kept q (gatherRuns x0 x1 x2 x3 s4) := by
  induction x2 generalizing x0 x1 x3 s4 with
  | nil =>
    unfold gatherRuns
    try dsimp only
    repeat' (first | (with_reducible first | assumption | apply serveMem_kept) | split | (dsimp only) | (with_reducible first | refine kept_snd (by with_reducible assumption) ?_ | refine kept_some (by with_reducible assumption) ?_))
  | cons a l ih =>
    unfold gatherRuns
    try dsimp only
    repeat' (first | (with_reducible first | assumption | apply ih | apply serveMem_kept) | split | (dsimp only) | (with_reducible first | refine kept_snd (by with_reducible assumption) ?_ | refine kept_some (by with_reducible assumption) ?_))

theorem sendBagRsps_kept {x0 x1 x2 x3 s4} (h4 : Kept q s4) : Kept q (sendBagRsps x0 x1 x2 x3 s4) := by
  induction x2 generalizing x0 x1 x3 s4 with
  | nil =>
    unfold sendBagRsps
    try dsimp only
    repeat' (first | (with_reducible first | assumption | apply svcResult_kept) | split | (dsimp only) | (with_reducible first | refine kept_snd (by with_reducible assumption) ?_ | refine kept_some (by with_reducible assumption) ?_))
  | cons a l ih =>
    unfold sendBagRsps
    try dsimp only
    repeat' (first | (with_reducible first | assumption | apply ih | apply svcResult_kept) | split | (dsimp only) | (with_reducible first | refine kept_snd (by with_reducible assumption) ?_ | refine kept_some (by with_reducible assumption) ?_))

theorem bagsDone_kept {x0 x1 x2 s3} (h3 : Kept q s3) : Kept q (bagsDone x0 x1 x2 s3) := by
  unfold bagsDone
  try dsimp only
  repeat' (first | (with_reducible first | assumption | apply bagEntries_kept | apply sendBagRsps_kept | apply State.modSvc_kept) | split | (dsimp only) | (with_reducible first | refine kept_snd (by with_reducible assumption) ?_ | refine kept_some (by with_reducible assumption) ?_))

theorem startKv_kept {x0 x1 x2 x3 x4 s5} (h5 : Kept q s5) : Kept q (startKv x0 x1 x2 x3 x4 s5) := by
  unfold startKv
  try dsimp only
  repeat' (first | (with_reducible assumption) | (intro _) | (with_reducible first | apply kept_foldl | apply kept_foldl2 | apply newJob_kept | apply serveMem_kept) | split | (dsimp only) | (with_reducible first | refine kept_snd (by with_reducible assumption) ?_ | refine kept_some (by with_reducible assumption) ?_))

theorem dropBatch_kept {x0 x1 s2} (h2 : Kept q s2) : Kept q (dropBatch x0 x1 s2) := by
  unfold dropBatch
  try dsimp only
  repeat' (first | (with_reducible first | assumption | apply State.modSvc_kept))

theorem startDone_kept {x0 x1 s2} (h2 : Kept q s2) : Kept q (startDone x0 x1 s2) := by
  unfold startDone
  try dsimp only
  repeat' (first | (with_reducible first | assumption | apply kept_ite | apply kept_ite2 | apply endProgram_kept | apply State.modSvc_kept) | split | (dsimp only) | (with_reducible first | refine kept_snd (by with_reducible assumption) ?_ | refine kept_some (by with_reducible assumption) ?_))

theorem filterRegions_kept {x0 x1 s2} (h2 : Kept q s2) : Kept q (filterRegions x0 x1 s2) := by
  unfold filterRegions
  try dsimp only
  repeat' (first | (with_reducible assumption) | (intro _) | (with_reducible first | apply kept_ite | apply kept_ite2 | apply kept_foldl | apply kept_foldl2 | apply serveOpen_kept | apply serveClose_kept) | split | (dsimp only) | (with_reducible first | refine kept_snd (by with_reducible assumption) ?_ | refine kept_some (by with_reducible assumption) ?_))

theorem filterAnswer_kept {x0 x1 x2 x3 s4} (h4 : Kept q s4) : Kept q (filterAnswer x0 x1 x2 x3 s4) := by
  unfold filterAnswer
  try dsimp only
  repeat' (first | (with_reducible first | assumption | apply filterRegions_kept | apply State.modSvc_kept | apply svcResult_kept))

theorem startKvs_kept {x0 x1 x2 x3 x4 s5} (h5 : Kept q s5) : Kept q (startKvs x0 x1 x2 x3 x4 s5) := by
  induction x3 generalizing x0 x1 x2 x4 s5 with
  | nil =>
    unfold startKvs
    try dsimp only
    repeat' (first | (with_reducible first | assumption | apply startKv_kept) | split | (dsimp only) | (with_reducible first | refine kept_snd (by with_reducible assumption) ?_ | refine kept_some (by with_reducible assumption) ?_))
  | cons a l ih =>
    unfold startKvs
    try dsimp only
    repeat' (first | (with_reducible first | assumption | apply ih | apply startKv_kept) | split | (dsimp only) | (with_reducible first | refine kept_snd (by with_reducible assumption) ?_ | refine kept_some (by with_reducible assumption) ?_))

theorem filterDone_kept {x0 x1 x2 s3} (h3 : Kept q s3) : Kept q (filterDone x0 x1 x2 s3) := by
  unfold filterDone
  try dsimp only
  repeat' (first | (with_reducible first | assumption | apply kept_ite | apply kept_ite2 | apply filterAnswer_kept | apply State.modCtx_kept | apply startKvs_kept) | split | (dsimp only) | (with_reducible first | refine kept_snd (by with_reducible assumption) ?_ | refine kept_some (by with_reducible assumption) ?_))

theorem kvDone_kept {x0 x1 x2 x3 x4 x5 s6} (h6 : Kept q s6) : Kept q (kvDone x0 x1 x2 x3 x4 x5 s6) := by
  unfold kvDone
  try dsimp only
  repeat' (first | (with_reducible first | assumption | apply svcResult_kept) | split | (dsimp only) | (with_reducible first | refine kept_snd (by with_reducible assumption) ?_ | refine kept_some (by with_reducible assumption) ?_))

theorem countResend_kept {x0 s1} (h1 : Kept q s1) : Kept q (countResend x0 s1) := by
  unfold countResend
  try dsimp only
  repeat' (first | (with_reducible first | assumption | apply State.modSvc_kept))

theorem finishJob_kept {x0 x1 x2 s3} (h3 : Kept q s3) : Kept q (finishJob x0 x1 x2 s3) := by
  unfold finishJob
  try dsimp only
  repeat' (first | (with_reducible assumption) | (intro _) | (with_reducible first | apply kept_ite | apply kept_ite2 | apply kept_getD | apply dropJob_kept | apply startDone_kept | apply bagsDone_kept | apply filterDone_kept | apply kvDone_kept | apply countResend_kept | apply State.modSvc_kept) | split | (dsimp only) | (with_reducible first | refine kept_snd (by with_reducible assumption) ?_ | refine kept_some (by with_reducible assumption) ?_))

theorem svcPump_kept {x0 x1 s2} (h2 : Kept q s2) : Kept q (svcPump x0 x1 s2) := by
  induction x1 generalizing x0 s2 with
  | nil =>
    unfold svcPump
    try dsimp only
    repeat' (first | (with_reducible first | assumption | apply kept_ite | apply kept_ite2 | apply finishJob_kept) | split | (dsimp only) | (with_reducible first | refine kept_snd (by with_reducible assumption) ?_ | refine kept_some (by with_reducible assumption) ?_))
  | cons a l ih =>
    unfold svcPump
    try dsimp only
    repeat' (first | (with_reducible first | assumption | apply kept_ite | apply kept_ite2 | apply ih | apply finishJob_kept) | split | (dsimp only) | (with_reducible first | refine kept_snd (by with_reducible assumption) ?_ | refine kept_some (by with_reducible assumption) ?_))

theorem handleBags_kept {x0 x1 x2 s3} (h3 : Kept q s3) : Kept q (handleBags x0 x1 x2 s3) := by
  unfold handleBags
  try dsimp only
  repeat' (first | (with_reducible first | assumption | apply kept_ite | apply kept_ite2 | apply takeMsg_kept | apply bagsDone_kept | apply newJob_kept | apply gatherRuns_kept) | split | (dsimp only) | (with_reducible first | refine kept_snd (by with_reducible assumption) ?_ | refine kept_some (by with_reducible assumption) ?_))

theorem handleFilter_kept {x0 x1 x2 s3} (h3 : Kept q s3) : Kept q (handleFilter x0 x1 x2 s3) := by
  unfold handleFilter
  try dsimp only
  repeat' (first | (with_reducible assumption) | (intro _) | (with_reducible first | apply kept_foldl | apply kept_foldl2 | apply filterRegions_kept | apply takeMsg_kept | apply newJob_kept | apply State.modSvc_kept | apply readLines_kept) | split | (dsimp only) | (with_reducible first | refine kept_snd (by with_reducible assumption) ?_ | refine kept_some (by with_reducible assumption) ?_))

theorem svcAfter_kept {x0 s1} (h1 : Kept q s1) : Kept q (svcAfter x0 s1) := by
  unfold svcAfter
  try dsimp only
  repeat' (first | (with_reducible first | assumption | apply kept_ite | apply kept_ite2 | apply svcPump_kept | apply svcRest_kept | apply svcEnd_kept) | split | (dsimp only))

theorem svcEnded_kept {x0 x1 x2 x3 x4 s5} (h5 : Kept q s5) : Kept q (svcEnded x0 x1 x2 x3 x4 s5) := by
  unfold svcEnded
  try dsimp only
  repeat' (first | (with_reducible first | assumption | apply kept_ite | apply kept_ite2 | apply svcAfter_kept | apply State.modSvc_kept) | split | (dsimp only) | (with_reducible first | refine kept_snd (by with_reducible assumption) ?_ | refine kept_some (by with_reducible assumption) ?_))

theorem filterTimeout_kept {x0 s1} (h1 : Kept q s1) : Kept q (filterTimeout x0 s1) := by
  unfold filterTimeout
  try dsimp only
  repeat' (first | (with_reducible assumption) | (intro _) | (with_reducible first | apply kept_ite | apply kept_ite2 | apply State.modSvc_kept | apply filterAnswer_kept | apply dropJob_kept | apply takeMsg_kept) | split | (dsimp only) | (with_reducible first | refine kept_snd (by with_reducible assumption) ?_ | refine kept_some (by with_reducible assumption) ?_))

theorem batchSend_kept {x0 s1} (h1 : Kept q s1) : Kept q (batchSend x0 s1) := by
  unfold batchSend
  try dsimp only
  repeat' (first | (with_reducible assumption) | (intro _) | (with_reducible first | apply kept_foldl | apply kept_foldl2 | apply sendBatch_kept | apply sendOut_kept))

theorem expertInDone_kept {x0 x1 s2} (h2 : Kept q s2) : Kept q (expertInDone x0 x1 s2) := by
  unfold expertInDone
  try dsimp only
  repeat' (first | (with_reducible assumption) | (intro _) | (with_reducible first | apply kept_ite | apply kept_ite2 | apply kept_foldl | apply kept_foldl2 | apply failChoice_kept | apply dropBatch_kept | apply sendBatch_kept | apply countResend_kept | apply State.modSvc_kept | apply resolveChoice_kept) | split | (dsimp only) | (with_reducible first | refine kept_snd (by with_reducible assumption) ?_ | refine kept_some (by with_reducible assumption) ?_))

theorem expertInRetry_kept {x0 x1 s2} (h2 : Kept q s2) : Kept q (expertInRetry x0 x1 s2) := by
  unfold expertInRetry
  try dsimp only
  repeat' (first | (with_reducible first | assumption | apply kept_ite | apply kept_ite2 | apply sendBatch_kept) | split | (dsimp only) | (with_reducible first | refine kept_snd (by with_reducible assumption) ?_ | refine kept_some (by with_reducible assumption) ?_))

theorem segTimeouts_kept {x0 s1} (h1 : Kept q s1) : Kept q (segTimeouts x0 s1) := by
  unfold segTimeouts
  try dsimp only
  repeat' (first | (with_reducible assumption) | (intro _) | (with_reducible first | apply kept_foldl | apply kept_foldl2 | apply contribBefore_kept | apply expireSegs_kept))

theorem putLoad_kept {x0 s1} (h1 : Kept q s1) : Kept q (putLoad x0 s1) := by
  unfold putLoad
  try dsimp only
  repeat' (first | (with_reducible first | assumption | apply kept_all) | (simp only [kept_mk]) | (with_reducible first | apply kept_ite | apply kept_ite2) | split | (dsimp only))

theorem dropLoad_kept {x0 s1} (h1 : Kept q s1) : Kept q (dropLoad x0 s1) := by
  unfold dropLoad
  try dsimp only
  repeat' (first | (with_reducible first | assumption | apply kept_all) | (simp only [kept_mk]))

theorem refuseLoad_kept {x0 x1 x2 s3} (h3 : Kept q s3) : Kept q (refuseLoad x0 x1 x2 s3) := by
  unfold refuseLoad
  try dsimp only
  repeat' (first | (with_reducible first | assumption | apply refusedRecord_kept | apply endReq_kept | apply dropLoad_kept))

theorem addResid_kept {x0 x1 s2} (h2 : Kept q s2) : Kept q (addResid x0 x1 s2) := by
  induction x1 generalizing x0 s2 with
  | nil =>
    unfold addResid
    try dsimp only
    repeat' (first | (with_reducible first | assumption | apply State.setCopse_kept) | split | (dsimp only) | (with_reducible first | refine kept_snd (by with_reducible assumption) ?_ | refine kept_some (by with_reducible assumption) ?_))
  | cons a l ih =>
    unfold addResid
    try dsimp only
    repeat' (first | (with_reducible first | assumption | apply ih | apply State.setCopse_kept) | split | (dsimp only) | (with_reducible first | refine kept_snd (by with_reducible assumption) ?_ | refine kept_some (by with_reducible assumption) ?_))

theorem addAmax_kept {x0 x1 s2} (h2 : Kept q s2) : Kept q (addAmax x0 x1 s2) := by
  induction x1 generalizing x0 s2 with
  | nil =>
    unfold addAmax
    try dsimp only
    repeat' (first | (with_reducible first | assumption | apply State.setCopse_kept) | split | (dsimp only) | (with_reducible first | refine kept_snd (by with_reducible assumption) ?_ | refine kept_some (by with_reducible assumption) ?_))
  | cons a l ih =>
    unfold addAmax
    try dsimp only
    repeat' (first | (with_reducible first | assumption | apply ih | apply State.setCopse_kept) | split | (dsimp only) | (with_reducible first | refine kept_snd (by with_reducible assumption) ?_ | refine kept_some (by with_reducible assumption) ?_))

theorem placeLoad_kept {x0 x1 x2 x3 s4} (h4 : Kept q s4) : Kept q (placeLoad x0 x1 x2 x3 s4) := by
  unfold placeLoad
  try dsimp only
  repeat' (first | (with_reducible first | assumption | apply kept_all) | (simp only [kept_mk]) | (with_reducible first | apply kept_ite | apply kept_ite2 | apply putLoad_kept | apply addResid_kept | apply addAmax_kept | apply State.draw_kept | apply State.putCtx_kept | apply State.setCopse_kept | apply State.setSvc_kept | apply scheduleAll_kept | apply endReq_kept | apply dropLoad_kept) | split | (dsimp only) | (with_reducible first | refine kept_snd (by with_reducible assumption) ?_ | refine kept_some (by with_reducible assumption) ?_))

theorem decideLoad_kept {x0 s1} (h1 : Kept q s1) : Kept q (decideLoad x0 s1) := by
  unfold decideLoad
  try dsimp only
  repeat' (first | (with_reducible first | assumption | apply kept_ite | apply kept_ite2 | apply refuseLoad_kept | apply placeLoad_kept) | split | (dsimp only) | (with_reducible first | refine kept_snd (by with_reducible assumption) ?_ | refine kept_some (by with_reducible assumption) ?_))

theorem issueRead_kept {x0 s1} (h1 : Kept q s1) : Kept q (issueRead x0 s1) := by
  unfold issueRead
  try dsimp only
  repeat' (first | (with_reducible first | assumption | apply kept_ite | apply kept_ite2 | apply serveMem_kept | apply putLoad_kept) | split | (dsimp only) | (with_reducible first | refine kept_snd (by with_reducible assumption) ?_ | refine kept_some (by with_reducible assumption) ?_))

theorem beginLoad_kept {x0 s1} (h1 : Kept q s1) : Kept q (beginLoad x0 s1) := by
  unfold beginLoad
  try dsimp only
  repeat' (first | (with_reducible first | assumption | apply kept_ite | apply kept_ite2 | apply decideLoad_kept | apply issueRead_kept) | split | (dsimp only) | (with_reducible first | refine kept_snd (by with_reducible assumption) ?_ | refine kept_some (by with_reducible assumption) ?_))

theorem stageDone_kept {x0 s1} (h1 : Kept q s1) : Kept q (stageDone x0 s1) := by
  unfold stageDone
  try dsimp only
  repeat' (first | (with_reducible first | assumption | apply kept_ite | apply kept_ite2 | apply decideLoad_kept | apply refuseLoad_kept | apply issueRead_kept) | split | (dsimp only))

theorem loaderRead_kept {x0 x1 x2 s3} (h3 : Kept q s3) : Kept q (loaderRead x0 x1 x2 s3) := by
  unfold loaderRead
  try dsimp only
  repeat' (first | (with_reducible first | assumption | apply kept_ite | apply kept_ite2 | apply refuseLoad_kept | apply stageDone_kept | apply issueRead_kept) | split | (dsimp only) | (with_reducible first | refine kept_snd (by with_reducible assumption) ?_ | refine kept_some (by with_reducible assumption) ?_))

theorem addLoad_kept {x0 x1 x2 x3 x4 x5 x6 s7} (h7 : Kept q s7) : Kept q (addLoad x0 x1 x2 x3 x4 x5 x6 s7) := by
  unfold addLoad
  try dsimp only
  repeat' (first | (with_reducible first | assumption | apply kept_all) | (simp only [kept_mk]))

theorem pumpLoads_kept {x0 s1} (h1 : Kept q s1) : Kept q (pumpLoads x0 s1) := by
  induction x0 generalizing s1 with
  | zero =>
    unfold pumpLoads
    try dsimp only
    repeat' (first | (with_reducible first | assumption | apply kept_ite | apply kept_ite2 | apply beginLoad_kept | apply placeLoad_kept) | split | (dsimp only) | (with_reducible first | refine kept_snd (by with_reducible assumption) ?_ | refine kept_some (by with_reducible assumption) ?_))
  | succ k ih =>
    unfold pumpLoads
    try dsimp only
    repeat' (first | (with_reducible first | assumption | apply kept_ite | apply kept_ite2 | apply ih | apply beginLoad_kept | apply placeLoad_kept) | split | (dsimp only) | (with_reducible first | refine kept_snd (by with_reducible assumption) ?_ | refine kept_some (by with_reducible assumption) ?_))

theorem State.setStream_kept {s0 x1 x2 x3} (h0 : Kept q s0) : Kept q (State.setStream s0 x1 x2 x3) := by
  unfold State.setStream
  try dsimp only
  repeat' (first | (with_reducible first | assumption | apply State.setCopse_kept))

theorem State.dropStream_kept {s0 x1 x2} (h0 : Kept q s0) : Kept q (State.dropStream s0 x1 x2) := by
  unfold State.dropStream
  try dsimp only
  repeat' (first | (with_reducible first | assumption | apply State.setCopse_kept))

theorem drawPanel_kept {x0 x1 s2} (h2 : Kept q s2) : Kept q (drawPanel x0 x1 s2) := by
  unfold drawPanel
  try dsimp only
  repeat' (first | (with_reducible first | assumption | apply kept_ite | apply kept_ite2 | apply State.setStream_kept | apply State.dropStream_kept) | split | (dsimp only) | (with_reducible first | refine kept_snd (by with_reducible assumption) ?_ | refine kept_some (by with_reducible assumption) ?_))

theorem putBlock_kept {x0 x1 x2 x3 s4} (h4 : Kept q s4) : Kept q (putBlock x0 x1 x2 x3 s4) := by
  unfold putBlock
  try dsimp only
  repeat' (first | (with_reducible first | assumption | apply kept_ite | apply kept_ite2 | apply State.setStream_kept) | split | (dsimp only) | (with_reducible first | refine kept_snd (by with_reducible assumption) ?_ | refine kept_some (by with_reducible assumption) ?_))

theorem fetchLines_kept {x0 x1 x2 s3} (h3 : Kept q s3) : Kept q (fetchLines x0 x1 x2 s3) := by
  induction x2 generalizing x0 x1 s3 with
  | nil =>
    unfold fetchLines
    try dsimp only
    repeat' (first | (with_reducible assumption) | (intro _) | (with_reducible first | apply kept_ite | apply kept_ite2 | apply putBlock_kept | apply touchLine_kept | apply serveStrand_kept) | split | (dsimp only) | (with_reducible first | refine kept_snd (by with_reducible assumption) ?_ | refine kept_some (by with_reducible assumption) ?_))
  | cons a l ih =>
    unfold fetchLines
    try dsimp only
    repeat' (first | (with_reducible assumption) | (intro _) | (with_reducible first | apply kept_ite | apply kept_ite2 | apply ih | apply putBlock_kept | apply touchLine_kept | apply serveStrand_kept) | split | (dsimp only) | (with_reducible first | refine kept_snd (by with_reducible assumption) ?_ | refine kept_some (by with_reducible assumption) ?_))

theorem expFetch_kept {x0 x1 s2} (h2 : Kept q s2) : Kept q (expFetch x0 x1 s2) := by
  unfold expFetch
  try dsimp only
  repeat' (first | (with_reducible first | assumption | apply kept_ite | apply kept_ite2 | apply fetchLines_kept) | split | (dsimp only) | (with_reducible first | refine kept_snd (by with_reducible assumption) ?_ | refine kept_some (by with_reducible assumption) ?_))

theorem damage_kept {x0 x1 x2 x3 x4 x5 s6} (h6 : Kept q s6) : Kept q (damage x0 x1 x2 x3 x4 x5 s6) := by
  unfold damage
  try dsimp only
  repeat' (first | (with_reducible first | assumption | apply kept_ite | apply kept_ite2 | apply putBlock_kept | apply State.fadd_kept) | split | (dsimp only))

theorem expLine_kept {x0 x1 x2 x3 x4 x5 x6 s7} (h7 : Kept q s7) : Kept q (expLine x0 x1 x2 x3 x4 x5 x6 s7) := by
  unfold expLine
  try dsimp only
  repeat' (first | (with_reducible first | assumption | apply kept_ite | apply kept_ite2 | apply fillLine_kept | apply expFetch_kept | apply putBlock_kept) | split | (dsimp only) | (with_reducible first | refine kept_snd (by with_reducible assumption) ?_ | refine kept_some (by with_reducible assumption) ?_))

theorem decodeDone_kept {x0 x1 s2} (h2 : Kept q s2) : Kept q (decodeDone x0 x1 s2) := by
  unfold decodeDone
  try dsimp only
  repeat' (first | (with_reducible first | assumption | apply kept_ite | apply kept_ite2 | apply damage_kept | apply fault_kept | apply State.fadd_kept | apply putBlock_kept) | split | (dsimp only) | (with_reducible first | refine kept_snd (by with_reducible assumption) ?_ | refine kept_some (by with_reducible assumption) ?_))

theorem startDecode_kept {x0 x1 x2 s3} (h3 : Kept q s3) : Kept q (startDecode x0 x1 x2 s3) := by
  unfold startDecode
  try dsimp only
  repeat' (first | (with_reducible first | assumption | apply kept_ite | apply kept_ite2 | apply putBlock_kept | apply expFetch_kept) | split | (dsimp only) | (with_reducible first | refine kept_snd (by with_reducible assumption) ?_ | refine kept_some (by with_reducible assumption) ?_))

theorem setShaperPending_kept {x0 x1 x2 s3} (h3 : Kept q s3) : Kept q (setShaperPending x0 x1 x2 s3) := by
  unfold setShaperPending
  try dsimp only
  repeat' (first | (with_reducible first | assumption | apply kept_ite | apply kept_ite2 | apply State.fset_kept) | split | (dsimp only))

theorem shaperWritten_kept {x0 x1 x2 s3} (h3 : Kept q s3) : Kept q (shaperWritten x0 x1 x2 s3) := by
  unfold shaperWritten
  try dsimp only
  repeat' (first | (with_reducible first | assumption | apply kept_all) | (simp only [kept_mk]) | (with_reducible first | apply kept_ite | apply kept_ite2 | apply setShaperPending_kept) | split | (dsimp only))

theorem State.setSchedPort_kept {s0 x1 x2} (h0 : Kept q s0) : Kept q (State.setSchedPort s0 x1 x2) := by
  unfold State.setSchedPort
  try dsimp only
  repeat' (first | (with_reducible first | assumption | apply kept_all) | (simp only [kept_mk]))

theorem gateCommit_kept {x0 s1} (h1 : Kept q s1) : Kept q (gateCommit x0 s1) := by
  unfold gateCommit
  try dsimp only
  repeat' (first | (with_reducible first | assumption | apply kept_ite | apply kept_ite2 | apply State.fset_kept | apply State.setSchedPort_kept) | split | (dsimp only))

theorem refreshGates_kept {x0 s1} (h1 : Kept q s1) : Kept q (refreshGates x0 s1) := by
  unfold refreshGates
  try dsimp only
  repeat' (first | (with_reducible assumption) | (intro _) | (with_reducible first | apply kept_foldl | apply kept_foldl2 | apply State.fset_kept))

theorem gateTick_kept {x0 s1} (h1 : Kept q s1) : Kept q (gateTick x0 s1) := by
  unfold gateTick
  try dsimp only
  repeat' (first | (with_reducible first | assumption | apply refreshGates_kept | apply State.fset_kept))

theorem gateSwitch_kept {x0 s1} (h1 : Kept q s1) : Kept q (gateSwitch x0 s1) := by
  unfold gateSwitch
  try dsimp only
  repeat' (first | (with_reducible first | assumption | apply State.setSchedPort_kept | apply State.fset_kept | apply gateTick_kept) | split | (dsimp only) | (with_reducible first | refine kept_snd (by with_reducible assumption) ?_ | refine kept_some (by with_reducible assumption) ?_))

theorem gateCancel_kept {x0 s1} (h1 : Kept q s1) : Kept q (gateCancel x0 s1) := by
  unfold gateCancel
  try dsimp only
  repeat' (first | (with_reducible first | assumption | apply kept_ite | apply kept_ite2 | apply State.fset_kept | apply State.setSchedPort_kept) | split | (dsimp only))

theorem setPolTokens_kept {x0 x1 s2} (h2 : Kept q s2) : Kept q (setPolTokens x0 x1 s2) := by
  unfold setPolTokens
  try dsimp only
  repeat' (first | (with_reducible first | assumption | apply kept_all) | (simp only [kept_mk]))

theorem refillPol_kept {x0 s1} (h1 : Kept q s1) : Kept q (refillPol x0 s1) := by
  unfold refillPol
  try dsimp only
  repeat' (first | (with_reducible first | assumption | apply kept_all) | (simp only [kept_mk]) | (with_reducible first | apply State.fset_kept | apply setPolTokens_kept))

theorem setTokens_kept {x0 x1 x2 s3} (h3 : Kept q s3) : Kept q (setTokens x0 x1 x2 s3) := by
  unfold setTokens
  try dsimp only
  repeat' (first | (with_reducible first | assumption | apply kept_ite | apply kept_ite2 | apply State.fset_kept) | split | (dsimp only))

theorem refillShaper_kept {x0 x1 s2} (h2 : Kept q s2) : Kept q (refillShaper x0 x1 s2) := by
  unfold refillShaper
  try dsimp only
  repeat' (first | (with_reducible first | assumption | apply kept_all) | (simp only [kept_mk]) | (with_reducible first | apply setShaperPending_kept | apply setTokens_kept))

theorem joinClass_kept {x0 x1 s2} (h2 : Kept q s2) : Kept q (joinClass x0 x1 s2) := by
  unfold joinClass
  try dsimp only
  repeat' (first | (with_reducible first | assumption | apply kept_ite | apply kept_ite2 | apply State.setSchedPort_kept) | split | (dsimp only))

theorem leaveStrict_kept {x0 x1 s2} (h2 : Kept q s2) : Kept q (leaveStrict x0 x1 s2) := by
  unfold leaveStrict
  try dsimp only
  repeat' (first | (with_reducible first | assumption | apply kept_ite | apply kept_ite2 | apply State.fset_kept | apply State.setSchedPort_kept) | split | (dsimp only))

theorem selectDrr_kept {x0 x1 s2} (h2 : Kept q s2) : Kept q (selectDrr x0 x1 s2).2 := by
  induction x1 generalizing x0 s2 with
  | zero =>
    unfold selectDrr
    try dsimp only
    repeat' (first | (with_reducible first | assumption | apply kept_ite | apply kept_ite2 | apply State.fset_kept | apply State.setSchedPort_kept) | split | (dsimp only) | (with_reducible first | refine kept_snd (by with_reducible assumption) ?_ | refine kept_some (by with_reducible assumption) ?_))
  | succ k ih =>
    unfold selectDrr
    try dsimp only
    repeat' (first | (with_reducible first | assumption | apply kept_ite | apply kept_ite2 | apply ih | apply State.fset_kept | apply State.setSchedPort_kept) | split | (dsimp only) | (with_reducible first | refine kept_snd (by with_reducible assumption) ?_ | refine kept_some (by with_reducible assumption) ?_))

theorem selectClass_kept {x0 s1} (h1 : Kept q s1) : Kept q (selectClass x0 s1).2 := by
  unfold selectClass
  try dsimp only
  repeat' (first | (with_reducible assumption) | (intro _) | (with_reducible first | apply kept_foldl | apply kept_foldl2 | apply joinClass_kept | apply leaveStrict_kept | apply selectDrr_kept) | split | (dsimp only) | (with_reducible first | refine kept_snd (by with_reducible assumption) ?_ | refine kept_some (by with_reducible assumption) ?_))

theorem joinAll_kept {s0} (h0 : Kept q s0) : Kept q (joinAll s0) := by
  unfold joinAll
  try dsimp only
  repeat' (first | (with_reducible assumption) | (intro _) | (with_reducible first | apply kept_ite | apply kept_ite2 | apply kept_foldl | apply kept_foldl2 | apply joinClass_kept) | split | (dsimp only))

theorem police_kept {x0 x1 x2 x3 s4} (h4 : Kept q s4) : Kept q (police x0 x1 x2 x3 s4).2 := by
  unfold police
  try dsimp only
  repeat' (first | (with_reducible first | assumption | apply kept_ite | apply kept_ite2 | apply setPolTokens_kept | apply State.fadd_kept) | split | (dsimp only) | (with_reducible first | refine kept_snd (by with_reducible assumption) ?_ | refine kept_some (by with_reducible assumption) ?_))

theorem fillTokens_kept {x0 s1} (h1 : Kept q s1) : Kept q (fillTokens x0 s1) := by
  unfold fillTokens
  try dsimp only
  repeat' (first | (with_reducible assumption) | (intro _) | (with_reducible first | apply kept_foldl | apply kept_foldl2 | apply setTokens_kept))

theorem countHold_kept {x0 x1 s2} (h2 : Kept q s2) : Kept q (countHold x0 x1 s2) := by
  unfold countHold
  try dsimp only
  repeat' (first | (with_reducible first | assumption | apply kept_all) | (simp only [kept_mk]) | (with_reducible first | apply kept_ite | apply kept_ite2 | apply kept_getD | apply State.fadd_kept) | split | (dsimp only))

theorem refillClr_kept {x0 x1 s2} (h2 : Kept q s2) : Kept q (refillClr x0 x1 s2) := by
  unfold refillClr
  try dsimp only
  repeat' (first | (with_reducible assumption) | (intro _) | (with_reducible first | apply kept_foldl | apply kept_foldl2 | apply refillPol_kept))

theorem refillPort_kept {x0 s1} (h1 : Kept q s1) : Kept q (refillPort x0 s1) := by
  unfold refillPort
  try dsimp only
  repeat' (first | (with_reducible assumption) | (intro _) | (with_reducible first | apply kept_foldl | apply kept_foldl2 | apply refillShaper_kept))

theorem polWritten_kept {x0 x1 s2} (h2 : Kept q s2) : Kept q (polWritten x0 x1 s2) := by
  unfold polWritten
  try dsimp only
  repeat' (first | (with_reducible first | assumption | apply kept_all) | (simp only [kept_mk]) | (with_reducible first | apply kept_ite | apply kept_ite2 | apply State.fset_kept) | split | (dsimp only))

theorem copyGone_kept {x0 x1 x2 s3} (h3 : Kept q s3) : Kept q (copyGone x0 x1 x2 s3) := by
  unfold copyGone
  try dsimp only
  repeat' (first | (with_reducible first | assumption | apply kept_ite | apply kept_ite2 | apply State.putTxn_kept | apply endTxn_kept | apply timeoutTxn_kept) | split | (dsimp only) | (with_reducible first | refine kept_snd (by with_reducible assumption) ?_ | refine kept_some (by with_reducible assumption) ?_))

theorem dropCell_kept {x0 x1 x2 x3 x4 s5} (h5 : Kept q s5) : Kept q (dropCell x0 x1 x2 x3 x4 s5) := by
  unfold dropCell
  try dsimp only
  repeat' (first | (with_reducible first | assumption | apply kept_ite | apply kept_ite2 | apply trail_kept | apply State.fadd_kept | apply copyGone_kept) | split | (dsimp only) | (with_reducible first | refine kept_snd (by with_reducible assumption) ?_ | refine kept_some (by with_reducible assumption) ?_))

theorem dropCells_kept {x0 x1 x2 x3 s4} (h4 : Kept q s4) : Kept q (dropCells x0 x1 x2 x3 s4) := by
  induction x3 generalizing x0 x1 x2 s4 with
  | nil =>
    unfold dropCells
    try dsimp only
    repeat' (first | (with_reducible first | assumption | apply dropCell_kept) | split | (dsimp only) | (with_reducible first | refine kept_snd (by with_reducible assumption) ?_ | refine kept_some (by with_reducible assumption) ?_))
  | cons a l ih =>
    unfold dropCells
    try dsimp only
    repeat' (first | (with_reducible first | assumption | apply ih | apply dropCell_kept) | split | (dsimp only) | (with_reducible first | refine kept_snd (by with_reducible assumption) ?_ | refine kept_some (by with_reducible assumption) ?_))

theorem uncharge_kept {x0 x1 s2} (h2 : Kept q s2) : Kept q (uncharge x0 x1 s2) := by
  unfold uncharge
  try dsimp only
  repeat' (first | (with_reducible first | assumption | apply dropPointer_kept | apply dropCharge_kept) | split | (dsimp only) | (with_reducible first | refine kept_snd (by with_reducible assumption) ?_ | refine kept_some (by with_reducible assumption) ?_))

theorem dropQueued_kept {x0 x1 x2 s3} (h3 : Kept q s3) : Kept q (dropQueued x0 x1 x2 s3) := by
  induction x2 generalizing x0 x1 s3 with
  | nil =>
    unfold dropQueued
    try dsimp only
    repeat' (first | (with_reducible first | assumption | apply dropCell_kept | apply uncharge_kept) | split | (dsimp only) | (with_reducible first | refine kept_snd (by with_reducible assumption) ?_ | refine kept_some (by with_reducible assumption) ?_))
  | cons a l ih =>
    unfold dropQueued
    try dsimp only
    repeat' (first | (with_reducible first | assumption | apply ih | apply dropCell_kept | apply uncharge_kept) | split | (dsimp only) | (with_reducible first | refine kept_snd (by with_reducible assumption) ?_ | refine kept_some (by with_reducible assumption) ?_))

theorem dropEgress_kept {x0 x1 x2 s3} (h3 : Kept q s3) : Kept q (dropEgress x0 x1 x2 s3) := by
  induction x2 generalizing x0 x1 s3 with
  | nil =>
    unfold dropEgress
    try dsimp only
    repeat' (first | (with_reducible first | assumption | apply dropCells_kept | apply dropQueued_kept | apply State.setEgQ_kept) | split | (dsimp only) | (with_reducible first | refine kept_snd (by with_reducible assumption) ?_ | refine kept_some (by with_reducible assumption) ?_))
  | cons a l ih =>
    unfold dropEgress
    try dsimp only
    repeat' (first | (with_reducible first | assumption | apply ih | apply dropCells_kept | apply dropQueued_kept | apply State.setEgQ_kept) | split | (dsimp only) | (with_reducible first | refine kept_snd (by with_reducible assumption) ?_ | refine kept_some (by with_reducible assumption) ?_))

theorem State.setLane_kept {s0 x1 x2} (h0 : Kept q s0) : Kept q (State.setLane s0 x1 x2) := by
  unfold State.setLane
  try dsimp only
  repeat' (first | (with_reducible first | assumption | apply kept_all) | (simp only [kept_mk]))

theorem trainLane_kept {x0 s1} (h1 : Kept q s1) : Kept q (trainLane x0 s1) := by
  unfold trainLane
  try dsimp only
  repeat' (first | (with_reducible first | assumption | apply kept_ite | apply kept_ite2 | apply State.setLane_kept | apply State.fset_kept | apply sendLane_kept) | split | (dsimp only))

theorem startTraining_kept {x0 s1} (h1 : Kept q s1) : Kept q (startTraining x0 s1) := by
  unfold startTraining
  try dsimp only
  repeat' (first | (with_reducible assumption) | (intro _) | (with_reducible first | apply kept_ite | apply kept_ite2 | apply kept_foldl | apply kept_foldl2 | apply trainLane_kept | apply State.fset_kept | apply State.setLport_kept) | split | (dsimp only))

theorem trainLit_kept {x0 s1} (h1 : Kept q s1) : Kept q (trainLit x0 s1) := by
  induction x0 generalizing s1 with
  | nil =>
    unfold trainLit
    try dsimp only
    repeat' (first | (with_reducible first | assumption | apply kept_ite | apply kept_ite2 | apply startTraining_kept) | split | (dsimp only) | (with_reducible first | refine kept_snd (by with_reducible assumption) ?_ | refine kept_some (by with_reducible assumption) ?_))
  | cons a l ih =>
    unfold trainLit
    try dsimp only
    repeat' (first | (with_reducible first | assumption | apply kept_ite | apply kept_ite2 | apply ih | apply startTraining_kept) | split | (dsimp only) | (with_reducible first | refine kept_snd (by with_reducible assumption) ?_ | refine kept_some (by with_reducible assumption) ?_))

theorem dropPortCells_kept {x0 x1 s2} (h2 : Kept q s2) : Kept q (dropPortCells x0 x1 s2) := by
  unfold dropPortCells
  try dsimp only
  repeat' (first | (with_reducible first | assumption | apply kept_all) | (simp only [kept_mk]) | (with_reducible first | apply dropCells_kept | apply dropEgress_kept))

theorem dropAwait_kept {x0 x1 s2} (h2 : Kept q s2) : Kept q (dropAwait x0 x1 s2) := by
  induction x1 generalizing x0 s2 with
  | nil =>
    unfold dropAwait
    try dsimp only
    repeat' (first | (with_reducible assumption) | (intro _) | (with_reducible first | apply kept_foldl | apply kept_foldl2 | apply invAck_kept) | split | (dsimp only) | (with_reducible first | refine kept_snd (by with_reducible assumption) ?_ | refine kept_some (by with_reducible assumption) ?_))
  | cons a l ih =>
    unfold dropAwait
    try dsimp only
    repeat' (first | (with_reducible assumption) | (intro _) | (with_reducible first | apply kept_foldl | apply kept_foldl2 | apply ih | apply invAck_kept) | split | (dsimp only) | (with_reducible first | refine kept_snd (by with_reducible assumption) ?_ | refine kept_some (by with_reducible assumption) ?_))

theorem leftActive_kept {x0 x1 s2} (h2 : Kept q s2) : Kept q (leftActive x0 x1 s2) := by
  unfold leftActive
  try dsimp only
  repeat' (first | (with_reducible first | assumption | apply kept_all) | (simp only [kept_mk]) | (with_reducible first | apply kept_ite | apply kept_ite2 | apply cutPort_kept | apply dropPortCells_kept | apply dropHolder_kept | apply dropAwait_kept | apply memberLost_kept | apply pulse_kept) | split | (dsimp only))

theorem sendNote_kept {x0 x1 s2} (h2 : Kept q s2) : Kept q (sendNote x0 x1 s2) := by
  unfold sendNote
  try dsimp only
  repeat' (first | (with_reducible first | assumption | apply launch_kept | apply State.addTxn_kept))

theorem notePort_kept {x0 s1} (h1 : Kept q s1) : Kept q (notePort x0 s1) := by
  unfold notePort
  try dsimp only
  repeat' (first | (with_reducible first | assumption | apply kept_ite | apply kept_ite2 | apply sendNote_kept) | split | (dsimp only))

theorem becomeActive_kept {x0 s1} (h1 : Kept q s1) : Kept q (becomeActive x0 s1) := by
  unfold becomeActive
  try dsimp only
  repeat' (first | (with_reducible first | assumption | apply kept_ite | apply kept_ite2 | apply State.fset_kept | apply fillTokens_kept | apply State.setLport_kept | apply resend_kept | apply notePort_kept) | split | (dsimp only))

theorem freeSpareLane_kept {x0 x1 s2} (h2 : Kept q s2) : Kept q (freeSpareLane x0 x1 s2) := by
  unfold freeSpareLane
  try dsimp only
  repeat' (first | (with_reducible first | assumption | apply State.fset_kept))

theorem abandonSwap_kept {x0 s1} (h1 : Kept q s1) : Kept q (abandonSwap x0 s1) := by
  unfold abandonSwap
  try dsimp only
  repeat' (first | (with_reducible first | assumption | apply kept_ite | apply kept_ite2 | apply freeSpareLane_kept | apply State.setLane_kept | apply State.fset_kept) | split | (dsimp only) | (with_reducible first | refine kept_snd (by with_reducible assumption) ?_ | refine kept_some (by with_reducible assumption) ?_))

theorem linkFalls_kept {x0 x1 x2 s3} (h3 : Kept q s3) : Kept q (linkFalls x0 x1 x2 s3) := by
  unfold linkFalls
  try dsimp only
  repeat' (first | (with_reducible first | assumption | apply kept_all) | (intro _) | (simp only [kept_mk]) | (with_reducible first | apply kept_ite | apply kept_ite2 | apply kept_foldl | apply kept_foldl2 | apply pulse_kept | apply abandonSwap_kept | apply State.fadd_kept | apply State.fset_kept | apply State.setLport_kept | apply leftActive_kept) | split | (dsimp only))

theorem linkDown_kept {x0 x1 s2} (h2 : Kept q s2) : Kept q (linkDown x0 x1 s2) := by
  unfold linkDown
  try dsimp only
  repeat' (first | (with_reducible first | assumption | apply linkFalls_kept))

theorem takeMode_kept {x0 s1} (h1 : Kept q s1) : Kept q (takeMode x0 s1) := by
  unfold takeMode
  try dsimp only
  repeat' (first | (with_reducible first | assumption | apply kept_all) | (simp only [kept_mk]))

theorem trainAgain_kept {x0 s1} (h1 : Kept q s1) : Kept q (trainAgain x0 s1) := by
  unfold trainAgain
  try dsimp only
  repeat' (first | (with_reducible assumption) | (intro _) | (with_reducible first | apply kept_ite | apply kept_ite2 | apply kept_foldl | apply kept_foldl2 | apply linkDown_kept | apply takeMode_kept | apply trainLit_kept) | split | (dsimp only))

theorem trainFails_kept {x0 s1} (h1 : Kept q s1) : Kept q (trainFails x0 s1) := by
  unfold trainFails
  try dsimp only
  repeat' (first | (with_reducible first | assumption | apply linkDown_kept | apply State.fadd_kept | apply State.setLport_kept))

theorem noteAll_kept {x0 s1} (h1 : Kept q s1) : Kept q (noteAll x0 s1) := by
  induction x0 generalizing s1 with
  | nil =>
    unfold noteAll
    try dsimp only
    repeat' (first | (with_reducible first | assumption | apply notePort_kept) | split | (dsimp only) | (with_reducible first | refine kept_snd (by with_reducible assumption) ?_ | refine kept_some (by with_reducible assumption) ?_))
  | cons a l ih =>
    unfold noteAll
    try dsimp only
    repeat' (first | (with_reducible first | assumption | apply ih | apply notePort_kept) | split | (dsimp only) | (with_reducible first | refine kept_snd (by with_reducible assumption) ?_ | refine kept_some (by with_reducible assumption) ?_))

theorem setMask_kept {x0 x1 x2 s3} (h3 : Kept q s3) : Kept q (setMask x0 x1 x2 s3) := by
  unfold setMask
  try dsimp only
  repeat' (first | (with_reducible assumption) | (intro _) | (with_reducible first | apply kept_foldl | apply kept_foldl2 | apply State.fset_kept))

theorem stuckWrite_kept {x0 x1 s2} (h2 : Kept q s2) : Kept q (stuckWrite x0 x1 s2) := by
  unfold stuckWrite
  try dsimp only
  repeat' (first | (with_reducible first | assumption | apply kept_ite | apply kept_ite2 | apply pulse_kept | apply State.fadd_kept | apply setMask_kept | apply State.setEvAux_kept) | split | (dsimp only))

theorem State.setStack_kept {s0 x1 x2 x3} (h0 : Kept q s0) : Kept q (State.setStack s0 x1 x2 x3) := by
  unfold State.setStack
  try dsimp only
  repeat' (first | (with_reducible first | assumption | apply kept_all) | (simp only [kept_mk]))

theorem standbyEnds_kept {x0 x1 s2} (h2 : Kept q s2) : Kept q (standbyEnds x0 x1 s2) := by
  unfold standbyEnds
  try dsimp only
  repeat' (first | (with_reducible first | assumption | apply kept_ite | apply kept_ite2 | apply State.fset_kept | apply State.setEvAux_kept) | split | (dsimp only))

theorem endOfEvent_kept {x0 x1 s2} (h2 : Kept q s2) : Kept q (endOfEvent x0 x1 s2) := by
  unfold endOfEvent
  try dsimp only
  repeat' (first | (with_reducible first | assumption | apply kept_ite | apply kept_ite2 | apply State.fadd_kept | apply State.fset_kept | apply State.setStack_kept | apply stuckWrite_kept | apply standbyEnds_kept) | split | (dsimp only) | (with_reducible first | refine kept_snd (by with_reducible assumption) ?_ | refine kept_some (by with_reducible assumption) ?_))

theorem answerClaim_kept {x0 x1 s2} (h2 : Kept q s2) : Kept q (answerClaim x0 x1 s2) := by
  unfold answerClaim
  try dsimp only
  repeat' (first | (with_reducible first | assumption | apply retire_kept | apply State.setS_kept | apply State.done_kept) | split | (dsimp only) | (with_reducible first | refine kept_snd (by with_reducible assumption) ?_ | refine kept_some (by with_reducible assumption) ?_))

theorem claimSource_kept {x0 x1 x2 s3} (h3 : Kept q s3) : Kept q (claimSource x0 x1 x2 s3) := by
  unfold claimSource
  try dsimp only
  repeat' (first | (with_reducible first | assumption | apply kept_ite | apply kept_ite2 | apply State.setStack_kept | apply State.fset_kept | apply State.setEvAux_kept) | split | (dsimp only) | (with_reducible first | refine kept_snd (by with_reducible assumption) ?_ | refine kept_some (by with_reducible assumption) ?_))

theorem sourceEdge_kept {x0 x1 x2 s3} (h3 : Kept q s3) : Kept q (sourceEdge x0 x1 x2 s3) := by
  unfold sourceEdge
  try dsimp only
  repeat' (first | (with_reducible assumption) | (intro _) | (with_reducible first | apply kept_ite | apply kept_ite2 | apply kept_foldl | apply kept_foldl2 | apply sampleSource_kept | apply State.setEvAux_kept | apply State.fadd_kept) | split | (dsimp only))

theorem unmask_kept {x0 s1} (h1 : Kept q s1) : Kept q (unmask x0 s1) := by
  unfold unmask
  try dsimp only
  repeat' (first | (with_reducible assumption) | (intro _) | (with_reducible first | apply kept_foldl | apply kept_foldl2 | apply State.setEvAux_kept | apply State.fset_kept))

theorem serveClaims_kept {x0 s1} (h1 : Kept q s1) : Kept q (serveClaims x0 s1) := by
  induction x0 generalizing s1 with
  | nil =>
    unfold serveClaims
    try dsimp only
    repeat' (first | (with_reducible first | assumption | apply kept_all) | (simp only [kept_mk]) | (with_reducible first | apply kept_ite | apply kept_ite2 | apply answerClaim_kept | apply claimSource_kept) | split | (dsimp only) | (with_reducible first | refine kept_snd (by with_reducible assumption) ?_ | refine kept_some (by with_reducible assumption) ?_))
  | cons a l ih =>
    unfold serveClaims
    try dsimp only
    repeat' (first | (with_reducible first | assumption | apply kept_all) | (simp only [kept_mk]) | (with_reducible first | apply kept_ite | apply kept_ite2 | apply ih | apply answerClaim_kept | apply claimSource_kept) | split | (dsimp only) | (with_reducible first | refine kept_snd (by with_reducible assumption) ?_ | refine kept_some (by with_reducible assumption) ?_))

theorem sweepPorts_kept {s0} (h0 : Kept q s0) : Kept q (sweepPorts s0) := by
  unfold sweepPorts
  try dsimp only
  repeat' (first | (with_reducible assumption) | (intro _) | (with_reducible first | apply kept_ite | apply kept_ite2 | apply kept_foldl | apply kept_foldl2 | apply dropPortCells_kept) | split | (dsimp only))

theorem pumpAll_kept {s0} (h0 : Kept q s0) : Kept q (pumpAll s0) := by
  unfold pumpAll
  try dsimp only
  repeat' (first | (with_reducible first | assumption | apply pumpHome_kept | apply pumpCoh_kept | apply pumpSubs_kept | apply pumpPrepare_kept | apply sweepPorts_kept | apply pumpLoads_kept))

theorem txnPart_kept {x0 x1 x2 x3 s4} (h4 : Kept q s4) : Kept q (txnPart x0 x1 x2 x3 s4) := by
  unfold txnPart
  try dsimp only
  repeat' (first | (with_reducible first | assumption | apply kept_ite | apply kept_ite2 | apply cohPart_kept | apply partEnded_kept) | split | (dsimp only) | (with_reducible first | refine kept_snd (by with_reducible assumption) ?_ | refine kept_some (by with_reducible assumption) ?_))

theorem spareNote_kept {x0 x1 s2} (h2 : Kept q s2) : Kept q (spareNote x0 x1 s2) := by
  unfold spareNote
  try dsimp only
  repeat' (first | (with_reducible first | assumption | apply kept_all) | (simp only [kept_mk]) | (with_reducible first | apply kept_ite | apply kept_ite2) | split | (dsimp only))

theorem deliver_kept {x0 s1} (h1 : Kept q s1) : Kept q (deliver x0 s1) := by
  unfold deliver
  try dsimp only
  repeat' (first | (with_reducible first | assumption | apply deliverStrand_kept | apply txnPart_kept | apply loaderRead_kept | apply crecEnded_kept | apply svcEnded_kept | apply expLine_kept | apply pageEnded_kept | apply spareNote_kept) | split | (dsimp only) | (with_reducible first | refine kept_snd (by with_reducible assumption) ?_ | refine kept_some (by with_reducible assumption) ?_))

theorem settleN_kept {x0 s1} (h1 : Kept q s1) : Kept q (settleN x0 s1) := by
  induction x0 generalizing s1 with
  | zero =>
    unfold settleN
    try dsimp only
    repeat' (first | (with_reducible first | assumption | apply kept_all) | (simp only [kept_mk]) | (with_reducible first | apply kept_ite | apply kept_ite2 | apply deliver_kept | apply pumpAll_kept) | split | (dsimp only) | (with_reducible first | refine kept_snd (by with_reducible assumption) ?_ | refine kept_some (by with_reducible assumption) ?_))
  | succ k ih =>
    unfold settleN
    try dsimp only
    repeat' (first | (with_reducible first | assumption | apply kept_all) | (simp only [kept_mk]) | (with_reducible first | apply kept_ite | apply kept_ite2 | apply ih | apply deliver_kept | apply pumpAll_kept) | split | (dsimp only) | (with_reducible first | refine kept_snd (by with_reducible assumption) ?_ | refine kept_some (by with_reducible assumption) ?_))

theorem settle_kept {s0} (h0 : Kept q s0) : Kept q (settle s0) := by
  unfold settle
  try dsimp only
  repeat' (first | (with_reducible first | assumption | apply joinAll_kept | apply settleN_kept | apply serveClaims_kept))

theorem countStall_kept {x0 x1 s2} (h2 : Kept q s2) : Kept q (countStall x0 x1 s2) := by
  unfold countStall
  try dsimp only
  repeat' (first | (with_reducible first | assumption | apply kept_ite | apply kept_ite2 | apply State.draw_kept | apply State.modCtx_kept | apply State.fadd_kept) | split | (dsimp only))

theorem multiplyInto_kept {x0 x1 x2 x3 s4} (h4 : Kept q s4) : Kept q (multiplyInto x0 x1 x2 x3 s4) := by
  unfold multiplyInto
  try dsimp only
  repeat' (first | (with_reducible first | assumption | apply State.modCtx_kept | apply State.writeBay_kept))

theorem freeAcc_kept {x0 x1 s2} (h2 : Kept q s2) : Kept q (freeAcc x0 x1 s2) := by
  unfold freeAcc
  have h := State.writeBay_kept (x1 := x0) (x2 := 4096 * x1) (x3 := f32Bytes ((List.range 1024).map fun k => BitVec.ofNat 32 (Config.freeNat (s2.draws + k)))) h2
  exact ⟨h.ctl, h.t0, h.seed0, h.seed1, h.pending, h.now, Nat.le_add_right_of_le h2.draws, h.out⟩

theorem streamTmma_kept {x0 x1 x2 x3 x4 s5} (h5 : Kept q s5) : Kept q (streamTmma x0 x1 x2 x3 x4 s5) := by
  unfold streamTmma
  try dsimp only
  repeat' (first | (with_reducible first | assumption | apply kept_ite | apply kept_ite2 | apply fault_kept | apply countIssue_kept | apply waitFor_kept | apply drawPanel_kept | apply countStall_kept | apply failWith_kept | apply retire_kept | apply multiplyInto_kept | apply freeAcc_kept) | split | (dsimp only) | (with_reducible first | refine kept_snd (by with_reducible assumption) ?_ | refine kept_some (by with_reducible assumption) ?_))

theorem execTmma_kept {x0 x1 s2} (h2 : Kept q s2) : KeptOut q (execTmma x0 x1 s2) := by
  unfold execTmma
  try dsimp only
  repeat' (first | (with_reducible assumption) | (intro _) | (with_reducible first | apply kept_ite | apply kept_ite2 | apply keptOut_next | apply keptOut_ite | apply ok_kept | apply issue_kept | apply streamTmma_kept | apply retire_kept | apply multiplyInto_kept) | split | (dsimp only) | (with_reducible first | refine kept_snd (by with_reducible assumption) ?_ | refine kept_some (by with_reducible assumption) ?_))

theorem execTmov_kept {x0 x1 s2} (h2 : Kept q s2) : KeptOut q (execTmov x0 x1 s2) := by
  unfold execTmov
  try dsimp only
  repeat' (first | (with_reducible assumption) | (intro _) | (with_reducible first | apply keptOut_next | apply ok_kept | apply issue_kept | apply retire_kept | apply State.writeBay_kept))

theorem execQueuedDecodeStart_kept {x0 x1 x2 s3} (h3 : Kept q s3) : KeptOut q (execQueuedDecodeStart x0 x1 x2 s3) := by
  unfold execQueuedDecodeStart
  try dsimp only
  repeat' (first | (with_reducible assumption) | (intro _) | (with_reducible first | apply kept_ite | apply kept_ite2 | apply keptOut_next | apply keptOut_ite | apply State.upTo_kept | apply ok_kept | apply settle_kept | apply startDecode_kept) | split | (dsimp only) | (with_reducible first | refine kept_snd (by with_reducible assumption) ?_ | refine kept_some (by with_reducible assumption) ?_))

theorem leftOf_kept {x0 s1} (h1 : Kept q s1) : Kept q (leftOf x0 s1).2 := by
  unfold leftOf
  try dsimp only
  repeat' (first | (with_reducible first | assumption | apply kept_ite | apply kept_ite2 | apply State.draw_kept) | split | (dsimp only) | (with_reducible first | refine kept_snd (by with_reducible assumption) ?_ | refine kept_some (by with_reducible assumption) ?_))

theorem execXstart_kept {x0 x1 s2} (h2 : Kept q s2) : KeptOut q (execXstart x0 x1 s2) := by
  unfold execXstart
  try dsimp only
  repeat' (first | (with_reducible assumption) | (intro _) | (with_reducible first | apply kept_ite | apply kept_ite2 | apply keptOut_next | apply keptOut_ite | apply ok_kept | apply settle_kept | apply issue_kept | apply fault_kept | apply countIssue_kept | apply retire_kept | apply startDecode_kept | apply State.setStream_kept | apply waitFor_kept) | split | (dsimp only) | (with_reducible first | refine kept_snd (by with_reducible assumption) ?_ | refine kept_some (by with_reducible assumption) ?_))

theorem passEmpty_kept {x0 x1 s2} (h2 : Kept q s2) : Kept q (passEmpty x0 x1 s2) := by
  unfold passEmpty
  try dsimp only
  repeat' (first | (with_reducible first | assumption | apply kept_ite | apply kept_ite2 | apply drawPanel_kept) | split | (dsimp only) | (with_reducible first | refine kept_snd (by with_reducible assumption) ?_ | refine kept_some (by with_reducible assumption) ?_))

theorem execTzero_kept {x0 x1 s2} (h2 : Kept q s2) : KeptOut q (execTzero x0 x1 s2) := by
  unfold execTzero
  try dsimp only
  repeat' (first | (with_reducible assumption) | (intro _) | (with_reducible first | apply keptOut_next | apply ok_kept | apply issue_kept | apply retire_kept | apply State.writeBay_kept))

theorem execXstat_kept {x0 x1 s2} (h2 : Kept q s2) : KeptOut q (execXstat x0 x1 s2) := by
  unfold execXstat
  try dsimp only
  repeat' (first | (with_reducible assumption) | (intro _) | (with_reducible first | apply keptOut_next | apply ok_kept | apply issue_kept | apply leftOf_kept | apply retire_kept | apply State.setS_kept) | split | (dsimp only) | (with_reducible first | refine kept_snd (by with_reducible assumption) ?_ | refine kept_some (by with_reducible assumption) ?_))

theorem execExpanderDecodeDone_kept {x0 x1 x2 s3} (h3 : Kept q s3) : KeptOut q (execExpanderDecodeDone x0 x1 x2 s3) := by
  unfold execExpanderDecodeDone
  try dsimp only
  repeat' (first | (with_reducible first | assumption | apply keptOut_next | apply State.upTo_kept | apply ok_kept | apply settle_kept | apply passEmpty_kept | apply decodeDone_kept | apply expFetch_kept))

theorem execTmovv_kept {x0 x1 s2} (h2 : Kept q s2) : KeptOut q (execTmovv x0 x1 s2) := by
  unfold execTmovv
  try dsimp only
  repeat' (first | (with_reducible assumption) | (intro _) | (with_reducible first | apply keptOut_next | apply ok_kept | apply issue_kept | apply retire_kept | apply State.writeBay_kept))

theorem execXcancel_kept {x0 x1 s2} (h2 : Kept q s2) : KeptOut q (execXcancel x0 x1 s2) := by
  unfold execXcancel
  try dsimp only
  repeat' (first | (with_reducible assumption) | (intro _) | (with_reducible first | apply kept_ite | apply kept_ite2 | apply keptOut_next | apply keptOut_ite | apply ok_kept | apply issue_kept | apply retire_kept | apply State.dropStream_kept) | split | (dsimp only) | (with_reducible first | refine kept_snd (by with_reducible assumption) ?_ | refine kept_some (by with_reducible assumption) ?_))

theorem localOp_kept {x0 x1 x2 x3 x4 f5 s6} (h5 : ∀ y0 y1 y2 y3,Kept q y3 →  Kept q (f5 y0 y1 y2 y3)) (h6 : Kept q s6) : Kept q (localOp x0 x1 x2 x3 x4 f5 s6) := by
  unfold localOp
  try dsimp only
  repeat' (first | (with_reducible assumption) | (intro _) | (with_reducible first | apply kept_ite | apply kept_ite2 | apply h5 | apply issue_kept | apply failWith_kept | apply countIssue_kept | apply retire_kept | apply fault_kept) | split | (dsimp only) | (with_reducible first | refine kept_snd (by with_reducible assumption) ?_ | refine kept_some (by with_reducible assumption) ?_))

theorem storeBay_kept {x0 x1 x2 x3 s4} (h4 : Kept q s4) : Kept q (storeBay x0 x1 x2 x3 s4) := by
  unfold storeBay
  try dsimp only
  repeat' (first | (with_reducible first | assumption | apply State.writeScratch_kept))

theorem execStt_kept {x0 x1 s2} (h2 : Kept q s2) : KeptOut q (execStt x0 x1 s2) := by
  unfold execStt
  try dsimp only
  repeat' (first | (with_reducible assumption) | (intro _) | (with_reducible first | apply keptOut_next | apply ok_kept | apply localOp_kept | apply storeBay_kept))

theorem loadBay_kept {x0 x1 x2 x3 s4} (h4 : Kept q s4) : Kept q (loadBay x0 x1 x2 x3 s4) := by
  unfold loadBay
  try dsimp only
  repeat' (first | (with_reducible first | assumption | apply State.writeBay_kept))

theorem execLdt_kept {x0 x1 s2} (h2 : Kept q s2) : KeptOut q (execLdt x0 x1 s2) := by
  unfold execLdt
  try dsimp only
  repeat' (first | (with_reducible assumption) | (intro _) | (with_reducible first | apply keptOut_next | apply ok_kept | apply localOp_kept | apply loadBay_kept))

theorem execStv_kept {x0 x1 s2} (h2 : Kept q s2) : KeptOut q (execStv x0 x1 s2) := by
  unfold execStv
  try dsimp only
  repeat' (first | (with_reducible assumption) | (intro _) | (with_reducible first | apply keptOut_next | apply ok_kept | apply localOp_kept | apply storeBay_kept))

theorem execStseg_kept {x0 x1 s2} (h2 : Kept q s2) : KeptOut q (execStseg x0 x1 s2) := by
  unfold execStseg
  try dsimp only
  repeat' (first | (with_reducible assumption) | (intro _) | (with_reducible first | apply keptOut_next | apply ok_kept | apply localOp_kept | apply storeBay_kept))

theorem execLdacc_kept {x0 x1 s2} (h2 : Kept q s2) : KeptOut q (execLdacc x0 x1 s2) := by
  unfold execLdacc
  try dsimp only
  repeat' (first | (with_reducible assumption) | (intro _) | (with_reducible first | apply keptOut_next | apply ok_kept | apply localOp_kept | apply loadBay_kept))

end Sys2Proof.Machine
end

