-- ==== Sys2Proof/Laws/KeptC.lean ====
section
/-! SUPPORT. The operations keep it, third part. -/

namespace Sys2Proof.Machine

set_option linter.unusedTactic false
set_option linter.unreachableTactic false
set_option linter.unusedVariables false

variable {q : State}

theorem execLdseg_kept {x0 x1 s2} (h2 : Kept q s2) : KeptOut q (execLdseg x0 x1 s2) := by
  unfold execLdseg
  try dsimp only
  repeat' (first | (with_reducible assumption) | (intro _) | (with_reducible first | apply keptOut_next | apply ok_kept | apply localOp_kept | apply loadBay_kept))

theorem execStacc_kept {x0 x1 s2} (h2 : Kept q s2) : KeptOut q (execStacc x0 x1 s2) := by
  unfold execStacc
  try dsimp only
  repeat' (first | (with_reducible assumption) | (intro _) | (with_reducible first | apply keptOut_next | apply ok_kept | apply localOp_kept | apply storeBay_kept))

theorem execLdv_kept {x0 x1 s2} (h2 : Kept q s2) : KeptOut q (execLdv x0 x1 s2) := by
  unfold execLdv
  try dsimp only
  repeat' (first | (with_reducible assumption) | (intro _) | (with_reducible first | apply keptOut_next | apply ok_kept | apply localOp_kept | apply loadBay_kept))

theorem execSts_kept {x0 x1 s2} (h2 : Kept q s2) : KeptOut q (execSts x0 x1 s2) := by
  unfold execSts
  try dsimp only
  repeat' (first | (with_reducible assumption) | (intro _) | (with_reducible first | apply keptOut_next | apply ok_kept | apply localOp_kept | apply State.writeScratch_kept))

theorem execLds_kept {x0 x1 s2} (h2 : Kept q s2) : KeptOut q (execLds x0 x1 s2) := by
  unfold execLds
  try dsimp only
  repeat' (first | (with_reducible assumption) | (intro _) | (with_reducible first | apply keptOut_next | apply ok_kept | apply localOp_kept | apply State.setS_kept))

theorem fabOp_kept {x0 x1 x2 x3 f4 s5} (h4 : ∀ y0 y1 y2,Kept q y2 →  Kept q (f4 y0 y1 y2)) (h5 : Kept q s5) : Kept q (fabOp x0 x1 x2 x3 f4 s5) := by
  unfold fabOp
  try dsimp only
  repeat' (first | (with_reducible assumption) | (intro _) | (with_reducible first | apply h4 | apply settle_kept | apply issue_kept))

theorem regionOp_kept {x0 x1 x2 x3 x4 x5 f6 s7} (h6 : ∀ y0 y1,Kept q y1 →  Kept q (f6 y0 y1)) (h7 : Kept q s7) : Kept q (regionOp x0 x1 x2 x3 x4 x5 f6 s7) := by
  unfold regionOp
  try dsimp only
  repeat' (first | (with_reducible first | assumption | apply h6 | apply retire_kept | apply fault_kept | apply countIssue_kept) | split | (dsimp only) | (with_reducible first | refine kept_snd (by with_reducible assumption) ?_ | refine kept_some (by with_reducible assumption) ?_))

theorem execNxUnsub_kept {x0 x1 s2} (h2 : Kept q s2) : KeptOut q (execNxUnsub x0 x1 s2) := by
  unfold execNxUnsub
  try dsimp only
  repeat' (first | (with_reducible assumption) | (intro _) | (with_reducible first | apply keptOut_next | apply ok_kept | apply fabOp_kept | apply regionOp_kept | apply serveUnsubscribe_kept))

theorem execNxSub_kept {x0 x1 s2} (h2 : Kept q s2) : KeptOut q (execNxSub x0 x1 s2) := by
  unfold execNxSub
  try dsimp only
  repeat' (first | (with_reducible assumption) | (intro _) | (with_reducible first | apply keptOut_next | apply ok_kept | apply fabOp_kept | apply regionOp_kept | apply serveSubscribe_kept))

theorem execGath_kept {x0 x1 s2} (h2 : Kept q s2) : KeptOut q (execGath x0 x1 s2) := by
  unfold execGath
  try dsimp only
  repeat' (first | (with_reducible assumption) | (intro _) | (with_reducible first | apply keptOut_next | apply ok_kept | apply fabOp_kept | apply gatherRows_kept))

theorem afterRequests_kept {x0 f1 s2} (h1 : ∀ y0,Kept q y0 →  Kept q (f1 y0)) (h2 : Kept q s2) : Kept q (afterRequests x0 f1 s2) := by
  unfold afterRequests
  try dsimp only
  repeat' (first | (with_reducible first | assumption | apply kept_ite | apply kept_ite2 | apply h1 | apply waitFor_kept) | split | (dsimp only))

theorem refuseNow_kept {x0 x1 x2 s3} (h3 : Kept q s3) : Kept q (refuseNow x0 x1 x2 s3) := by
  unfold refuseNow
  try dsimp only
  repeat' (first | (with_reducible first | assumption | apply retire_kept | apply endReq_kept) | split | (dsimp only) | (with_reducible first | refine kept_snd (by with_reducible assumption) ?_ | refine kept_some (by with_reducible assumption) ?_))

theorem execNxInval_kept {x0 x1 s2} (h2 : Kept q s2) : KeptOut q (execNxInval x0 x1 s2) := by
  unfold execNxInval
  try dsimp only
  repeat' (first | (with_reducible assumption) | (intro _) | (with_reducible first | apply kept_ite | apply kept_ite2 | apply keptOut_next | apply keptOut_ite | apply ok_kept | apply fabOp_kept | apply afterRequests_kept | apply refuseNow_kept | apply regionOp_kept | apply serveInval_kept) | split | (dsimp only))

theorem execPrep_kept {x0 x1 s2} (h2 : Kept q s2) : KeptOut q (execPrep x0 x1 s2) := by
  unfold execPrep
  try dsimp only
  repeat' (first | (with_reducible assumption) | (intro _) | (with_reducible first | apply kept_ite | apply kept_ite2 | apply keptOut_next | apply keptOut_ite | apply ok_kept | apply fabOp_kept | apply regionOp_kept | apply servePrepare_kept | apply waitFor_kept) | split | (dsimp only))

theorem execNxClose_kept {x0 x1 s2} (h2 : Kept q s2) : KeptOut q (execNxClose x0 x1 s2) := by
  unfold execNxClose
  try dsimp only
  repeat' (first | (with_reducible assumption) | (intro _) | (with_reducible first | apply keptOut_next | apply ok_kept | apply fabOp_kept | apply regionOp_kept | apply serveClose_kept))

theorem execNxHint_kept {x0 x1 s2} (h2 : Kept q s2) : KeptOut q (execNxHint x0 x1 s2) := by
  unfold execNxHint
  try dsimp only
  repeat' (first | (with_reducible assumption) | (intro _) | (with_reducible first | apply kept_ite | apply kept_ite2 | apply keptOut_next | apply keptOut_ite | apply ok_kept | apply fabOp_kept | apply refuseNow_kept | apply fault_kept | apply countIssue_kept | apply retire_kept | apply serveStrand_kept) | split | (dsimp only) | (with_reducible first | refine kept_snd (by with_reducible assumption) ?_ | refine kept_some (by with_reducible assumption) ?_))

theorem execPld_kept {x0 x1 s2} (h2 : Kept q s2) : KeptOut q (execPld x0 x1 s2) := by
  unfold execPld
  try dsimp only
  repeat' (first | (with_reducible assumption) | (intro _) | (with_reducible first | apply keptOut_next | apply ok_kept | apply fabOp_kept | apply retire_kept | apply loadLine_kept))

theorem execLdl_kept {x0 x1 s2} (h2 : Kept q s2) : KeptOut q (execLdl x0 x1 s2) := by
  unfold execLdl
  try dsimp only
  repeat' (first | (with_reducible assumption) | (intro _) | (with_reducible first | apply keptOut_next | apply ok_kept | apply fabOp_kept | apply retire_kept | apply loadLine_kept))

theorem execStl_kept {x0 x1 s2} (h2 : Kept q s2) : KeptOut q (execStl x0 x1 s2) := by
  unfold execStl
  try dsimp only
  repeat' (first | (with_reducible assumption) | (intro _) | (with_reducible first | apply keptOut_next | apply ok_kept | apply fabOp_kept | apply retire_kept | apply storeLine_kept))

theorem execPrd_kept {x0 x1 s2} (h2 : Kept q s2) : KeptOut q (execPrd x0 x1 s2) := by
  unfold execPrd
  try dsimp only
  repeat' (first | (with_reducible assumption) | (intro _) | (with_reducible first | apply keptOut_next | apply ok_kept | apply fabOp_kept | apply readBlock_kept))

theorem execNxOpen_kept {x0 x1 s2} (h2 : Kept q s2) : KeptOut q (execNxOpen x0 x1 s2) := by
  unfold execNxOpen
  try dsimp only
  repeat' (first | (with_reducible assumption) | (intro _) | (with_reducible first | apply keptOut_next | apply ok_kept | apply fabOp_kept | apply regionOp_kept | apply serveOpen_kept))

theorem execAtom_kept {x0 x1 s2} (h2 : Kept q s2) : KeptOut q (execAtom x0 x1 s2) := by
  unfold execAtom
  try dsimp only
  repeat' (first | (with_reducible assumption) | (intro _) | (with_reducible first | apply keptOut_next | apply ok_kept | apply fabOp_kept | apply retire_kept | apply atomWord_kept))

theorem execBrd_kept {x0 x1 s2} (h2 : Kept q s2) : KeptOut q (execBrd x0 x1 s2) := by
  unfold execBrd
  try dsimp only
  repeat' (first | (with_reducible assumption) | (intro _) | (with_reducible first | apply kept_ite | apply kept_ite2 | apply keptOut_next | apply keptOut_ite | apply ok_kept | apply fabOp_kept | apply refuseNow_kept | apply readBlock_kept) | split | (dsimp only))

theorem execBwr_kept {x0 x1 s2} (h2 : Kept q s2) : KeptOut q (execBwr x0 x1 s2) := by
  unfold execBwr
  try dsimp only
  repeat' (first | (with_reducible assumption) | (intro _) | (with_reducible first | apply kept_ite | apply kept_ite2 | apply keptOut_next | apply keptOut_ite | apply ok_kept | apply fabOp_kept | apply refuseNow_kept | apply writeBlock_kept) | split | (dsimp only))

theorem execPubl_kept {x0 x1 s2} (h2 : Kept q s2) : KeptOut q (execPubl x0 x1 s2) := by
  unfold execPubl
  try dsimp only
  repeat' (first | (with_reducible assumption) | (intro _) | (with_reducible first | apply keptOut_next | apply ok_kept | apply fabOp_kept | apply afterRequests_kept | apply regionOp_kept | apply servePublish_kept))

theorem takeMessage_kept {x0 x1 x2 x3 x4 x5 x6 s7} (h7 : Kept q s7) : Kept q (takeMessage x0 x1 x2 x3 x4 x5 x6 s7) := by
  unfold takeMessage
  try dsimp only
  repeat' (first | (with_reducible first | assumption | apply kept_ite | apply kept_ite2 | apply retire_kept | apply State.setS_kept | apply fault_kept | apply countIssue_kept | apply State.writeScratch_kept | apply State.modCtx_kept | apply pumpRing_kept) | split | (dsimp only) | (with_reducible first | refine kept_snd (by with_reducible assumption) ?_ | refine kept_some (by with_reducible assumption) ?_))

theorem execAcqa_kept {x0 x1 s2} (h2 : Kept q s2) : KeptOut q (execAcqa x0 x1 s2) := by
  unfold execAcqa
  try dsimp only
  repeat' (first | (with_reducible assumption) | (intro _) | (with_reducible first | apply keptOut_next | apply ok_kept | apply fabOp_kept | apply thenFence_kept | apply atomWord_kept))

theorem execFence_kept {x0 x1 s2} (h2 : Kept q s2) : KeptOut q (execFence x0 x1 s2) := by
  unfold execFence
  try dsimp only
  repeat' (first | (with_reducible assumption) | (intro _) | (with_reducible first | apply keptOut_next | apply ok_kept | apply fabOp_kept | apply fenceThen_kept | apply retire_kept))

theorem execRadd_kept {x0 x1 s2} (h2 : Kept q s2) : KeptOut q (execRadd x0 x1 s2) := by
  unfold execRadd
  try dsimp only
  repeat' (first | (with_reducible assumption) | (intro _) | (with_reducible first | apply kept_ite | apply kept_ite2 | apply keptOut_next | apply keptOut_ite | apply ok_kept | apply issue_kept | apply failWith_kept | apply countIssue_kept | apply retire_kept | apply State.writeScratch_kept | apply fault_kept) | split | (dsimp only) | (with_reducible first | refine kept_snd (by with_reducible assumption) ?_ | refine kept_some (by with_reducible assumption) ?_))

theorem rstep_kept {x0 x1 x2 x3 s4} (h4 : Kept q s4) : Kept q (rstep x0 x1 x2 x3 s4) := by
  unfold rstep
  try dsimp only
  repeat' (first | (with_reducible assumption) | (intro _) | (with_reducible first | apply kept_ite | apply kept_ite2 | refine convertFor_kept (by with_reducible assumption) ?_ | apply failWith_kept | apply countIssue_kept | apply residStart_kept | apply residEnd_kept | apply retire_kept | apply State.writeScratch_kept | apply fault_kept) | split | (dsimp only) | (with_reducible first | refine kept_snd (by with_reducible assumption) ?_ | refine kept_some (by with_reducible assumption) ?_))

theorem sendOp_kept {x0 x1 x2 f3 s4} (h3 : ∀ y0 y1,Kept q y1 →  Kept q (f3 y0 y1)) (h4 : Kept q s4) : Kept q (sendOp x0 x1 x2 f3 s4) := by
  unfold sendOp
  try dsimp only
  repeat' (first | (with_reducible first | assumption | apply kept_ite | apply kept_ite2 | apply h3 | apply refuseNow_kept | apply fault_kept | apply countIssue_kept | apply retire_kept | apply endReq_kept) | split | (dsimp only) | (with_reducible first | refine kept_snd (by with_reducible assumption) ?_ | refine kept_some (by with_reducible assumption) ?_))

theorem execRecv_kept {x0 x1 s2} (h2 : Kept q s2) : KeptOut q (execRecv x0 x1 s2) := by
  unfold execRecv
  try dsimp only
  repeat' (first | (with_reducible assumption) | (intro _) | (with_reducible first | apply kept_ite | apply kept_ite2 | apply keptOut_next | apply keptOut_ite | apply ok_kept | apply fabOp_kept | apply takeMessage_kept | apply retire_kept | apply State.setS_kept | apply waitFor_kept) | split | (dsimp only) | (with_reducible first | refine kept_snd (by with_reducible assumption) ?_ | refine kept_some (by with_reducible assumption) ?_))

theorem execSendg_kept {x0 x1 s2} (h2 : Kept q s2) : KeptOut q (execSendg x0 x1 s2) := by
  unfold execSendg
  try dsimp only
  repeat' (first | (with_reducible assumption) | (intro _) | (with_reducible first | apply kept_ite | apply kept_ite2 | apply keptOut_next | apply keptOut_ite | apply ok_kept | apply fabOp_kept | apply sendOp_kept | apply sendGroup_kept | apply fault_kept | apply countIssue_kept) | split | (dsimp only) | (with_reducible first | refine kept_snd (by with_reducible assumption) ?_ | refine kept_some (by with_reducible assumption) ?_))

theorem execSend_kept {x0 x1 s2} (h2 : Kept q s2) : KeptOut q (execSend x0 x1 s2) := by
  unfold execSend
  try dsimp only
  repeat' (first | (with_reducible assumption) | (intro _) | (with_reducible first | apply keptOut_next | apply ok_kept | apply fabOp_kept | apply sendOp_kept | apply sendMessage_kept))

theorem execRela_kept {x0 x1 s2} (h2 : Kept q s2) : KeptOut q (execRela x0 x1 s2) := by
  unfold execRela
  try dsimp only
  repeat' (first | (with_reducible assumption) | (intro _) | (with_reducible first | apply keptOut_next | apply ok_kept | apply fabOp_kept | apply fenceThen_kept | apply retire_kept | apply atomWord_kept))

theorem execAcq_kept {x0 x1 s2} (h2 : Kept q s2) : KeptOut q (execAcq x0 x1 s2) := by
  unfold execAcq
  try dsimp only
  repeat' (first | (with_reducible assumption) | (intro _) | (with_reducible first | apply keptOut_next | apply ok_kept | apply fabOp_kept | apply thenFence_kept | apply loadLine_kept))

theorem execRstep_kept {x0 x1 s2} (h2 : Kept q s2) : KeptOut q (execRstep x0 x1 s2) := by
  unfold execRstep
  try dsimp only
  repeat' (first | (with_reducible assumption) | (intro _) | (with_reducible first | apply keptOut_next | apply ok_kept | apply issue_kept | apply rstep_kept) | split | (dsimp only) | (with_reducible first | refine kept_snd (by with_reducible assumption) ?_ | refine kept_some (by with_reducible assumption) ?_))

theorem execRel_kept {x0 x1 s2} (h2 : Kept q s2) : KeptOut q (execRel x0 x1 s2) := by
  unfold execRel
  try dsimp only
  repeat' (first | (with_reducible assumption) | (intro _) | (with_reducible first | apply keptOut_next | apply ok_kept | apply fabOp_kept | apply fenceThen_kept | apply retire_kept | apply storeLine_kept))

theorem execBar_kept {x0 x1 s2} (h2 : Kept q s2) : KeptOut q (execBar x0 x1 s2) := by
  unfold execBar
  try dsimp only
  repeat' (first | (with_reducible assumption) | (intro _) | (with_reducible first | apply keptOut_next | apply ok_kept | apply issue_kept | apply afterStrand_kept | apply releaseBar_kept | apply waitFor_kept))

theorem execWaitm_kept {x0 x1 s2} (h2 : Kept q s2) : KeptOut q (execWaitm x0 x1 s2) := by
  unfold execWaitm
  try dsimp only
  repeat' (first | (with_reducible assumption) | (intro _) | (with_reducible first | apply kept_ite | apply kept_ite2 | apply keptOut_next | apply keptOut_ite | apply ok_kept | apply issue_kept | apply retire_kept | apply waitFor_kept) | split | (dsimp only))

theorem writeBy_kept {x0 x1 x2 f3 s4} (h3 : ∀ y0,Kept q y0 →  Kept q (f3 y0).2) (h4 : Kept q s4) : Kept q (writeBy x0 x1 x2 f3 s4) := by
  unfold writeBy
  try dsimp only
  repeat' (first | (with_reducible first | assumption | apply kept_ite | apply kept_ite2 | apply h3 | apply State.done_kept) | split | (dsimp only) | (with_reducible first | refine kept_snd (by with_reducible assumption) ?_ | refine kept_some (by with_reducible assumption) ?_))

theorem freeAmax_kept {x0 x1 s2} (h2 : Kept q s2) : Kept q (freeAmax x0 x1 s2).2 := by
  unfold freeAmax
  try dsimp only
  repeat' (first | (with_reducible first | assumption | apply kept_ite | apply kept_ite2 | apply State.setCopse_kept) | split | (dsimp only) | (with_reducible first | refine kept_snd (by with_reducible assumption) ?_ | refine kept_some (by with_reducible assumption) ?_))

theorem enterNext_kept {x0 s1} (h1 : Kept q s1) : Kept q (enterNext x0 s1) := by
  unfold enterNext
  try dsimp only
  repeat' (first | (with_reducible first | assumption | apply kept_ite | apply kept_ite2 | apply State.setCopse_kept | apply scheduleAll_kept | apply makeResident_kept) | split | (dsimp only) | (with_reducible first | refine kept_snd (by with_reducible assumption) ?_ | refine kept_some (by with_reducible assumption) ?_))

theorem execContextSaved_kept {x0 x1 s2} (h2 : Kept q s2) : KeptOut q (execContextSaved x0 x1 s2) := by
  unfold execContextSaved
  try dsimp only
  repeat' (first | (with_reducible first | assumption | apply kept_ite | apply kept_ite2 | apply keptOut_next | apply keptOut_ite | apply State.upTo_kept | apply savedAll_kept | apply whenever_kept | apply settle_kept | apply enterNext_kept) | split | (dsimp only))

theorem execAmaxFree_kept {x0 x1 x2 x3 x4 s5} (h5 : Kept q s5) : KeptOut q (execAmaxFree x0 x1 x2 x3 x4 s5) := by
  unfold execAmaxFree
  try dsimp only
  repeat' (first | (with_reducible assumption) | (intro _) | (with_reducible first | apply keptOut_next | apply ok_kept | apply writeBy_kept | apply freeAmax_kept | apply State.upTo_kept))

theorem execInitCopyDone_kept {x0 x1 x2 s3} (h3 : Kept q s3) : KeptOut q (execInitCopyDone x0 x1 x2 s3) := by
  unfold execInitCopyDone
  try dsimp only
  repeat' (first | (with_reducible first | assumption | apply kept_ite | apply kept_ite2 | apply keptOut_next | apply keptOut_ite | apply State.upTo_kept | apply startCtx_kept | apply ok_kept | apply settle_kept | apply scheduleAll_kept | apply svcStart_kept) | split | (dsimp only) | (with_reducible first | refine kept_snd (by with_reducible assumption) ?_ | refine kept_some (by with_reducible assumption) ?_))

theorem againAll_kept {x0 x1 s2} (h2 : Kept q s2) : Kept q (againAll x0 x1 s2) := by
  unfold againAll
  try dsimp only
  repeat' (first | (with_reducible assumption) | (intro _) | (with_reducible first | apply kept_foldl | apply kept_foldl2 | apply startDecode_kept))

theorem freeResid_kept {x0 x1 s2} (h2 : Kept q s2) : Kept q (freeResid x0 x1 s2).2 := by
  unfold freeResid
  try dsimp only
  repeat' (first | (with_reducible first | assumption | apply kept_ite | apply kept_ite2 | apply State.setCopse_kept) | split | (dsimp only) | (with_reducible first | refine kept_snd (by with_reducible assumption) ?_ | refine kept_some (by with_reducible assumption) ?_))

theorem execRunLimit_kept {x0 x1 x2 s3} (h3 : Kept q s3) : KeptOut q (execRunLimit x0 x1 x2 s3) := by
  unfold execRunLimit
  try dsimp only
  repeat' (first | (with_reducible first | assumption | apply keptOut_next | apply State.upTo_kept | apply whenever_kept | apply settle_kept | apply endProgram_kept | apply ok_kept) | split | (dsimp only) | (with_reducible first | refine kept_snd (by with_reducible assumption) ?_ | refine kept_some (by with_reducible assumption) ?_))

theorem execResidencyGuardExpiry_kept {x0 x1 x2 s3} (h3 : Kept q s3) : KeptOut q (execResidencyGuardExpiry x0 x1 x2 s3) := by
  unfold execResidencyGuardExpiry
  try dsimp only
  repeat' (first | (with_reducible first | assumption | apply keptOut_next | apply State.upTo_kept | apply whenever_kept | apply settle_kept | apply scheduleAll_kept | apply ok_kept) | split | (dsimp only) | (with_reducible first | refine kept_snd (by with_reducible assumption) ?_ | refine kept_some (by with_reducible assumption) ?_))

theorem execCompletionRecord_kept {x0 x1 x2 s3} (h3 : Kept q s3) : KeptOut q (execCompletionRecord x0 x1 x2 s3) := by
  unfold execCompletionRecord
  try dsimp only
  repeat' (first | (with_reducible first | assumption | apply keptOut_next | apply ok_kept | apply settle_kept | apply completeCtx_kept | apply State.upTo_kept))

theorem execResidFree_kept {x0 x1 x2 x3 x4 s5} (h5 : Kept q s5) : KeptOut q (execResidFree x0 x1 x2 x3 x4 s5) := by
  unfold execResidFree
  try dsimp only
  repeat' (first | (with_reducible assumption) | (intro _) | (with_reducible first | apply keptOut_next | apply ok_kept | apply writeBy_kept | apply freeResid_kept | apply State.upTo_kept))

theorem execContextRestored_kept {x0 x1 x2 s3} (h3 : Kept q s3) : KeptOut q (execContextRestored x0 x1 x2 s3) := by
  unfold execContextRestored
  try dsimp only
  repeat' (first | (with_reducible first | assumption | apply kept_ite | apply kept_ite2 | apply keptOut_next | apply keptOut_ite | apply State.upTo_kept | apply againAll_kept | apply restored_kept | apply svcAfter_kept | apply ok_kept | apply settle_kept | apply scheduleAll_kept) | split | (dsimp only) | (with_reducible first | refine kept_snd (by with_reducible assumption) ?_ | refine kept_some (by with_reducible assumption) ?_))

theorem svcEvent_kept {x0 f1 s2} (h1 : ∀ y0,Kept q y0 →  Kept q (f1 y0)) (h2 : Kept q s2) : Kept q (svcEvent x0 f1 s2) := by
  unfold svcEvent
  try dsimp only
  repeat' (first | (with_reducible first | assumption | apply kept_ite | apply kept_ite2 | apply h1 | apply settle_kept | apply svcAfter_kept) | split | (dsimp only))

theorem execBarrierTimeout_kept {x0 x1 s2} (h2 : Kept q s2) : KeptOut q (execBarrierTimeout x0 x1 s2) := by
  unfold execBarrierTimeout
  try dsimp only
  repeat' (first | (with_reducible assumption) | (intro _) | (with_reducible first | apply keptOut_next | apply ok_kept | apply svcEvent_kept | apply barrierTimeout_kept | apply State.upTo_kept))

theorem execFilterTimeout_kept {x0 x1 s2} (h2 : Kept q s2) : KeptOut q (execFilterTimeout x0 x1 s2) := by
  unfold execFilterTimeout
  try dsimp only
  repeat' (first | (with_reducible assumption) | (intro _) | (with_reducible first | apply keptOut_next | apply ok_kept | apply svcEvent_kept | apply filterTimeout_kept | apply State.upTo_kept))

theorem svcMessage_kept {x0 x1 f2 s3} (h2 : ∀ y0 y1 y2,Kept q y2 →  Kept q (f2 y0 y1 y2)) (h3 : Kept q s3) : Kept q (svcMessage x0 x1 f2 s3) := by
  unfold svcMessage
  try dsimp only
  repeat' (first | (with_reducible first | assumption | apply kept_ite | apply kept_ite2 | apply h2 | apply takeMsg_kept | apply State.modSvc_kept) | split | (dsimp only) | (with_reducible first | refine kept_snd (by with_reducible assumption) ?_ | refine kept_some (by with_reducible assumption) ?_))

theorem execStop_kept {x0 x1 s2} (h2 : Kept q s2) : KeptOut q (execStop x0 x1 s2) := by
  unfold execStop
  try dsimp only
  repeat' (first | (with_reducible assumption) | (intro _) | (with_reducible first | apply keptOut_next | apply ok_kept | apply svcEvent_kept | apply svcMessage_kept | apply State.modSvc_kept | apply takeMsg_kept | apply State.upTo_kept))

theorem execExpertOut_kept {x0 x1 s2} (h2 : Kept q s2) : KeptOut q (execExpertOut x0 x1 s2) := by
  unfold execExpertOut
  try dsimp only
  repeat' (first | (with_reducible assumption) | (intro _) | (with_reducible first | apply keptOut_next | apply ok_kept | apply svcEvent_kept | apply svcMessage_kept | apply handleExpertOut_kept | apply State.upTo_kept))

theorem execTokenTimeout_kept {x0 x1 s2} (h2 : Kept q s2) : KeptOut q (execTokenTimeout x0 x1 s2) := by
  unfold execTokenTimeout
  try dsimp only
  repeat' (first | (with_reducible assumption) | (intro _) | (with_reducible first | apply keptOut_next | apply ok_kept | apply svcEvent_kept | apply tokenTimeouts_kept | apply State.upTo_kept))

theorem execContrib_kept {x0 x1 s2} (h2 : Kept q s2) : KeptOut q (execContrib x0 x1 s2) := by
  unfold execContrib
  try dsimp only
  repeat' (first | (with_reducible assumption) | (intro _) | (with_reducible first | apply keptOut_next | apply ok_kept | apply svcEvent_kept | apply svcMessage_kept | apply handleContrib_kept | apply State.upTo_kept))

theorem execBagReq_kept {x0 x1 s2} (h2 : Kept q s2) : KeptOut q (execBagReq x0 x1 s2) := by
  unfold execBagReq
  try dsimp only
  repeat' (first | (with_reducible assumption) | (intro _) | (with_reducible first | apply keptOut_next | apply ok_kept | apply svcEvent_kept | apply svcMessage_kept | apply handleBags_kept | apply State.upTo_kept))

theorem execArrive_kept {x0 x1 s2} (h2 : Kept q s2) : KeptOut q (execArrive x0 x1 s2) := by
  unfold execArrive
  try dsimp only
  repeat' (first | (with_reducible assumption) | (intro _) | (with_reducible first | apply keptOut_next | apply ok_kept | apply svcEvent_kept | apply svcMessage_kept | apply handleArrive_kept | apply State.upTo_kept))

theorem execExpertInRetry_kept {x0 x1 x2 s3} (h3 : Kept q s3) : KeptOut q (execExpertInRetry x0 x1 x2 s3) := by
  unfold execExpertInRetry
  try dsimp only
  repeat' (first | (with_reducible assumption) | (intro _) | (with_reducible first | apply keptOut_next | apply ok_kept | apply svcEvent_kept | apply expertInRetry_kept | apply State.upTo_kept))

theorem execBatchSend_kept {x0 x1 s2} (h2 : Kept q s2) : KeptOut q (execBatchSend x0 x1 s2) := by
  unfold execBatchSend
  try dsimp only
  repeat' (first | (with_reducible assumption) | (intro _) | (with_reducible first | apply keptOut_next | apply ok_kept | apply svcEvent_kept | apply batchSend_kept | apply State.upTo_kept))

theorem execExpertInDone_kept {x0 x1 x2 s3} (h3 : Kept q s3) : KeptOut q (execExpertInDone x0 x1 x2 s3) := by
  unfold execExpertInDone
  try dsimp only
  repeat' (first | (with_reducible assumption) | (intro _) | (with_reducible first | apply keptOut_next | apply ok_kept | apply svcEvent_kept | apply expertInDone_kept | apply State.upTo_kept))

theorem execStatsWrite_kept {x0 x1 s2} (h2 : Kept q s2) : KeptOut q (execStatsWrite x0 x1 s2) := by
  unfold execStatsWrite
  try dsimp only
  repeat' (first | (with_reducible assumption) | (intro _) | (with_reducible first | apply keptOut_next | apply ok_kept | apply svcEvent_kept | apply svcStats_kept | apply State.upTo_kept))

theorem execDispatch_kept {x0 x1 s2} (h2 : Kept q s2) : KeptOut q (execDispatch x0 x1 s2) := by
  unfold execDispatch
  try dsimp only
  repeat' (first | (with_reducible assumption) | (intro _) | (with_reducible first | apply keptOut_next | apply ok_kept | apply svcEvent_kept | apply svcMessage_kept | apply handleDispatch_kept | apply State.upTo_kept))

theorem execSegmentTimeout_kept {x0 x1 s2} (h2 : Kept q s2) : KeptOut q (execSegmentTimeout x0 x1 s2) := by
  unfold execSegmentTimeout
  try dsimp only
  repeat' (first | (with_reducible assumption) | (intro _) | (with_reducible first | apply keptOut_next | apply ok_kept | apply svcEvent_kept | apply segTimeouts_kept | apply State.upTo_kept))

theorem execFilterReq_kept {x0 x1 s2} (h2 : Kept q s2) : KeptOut q (execFilterReq x0 x1 s2) := by
  unfold execFilterReq
  try dsimp only
  repeat' (first | (with_reducible assumption) | (intro _) | (with_reducible first | apply keptOut_next | apply ok_kept | apply svcEvent_kept | apply svcMessage_kept | apply handleFilter_kept | apply State.upTo_kept))

theorem execBrownoutVin_kept {x0 x1 x2 s3} (h3 : Kept q s3) : KeptOut q (execBrownoutVin x0 x1 x2 s3) := by
  unfold execBrownoutVin
  try dsimp only
  repeat' (first | (with_reducible first | assumption | apply keptOut_next | apply State.upTo_kept | apply whenever_kept | apply fullReset_kept))

theorem armComparators_kept {x0 s1} (h1 : Kept q s1) : Kept q (armComparators x0 s1) := by
  unfold armComparators
  try dsimp only
  repeat' (first | (with_reducible first | assumption | apply kept_all) | (simp only [kept_mk]) | (with_reducible first | apply kept_ite | apply kept_ite2) | split | (dsimp only) | (with_reducible first | refine kept_snd (by with_reducible assumption) ?_ | refine kept_some (by with_reducible assumption) ?_))

theorem pwLeavesReset_kept {x0 s1} (h1 : Kept q s1) : Kept q (pwLeavesReset x0 s1) := by
  unfold pwLeavesReset
  try dsimp only
  repeat' (first | (with_reducible first | assumption | apply kept_all) | (simp only [kept_mk]) | (with_reducible first | apply State.fset_kept | apply armComparators_kept | apply kept_ctl | apply kept_t0 | apply kept_seed0 | apply kept_seed1 | apply SMap.sorted_filter | apply SMap.sorted_keep | apply SMap.wf_keep | apply wf_nil | apply writeBytes_wf | apply copyRegion_wf | apply Kept.ctl (q := q) | apply Kept.t0 (q := q) | apply Kept.seed0 (q := q) | apply Kept.seed1 (q := q)))

theorem execRefclkLoss_kept {x0 x1 s2} (h2 : Kept q s2) : KeptOut q (execRefclkLoss x0 x1 s2) := by
  unfold execRefclkLoss
  try dsimp only
  repeat' (first | (with_reducible first | assumption | apply kept_all) | (simp only [kept_mk]) | (with_reducible first | apply keptOut_next | apply State.upTo_kept | apply whenever_kept | apply setSource_kept))

theorem recordRefusal_kept {x0 x1 x2 s3} (h3 : Kept q s3) : Kept q (recordRefusal x0 x1 x2 s3) := by
  unfold recordRefusal
  try dsimp only
  repeat' (first | (with_reducible assumption) | (intro _) | (with_reducible first | apply kept_ite | apply kept_ite2 | apply kept_foldl | apply kept_foldl2 | apply State.fadd_kept | apply State.fset_kept) | split | (dsimp only) | (with_reducible first | refine kept_snd (by with_reducible assumption) ?_ | refine kept_some (by with_reducible assumption) ?_))

theorem enterActive_kept {s0} (h0 : Kept q s0) : Kept q (enterActive s0) := by
  unfold enterActive
  try dsimp only
  repeat' (first | (with_reducible first | assumption | apply State.fset_kept))

theorem sendPdQuery_kept {x0 s1} (h1 : Kept q s1) : Kept q (sendPdQuery x0 s1) := by
  unfold sendPdQuery
  try dsimp only
  repeat' (first | (with_reducible assumption) | (intro _) | (with_reducible first | apply kept_ite | apply kept_ite2 | apply kept_foldl | apply kept_foldl2 | apply sendLinkMsg_kept) | split | (dsimp only))

theorem startCheck_kept {x0 x1 s2} (h2 : Kept q s2) : Kept q (startCheck x0 x1 s2) := by
  unfold startCheck
  try dsimp only
  repeat' (first | (with_reducible first | assumption | apply kept_all) | (simp only [kept_mk]) | (with_reducible first | apply kept_ite | apply kept_ite2 | apply sendPdQuery_kept) | split | (dsimp only))

theorem refuseEntry_kept {x0 x1 x2 s3} (h3 : Kept q s3) : Kept q (refuseEntry x0 x1 x2 s3) := by
  unfold refuseEntry
  try dsimp only
  repeat' (first | (with_reducible first | assumption | apply kept_all) | (simp only [kept_mk]) | (with_reducible first | apply kept_ite | apply kept_ite2 | apply recordRefusal_kept | apply State.fset_kept) | split | (dsimp only))

theorem targetWrite_kept {x0 s1} (h1 : Kept q s1) : Kept q (targetWrite x0 s1) := by
  unfold targetWrite
  try dsimp only
  repeat' (first | (with_reducible first | assumption | apply kept_all) | (simp only [kept_mk]) | (with_reducible first | apply kept_ite | apply kept_ite2 | apply State.fset_kept | apply recordRefusal_kept | apply enterActive_kept | apply startCheck_kept | apply refuseEntry_kept) | split | (dsimp only))

theorem writeTarget_kept {x0 x1 s2} (h2 : Kept q s2) : Kept q (writeTarget x0 x1 s2) := by
  unfold writeTarget
  try dsimp only
  repeat' (first | (with_reducible first | assumption | apply kept_ite | apply kept_ite2 | apply State.done_kept | apply targetWrite_kept) | split | (dsimp only))

theorem execAoFallback_kept {x0 x1 s2} (h2 : Kept q s2) : KeptOut q (execAoFallback x0 x1 s2) := by
  unfold execAoFallback
  try dsimp only
  repeat' (first | (with_reducible first | assumption | apply kept_all) | (simp only [kept_mk]) | (with_reducible first | apply keptOut_next | apply State.upTo_kept | apply whenever_kept | apply setSource_kept | apply State.fset_kept))

theorem attemptActive_kept {s0} (h0 : Kept q s0) : Kept q (attemptActive s0) := by
  unfold attemptActive
  try dsimp only
  repeat' (first | (with_reducible first | assumption | apply kept_all) | (simp only [kept_mk]) | (with_reducible first | apply kept_ite | apply kept_ite2 | apply recordRefusal_kept | apply enterActive_kept) | split | (dsimp only))

theorem execWorkAdmitWake_kept {x0 s1} (h1 : Kept q s1) : KeptOut q (execWorkAdmitWake x0 s1) := by
  unfold execWorkAdmitWake
  try dsimp only
  repeat' (first | (with_reducible first | assumption | apply keptOut_next | apply State.upTo_kept | apply whenever_kept | apply attemptActive_kept))

theorem execBrownoutKeepalive_kept {x0 x1 x2 s3} (h3 : Kept q s3) : KeptOut q (execBrownoutKeepalive x0 x1 x2 s3) := by
  unfold execBrownoutKeepalive
  try dsimp only
  repeat' (first | (with_reducible first | assumption | apply keptOut_next | apply State.upTo_kept | apply whenever_kept | apply fullReset_kept))

theorem execPwResetExit_kept {x0 x1 s2} (h2 : Kept q s2) : KeptOut q (execPwResetExit x0 x1 s2) := by
  unfold execPwResetExit
  try dsimp only
  repeat' (first | (with_reducible first | assumption | apply keptOut_next | apply State.upTo_kept | apply whenever_kept | apply pwLeavesReset_kept))

theorem takeCut_kept {s0} (h0 : Kept q s0) : Kept q (takeCut s0) := by
  unfold takeCut
  try dsimp only
  repeat' (first | (with_reducible first | assumption | apply kept_all) | (simp only [kept_mk]) | (with_reducible first | apply kept_ite | apply kept_ite2 | apply State.fset_kept | apply pulse_kept) | split | (dsimp only))

theorem execOvervoltageVin_kept {x0 x1 x2 s3} (h3 : Kept q s3) : KeptOut q (execOvervoltageVin x0 x1 x2 s3) := by
  unfold execOvervoltageVin
  try dsimp only
  repeat' (first | (with_reducible first | assumption | apply keptOut_next | apply State.upTo_kept | apply whenever_kept | apply fullReset_kept))

theorem execWakeComparatorRearm_kept {x0 x1 x2 s3} (h3 : Kept q s3) : KeptOut q (execWakeComparatorRearm x0 x1 x2 s3) := by
  unfold execWakeComparatorRearm
  try dsimp only
  repeat' (first | (with_reducible first | assumption | apply kept_all) | (simp only [kept_mk]) | (with_reducible first | apply keptOut_next | apply State.upTo_kept | apply whenever_kept))

theorem execCutWindowEnd_kept {x0 x1 x2 x3 s4} (h4 : Kept q s4) : KeptOut q (execCutWindowEnd x0 x1 x2 x3 s4) := by
  unfold execCutWindowEnd
  try dsimp only
  repeat' (first | (with_reducible first | assumption | apply kept_all) | (simp only [kept_mk]) | (with_reducible first | apply kept_ite | apply kept_ite2 | apply keptOut_next | apply keptOut_ite | apply State.upTo_kept | apply whenever_kept | apply setSource_kept) | split | (dsimp only))

theorem execDieThermalEvent_kept {x0 x1 x2 s3} (h3 : Kept q s3) : KeptOut q (execDieThermalEvent x0 x1 x2 s3) := by
  unfold execDieThermalEvent
  try dsimp only
  repeat' (first | (with_reducible first | assumption | apply keptOut_next | apply State.upTo_kept | apply whenever_kept | apply setSource_kept))

theorem execVinWindowReturn_kept {x0 x1 s2} (h2 : Kept q s2) : KeptOut q (execVinWindowReturn x0 x1 s2) := by
  unfold execVinWindowReturn
  try dsimp only
  repeat' (first | (with_reducible first | assumption | apply kept_all) | (simp only [kept_mk]) | (with_reducible first | apply keptOut_next | apply State.upTo_kept | apply whenever_kept | apply setSource_kept))

theorem decideWake_kept {x0 s1} (h1 : Kept q s1) : Kept q (decideWake x0 s1) := by
  unfold decideWake
  try dsimp only
  repeat' (first | (with_reducible first | assumption | apply kept_all) | (simp only [kept_mk]) | (with_reducible first | apply kept_ite | apply kept_ite2 | apply State.fset_kept | apply pulse_kept) | split | (dsimp only))

theorem execWakeDecisionCold_kept {x0 x1 x2 s3} (h3 : Kept q s3) : KeptOut q (execWakeDecisionCold x0 x1 x2 s3) := by
  unfold execWakeDecisionCold
  try dsimp only
  repeat' (first | (with_reducible first | assumption | apply keptOut_next | apply State.upTo_kept | apply whenever_kept | apply decideWake_kept))

theorem execTargetPortsOnly_kept {x0 x1 s2} (h2 : Kept q s2) : KeptOut q (execTargetPortsOnly x0 x1 s2) := by
  unfold execTargetPortsOnly
  try dsimp only
  repeat' (first | (with_reducible first | assumption | apply keptOut_next | apply writeTarget_kept | apply State.upTo_kept))

theorem execWakeComparatorTrip_kept {x0 x1 x2 x3 s4} (h4 : Kept q s4) : KeptOut q (execWakeComparatorTrip x0 x1 x2 x3 s4) := by
  unfold execWakeComparatorTrip
  try dsimp only
  repeat' (first | (with_reducible first | assumption | apply kept_all) | (simp only [kept_mk]) | (with_reducible first | apply kept_ite | apply kept_ite2 | apply keptOut_next | apply keptOut_ite | apply State.upTo_kept | apply decideWake_kept | apply whenever_kept) | split | (dsimp only) | (with_reducible first | refine kept_snd (by with_reducible assumption) ?_ | refine kept_some (by with_reducible assumption) ?_))

theorem execPoreset_kept {x0 x1 s2} (h2 : Kept q s2) : KeptOut q (execPoreset x0 x1 s2) := by
  unfold execPoreset
  try dsimp only
  repeat' (first | (with_reducible first | assumption | apply kept_all) | (simp only [kept_mk]) | (with_reducible first | apply keptOut_next | apply State.upTo_kept | apply fullReset_kept | apply whenever_kept))

theorem execClkAoHandover_kept {x0 x1 s2} (h2 : Kept q s2) : KeptOut q (execClkAoHandover x0 x1 s2) := by
  unfold execClkAoHandover
  try dsimp only
  repeat' (first | (with_reducible first | assumption | apply kept_all) | (simp only [kept_mk]) | (with_reducible first | apply keptOut_next | apply State.upTo_kept | apply whenever_kept | apply setSource_kept | apply State.fset_kept))

theorem execActiveEntryRetry_kept {x0 s1} (h1 : Kept q s1) : KeptOut q (execActiveEntryRetry x0 s1) := by
  unfold execActiveEntryRetry
  try dsimp only
  repeat' (first | (with_reducible first | assumption | apply keptOut_next | apply State.upTo_kept | apply whenever_kept | apply attemptActive_kept))

theorem execSelfRefreshRateChange_kept {x0 x1 x2 s3} (h3 : Kept q s3) : KeptOut q (execSelfRefreshRateChange x0 x1 x2 s3) := by
  unfold execSelfRefreshRateChange
  try dsimp only
  repeat' (first | (with_reducible first | assumption | apply kept_all) | (simp only [kept_mk]) | (with_reducible first | apply keptOut_next | apply State.upTo_kept | apply whenever_kept))

theorem execBrownoutBus_kept {x0 x1 x2 s3} (h3 : Kept q s3) : KeptOut q (execBrownoutBus x0 x1 x2 s3) := by
  unfold execBrownoutBus
  try dsimp only
  repeat' (first | (with_reducible first | assumption | apply keptOut_next | apply State.upTo_kept | apply whenever_kept | apply fullReset_kept))

theorem execVinLow_kept {x0 x1 x2 s3} (h3 : Kept q s3) : KeptOut q (execVinLow x0 x1 x2 s3) := by
  unfold execVinLow
  try dsimp only
  repeat' (first | (with_reducible first | assumption | apply kept_all) | (simp only [kept_mk]) | (with_reducible first | apply keptOut_next | apply State.upTo_kept | apply whenever_kept | apply setSource_kept))

theorem execRefclkLossReset_kept {x0 s1} (h1 : Kept q s1) : KeptOut q (execRefclkLossReset x0 s1) := by
  unfold execRefclkLossReset
  try dsimp only
  repeat' (first | (with_reducible first | assumption | apply keptOut_next | apply State.upTo_kept | apply whenever_kept | apply fullReset_kept) | split | (dsimp only) | (with_reducible first | refine kept_snd (by with_reducible assumption) ?_ | refine kept_some (by with_reducible assumption) ?_))

theorem receiveHold_kept {x0 s1} (h1 : Kept q s1) : Kept q (receiveHold x0 s1) := by
  unfold receiveHold
  try dsimp only
  repeat' (first | (with_reducible first | assumption | apply kept_all) | (simp only [kept_mk]) | (with_reducible first | apply kept_ite | apply kept_ite2) | split | (dsimp only) | (with_reducible first | refine kept_snd (by with_reducible assumption) ?_ | refine kept_some (by with_reducible assumption) ?_))

theorem execPoresetRelease_kept {x0 x1 s2} (h2 : Kept q s2) : KeptOut q (execPoresetRelease x0 x1 s2) := by
  unfold execPoresetRelease
  try dsimp only
  repeat' (first | (with_reducible first | assumption | apply kept_all) | (simp only [kept_mk]) | (with_reducible first | apply keptOut_next | apply State.upTo_kept | apply whenever_kept | apply pwLeavesReset_kept))

theorem execCutApply_kept {x0 s1} (h1 : Kept q s1) : KeptOut q (execCutApply x0 s1) := by
  unfold execCutApply
  try dsimp only
  repeat' (first | (with_reducible first | assumption | apply keptOut_next | apply State.upTo_kept | apply whenever_kept | apply takeCut_kept))

theorem execTargetActive_kept {x0 x1 s2} (h2 : Kept q s2) : KeptOut q (execTargetActive x0 x1 s2) := by
  unfold execTargetActive
  try dsimp only
  repeat' (first | (with_reducible first | assumption | apply keptOut_next | apply writeTarget_kept | apply State.upTo_kept))

theorem execBusRun_kept {x0 x1 s2} (h2 : Kept q s2) : KeptOut q (execBusRun x0 x1 s2) := by
  unfold execBusRun
  try dsimp only
  repeat' (first | (with_reducible first | assumption | apply kept_all) | (simp only [kept_mk]) | (with_reducible first | apply keptOut_next | apply State.upTo_kept | apply whenever_kept))

theorem execThermtrip_kept {x0 x1 x2 x3 s4} (h4 : Kept q s4) : KeptOut q (execThermtrip x0 x1 x2 x3 s4) := by
  unfold execThermtrip
  try dsimp only
  repeat' (first | (with_reducible first | assumption | apply kept_all) | (simp only [kept_mk]) | (with_reducible first | apply keptOut_next | apply State.upTo_kept | apply fullReset_kept | apply whenever_kept))

theorem execBusSoftstart_kept {x0 x1 x2 s3} (h3 : Kept q s3) : KeptOut q (execBusSoftstart x0 x1 x2 s3) := by
  unfold execBusSoftstart
  try dsimp only
  repeat' (first | (with_reducible first | assumption | apply kept_all) | (simp only [kept_mk]) | (with_reducible first | apply keptOut_next | apply State.upTo_kept | apply whenever_kept))

theorem execVinHigh_kept {x0 x1 x2 s3} (h3 : Kept q s3) : KeptOut q (execVinHigh x0 x1 x2 s3) := by
  unfold execVinHigh
  try dsimp only
  repeat' (first | (with_reducible first | assumption | apply kept_all) | (simp only [kept_mk]) | (with_reducible first | apply keptOut_next | apply State.upTo_kept | apply whenever_kept | apply setSource_kept))

theorem execKeepaliveStop_kept {x0 x1 s2} (h2 : Kept q s2) : KeptOut q (execKeepaliveStop x0 x1 s2) := by
  unfold execKeepaliveStop
  try dsimp only
  repeat' (first | (with_reducible first | assumption | apply kept_all) | (simp only [kept_mk]) | (with_reducible first | apply keptOut_next | apply State.upTo_kept | apply fullReset_kept | apply whenever_kept | apply State.fset_kept))

theorem execVinKeepaliveStart_kept {x0 x1 s2} (h2 : Kept q s2) : KeptOut q (execVinKeepaliveStart x0 x1 s2) := by
  unfold execVinKeepaliveStart
  try dsimp only
  repeat' (first | (with_reducible first | assumption | apply kept_all) | (simp only [kept_mk]) | (with_reducible first | apply keptOut_next | apply State.upTo_kept | apply whenever_kept | apply State.fset_kept))

theorem execRefclkReturn_kept {x0 s1} (h1 : Kept q s1) : KeptOut q (execRefclkReturn x0 s1) := by
  unfold execRefclkReturn
  try dsimp only
  repeat' (first | (with_reducible first | assumption | apply kept_all) | (simp only [kept_mk]) | (with_reducible first | apply keptOut_next | apply State.upTo_kept | apply whenever_kept | apply setSource_kept) | split | (dsimp only) | (with_reducible first | refine kept_snd (by with_reducible assumption) ?_ | refine kept_some (by with_reducible assumption) ?_))

theorem execTargetStandby_kept {x0 x1 s2} (h2 : Kept q s2) : KeptOut q (execTargetStandby x0 x1 s2) := by
  unfold execTargetStandby
  try dsimp only
  repeat' (first | (with_reducible first | assumption | apply keptOut_next | apply writeTarget_kept | apply State.upTo_kept))

theorem privWrite_kept {x0 f1 s2} (h1 : ∀ y0,Kept q y0 →  Kept q (f1 y0).2) (h2 : Kept q s2) : Kept q (privWrite x0 f1 s2) := by
  unfold privWrite
  try dsimp only
  repeat' (first | (with_reducible first | assumption | apply kept_ite | apply kept_ite2 | apply h1 | apply State.done_kept) | split | (dsimp only) | (with_reducible first | refine kept_snd (by with_reducible assumption) ?_ | refine kept_some (by with_reducible assumption) ?_))

theorem writeSet_kept {x0 x1 x2 s3} (h3 : Kept q s3) : Kept q (writeSet x0 x1 x2 s3).2 := by
  unfold writeSet
  try dsimp only
  repeat' (first | (with_reducible first | assumption | apply kept_all) | (simp only [kept_mk]) | (with_reducible first | apply kept_ite | apply kept_ite2 | apply State.fset_kept) | split | (dsimp only) | (with_reducible first | refine kept_snd (by with_reducible assumption) ?_ | refine kept_some (by with_reducible assumption) ?_))

theorem execSetA_kept {x0 x1 x2 s3} (h3 : Kept q s3) : KeptOut q (execSetA x0 x1 x2 s3) := by
  unfold execSetA
  try dsimp only
  repeat' (first | (with_reducible assumption) | (intro _) | (with_reducible first | apply keptOut_next | apply privWrite_kept | apply writeSet_kept | apply State.upTo_kept))

theorem ucalCommit_kept {s0} (h0 : Kept q s0) : Kept q (ucalCommit s0) := by
  unfold ucalCommit
  try dsimp only
  repeat' (first | (with_reducible first | assumption | apply kept_all) | (simp only [kept_mk]) | (with_reducible apply State.fset_kept) | split | (dsimp only) | (with_reducible first | refine kept_snd (by with_reducible assumption) ?_ | refine kept_some (by with_reducible assumption) ?_))

theorem execUcalCommit_kept {x0 x1 s2} (h2 : Kept q s2) : KeptOut q (execUcalCommit x0 x1 s2) := by
  unfold execUcalCommit
  try dsimp only
  repeat' (first | (with_reducible assumption) | (intro _) | (with_reducible first | apply keptOut_next | apply privWrite_kept | apply ucalCommit_kept | apply State.upTo_kept | refine kept_snd (by with_reducible assumption) ?_ | refine kept_some (by with_reducible assumption) ?_))

theorem nvCommit_kept {s0} (h0 : Kept q s0) : Kept q (nvCommit s0) := by
  unfold nvCommit
  try dsimp only
  repeat' (first | (with_reducible first | assumption | apply kept_all) | (simp only [kept_mk]) | (with_reducible apply State.fset_kept) | split | (dsimp only) | (with_reducible first | refine kept_snd (by with_reducible assumption) ?_ | refine kept_some (by with_reducible assumption) ?_))

theorem markRepair_kept {x0 x1 x2 x3 s4} (h4 : Kept q s4) : Kept q (markRepair x0 x1 x2 x3 s4) := by
  unfold markRepair
  try dsimp only
  repeat' (first | (with_reducible first | assumption | apply kept_all) | (simp only [kept_mk]) | (with_reducible first | apply kept_ite | apply kept_ite2 | apply pulse_kept) | split | (dsimp only))

theorem recordCheck_kept {x0 x1 x2 x3 s4} (h4 : Kept q s4) : Kept q (recordCheck x0 x1 x2 x3 s4) := by
  unfold recordCheck
  try dsimp only
  repeat' (first | (with_reducible first | assumption | apply kept_ite | apply kept_ite2 | apply State.fset_kept) | split | (dsimp only))

theorem evidenceChanged_kept {s0} (h0 : Kept q s0) : Kept q (evidenceChanged s0) := by
  unfold evidenceChanged
  try dsimp only
  repeat' (first | (with_reducible first | assumption | apply kept_all) | (simp only [kept_mk]))

theorem setStaged_kept {x0 x1 x2 s3} (h3 : Kept q s3) : Kept q (setStaged x0 x1 x2 s3) := by
  unfold setStaged
  try dsimp only
  repeat' (first | (with_reducible assumption) | (intro _) | (with_reducible first | apply kept_ite | apply kept_ite2 | apply kept_foldl | apply kept_foldl2 | apply State.fset_kept) | split | (dsimp only))

theorem slotCheck_kept {x0 x1 x2 x3 s4} (h4 : Kept q s4) : Kept q (slotCheck x0 x1 x2 x3 s4) := by
  unfold slotCheck
  try dsimp only
  repeat' (first | (with_reducible first | assumption | apply kept_all) | (simp only [kept_mk]) | (with_reducible first | apply kept_ite | apply kept_ite2 | apply markRepair_kept | apply recordCheck_kept | apply evidenceChanged_kept | apply setStaged_kept) | split | (dsimp only))

theorem applyNvRec_kept {x0 x1 s2} (h2 : Kept q s2) : Kept q (applyNvRec x0 x1 s2).1 := by
  unfold applyNvRec
  try dsimp only
  repeat' (first | (with_reducible first | assumption | apply kept_ite | apply kept_ite2 | apply State.setWord_kept) | split | (dsimp only) | (with_reducible first | refine kept_snd (by with_reducible assumption) ?_ | refine kept_some (by with_reducible assumption) ?_))

theorem applyNvRecs_kept {x0 x1 s2} (h2 : Kept q s2) : Kept q (applyNvRecs x0 x1 s2) := by
  induction x1 generalizing x0 s2 with
  | nil =>
    unfold applyNvRecs
    try dsimp only
    repeat' (first | (with_reducible first | assumption | apply kept_ite | apply kept_ite2 | apply applyNvRec_kept | apply State.fadd_kept) | split | (dsimp only) | (with_reducible first | refine kept_snd (by with_reducible assumption) ?_ | refine kept_some (by with_reducible assumption) ?_))
  | cons a l ih =>
    unfold applyNvRecs
    try dsimp only
    repeat' (first | (with_reducible first | assumption | apply kept_ite | apply kept_ite2 | apply ih | apply applyNvRec_kept | apply State.fadd_kept) | split | (dsimp only) | (with_reducible first | refine kept_snd (by with_reducible assumption) ?_ | refine kept_some (by with_reducible assumption) ?_))

theorem loadDirectory_kept {s0} (h0 : Kept q s0) : Kept q (loadDirectory s0) := by
  unfold loadDirectory
  try dsimp only
  repeat' (first | (with_reducible assumption) | (intro _) | (with_reducible first | apply kept_foldl | apply kept_foldl2 | apply State.fset_kept))

theorem execBootRomStart_kept {x0 x1 s2} (h2 : Kept q s2) : KeptOut q (execBootRomStart x0 x1 s2) := by
  unfold execBootRomStart
  try dsimp only
  repeat' (first | (with_reducible first | assumption | apply kept_all) | (simp only [kept_mk]) | (with_reducible first | apply keptOut_next | apply State.upTo_kept | apply whenever_kept | apply loadDirectory_kept))

theorem applyNv_kept {x0 s1} (h1 : Kept q s1) : Kept q (applyNv x0 s1) := by
  unfold applyNv
  try dsimp only
  repeat' (first | (with_reducible first | assumption | apply applyNvRecs_kept))

theorem applyUcal_kept {x0 s1} (h1 : Kept q s1) : Kept q (applyUcal x0 s1) := by
  induction x0 generalizing s1 with
  | nil =>
    unfold applyUcal
    try dsimp only
    repeat' (first | (with_reducible first | assumption | apply kept_all) | (simp only [kept_mk]) | (with_reducible apply State.fadd_kept) | split | (dsimp only) | (with_reducible first | refine kept_snd (by with_reducible assumption) ?_ | refine kept_some (by with_reducible assumption) ?_))
  | cons a l ih =>
    unfold applyUcal
    try dsimp only
    repeat' (first | (with_reducible first | assumption | apply kept_all) | (simp only [kept_mk]) | (with_reducible first | apply ih | apply State.fadd_kept) | split | (dsimp only) | (with_reducible first | refine kept_snd (by with_reducible assumption) ?_ | refine kept_some (by with_reducible assumption) ?_))

theorem recordSelect_kept {x0 x1 x2 x3 x4 s5} (h5 : Kept q s5) : Kept q (recordSelect x0 x1 x2 x3 x4 s5) := by
  unfold recordSelect
  try dsimp only
  repeat' (first | (with_reducible first | assumption | apply kept_ite | apply kept_ite2 | apply recordCheck_kept) | split | (dsimp only))

theorem noteFallback_kept {x0 x1 s2} (h2 : Kept q s2) : Kept q (noteFallback x0 x1 s2) := by
  unfold noteFallback
  try dsimp only
  repeat' (first | (with_reducible first | assumption | apply kept_ite | apply kept_ite2 | apply State.emit_kept | apply State.fset_kept) | split | (dsimp only))

theorem setMeas_kept {x0 x1 s2} (h2 : Kept q s2) : Kept q (setMeas x0 x1 s2) := by
  unfold setMeas
  try dsimp only
  repeat' (first | (with_reducible assumption) | (intro _) | (with_reducible first | apply kept_foldl | apply kept_foldl2 | apply State.fset_kept))

theorem startImage_kept {x0 x1 x2 x3 s4} (h4 : Kept q s4) : Kept q (startImage x0 x1 x2 x3 s4) := by
  unfold startImage
  try dsimp only
  repeat' (first | (with_reducible first | assumption | apply kept_ite | apply kept_ite2 | apply State.fset_kept | apply State.fwrap_kept | apply evidenceChanged_kept | apply setMeas_kept) | split | (dsimp only))

theorem execLookoutImageStart_kept {x0 x1 x2 x3 x4 x5 s6} (h6 : Kept q s6) : KeptOut q (execLookoutImageStart x0 x1 x2 x3 x4 x5 s6) := by
  unfold execLookoutImageStart
  try dsimp only
  repeat' (first | (with_reducible first | assumption | apply kept_all) | (simp only [kept_mk]) | (with_reducible first | apply kept_ite | apply kept_ite2 | apply keptOut_next | apply keptOut_ite | apply State.upTo_kept | apply recordSelect_kept | apply markRepair_kept | apply noteFallback_kept | apply startImage_kept | apply whenever_kept) | split | (dsimp only) | (with_reducible first | refine kept_snd (by with_reducible assumption) ?_ | refine kept_some (by with_reducible assumption) ?_))

theorem execSetB_kept {x0 x1 x2 s3} (h3 : Kept q s3) : KeptOut q (execSetB x0 x1 x2 s3) := by
  unfold execSetB
  try dsimp only
  repeat' (first | (with_reducible assumption) | (intro _) | (with_reducible first | apply keptOut_next | apply privWrite_kept | apply writeSet_kept | apply State.upTo_kept))

theorem leaveNotStarted_kept {x0 s1} (h1 : Kept q s1) : Kept q (leaveNotStarted x0 s1) := by
  unfold leaveNotStarted
  try dsimp only
  repeat' (first | (with_reducible first | assumption | apply kept_all) | (simp only [kept_mk]) | (with_reducible first | apply State.emit_kept | apply State.fset_kept | apply evidenceChanged_kept | apply setMeas_kept))

theorem raiseSvn_kept {x0 s1} (h1 : Kept q s1) : Kept q (raiseSvn x0 s1) := by
  unfold raiseSvn
  try dsimp only
  repeat' (first | (with_reducible first | assumption | apply kept_all) | (simp only [kept_mk]) | (with_reducible first | apply kept_ite | apply kept_ite2 | apply evidenceChanged_kept | apply State.fset_kept) | split | (dsimp only))

theorem execRaiseSvn_kept {x0 x1 x2 s3} (h3 : Kept q s3) : KeptOut q (execRaiseSvn x0 x1 x2 s3) := by
  unfold execRaiseSvn
  try dsimp only
  repeat' (first | (with_reducible assumption) | (intro _) | (with_reducible first | apply keptOut_next | apply privWrite_kept | apply raiseSvn_kept | apply State.upTo_kept | refine kept_snd (by with_reducible assumption) ?_ | refine kept_some (by with_reducible assumption) ?_))

theorem execSlotCheck_kept {x0 x1 x2 x3 x4 s5} (h5 : Kept q s5) : KeptOut q (execSlotCheck x0 x1 x2 x3 x4 s5) := by
  unfold execSlotCheck
  try dsimp only
  repeat' (first | (with_reducible first | assumption | apply keptOut_next | apply State.upTo_kept | apply whenever_kept | apply slotCheck_kept))

theorem execActiveLookoutChoice_kept {x0 s1} (h1 : Kept q s1) : KeptOut q (execActiveLookoutChoice x0 s1) := by
  unfold execActiveLookoutChoice
  try dsimp only
  repeat' (first | (with_reducible first | assumption | apply kept_all) | (simp only [kept_mk]) | (with_reducible first | apply kept_ite | apply kept_ite2 | apply keptOut_next | apply keptOut_ite | apply State.upTo_kept | apply whenever_kept | apply State.fset_kept) | split | (dsimp only))

theorem applyCalibration_kept {s0} (h0 : Kept q s0) : Kept q (applyCalibration s0) := by
  unfold applyCalibration
  try dsimp only
  repeat' (first | (with_reducible first | assumption | apply kept_all) | (simp only [kept_mk]) | (with_reducible first | apply applyUcal_kept | apply State.fset_kept))

theorem seedWrite_kept {r a bs} {s : State} (h : Kept q s) : Kept q (seedWrite r a bs s) := by
  have h0 : Kept q (if s.boot.seedDown.contains 0 then s else { s with boot.seed0 := writeBytes s.boot.seed0 a bs }) :=
    kept_ite h ⟨h.ctl, h.t0, writeBytes_wf h.seed0 .., h.seed1, h.pending, h.now, h.draws, h.out⟩
  unfold seedWrite
  revert h0
  generalize (if s.boot.seedDown.contains 0 then s else { s with boot.seed0 := writeBytes s.boot.seed0 a bs }) = u
  intro h0
  have h1 : Kept q (if u.boot.seedDown.contains 1 then u else { u with boot.seed1 := writeBytes u.boot.seed1 a bs }) :=
    kept_ite h0 ⟨h0.ctl, h0.t0, h0.seed0, writeBytes_wf h0.seed1 .., h0.pending, h0.now, h0.draws, h0.out⟩
  revert h1
  dsimp only
  generalize (if u.boot.seedDown.contains 1 then u else { u with boot.seed1 := writeBytes u.boot.seed1 a bs }) = v
  intro h1
  refine kept_ite h1 (kept_foldl ?_ fun s e hs => pulse_kept hs)
  exact ⟨h1.ctl, h1.t0, h1.seed0, h1.seed1, h1.pending, h1.now, h1.draws, h1.out⟩

theorem execSeedbankResync_kept {x0 x1 x2 s3} (h3 : Kept q s3) : KeptOut q (execSeedbankResync x0 x1 x2 s3) := by
  unfold execSeedbankResync
  try dsimp only
  repeat' (first | (with_reducible first | assumption | apply kept_all) | (simp only [kept_mk]) | (with_reducible first | apply kept_ite | apply kept_ite2 | apply keptOut_next | apply keptOut_ite | apply State.upTo_kept | apply whenever_kept) | split | (dsimp only) | (with_reducible first | apply kept_ctl | apply kept_t0 | apply kept_seed0 | apply kept_seed1 | apply SMap.sorted_filter | apply SMap.sorted_keep | apply SMap.wf_keep | apply wf_nil | apply writeBytes_wf | apply copyRegion_wf | apply Kept.ctl (q := q) | apply Kept.t0 (q := q) | apply Kept.seed0 (q := q) | apply Kept.seed1 (q := q)))

theorem execNvCommit_kept {x0 x1 s2} (h2 : Kept q s2) : KeptOut q (execNvCommit x0 x1 s2) := by
  unfold execNvCommit
  try dsimp only
  repeat' (first | (with_reducible assumption) | (intro _) | (with_reducible first | apply keptOut_next | apply privWrite_kept | apply nvCommit_kept | apply State.upTo_kept | refine kept_snd (by with_reducible assumption) ?_ | refine kept_some (by with_reducible assumption) ?_))

theorem execDieImageConfirm_kept {x0 x1 x2 x3 x4 x5 x6 x7 s8} (h8 : Kept q s8) : KeptOut q (execDieImageConfirm x0 x1 x2 x3 x4 x5 x6 x7 s8) := by
  unfold execDieImageConfirm
  try dsimp only
  repeat' (first | (with_reducible first | assumption | apply kept_all) | (simp only [kept_mk]) | (with_reducible first | apply kept_ite | apply kept_ite2 | apply keptOut_next | apply keptOut_ite | apply State.upTo_kept | apply recordSelect_kept | apply leaveNotStarted_kept | apply markRepair_kept | apply noteFallback_kept | apply startImage_kept | apply whenever_kept) | split | (dsimp only) | (with_reducible first | refine kept_snd (by with_reducible assumption) ?_ | refine kept_some (by with_reducible assumption) ?_))

theorem windowWrite_kept {x0 x1 s2} (h2 : Kept q s2) : Kept q (windowWrite x0 x1 s2).2 := by
  unfold windowWrite
  try dsimp only
  repeat' (first | (with_reducible first | assumption | apply seedWrite_kept) | split | (dsimp only) | (with_reducible first | refine kept_snd (by with_reducible assumption) ?_ | refine kept_some (by with_reducible assumption) ?_))

theorem ucalCommitDone_kept {s0} (h0 : Kept q s0) : Kept q (ucalCommitDone s0) := by
  unfold ucalCommitDone
  try dsimp only
  repeat' (first | (with_reducible first | assumption | apply kept_all) | (simp only [kept_mk]) | (with_reducible first | apply kept_ite | apply kept_ite2 | apply State.fset_kept | apply seedWrite_kept | apply evidenceChanged_kept) | split | (dsimp only))

theorem nvCommitDone_kept {s0} (h0 : Kept q s0) : Kept q (nvCommitDone s0) := by
  unfold nvCommitDone
  try dsimp only
  repeat' (first | (with_reducible first | assumption | apply kept_all) | (simp only [kept_mk]) | (with_reducible first | apply kept_ite | apply kept_ite2 | apply State.fset_kept | apply seedWrite_kept | apply evidenceChanged_kept) | split | (dsimp only))

theorem execNvCommitDone_kept {x0 x1 s2} (h2 : Kept q s2) : KeptOut q (execNvCommitDone x0 x1 s2) := by
  unfold execNvCommitDone
  try dsimp only
  repeat' (first | (with_reducible first | assumption | apply kept_ite | apply kept_ite2 | apply keptOut_next | apply keptOut_ite | apply State.upTo_kept | apply whenever_kept | apply ucalCommitDone_kept | apply nvCommitDone_kept) | split | (dsimp only))

theorem execSeedbankWindowWrite_kept {x0 x1 x2 x3 s4} (h4 : Kept q s4) : KeptOut q (execSeedbankWindowWrite x0 x1 x2 x3 s4) := by
  unfold execSeedbankWindowWrite
  try dsimp only
  repeat' (first | (with_reducible assumption) | (intro _) | (with_reducible first | apply keptOut_next | apply privWrite_kept | apply windowWrite_kept | apply State.upTo_kept))

theorem State.setSpare_kept {s0 x1 x2} (h0 : Kept q s0) : Kept q (State.setSpare s0 x1 x2) := by
  unfold State.setSpare
  try dsimp only
  repeat' (first | (with_reducible first | assumption | apply kept_all) | (simp only [kept_mk]))

theorem letRelease_kept {x0 s1} (h1 : Kept q s1) : Kept q (letRelease x0 s1) := by
  unfold letRelease
  try dsimp only
  repeat' (first | (with_reducible first | assumption | apply kept_ite | apply kept_ite2 | apply State.setSpare_kept | apply svcSendGroup_kept) | split | (dsimp only) | (with_reducible first | refine kept_snd (by with_reducible assumption) ?_ | refine kept_some (by with_reducible assumption) ?_))

theorem interruptCtx_kept {x0 x1 s2} (h2 : Kept q s2) : Kept q (interruptCtx x0 x1 s2) := by
  unfold interruptCtx
  try dsimp only
  repeat' (first | (with_reducible first | assumption | apply endProgram_kept))

theorem sparePhase_kept {x0 x1 x2 s3} (h3 : Kept q s3) : Kept q (sparePhase x0 x1 x2 s3) := by
  unfold sparePhase
  try dsimp only
  repeat' (first | (with_reducible first | assumption | apply kept_ite | apply kept_ite2 | apply State.fset_kept | apply pulse_kept) | split | (dsimp only))

theorem spareTestEnd_kept {x0 s1} (h1 : Kept q s1) : Kept q (spareTestEnd x0 s1) := by
  unfold spareTestEnd
  try dsimp only
  repeat' (first | (with_reducible first | assumption | apply kept_ite | apply kept_ite2 | apply State.setSpare_kept | apply State.fset_kept | apply sparePhase_kept) | split | (dsimp only))

theorem switchGens_kept {x0 x1 s2} (h2 : Kept q s2) : Kept q (switchGens x0 x1 s2) := by
  unfold switchGens
  try dsimp only
  repeat' (first | (with_reducible first | assumption | apply kept_all) | (intro _) | (simp only [kept_mk]) | (with_reducible first | apply kept_ite | apply kept_ite2 | apply kept_foldl | apply kept_foldl2) | split | (dsimp only))

theorem countReverts_kept {x0 s1} (h1 : Kept q s1) : Kept q (countReverts x0 s1) := by
  induction x0 generalizing s1 with
  | nil =>
    unfold countReverts
    try dsimp only
    repeat' (first | (with_reducible first | assumption | apply pulse_kept | apply State.fadd_kept) | split | (dsimp only) | (with_reducible first | refine kept_snd (by with_reducible assumption) ?_ | refine kept_some (by with_reducible assumption) ?_))
  | cons a l ih =>
    unfold countReverts
    try dsimp only
    repeat' (first | (with_reducible first | assumption | apply ih | apply pulse_kept | apply State.fadd_kept) | split | (dsimp only) | (with_reducible first | refine kept_snd (by with_reducible assumption) ?_ | refine kept_some (by with_reducible assumption) ?_))

theorem revertToward_kept {x0 x1 s2} (h2 : Kept q s2) : Kept q (revertToward x0 x1 s2) := by
  unfold revertToward
  try dsimp only
  repeat' (first | (with_reducible first | assumption | apply kept_all) | (simp only [kept_mk]) | (with_reducible first | apply kept_ite | apply kept_ite2 | apply countReverts_kept) | split | (dsimp only) | (with_reducible first | refine kept_snd (by with_reducible assumption) ?_ | refine kept_some (by with_reducible assumption) ?_))

theorem rebindOwners_kept {x0 x1 s2} (h2 : Kept q s2) : Kept q (rebindOwners x0 x1 s2) := by
  unfold rebindOwners
  try dsimp only
  repeat' (first | (with_reducible first | assumption | apply kept_all) | (simp only [kept_mk]) | (with_reducible first | apply kept_ite | apply kept_ite2) | split | (dsimp only) | (with_reducible first | refine kept_snd (by with_reducible assumption) ?_ | refine kept_some (by with_reducible assumption) ?_))

theorem admissionEffect_kept {x0 s1} (h1 : Kept q s1) : Kept q (admissionEffect x0 s1) := by
  unfold admissionEffect
  try dsimp only
  repeat' (first | (with_reducible first | assumption | apply kept_all) | (intro _) | (simp only [kept_mk]) | (with_reducible first | apply kept_ite | apply kept_ite2 | apply kept_getD | apply switchGens_kept | apply revertToward_kept | apply sparePhase_kept | apply rebindOwners_kept | apply letRelease_kept) | split | (dsimp only) | (with_reducible first | refine kept_snd (by with_reducible assumption) ?_ | refine kept_some (by with_reducible assumption) ?_))

theorem State.putLedger_kept {s0 x1} (h0 : Kept q s0) : Kept q (State.putLedger s0 x1) := by
  unfold State.putLedger
  try dsimp only
  repeat' (first | (with_reducible first | assumption | apply kept_all) | (simp only [kept_mk]))

theorem ledgerOp_kept {x0 x1 x2 x3 x4 x5 s6} (h6 : Kept q s6) : Kept q (ledgerOp x0 x1 x2 x3 x4 x5 s6).2 := by
  unfold ledgerOp
  try dsimp only
  repeat' (first | (with_reducible first | assumption | apply kept_all) | (simp only [kept_mk]) | (with_reducible first | apply kept_ite | apply kept_ite2 | apply State.putLedger_kept | apply State.fadd_kept) | split | (dsimp only) | (with_reducible first | refine kept_snd (by with_reducible assumption) ?_ | refine kept_some (by with_reducible assumption) ?_))

theorem interruptAll_kept {x0 x1 s2} (h2 : Kept q s2) : Kept q (interruptAll x0 x1 s2) := by
  induction x1 generalizing x0 s2 with
  | nil =>
    unfold interruptAll
    try dsimp only
    repeat' (first | (with_reducible first | assumption | apply kept_ite | apply kept_ite2 | apply interruptCtx_kept) | split | (dsimp only) | (with_reducible first | refine kept_snd (by with_reducible assumption) ?_ | refine kept_some (by with_reducible assumption) ?_))
  | cons a l ih =>
    unfold interruptAll
    try dsimp only
    repeat' (first | (with_reducible first | assumption | apply kept_ite | apply kept_ite2 | apply ih | apply interruptCtx_kept) | split | (dsimp only) | (with_reducible first | refine kept_snd (by with_reducible assumption) ?_ | refine kept_some (by with_reducible assumption) ?_))

theorem setUnit_kept {x0 x1 x2 s3} (h3 : Kept q s3) : Kept q (setUnit x0 x1 x2 s3) := by
  unfold setUnit
  try dsimp only
  repeat' (first | (with_reducible first | assumption | apply kept_ite | apply kept_ite2 | apply State.fset_kept) | split | (dsimp only))

theorem leaveUnit_kept {x0 s1} (h1 : Kept q s1) : Kept q (leaveUnit x0 s1) := by
  unfold leaveUnit
  try dsimp only
  repeat' (first | (with_reducible first | assumption | apply kept_all) | (simp only [kept_mk]) | (with_reducible first | apply kept_ite | apply kept_ite2 | apply setUnit_kept) | split | (dsimp only) | (with_reducible first | refine kept_snd (by with_reducible assumption) ?_ | refine kept_some (by with_reducible assumption) ?_))

theorem leaveCopse_kept {x0 s1} (h1 : Kept q s1) : Kept q (leaveCopse x0 s1) := by
  unfold leaveCopse
  try dsimp only
  repeat' (first | (with_reducible first | assumption | apply kept_ite | apply kept_ite2 | apply interruptAll_kept | apply State.setCopse_kept) | split | (dsimp only))

theorem leaveEgress_kept {x0 s1} (h1 : Kept q s1) : Kept q (leaveEgress x0 s1) := by
  unfold leaveEgress
  try dsimp only
  repeat' (first | (with_reducible first | assumption | apply kept_ite | apply kept_ite2 | apply dropCells_kept | apply dropQueued_kept | apply State.setEgQ_kept) | split | (dsimp only))

theorem leaveFlow_kept {x0 s1} (h1 : Kept q s1) : Kept q (leaveFlow x0 s1) := by
  unfold leaveFlow
  try dsimp only
  repeat' (first | (with_reducible first | assumption | apply kept_ite | apply kept_ite2 | apply dropQueued_kept | apply State.setFlow_kept | apply dropCells_kept) | split | (dsimp only))

theorem leaveAll_kept {s0} (h0 : Kept q s0) : Kept q (leaveAll s0) := by
  unfold leaveAll
  try dsimp only
  repeat' (first | (with_reducible first | assumption | apply kept_all) | (intro _) | (simp only [kept_mk]) | (with_reducible first | apply kept_foldl | apply kept_foldl2 | apply leaveUnit_kept | apply leaveCopse_kept | apply leaveEgress_kept | apply leaveFlow_kept | apply dropCell_kept))

theorem revertEffect_kept {x0 x1 s2} (h2 : Kept q s2) : Kept q (revertEffect x0 x1 s2) := by
  unfold revertEffect
  try dsimp only
  repeat' (first | (with_reducible first | assumption | apply kept_ite | apply kept_ite2 | apply countReverts_kept | apply State.putLedger_kept) | split | (dsimp only) | (with_reducible first | refine kept_snd (by with_reducible assumption) ?_ | refine kept_some (by with_reducible assumption) ?_))

theorem endCommit_kept {x0 x1 s2} (h2 : Kept q s2) : Kept q (endCommit x0 x1 s2) := by
  unfold endCommit
  try dsimp only
  repeat' (first | (with_reducible first | assumption | apply kept_all) | (simp only [kept_mk]) | (with_reducible first | apply pulse_kept | apply State.fset_kept))

theorem commitChecked_kept {s0} (h0 : Kept q s0) : Kept q (commitChecked s0) := by
  unfold commitChecked
  try dsimp only
  repeat' (first | (with_reducible first | assumption | apply kept_all) | (simp only [kept_mk]) | (with_reducible first | apply endCommit_kept | apply seqAdd_kept) | split | (dsimp only) | (with_reducible first | refine kept_snd (by with_reducible assumption) ?_ | refine kept_some (by with_reducible assumption) ?_))

theorem switchConf_kept {x0 x1 x2 s3} (h3 : Kept q s3) : Kept q (switchConf x0 x1 x2 s3) := by
  unfold switchConf
  try dsimp only
  repeat' (first | (with_reducible first | assumption | apply kept_ite | apply kept_ite2 | apply State.fset_kept | apply State.fwrap_kept) | split | (dsimp only))

theorem switchUnit_kept {x0 x1 x2 s3} (h3 : Kept q s3) : Kept q (switchUnit x0 x1 x2 s3) := by
  unfold switchUnit
  try dsimp only
  repeat' (first | (with_reducible first | assumption | apply kept_ite | apply kept_ite2 | apply setUnit_kept) | split | (dsimp only) | (with_reducible first | refine kept_snd (by with_reducible assumption) ?_ | refine kept_some (by with_reducible assumption) ?_))

theorem switchDomain_kept {x0 x1 x2 s3} (h3 : Kept q s3) : Kept q (switchDomain x0 x1 x2 s3) := by
  unfold switchDomain
  try dsimp only
  repeat' (first | (with_reducible assumption) | (intro _) | (with_reducible first | apply kept_ite | apply kept_ite2 | apply State.fset_kept | apply State.setWord_kept) | split | (dsimp only) | (with_reducible first | refine kept_snd (by with_reducible assumption) ?_ | refine kept_some (by with_reducible assumption) ?_))

theorem switchDirectory_kept {x0 s1} (h1 : Kept q s1) : Kept q (switchDirectory x0 s1) := by
  unfold switchDirectory
  try dsimp only
  repeat' (first | (with_reducible first | assumption | apply kept_all) | (simp only [kept_mk]))

theorem switchRegions_kept {x0 x1 s2} (h2 : Kept q s2) : Kept q (switchRegions x0 x1 s2) := by
  unfold switchRegions
  try dsimp only
  repeat' (first | (with_reducible first | assumption | apply kept_all) | (intro _) | (simp only [kept_mk]) | (with_reducible first | apply kept_foldl | apply kept_foldl2 | apply invAck_kept) | split | (dsimp only) | (with_reducible first | refine kept_snd (by with_reducible assumption) ?_ | refine kept_some (by with_reducible assumption) ?_))

theorem switchTrail_kept {x0 x1 s2} (h2 : Kept q s2) : Kept q (switchTrail x0 x1 s2) := by
  unfold switchTrail
  try dsimp only
  repeat' (first | (with_reducible first | assumption | apply kept_ite | apply kept_ite2 | apply State.emit_kept | apply State.fset_kept) | split | (dsimp only))

theorem trimStage_kept {x0 x1 s2} (h2 : Kept q s2) : Kept q (trimStage x0 x1 s2) := by
  induction x1 generalizing x0 s2 with
  | zero =>
    unfold trimStage
    try dsimp only
    repeat' (first | (with_reducible first | assumption | apply kept_all) | (simp only [kept_mk]) | (with_reducible first | apply kept_ite | apply kept_ite2) | split | (dsimp only) | (with_reducible first | refine kept_snd (by with_reducible assumption) ?_ | refine kept_some (by with_reducible assumption) ?_))
  | succ k ih =>
    unfold trimStage
    try dsimp only
    repeat' (first | (with_reducible first | assumption | apply kept_all) | (simp only [kept_mk]) | (with_reducible first | apply kept_ite | apply kept_ite2 | apply ih) | split | (dsimp only) | (with_reducible first | refine kept_snd (by with_reducible assumption) ?_ | refine kept_some (by with_reducible assumption) ?_))

theorem switchStaging_kept {x0 x1 s2} (h2 : Kept q s2) : Kept q (switchStaging x0 x1 s2) := by
  unfold switchStaging
  try dsimp only
  repeat' (first | (with_reducible first | assumption | apply kept_all) | (intro _) | (simp only [kept_mk]) | (with_reducible first | apply kept_foldl | apply kept_foldl2 | apply trimStage_kept))

theorem switchPort_kept {x0 x1 x2 s3} (h3 : Kept q s3) : Kept q (switchPort x0 x1 x2 s3) := by
  unfold switchPort
  try dsimp only
  repeat' (first | (with_reducible first | assumption | apply kept_ite | apply kept_ite2 | apply kept_getD | apply State.fset_kept | apply trainAgain_kept) | split | (dsimp only))

theorem switchMap_kept {x0 x1 s2} (h2 : Kept q s2) : Kept q (switchMap x0 x1 s2) := by
  unfold switchMap
  try dsimp only
  repeat' (first | (with_reducible first | assumption | apply kept_all) | (intro _) | (simp only [kept_mk]) | (with_reducible first | apply kept_ite | apply kept_ite2 | apply kept_foldl | apply kept_foldl2 | apply switchGens_kept | apply State.fset_kept | apply State.fwrap_kept | apply switchUnit_kept | apply switchConf_kept | apply rebindOwners_kept | apply switchDomain_kept | apply switchDirectory_kept | apply switchRegions_kept | apply switchTrail_kept | apply switchStaging_kept | apply switchPort_kept) | split | (dsimp only))

theorem quiesceInstall_kept {s0} (h0 : Kept q s0) : Kept q (quiesceInstall s0) := by
  unfold quiesceInstall
  try dsimp only
  repeat' (first | (with_reducible first | assumption | apply kept_all) | (simp only [kept_mk]) | (with_reducible first | apply State.fset_kept | apply leaveAll_kept | apply switchMap_kept | apply revertToward_kept) | split | (dsimp only) | (with_reducible first | refine kept_snd (by with_reducible assumption) ?_ | refine kept_some (by with_reducible assumption) ?_))

theorem commitHeld_kept {s0} (h0 : Kept q s0) : Kept q (commitHeld s0) := by
  unfold commitHeld
  try dsimp only
  repeat' (first | (with_reducible first | assumption | apply kept_all) | (simp only [kept_mk]) | (with_reducible apply revertToward_kept) | split | (dsimp only) | (with_reducible first | refine kept_snd (by with_reducible assumption) ?_ | refine kept_some (by with_reducible assumption) ?_))

theorem drainEnd_kept {s0} (h0 : Kept q s0) : Kept q (drainEnd s0) := by
  unfold drainEnd
  try dsimp only
  repeat' (first | (with_reducible first | assumption | apply kept_all) | (simp only [kept_mk]) | (with_reducible first | apply endCommit_kept | apply leaveAll_kept | apply State.fset_kept))

theorem positionOp_kept {x0 s1} (h1 : Kept q s1) : Kept q (positionOp x0 s1) := by
  unfold positionOp
  try dsimp only
  repeat' (first | (with_reducible first | assumption | apply kept_all) | (simp only [kept_mk]) | (with_reducible first | apply kept_ite | apply kept_ite2 | apply State.fset_kept | apply seqPosition_kept | apply endCommit_kept | apply seqRemove_kept) | split | (dsimp only) | (with_reducible first | refine kept_snd (by with_reducible assumption) ?_ | refine kept_some (by with_reducible assumption) ?_))

theorem spareCmd_kept {x0 x1 s2} (h2 : Kept q s2) : Kept q (spareCmd x0 x1 s2) := by
  unfold spareCmd
  try dsimp only
  repeat' (first | (with_reducible first | assumption | apply kept_ite | apply kept_ite2 | apply State.setSpare_kept | apply sparePhase_kept | apply sendNote_kept | apply State.fset_kept) | split | (dsimp only) | (with_reducible first | refine kept_snd (by with_reducible assumption) ?_ | refine kept_some (by with_reducible assumption) ?_))

theorem ledgerEffect_kept {x0 x1 x2 x3 x4 x5 s6} (h6 : Kept q s6) : Kept q (ledgerEffect x0 x1 x2 x3 x4 x5 s6) := by
  unfold ledgerEffect
  try dsimp only
  repeat' (first | (with_reducible first | assumption | apply kept_ite | apply kept_ite2 | apply ledgerOp_kept | apply endTxn_kept) | split | (dsimp only) | (with_reducible first | refine kept_snd (by with_reducible assumption) ?_ | refine kept_some (by with_reducible assumption) ?_))

theorem revertMoving_kept {s0} (h0 : Kept q s0) : Kept q (revertMoving s0) := by
  unfold revertMoving
  try dsimp only
  repeat' (first | (with_reducible first | assumption | apply kept_all) | (simp only [kept_mk]) | (with_reducible first | apply kept_ite | apply kept_ite2 | apply countReverts_kept) | split | (dsimp only))

theorem holdOp_kept {s0} (h0 : Kept q s0) : Kept q (holdOp s0) := by
  unfold holdOp
  try dsimp only
  repeat' (first | (with_reducible first | assumption | apply kept_ite | apply kept_ite2 | apply seqRemove_kept | apply inval_kept | apply publishOrdered_kept | apply commitHeld_kept | apply ledgerEffect_kept | apply revertEffect_kept | apply admissionEffect_kept) | split | (dsimp only) | (with_reducible first | refine kept_snd (by with_reducible assumption) ?_ | refine kept_some (by with_reducible assumption) ?_))

theorem commitGo_kept {s0} (h0 : Kept q s0) : Kept q (commitGo s0) := by
  unfold commitGo
  try dsimp only
  repeat' (first | (with_reducible first | assumption | apply kept_all) | (simp only [kept_mk]) | (with_reducible first | apply kept_ite | apply kept_ite2 | apply State.fset_kept) | split | (dsimp only))

theorem quiesceDrained_kept {s0} (h0 : Kept q s0) : Kept q (quiesceDrained s0) := by
  unfold quiesceDrained
  try dsimp only
  repeat' (first | (with_reducible first | assumption | apply kept_all) | (intro _) | (simp only [kept_mk]) | (with_reducible first | apply kept_foldl | apply kept_foldl2 | apply swapOutCopse_kept))

theorem spareStall_kept {x0 s1} (h1 : Kept q s1) : Kept q (spareStall x0 s1) := by
  unfold spareStall
  try dsimp only
  repeat' (first | (with_reducible first | assumption | apply kept_ite | apply kept_ite2 | apply sparePhase_kept | apply State.emit_kept) | split | (dsimp only))

theorem commitSwitch_kept {s0} (h0 : Kept q s0) : Kept q (commitSwitch s0) := by
  unfold commitSwitch
  try dsimp only
  repeat' (first | (with_reducible first | assumption | apply kept_all) | (simp only [kept_mk]) | (with_reducible first | apply noteAll_kept | apply State.fset_kept | apply switchMap_kept) | split | (dsimp only) | (with_reducible first | refine kept_snd (by with_reducible assumption) ?_ | refine kept_some (by with_reducible assumption) ?_))

theorem resumeGaps_kept {s0} (h0 : Kept q s0) : Kept q (resumeGaps s0) := by
  unfold resumeGaps
  try dsimp only
  repeat' (first | (with_reducible first | assumption | apply kept_all) | (simp only [kept_mk]) | split | (dsimp only) | (with_reducible first | refine kept_snd (by with_reducible assumption) ?_ | refine kept_some (by with_reducible assumption) ?_))

theorem suspendGaps_kept {s0} (h0 : Kept q s0) : Kept q (suspendGaps s0) := by
  unfold suspendGaps
  try dsimp only
  repeat' (first | (with_reducible first | assumption | apply kept_all) | (simp only [kept_mk]) | (with_reducible apply kept_getD))

theorem stopFringe_kept {x0 s1} (h1 : Kept q s1) : Kept q (stopFringe x0 s1) := by
  unfold stopFringe
  try dsimp only
  repeat' (first | (with_reducible first | assumption | apply kept_all) | (intro _) | (simp only [kept_mk]) | (with_reducible first | apply kept_foldl | apply kept_foldl2 | apply linkDown_kept))

theorem startSwitching_kept {x0 x1 s2} (h2 : Kept q s2) : Kept q (startSwitching x0 x1 s2) := by
  unfold startSwitching
  try dsimp only
  repeat' (first | (with_reducible first | assumption | apply kept_all) | (simp only [kept_mk]) | (with_reducible first | apply suspendGaps_kept | apply stopFringe_kept) | split | (dsimp only) | (with_reducible first | refine kept_snd (by with_reducible assumption) ?_ | refine kept_some (by with_reducible assumption) ?_))

theorem updateLoaded_kept {s0} (h0 : Kept q s0) : Kept q (updateLoaded s0) := by
  unfold updateLoaded
  try dsimp only
  repeat' (first | (with_reducible first | assumption | apply startSwitching_kept | apply State.fset_kept) | split | (dsimp only) | (with_reducible first | refine kept_snd (by with_reducible assumption) ?_ | refine kept_some (by with_reducible assumption) ?_))

theorem interruptCommit_kept {s0} (h0 : Kept q s0) : Kept q (interruptCommit s0) := by
  unfold interruptCommit
  try dsimp only
  repeat' (first | (with_reducible first | assumption | apply kept_all) | (intro _) | (simp only [kept_mk]) | (with_reducible first | apply kept_foldl | apply kept_foldl2 | apply endCommit_kept | apply scheduleAll_kept) | split | (dsimp only) | (with_reducible first | refine kept_snd (by with_reducible assumption) ?_ | refine kept_some (by with_reducible assumption) ?_))

theorem interruptOp_kept {x0 s1} (h1 : Kept q s1) : Kept q (interruptOp x0 s1) := by
  unfold interruptOp
  try dsimp only
  repeat' (first | (with_reducible first | assumption | apply seqRemove_kept | apply endTxn_kept | apply endCommit_kept | apply letRelease_kept | apply sparePhase_kept) | split | (dsimp only) | (with_reducible first | refine kept_snd (by with_reducible assumption) ?_ | refine kept_some (by with_reducible assumption) ?_))

theorem becomeActiveLookout_kept {x0 x1 s2} (h2 : Kept q s2) : Kept q (becomeActiveLookout x0 x1 s2) := by
  unfold becomeActiveLookout
  try dsimp only
  repeat' (first | (with_reducible first | assumption | apply pulse_kept | apply State.fset_kept))

theorem interruptOps_kept {x0 s1} (h1 : Kept q s1) : Kept q (interruptOps x0 s1) := by
  induction x0 generalizing s1 with
  | nil =>
    unfold interruptOps
    try dsimp only
    repeat' (first | (with_reducible first | assumption | apply kept_ite | apply kept_ite2 | apply interruptOp_kept) | split | (dsimp only) | (with_reducible first | refine kept_snd (by with_reducible assumption) ?_ | refine kept_some (by with_reducible assumption) ?_))
  | cons a l ih =>
    unfold interruptOps
    try dsimp only
    repeat' (first | (with_reducible first | assumption | apply kept_ite | apply kept_ite2 | apply ih | apply interruptOp_kept) | split | (dsimp only) | (with_reducible first | refine kept_snd (by with_reducible assumption) ?_ | refine kept_some (by with_reducible assumption) ?_))

theorem resumeSequencer_kept {s0} (h0 : Kept q s0) : Kept q (resumeSequencer s0) := by
  unfold resumeSequencer
  try dsimp only
  repeat' (first | (with_reducible first | assumption | apply kept_all) | (simp only [kept_mk]) | (with_reducible first | apply interruptCommit_kept | apply interruptOps_kept))

theorem lookoutBack_kept {x0 s1} (h1 : Kept q s1) : Kept q (lookoutBack x0 s1) := by
  unfold lookoutBack
  try dsimp only
  repeat' (first | (with_reducible first | assumption | apply kept_all) | (simp only [kept_mk]) | (with_reducible first | apply kept_ite | apply kept_ite2 | apply becomeActiveLookout_kept | apply resumeSequencer_kept) | split | (dsimp only))

theorem startHandover_kept {s0} (h0 : Kept q s0) : Kept q (startHandover s0) := by
  unfold startHandover
  try dsimp only
  repeat' (first | (with_reducible first | assumption | apply kept_all) | (simp only [kept_mk]))

theorem beginUpdate_kept {x0 x1 x2 s3} (h3 : Kept q s3) : Kept q (beginUpdate x0 x1 x2 s3) := by
  unfold beginUpdate
  try dsimp only
  repeat' (first | (with_reducible first | assumption | apply kept_all) | (simp only [kept_mk]) | (with_reducible first | apply kept_ite | apply kept_ite2 | apply evidenceChanged_kept | apply State.fset_kept | apply startHandover_kept) | split | (dsimp only))

theorem updateGo_kept {s0} (h0 : Kept q s0) : Kept q (updateGo s0) := by
  unfold updateGo
  try dsimp only
  repeat' (first | (with_reducible first | assumption | apply kept_ite | apply kept_ite2 | apply State.fset_kept | apply beginUpdate_kept) | split | (dsimp only))

theorem restartScrubs_kept {x0 s1} (h1 : Kept q s1) : Kept q (restartScrubs x0 s1) := by
  unfold restartScrubs
  try dsimp only
  repeat' (first | (with_reducible first | assumption | apply kept_all) | (simp only [kept_mk]) | (with_reducible first | apply kept_ite | apply kept_ite2 | apply State.fadd_kept) | split | (dsimp only))

theorem resetWords_kept {x0 s1} (h1 : Kept q s1) : Kept q (resetWords x0 s1) := by
  unfold resetWords
  try dsimp only
  repeat' (first | (with_reducible first | assumption | apply kept_all) | (simp only [kept_mk]) | (with_reducible apply applyNv_kept) | split | (dsimp only) | (with_reducible first | refine kept_snd (by with_reducible assumption) ?_ | refine kept_some (by with_reducible assumption) ?_ | apply kept_ctl | apply kept_t0 | apply kept_seed0 | apply kept_seed1 | apply SMap.sorted_filter | apply SMap.sorted_keep | apply SMap.wf_keep | apply wf_nil | apply writeBytes_wf | apply copyRegion_wf | apply Kept.ctl (q := q) | apply Kept.t0 (q := q) | apply Kept.seed0 (q := q) | apply Kept.seed1 (q := q)))

theorem lightFringe_kept {x0 s1} (h1 : Kept q s1) : Kept q (lightFringe x0 s1) := by
  unfold lightFringe
  try dsimp only
  repeat' (first | (with_reducible first | assumption | apply kept_all) | (intro _) | (simp only [kept_mk]) | (with_reducible first | apply kept_foldl | apply kept_foldl2))

theorem startFringe_kept {x0 s1} (h1 : Kept q s1) : Kept q (startFringe x0 s1) := by
  unfold startFringe
  try dsimp only
  repeat' (first | (with_reducible assumption) | (intro _) | (with_reducible first | apply kept_foldl | apply kept_foldl2 | apply resetWords_kept | apply lightFringe_kept | apply State.fset_kept))

theorem endSwitching_kept {x0 x1 s2} (h2 : Kept q s2) : Kept q (endSwitching x0 x1 s2) := by
  unfold endSwitching
  try dsimp only
  repeat' (first | (with_reducible first | assumption | apply kept_all) | (simp only [kept_mk]) | (with_reducible first | apply lookoutBack_kept | apply restartScrubs_kept | apply resumeGaps_kept | apply startFringe_kept) | split | (dsimp only) | (with_reducible first | refine kept_snd (by with_reducible assumption) ?_ | refine kept_some (by with_reducible assumption) ?_))

theorem endMgmt_kept {s0} (h0 : Kept q s0) : Kept q (endMgmt s0) := by
  unfold endMgmt
  try dsimp only
  repeat' (first | (with_reducible assumption) | (intro _) | (with_reducible first | apply kept_foldl | apply kept_foldl2 | apply endProgram_kept))

theorem endUpdate_kept {x0 x1 x2 s3} (h3 : Kept q s3) : Kept q (endUpdate x0 x1 x2 s3) := by
  unfold endUpdate
  try dsimp only
  repeat' (first | (with_reducible first | assumption | apply kept_all) | (simp only [kept_mk]) | (with_reducible first | apply kept_ite | apply kept_ite2 | apply startImage_kept | apply State.fset_kept | apply endSwitching_kept) | split | (dsimp only))

theorem clearClaims_kept {x0 s1} (h1 : Kept q s1) : Kept q (clearClaims x0 s1) := by
  unfold clearClaims
  try dsimp only
  repeat' (first | (with_reducible first | assumption | apply kept_all) | (intro _) | (simp only [kept_mk]) | (with_reducible first | apply kept_ite | apply kept_ite2 | apply kept_foldl | apply kept_foldl2 | apply State.fset_kept) | split | (dsimp only))

theorem loseActive_kept {x0 s1} (h1 : Kept q s1) : Kept q (loseActive x0 s1) := by
  unfold loseActive
  try dsimp only
  repeat' (first | (with_reducible first | assumption | apply kept_all) | (simp only [kept_mk]) | (with_reducible first | apply evidenceChanged_kept | apply clearClaims_kept | apply endMgmt_kept | apply State.fset_kept))

theorem putRaw_kept {x0 s1} (h1 : Kept q s1) : Kept q (putRaw x0 s1) := by
  unfold putRaw
  try dsimp only
  repeat' (first | (with_reducible first | assumption | apply kept_all) | (simp only [kept_mk]) | (with_reducible apply State.fset_kept))

theorem poisonWord_kept {x0 x1 x2 x3 s4} (h4 : Kept q s4) : Kept q (poisonWord x0 x1 x2 x3 s4) := by
  unfold poisonWord
  try dsimp only
  repeat' (first | (with_reducible first | assumption | apply putRaw_kept))

theorem tearDown_kept {x0 x1 s2} (h2 : Kept q s2) : Kept q (tearDown x0 x1 s2) := by
  unfold tearDown
  try dsimp only
  repeat' (first | (with_reducible first | assumption | apply endProgram_kept))

theorem resetCopse_kept {x0 s1} (h1 : Kept q s1) : Kept q (resetCopse x0 s1) := by
  unfold resetCopse
  try dsimp only
  repeat' (first | (with_reducible first | assumption | apply kept_all) | (intro _) | (simp only [kept_mk]) | (with_reducible first | apply kept_ite | apply kept_ite2 | apply kept_foldl | apply kept_foldl2 | apply tearDown_kept | apply domainDown_kept | apply resetWords_kept | apply State.setCopse_kept) | split | (dsimp only))

theorem interruptCell_kept {x0 x1 s2} (h2 : Kept q s2) : Kept q (interruptCell x0 x1 s2) := by
  unfold interruptCell
  try dsimp only
  repeat' (first | (with_reducible first | assumption | apply kept_ite | apply kept_ite2 | apply State.fadd_kept | apply copyGone_kept | apply endTxn_kept) | split | (dsimp only) | (with_reducible first | refine kept_snd (by with_reducible assumption) ?_ | refine kept_some (by with_reducible assumption) ?_))

theorem interruptCells_kept {x0 x1 s2} (h2 : Kept q s2) : Kept q (interruptCells x0 x1 s2) := by
  induction x1 generalizing x0 s2 with
  | nil =>
    unfold interruptCells
    try dsimp only
    repeat' (first | (with_reducible first | assumption | apply interruptCell_kept) | split | (dsimp only) | (with_reducible first | refine kept_snd (by with_reducible assumption) ?_ | refine kept_some (by with_reducible assumption) ?_))
  | cons a l ih =>
    unfold interruptCells
    try dsimp only
    repeat' (first | (with_reducible first | assumption | apply ih | apply interruptCell_kept) | split | (dsimp only) | (with_reducible first | refine kept_snd (by with_reducible assumption) ?_ | refine kept_some (by with_reducible assumption) ?_))

theorem resetCore_kept {x0 s1} (h1 : Kept q s1) : Kept q (resetCore x0 s1) := by
  unfold resetCore
  try dsimp only
  repeat' (first | (with_reducible first | assumption | apply kept_all) | (simp only [kept_mk]) | (with_reducible first | apply kept_ite | apply kept_ite2 | apply suspendGaps_kept | apply interruptCells_kept | apply evidenceChanged_kept | apply State.fset_kept) | split | (dsimp only))

theorem resetLookout_kept {x0 s1} (h1 : Kept q s1) : Kept q (resetLookout x0 s1) := by
  unfold resetLookout
  try dsimp only
  repeat' (first | (with_reducible first | assumption | apply kept_all) | (simp only [kept_mk]) | (with_reducible first | apply kept_ite | apply kept_ite2 | apply fullReset_kept | apply loseActive_kept | apply evidenceChanged_kept | apply State.fset_kept) | split | (dsimp only))

theorem actReset_kept {x0 x1 x2 x3 x4 x5 s6} (h6 : Kept q s6) : Kept q (actReset x0 x1 x2 x3 x4 x5 s6) := by
  unfold actReset
  try dsimp only
  repeat' (first | (with_reducible first | assumption | apply kept_all) | (simp only [kept_mk]) | (with_reducible first | apply kept_ite | apply kept_ite2 | apply State.setCopse_kept | apply poisonWord_kept | apply tearDown_kept | apply clearWords_kept | apply resetCopse_kept | apply trainLit_kept | apply linkDown_kept | apply resetCore_kept | apply evidenceChanged_kept | apply State.fset_kept | apply startSwitching_kept | apply resetLookout_kept | apply fullReset_kept) | split | (dsimp only) | (with_reducible first | refine kept_snd (by with_reducible assumption) ?_ | refine kept_some (by with_reducible assumption) ?_))

theorem recordReset_kept {x0 x1 x2 x3 s4} (h4 : Kept q s4) : Kept q (recordReset x0 x1 x2 x3 s4) := by
  unfold recordReset
  try dsimp only
  repeat' (first | (with_reducible first | assumption | apply State.fset_kept | apply pulse_kept | apply State.fadd_kept))

theorem resetScope_kept {x0 x1 x2 x3 s4} (h4 : Kept q s4) : Kept q (resetScope x0 x1 x2 x3 s4) := by
  unfold resetScope
  try dsimp only
  repeat' (first | (with_reducible first | assumption | apply kept_all) | (simp only [kept_mk]) | (with_reducible first | apply kept_ite | apply kept_ite2 | apply State.fadd_kept | apply actReset_kept | apply recordReset_kept) | split | (dsimp only) | (with_reducible first | refine kept_snd (by with_reducible assumption) ?_ | refine kept_some (by with_reducible assumption) ?_))

theorem outOfService_kept {x0 x1 x2 x3 s4} (h4 : Kept q s4) : Kept q (outOfService x0 x1 x2 x3 s4) := by
  unfold outOfService
  try dsimp only
  repeat' (first | (with_reducible first | assumption | apply kept_all) | (simp only [kept_mk]) | (with_reducible first | apply kept_ite | apply kept_ite2 | apply pulse_kept | apply setUnit_kept | apply fullReset_kept | apply leaveNotStarted_kept) | split | (dsimp only) | (with_reducible first | refine kept_snd (by with_reducible assumption) ?_ | refine kept_some (by with_reducible assumption) ?_))

theorem endReset_kept {x0 s1} (h1 : Kept q s1) : Kept q (endReset x0 s1) := by
  unfold endReset
  try dsimp only
  repeat' (first | (with_reducible first | assumption | apply kept_all) | (simp only [kept_mk]) | (with_reducible first | apply kept_ite | apply kept_ite2 | apply startImage_kept | apply resumeGaps_kept | apply endSwitching_kept | apply lookoutBack_kept) | split | (dsimp only) | (with_reducible first | refine kept_snd (by with_reducible assumption) ?_ | refine kept_some (by with_reducible assumption) ?_))

theorem diagResult_kept {x0 s1} (h1 : Kept q s1) : Kept q (diagResult x0 s1) := by
  unfold diagResult
  try dsimp only
  repeat' (first | (with_reducible first | assumption | apply State.fset_kept))

theorem loadDiag_kept {x0 x1 s2} (h2 : Kept q s2) : Kept q (loadDiag x0 x1 s2) := by
  unfold loadDiag
  try dsimp only
  repeat' (first | (with_reducible assumption) | (intro _) | (with_reducible first | apply kept_foldl | apply kept_foldl2 | apply State.setWord_kept | apply State.fset_kept))

theorem readRaw_kept {x0 x1 x2 x3 s4} (h4 : Kept q s4) : Kept q (readRaw x0 x1 x2 x3 s4) := by
  unfold readRaw
  try dsimp only
  repeat' (first | (with_reducible first | assumption | apply diagResult_kept | apply loadDiag_kept | apply State.draw_kept) | split | (dsimp only) | (with_reducible first | refine kept_snd (by with_reducible assumption) ?_ | refine kept_some (by with_reducible assumption) ?_))

theorem setWordBytes_kept {x0 x1 x2 x3 x4 s5} (h5 : Kept q s5) : Kept q (setWordBytes x0 x1 x2 x3 x4 s5) := by
  unfold setWordBytes
  try dsimp only
  repeat' (first | (with_reducible first | assumption | apply kept_all) | (simp only [kept_mk]) | (with_reducible first | apply kept_ite | apply kept_ite2 | apply State.modCtx_kept) | split | (dsimp only) | (with_reducible first | refine kept_snd (by with_reducible assumption) ?_ | refine kept_some (by with_reducible assumption) ?_ | apply kept_ctl | apply kept_t0 | apply kept_seed0 | apply kept_seed1 | apply SMap.sorted_filter | apply SMap.sorted_keep | apply SMap.wf_keep | apply wf_nil | apply writeBytes_wf | apply copyRegion_wf | apply Kept.ctl (q := q) | apply Kept.t0 (q := q) | apply Kept.seed0 (q := q) | apply Kept.seed1 (q := q)))

theorem writeRaw_kept {x0 x1 x2 x3 x4 x5 s6} (h6 : Kept q s6) : Kept q (writeRaw x0 x1 x2 x3 x4 x5 s6) := by
  unfold writeRaw
  try dsimp only
  repeat' (first | (with_reducible first | assumption | apply kept_ite | apply kept_ite2 | apply diagResult_kept | apply setWordBytes_kept | apply putRaw_kept) | split | (dsimp only) | (with_reducible first | refine kept_snd (by with_reducible assumption) ?_ | refine kept_some (by with_reducible assumption) ?_))

theorem recordLast_kept {x0 x1 x2 x3 x4 x5 s6} (h6 : Kept q s6) : Kept q (recordLast x0 x1 x2 x3 x4 x5 s6) := by
  unfold recordLast
  try dsimp only
  repeat' (first | (with_reducible first | assumption | apply State.fset_kept))

theorem retireRow_kept {x0 x1 x2 x3 x4 s5} (h5 : Kept q s5) : Kept q (retireRow x0 x1 x2 x3 x4 s5) := by
  unfold retireRow
  try dsimp only
  repeat' (first | (with_reducible first | assumption | apply kept_all) | (simp only [kept_mk]) | (with_reducible first | apply kept_ite | apply kept_ite2 | apply State.fadd_kept | apply outOfService_kept) | split | (dsimp only))

end Sys2Proof.Machine
end

