-- ==== Sys2Proof/Laws/KeptD.lean ====
section
/-! SUPPORT. The operations and commands keep it, fourth part. -/

namespace Sys2Proof.Machine

set_option linter.unusedTactic false
set_option linter.unreachableTactic false
set_option linter.unusedVariables false

variable {q : State}

theorem readWord_kept {x0 x1 x2 x3 x4 x5 x6 x7 s8} (h8 : Kept q s8) : Kept q (readWord x0 x1 x2 x3 x4 x5 x6 x7 s8).2 := by
  unfold readWord
  try dsimp only
  repeat' (first | (with_reducible first | assumption | apply kept_ite | apply kept_ite2 | apply State.fadd_kept | apply clearWords_kept | apply recordLast_kept | apply pulse_kept | apply retireRow_kept | apply poisonWord_kept) | split | (dsimp only) | (with_reducible first | refine kept_snd (by with_reducible assumption) ?_ | refine kept_some (by with_reducible assumption) ?_))

theorem machineRead_kept {x0 x1 x2 x3 x4 x5 x6 x7 s8} (h8 : Kept q s8) : Kept q (machineRead x0 x1 x2 x3 x4 x5 x6 x7 s8) := by
  unfold machineRead
  try dsimp only
  repeat' (first | (with_reducible first | assumption | apply kept_ite | apply kept_ite2 | apply readWord_kept | apply resetScope_kept) | split | (dsimp only) | (with_reducible first | refine kept_snd (by with_reducible assumption) ?_ | refine kept_some (by with_reducible assumption) ?_))

theorem clearRaw_kept {x0 x1 x2 x3 x4 s5} (h5 : Kept q s5) : Kept q (clearRaw x0 x1 x2 x3 x4 s5) := by
  unfold clearRaw
  try dsimp only
  repeat' (first | (with_reducible first | assumption | apply diagResult_kept | apply setWordBytes_kept | apply clearWords_kept) | split | (dsimp only) | (with_reducible first | refine kept_snd (by with_reducible assumption) ?_ | refine kept_some (by with_reducible assumption) ?_))

theorem releaseCell_kept {x0 s1} (h1 : Kept q s1) : Kept q (releaseCell x0 s1) := by
  unfold releaseCell
  try dsimp only
  repeat' (first | (with_reducible first | assumption | apply kept_ite | apply kept_ite2 | apply keptOpt_map | apply keptOpt_some | exact keptOpt_none | apply keptOpt_ite | apply kept_getD | apply mcLocal_kept | apply dropCell_kept | apply refuseCell_kept | apply admitEgress_kept) | split | (dsimp only))

theorem State.setEdge_kept {s0 x1 x2 x3} (h0 : Kept q s0) : Kept q (State.setEdge s0 x1 x2 x3) := by
  unfold State.setEdge
  try dsimp only
  repeat' (first | (with_reducible first | assumption | apply kept_all) | (simp only [kept_mk]))

theorem dropEdge_kept {x0 x1 s2} (h2 : Kept q s2) : Kept q (dropEdge x0 x1 s2) := by
  unfold dropEdge
  try dsimp only
  repeat' (first | (with_reducible assumption) | (intro _) | (with_reducible first | apply kept_foldl | apply kept_foldl2 | apply State.setEdge_kept))

theorem gapResume_kept {x0 x1 s2} (h2 : Kept q s2) : Kept q (gapResume x0 x1 s2) := by
  unfold gapResume
  try dsimp only
  repeat' (first | (with_reducible first | assumption | apply kept_ite | apply kept_ite2 | apply State.setEdge_kept | apply resumeGaps_kept) | split | (dsimp only))

theorem readCell_kept {x0 x1 s2} (h2 : Kept q s2) : Kept q (readCell x0 x1 s2).2 := by
  unfold readCell
  try dsimp only
  repeat' (first | (with_reducible first | assumption | apply readWord_kept | apply machineRead_kept | refine kept_snd (by with_reducible assumption) ?_ | refine kept_some (by with_reducible assumption) ?_))

theorem poisonTxn_kept {x0 x1 x2 s3} (h3 : Kept q s3) : Kept q (poisonTxn x0 x1 x2 s3) := by
  unfold poisonTxn
  try dsimp only
  repeat' (first | (with_reducible first | assumption | apply kept_ite | apply kept_ite2 | apply copyGone_kept | apply endTxn_kept) | split | (dsimp only) | (with_reducible first | refine kept_snd (by with_reducible assumption) ?_ | refine kept_some (by with_reducible assumption) ?_))

theorem loseCell_kept {x0 x1 x2 x3 s4} (h4 : Kept q s4) : Kept q (loseCell x0 x1 x2 x3 s4) := by
  unfold loseCell
  try dsimp only
  repeat' (first | (with_reducible first | assumption | apply kept_ite | apply kept_ite2 | apply poisonTxn_kept | apply trail_kept | apply State.fadd_kept) | split | (dsimp only))

theorem egressSend_kept {x0 x1 x2 s3} (h3 : Kept q s3) : Kept q (egressSend x0 x1 x2 s3) := by
  unfold egressSend
  try dsimp only
  repeat' (first | (with_reducible first | assumption | apply kept_ite | apply kept_ite2 | apply setTokens_kept | apply readCell_kept | apply uncharge_kept | apply State.setEgQ_kept | apply loseCell_kept | apply State.setLport_kept | apply trail_kept | apply State.addTotal_kept | apply sendSlots_kept | apply copyGone_kept) | split | (dsimp only) | (with_reducible first | refine kept_snd (by with_reducible assumption) ?_ | refine kept_some (by with_reducible assumption) ?_))

theorem setEdgeState_kept {x0 x1 x2 s3} (h3 : Kept q s3) : Kept q (setEdgeState x0 x1 x2 s3) := by
  unfold setEdgeState
  try dsimp only
  repeat' (first | (with_reducible first | assumption | apply State.fset_kept))

theorem wireFail_kept {x0 x1 s2} (h2 : Kept q s2) : Kept q (wireFail x0 x1 s2) := by
  unfold wireFail
  try dsimp only
  repeat' (first | (with_reducible first | assumption | apply kept_ite | apply kept_ite2 | apply setEdgeState_kept | apply State.setEdge_kept) | split | (dsimp only))

theorem skipCell_kept {x0 s1} (h1 : Kept q s1) : Kept q (skipCell x0 s1) := by
  unfold skipCell
  try dsimp only
  repeat' (first | (with_reducible first | assumption | apply kept_ite | apply kept_ite2 | apply copyGone_kept | apply endTxn_kept | apply respond_kept) | split | (dsimp only) | (with_reducible first | refine kept_snd (by with_reducible assumption) ?_ | refine kept_some (by with_reducible assumption) ?_))

theorem startOn_kept {x0 x1 x2 x3 s4} (h4 : Kept q s4) : Kept q (startOn x0 x1 x2 x3 s4) := by
  unfold startOn
  try dsimp only
  repeat' (first | (with_reducible first | assumption | apply kept_all) | (simp only [kept_mk]) | (with_reducible first | apply kept_ite | apply kept_ite2 | apply State.setEdge_kept | apply readCell_kept | apply uncharge_kept | apply loseCell_kept | apply State.setFlow_kept) | split | (dsimp only) | (with_reducible first | refine kept_snd (by with_reducible assumption) ?_ | refine kept_some (by with_reducible assumption) ?_))

theorem restartGap_kept {x0 s1} (h1 : Kept q s1) : Kept q (restartGap x0 s1) := by
  unfold restartGap
  try dsimp only
  repeat' (first | (with_reducible first | assumption | apply kept_ite | apply kept_ite2 | apply State.setFlow_kept) | split | (dsimp only))

theorem release_kept {x0 x1 s2} (h2 : Kept q s2) : Kept q (release x0 x1 s2) := by
  induction x1 generalizing x0 s2 with
  | zero =>
    unfold release
    try dsimp only
    repeat' (first | (with_reducible first | assumption | apply kept_ite | apply kept_ite2 | apply State.setFlow_kept | apply releaseCell_kept) | split | (dsimp only) | (with_reducible first | refine kept_snd (by with_reducible assumption) ?_ | refine kept_some (by with_reducible assumption) ?_))
  | succ k ih =>
    unfold release
    try dsimp only
    repeat' (first | (with_reducible first | assumption | apply kept_ite | apply kept_ite2 | apply ih | apply State.setFlow_kept | apply releaseCell_kept) | split | (dsimp only) | (with_reducible first | refine kept_snd (by with_reducible assumption) ?_ | refine kept_some (by with_reducible assumption) ?_))

theorem meshArrive_kept {x0 x1 s2} (h2 : Kept q s2) : Kept q (meshArrive x0 x1 s2) := by
  unfold meshArrive
  try dsimp only
  repeat' (first | (with_reducible first | assumption | apply kept_ite | apply kept_ite2 | apply kept_getD | apply State.fadd_kept | apply State.setFlow_kept | apply restartGap_kept | apply release_kept) | split | (dsimp only))

theorem skipCells_kept {x0 s1} (h1 : Kept q s1) : Kept q (skipCells x0 s1) := by
  induction x0 generalizing s1 with
  | nil =>
    unfold skipCells
    try dsimp only
    repeat' (first | (with_reducible first | assumption | apply skipCell_kept) | split | (dsimp only) | (with_reducible first | refine kept_snd (by with_reducible assumption) ?_ | refine kept_some (by with_reducible assumption) ?_))
  | cons a l ih =>
    unfold skipCells
    try dsimp only
    repeat' (first | (with_reducible first | assumption | apply ih | apply skipCell_kept) | split | (dsimp only) | (with_reducible first | refine kept_snd (by with_reducible assumption) ?_ | refine kept_some (by with_reducible assumption) ?_))

theorem releaseNotice_kept {x0 s1} (h1 : Kept q s1) : Kept q (releaseNotice x0 s1) := by
  unfold releaseNotice
  try dsimp only
  repeat' (first | (with_reducible first | assumption | apply State.setFlow_kept) | split | (dsimp only) | (with_reducible first | refine kept_snd (by with_reducible assumption) ?_ | refine kept_some (by with_reducible assumption) ?_))

theorem spraySuspend_kept {x0 x1 s2} (h2 : Kept q s2) : Kept q (spraySuspend x0 x1 s2) := by
  unfold spraySuspend
  try dsimp only
  repeat' (first | (with_reducible first | assumption | apply kept_ite | apply kept_ite2 | apply suspendGaps_kept | apply State.setEdge_kept) | split | (dsimp only))

theorem edgeArrive_kept {x0 x1 s2} (h2 : Kept q s2) : Kept q (edgeArrive x0 x1 s2) := by
  unfold edgeArrive
  try dsimp only
  repeat' (first | (with_reducible first | assumption | apply kept_ite | apply kept_ite2 | apply meshArrive_kept | apply State.setEdge_kept) | split | (dsimp only) | (with_reducible first | refine kept_snd (by with_reducible assumption) ?_ | refine kept_some (by with_reducible assumption) ?_))

theorem openPick_kept {x0 x1 s2} (h2 : Kept q s2) : Kept q (openPick x0 x1 s2).2 := by
  unfold openPick
  try dsimp only
  repeat' (first | (with_reducible first | assumption | apply kept_all) | (simp only [kept_mk]) | (with_reducible first | apply kept_ite | apply kept_ite2) | split | (dsimp only) | (with_reducible first | refine kept_snd (by with_reducible assumption) ?_ | refine kept_some (by with_reducible assumption) ?_))

theorem overflowRefill_kept {x0 x1 s2} (h2 : Kept q s2) : Kept q (overflowRefill x0 x1 s2) := by
  unfold overflowRefill
  try dsimp only
  repeat' (first | (with_reducible first | assumption | apply kept_ite | apply kept_ite2 | apply State.setEgQ_kept | apply addCharge_kept) | split | (dsimp only) | (with_reducible first | refine kept_snd (by with_reducible assumption) ?_ | refine kept_some (by with_reducible assumption) ?_))

theorem skipNotice_kept {x0 s1} (h1 : Kept q s1) : Kept q (skipNotice x0 s1) := by
  unfold skipNotice
  try dsimp only
  repeat' (first | (with_reducible first | assumption | apply skipCells_kept | apply State.setFlow_kept) | split | (dsimp only) | (with_reducible first | refine kept_snd (by with_reducible assumption) ?_ | refine kept_some (by with_reducible assumption) ?_))

theorem egressSelect_kept {x0 x1 s2} (h2 : Kept q s2) : Kept q (egressSelect x0 x1 s2) := by
  unfold egressSelect
  try dsimp only
  repeat' (first | (with_reducible first | assumption | apply kept_ite | apply kept_ite2 | apply selectClass_kept | apply egressSend_kept) | split | (dsimp only) | (with_reducible first | refine kept_snd (by with_reducible assumption) ?_ | refine kept_some (by with_reducible assumption) ?_))

theorem meshPick_kept {x0 x1 s2} (h2 : Kept q s2) : Kept q (meshPick x0 x1 s2).2 := by
  unfold meshPick
  try dsimp only
  repeat' (first | (with_reducible first | assumption | apply openPick_kept) | split | (dsimp only) | (with_reducible first | refine kept_snd (by with_reducible assumption) ?_ | refine kept_some (by with_reducible assumption) ?_))

theorem heldResend_kept {x0 x1 s2} (h2 : Kept q s2) : Kept q (heldResend x0 x1 s2) := by
  unfold heldResend
  try dsimp only
  repeat' (first | (with_reducible first | assumption | apply kept_ite | apply kept_ite2 | apply State.setEdge_kept) | split | (dsimp only))

theorem edgeBack_kept {x0 x1 s2} (h2 : Kept q s2) : Kept q (edgeBack x0 x1 s2) := by
  unfold edgeBack
  try dsimp only
  repeat' (first | (with_reducible first | assumption | apply kept_ite | apply kept_ite2 | apply setEdgeState_kept | apply State.setEdge_kept) | split | (dsimp only))

theorem gapTimeout_kept {x0 x1 x2 x3 s4} (h4 : Kept q s4) : Kept q (gapTimeout x0 x1 x2 x3 s4) := by
  unfold gapTimeout
  try dsimp only
  repeat' (first | (with_reducible assumption) | (intro _) | (with_reducible first | apply kept_ite | apply kept_ite2 | apply kept_foldl | apply kept_foldl2 | apply pulse_kept | apply trail_kept | apply State.fadd_kept | apply restartGap_kept | apply release_kept | apply State.setFlow_kept) | split | (dsimp only) | (with_reducible first | refine kept_snd (by with_reducible assumption) ?_ | refine kept_some (by with_reducible assumption) ?_))

theorem wheelBoundary_kept {s0} (h0 : Kept q s0) : Kept q (wheelBoundary s0) := by
  unfold wheelBoundary
  try dsimp only
  repeat' (first | (with_reducible first | assumption | apply kept_all) | (intro _) | (simp only [kept_mk]) | (with_reducible first | apply kept_ite | apply kept_ite2 | apply kept_foldl | apply kept_foldl2 | apply State.fset_kept) | split | (dsimp only))

theorem spareWire_kept {x0 x1 s2} (h2 : Kept q s2) : Kept q (spareWire x0 x1 s2) := by
  unfold spareWire
  try dsimp only
  repeat' (first | (with_reducible first | assumption | apply kept_ite | apply kept_ite2 | apply State.fadd_kept | apply State.fset_kept | apply pulse_kept | apply setEdgeState_kept | apply dropEdge_kept) | split | (dsimp only))

theorem retryCells_kept {x0 x1 x2 s3} (h3 : Kept q s3) : Kept q (retryCells x0 x1 x2 s3) := by
  induction x2 generalizing x0 x1 s3 with
  | nil =>
    unfold retryCells
    try dsimp only
    repeat' (first | (with_reducible first | assumption | apply kept_all) | (simp only [kept_mk]) | (with_reducible first | apply kept_ite | apply kept_ite2 | apply keptOpt_map | apply keptOpt_some | exact keptOpt_none | apply keptOpt_ite | apply kept_getD | apply tryEnter_kept | apply admitEgress_kept | apply admitMesh_kept) | split | (dsimp only) | (with_reducible first | refine kept_snd (by with_reducible assumption) ?_ | refine kept_some (by with_reducible assumption) ?_))
  | cons a l ih =>
    unfold retryCells
    try dsimp only
    repeat' (first | (with_reducible first | assumption | apply kept_all) | (simp only [kept_mk]) | (with_reducible first | apply kept_ite | apply kept_ite2 | apply keptOpt_map | apply keptOpt_some | exact keptOpt_none | apply keptOpt_ite | apply ih | apply kept_getD | apply tryEnter_kept | apply admitEgress_kept | apply admitMesh_kept) | split | (dsimp only) | (with_reducible first | refine kept_snd (by with_reducible assumption) ?_ | refine kept_some (by with_reducible assumption) ?_))

theorem admitRetry_kept {x0 x1 s2} (h2 : Kept q s2) : Kept q (admitRetry x0 x1 s2) := by
  unfold admitRetry
  try dsimp only
  repeat' (first | (with_reducible first | assumption | apply kept_all) | (simp only [kept_mk]) | (with_reducible apply retryCells_kept))

theorem meshSelect_kept {x0 x1 x2 s3} (h3 : Kept q s3) : Kept q (meshSelect x0 x1 x2 s3) := by
  unfold meshSelect
  try dsimp only
  repeat' (first | (with_reducible first | assumption | apply kept_ite | apply kept_ite2 | apply meshPick_kept | apply startOn_kept | apply State.addTotal_kept) | split | (dsimp only) | (with_reducible first | refine kept_snd (by with_reducible assumption) ?_ | refine kept_some (by with_reducible assumption) ?_))

theorem execCellAdmitRetry_kept {x0 x1 x2 s3} (h3 : Kept q s3) : KeptOut q (execCellAdmitRetry x0 x1 x2 s3) := by
  unfold execCellAdmitRetry
  try dsimp only
  repeat' (first | (with_reducible first | assumption | apply keptOut_next | apply ok_kept | apply settle_kept | apply admitRetry_kept | apply State.upTo_kept))

theorem execGapTimeout_kept {x0 x1 x2 x3 x4 s5} (h5 : Kept q s5) : KeptOut q (execGapTimeout x0 x1 x2 x3 x4 s5) := by
  unfold execGapTimeout
  try dsimp only
  repeat' (first | (with_reducible first | assumption | apply kept_ite | apply kept_ite2 | apply keptOut_next | apply keptOut_ite | apply State.upTo_kept | apply ok_kept | apply settle_kept | apply gapTimeout_kept) | split | (dsimp only))

theorem execMeshHopReplay_kept {x0 x1 x2 s3} (h3 : Kept q s3) : KeptOut q (execMeshHopReplay x0 x1 x2 s3) := by
  unfold execMeshHopReplay
  try dsimp only
  repeat' (first | (with_reducible first | assumption | apply keptOut_next | apply ok_kept | apply State.fadd_kept | apply State.upTo_kept))

theorem execSkipNotice_kept {x0 x1 x2 x3 x4 s5} (h5 : Kept q s5) : KeptOut q (execSkipNotice x0 x1 x2 x3 x4 s5) := by
  unfold execSkipNotice
  try dsimp only
  repeat' (first | (with_reducible first | assumption | apply keptOut_next | apply ok_kept | apply settle_kept | apply skipNotice_kept | apply State.upTo_kept))

theorem execEgressSelect_kept {x0 x1 x2 s3} (h3 : Kept q s3) : KeptOut q (execEgressSelect x0 x1 x2 s3) := by
  unfold execEgressSelect
  try dsimp only
  repeat' (first | (with_reducible first | assumption | apply keptOut_next | apply ok_kept | apply settle_kept | apply egressSelect_kept | apply State.upTo_kept))

theorem execOverflowRefill_kept {x0 x1 x2 s3} (h3 : Kept q s3) : KeptOut q (execOverflowRefill x0 x1 x2 s3) := by
  unfold execOverflowRefill
  try dsimp only
  repeat' (first | (with_reducible first | assumption | apply keptOut_next | apply ok_kept | apply settle_kept | apply overflowRefill_kept | apply State.upTo_kept))

theorem execMeshHeldResend_kept {x0 x1 x2 s3} (h3 : Kept q s3) : KeptOut q (execMeshHeldResend x0 x1 x2 s3) := by
  unfold execMeshHeldResend
  try dsimp only
  repeat' (first | (with_reducible first | assumption | apply keptOut_next | apply ok_kept | apply heldResend_kept | apply State.upTo_kept))

theorem execMeshEdgeUp_kept {x0 x1 x2 s3} (h3 : Kept q s3) : KeptOut q (execMeshEdgeUp x0 x1 x2 s3) := by
  unfold execMeshEdgeUp
  try dsimp only
  repeat' (first | (with_reducible first | assumption | apply keptOut_next | apply ok_kept | apply edgeBack_kept | apply State.upTo_kept))

theorem execMeshCellArrive_kept {x0 x1 x2 s3} (h3 : Kept q s3) : KeptOut q (execMeshCellArrive x0 x1 x2 s3) := by
  unfold execMeshCellArrive
  try dsimp only
  repeat' (first | (with_reducible first | assumption | apply keptOut_next | apply ok_kept | apply settle_kept | apply edgeArrive_kept | apply State.upTo_kept))

theorem execMeshSpareWireTrained_kept {x0 x1 x2 s3} (h3 : Kept q s3) : KeptOut q (execMeshSpareWireTrained x0 x1 x2 s3) := by
  unfold execMeshSpareWireTrained
  try dsimp only
  repeat' (first | (with_reducible first | assumption | apply keptOut_next | apply ok_kept | apply spareWire_kept | apply State.upTo_kept))

theorem execMeshSpraySuspend_kept {x0 x1 x2 s3} (h3 : Kept q s3) : KeptOut q (execMeshSpraySuspend x0 x1 x2 s3) := by
  unfold execMeshSpraySuspend
  try dsimp only
  repeat' (first | (with_reducible first | assumption | apply keptOut_next | apply ok_kept | apply spraySuspend_kept | apply State.upTo_kept))

theorem execReleaseNotice_kept {x0 x1 x2 x3 x4 s5} (h5 : Kept q s5) : KeptOut q (execReleaseNotice x0 x1 x2 x3 x4 s5) := by
  unfold execReleaseNotice
  try dsimp only
  repeat' (first | (with_reducible first | assumption | apply keptOut_next | apply ok_kept | apply settle_kept | apply releaseNotice_kept | apply State.upTo_kept))

theorem execMeshEdgeSelect_kept {x0 x1 x2 x3 s4} (h4 : Kept q s4) : KeptOut q (execMeshEdgeSelect x0 x1 x2 x3 s4) := by
  unfold execMeshEdgeSelect
  try dsimp only
  repeat' (first | (with_reducible first | assumption | apply keptOut_next | apply ok_kept | apply settle_kept | apply meshSelect_kept | apply State.upTo_kept))

theorem execMeshWheelBoundary_kept {x0 s1} (h1 : Kept q s1) : KeptOut q (execMeshWheelBoundary x0 s1) := by
  unfold execMeshWheelBoundary
  try dsimp only
  repeat' (first | (with_reducible first | assumption | apply keptOut_next | apply ok_kept | apply wheelBoundary_kept | apply State.upTo_kept))

theorem execMeshWireFail_kept {x0 x1 x2 s3} (h3 : Kept q s3) : KeptOut q (execMeshWireFail x0 x1 x2 s3) := by
  unfold execMeshWireFail
  try dsimp only
  repeat' (first | (with_reducible first | assumption | apply keptOut_next | apply ok_kept | apply wireFail_kept | apply State.upTo_kept))

theorem execGapTimerResume_kept {x0 x1 x2 s3} (h3 : Kept q s3) : KeptOut q (execGapTimerResume x0 x1 x2 s3) := by
  unfold execGapTimerResume
  try dsimp only
  repeat' (first | (with_reducible first | assumption | apply keptOut_next | apply ok_kept | apply gapResume_kept | apply State.upTo_kept))

theorem arriveSubmit_kept {x0 x1 x2 s3} (h3 : Kept q s3) : Kept q (arriveSubmit x0 x1 x2 s3) := by
  unfold arriveSubmit
  try dsimp only
  repeat' (first | (with_reducible first | assumption | apply kept_ite | apply kept_ite2 | apply endReq_kept | apply addLoad_kept) | split | (dsimp only) | (with_reducible first | refine kept_snd (by with_reducible assumption) ?_ | refine kept_some (by with_reducible assumption) ?_))

theorem arriveLedger_kept {x0 x1 x2 x3 s4} (h4 : Kept q s4) : Kept q (arriveLedger x0 x1 x2 x3 s4) := by
  unfold arriveLedger
  try dsimp only
  repeat' (first | (with_reducible first | assumption | apply kept_ite | apply kept_ite2 | apply endReq_kept | apply seqAdd_kept | apply State.addTxn_kept) | split | (dsimp only) | (with_reducible first | refine kept_snd (by with_reducible assumption) ?_ | refine kept_some (by with_reducible assumption) ?_))

theorem arriveMsg_kept {x0 x1 x2 x3 x4 s5} (h5 : Kept q s5) : Kept q (arriveMsg x0 x1 x2 x3 x4 s5) := by
  unfold arriveMsg
  try dsimp only
  repeat' (first | (with_reducible first | assumption | apply endReq_kept | apply sendMessage_kept) | split | (dsimp only) | (with_reducible first | refine kept_snd (by with_reducible assumption) ?_ | refine kept_some (by with_reducible assumption) ?_))

theorem serveRequest_kept {x0 x1 x2 s3} (h3 : Kept q s3) : Kept q (serveRequest x0 x1 x2 s3) := by
  unfold serveRequest
  try dsimp only
  repeat' (first | (with_reducible first | assumption | apply kept_ite | apply kept_ite2 | apply endReq_kept | apply serveMem_kept | apply serveInval_kept | apply serveSubscribe_kept | apply serveUnsubscribe_kept | apply servePrepare_kept | apply servePublish_kept | apply serveOpen_kept | apply serveClose_kept | apply serveCoh_kept | apply arriveSubmit_kept | apply arriveLedger_kept | apply arriveMsg_kept) | split | (dsimp only) | (with_reducible first | refine kept_snd (by with_reducible assumption) ?_ | refine kept_some (by with_reducible assumption) ?_))

theorem arriveSeg_kept {x0 x1 x2 x3 x4 x5 x6 x7 s8} (h8 : Kept q s8) : Kept q (arriveSeg x0 x1 x2 x3 x4 x5 x6 x7 s8) := by
  unfold arriveSeg
  try dsimp only
  repeat' (first | (with_reducible first | assumption | apply kept_all) | (intro _) | (simp only [kept_mk]) | (with_reducible first | apply kept_ite | apply kept_ite2 | apply kept_getD | apply serveRequest_kept) | split | (dsimp only))

theorem takeArrival_kept {x0 x1 s2} (h2 : Kept q s2) : Kept q (takeArrival x0 x1 s2) := by
  unfold takeArrival
  try dsimp only
  repeat' (first | (with_reducible first | assumption | apply serveRequest_kept | apply response_kept | apply snoopAnswer_kept | apply invAck_kept | apply arriveSeg_kept) | split | (dsimp only) | (with_reducible first | refine kept_snd (by with_reducible assumption) ?_ | refine kept_some (by with_reducible assumption) ?_))

theorem leaveLanding_kept {x0 x1 x2 x3 s4} (h4 : Kept q s4) : Kept q (leaveLanding x0 x1 x2 x3 s4) := by
  unfold leaveLanding
  try dsimp only
  repeat' (first | (with_reducible first | assumption | apply takeArrival_kept | apply returnCredit_kept))

theorem land_kept {x0 x1 x2 x3 s4} (h4 : Kept q s4) : Kept q (land x0 x1 x2 x3 s4) := by
  unfold land
  try dsimp only
  repeat' (first | (with_reducible first | assumption | apply kept_all) | (simp only [kept_mk]) | (with_reducible first | apply kept_ite | apply kept_ite2 | apply leaveLanding_kept | apply police_kept | apply countHold_kept) | split | (dsimp only) | (with_reducible first | refine kept_snd (by with_reducible assumption) ?_ | refine kept_some (by with_reducible assumption) ?_))

theorem mismatchAnswer_kept {x0 x1 x2 x3 s4} (h4 : Kept q s4) : Kept q (mismatchAnswer x0 x1 x2 x3 s4) := by
  unfold mismatchAnswer
  try dsimp only
  repeat' (first | (with_reducible first | assumption | apply sendSlots_kept))

theorem arrive_kept {x0 x1 x2 x3 x4 s5} (h5 : Kept q s5) : Kept q (arrive x0 x1 x2 x3 x4 s5) := by
  unfold arrive
  try dsimp only
  repeat' (first | (with_reducible first | assumption | apply kept_ite | apply kept_ite2 | apply returnCredit_kept | apply State.fadd_kept | apply mismatchAnswer_kept | apply land_kept) | split | (dsimp only) | (with_reducible first | refine kept_snd (by with_reducible assumption) ?_ | refine kept_some (by with_reducible assumption) ?_))

theorem arriveReq_kept {x0 x1 x2 x3 x4 s5} (h5 : Kept q s5) : KeptOut q (arriveReq x0 x1 x2 x3 x4 s5) := by
  unfold arriveReq
  try dsimp only
  repeat' (first | (with_reducible first | assumption | apply keptOut_next | apply ok_kept | apply settle_kept | apply arrive_kept | apply State.upTo_kept))

theorem passHeld_kept {x0 s1} (h1 : Kept q s1) : Kept q (passHeld x0 s1) := by
  induction x0 generalizing s1 with
  | nil =>
    unfold passHeld
    try dsimp only
    repeat' (first | (with_reducible first | assumption | apply kept_all) | (simp only [kept_mk]) | (with_reducible first | apply kept_ite | apply kept_ite2 | apply leaveLanding_kept | apply police_kept) | split | (dsimp only) | (with_reducible first | refine kept_snd (by with_reducible assumption) ?_ | refine kept_some (by with_reducible assumption) ?_))
  | cons a l ih =>
    unfold passHeld
    try dsimp only
    repeat' (first | (with_reducible first | assumption | apply kept_all) | (simp only [kept_mk]) | (with_reducible first | apply kept_ite | apply kept_ite2 | apply ih | apply leaveLanding_kept | apply police_kept) | split | (dsimp only) | (with_reducible first | refine kept_snd (by with_reducible assumption) ?_ | refine kept_some (by with_reducible assumption) ?_))

theorem retryHeld_kept {s0} (h0 : Kept q s0) : Kept q (retryHeld s0) := by
  unfold retryHeld
  try dsimp only
  repeat' (first | (with_reducible first | assumption | apply kept_all) | (simp only [kept_mk]) | (with_reducible apply passHeld_kept))

theorem execT1Admit_kept {x0 x1 s2} (h2 : Kept q s2) : KeptOut q (execT1Admit x0 x1 s2) := by
  unfold execT1Admit
  try dsimp only
  repeat' (first | (with_reducible first | assumption | apply kept_ite | apply kept_ite2 | apply keptOut_next | apply keptOut_ite | apply State.upTo_kept | apply ok_kept | apply settle_kept | apply routeTxn_kept) | split | (dsimp only) | (with_reducible first | refine kept_snd (by with_reducible assumption) ?_ | refine kept_some (by with_reducible assumption) ?_))

theorem execLoad_kept {x0 x1 s2} (h2 : Kept q s2) : KeptOut q (execLoad x0 x1 s2) := by
  unfold execLoad
  try dsimp only
  repeat' (first | (with_reducible first | assumption | apply keptOut_next | apply arriveReq_kept))

theorem execStagingFill_kept {x0 x1 x2 x3 x4 x5 x6 x7 s8} (h8 : Kept q s8) : KeptOut q (execStagingFill x0 x1 x2 x3 x4 x5 x6 x7 s8) := by
  unfold execStagingFill
  try dsimp only
  repeat' (first | (with_reducible first | assumption | apply kept_ite | apply kept_ite2 | apply keptOut_next | apply keptOut_ite | apply ok_kept | apply settle_kept | apply arrive_kept | apply State.upTo_kept) | split | (dsimp only) | (with_reducible first | refine kept_snd (by with_reducible assumption) ?_ | refine kept_some (by with_reducible assumption) ?_))

theorem execHint_kept {x0 x1 x2 x3 s4} (h4 : Kept q s4) : KeptOut q (execHint x0 x1 x2 x3 s4) := by
  unfold execHint
  try dsimp only
  repeat' (first | (with_reducible first | assumption | apply keptOut_next | apply arriveReq_kept))

theorem execHomeHoldEnd_kept {x0 x1 s2} (h2 : Kept q s2) : KeptOut q (execHomeHoldEnd x0 x1 s2) := by
  unfold execHomeHoldEnd
  try dsimp only
  repeat' (first | (with_reducible first | assumption | apply kept_ite | apply kept_ite2 | apply keptOut_next | apply keptOut_ite | apply State.upTo_kept | apply ok_kept | apply settle_kept | apply State.delTxn_kept) | split | (dsimp only) | (with_reducible first | refine kept_snd (by with_reducible assumption) ?_ | refine kept_some (by with_reducible assumption) ?_))

theorem execUnitTimeout_kept {x0 x1 x2 x3 s4} (h4 : Kept q s4) : KeptOut q (execUnitTimeout x0 x1 x2 x3 s4) := by
  unfold execUnitTimeout
  try dsimp only
  repeat' (first | (with_reducible first | assumption | apply kept_all) | (simp only [kept_mk]) | (with_reducible first | apply kept_ite | apply kept_ite2 | apply keptOut_next | apply keptOut_ite | apply State.upTo_kept | apply ok_kept | apply settle_kept | apply endWaiters_kept) | split | (dsimp only) | (with_reducible first | refine kept_snd (by with_reducible assumption) ?_ | refine kept_some (by with_reducible assumption) ?_))

theorem execBlkWr_kept {x0 x1 x2 s3} (h3 : Kept q s3) : KeptOut q (execBlkWr x0 x1 x2 s3) := by
  unfold execBlkWr
  try dsimp only
  repeat' (first | (with_reducible first | assumption | apply keptOut_next | apply arriveReq_kept))

theorem execT2BucketRefill_kept {x0 s1} (h1 : Kept q s1) : KeptOut q (execT2BucketRefill x0 s1) := by
  unfold execT2BucketRefill
  try dsimp only
  repeat' (first | (with_reducible first | assumption | apply kept_all) | (simp only [kept_mk]) | (with_reducible first | apply keptOut_next | apply State.upTo_kept | apply whenever_kept | refine kept_snd (by with_reducible assumption) ?_ | refine kept_some (by with_reducible assumption) ?_))

theorem execUnitWr_kept {x0 x1 x2 s3} (h3 : Kept q s3) : KeptOut q (execUnitWr x0 x1 x2 s3) := by
  unfold execUnitWr
  try dsimp only
  repeat' (first | (with_reducible first | assumption | apply keptOut_next | apply arriveReq_kept))

theorem execTxnTimeout_kept {x0 x1 s2} (h2 : Kept q s2) : KeptOut q (execTxnTimeout x0 x1 s2) := by
  unfold execTxnTimeout
  try dsimp only
  repeat' (first | (with_reducible first | assumption | apply kept_ite | apply kept_ite2 | apply keptOut_next | apply keptOut_ite | apply State.upTo_kept | apply ok_kept | apply settle_kept | apply limitTxn_kept) | split | (dsimp only) | (with_reducible first | refine kept_snd (by with_reducible assumption) ?_ | refine kept_some (by with_reducible assumption) ?_))

theorem execGather_kept {x0 x1 x2 x3 x4 s5} (h5 : Kept q s5) : KeptOut q (execGather x0 x1 x2 x3 x4 s5) := by
  unfold execGather
  try dsimp only
  repeat' (first | (with_reducible first | assumption | apply keptOut_next | apply arriveReq_kept))

theorem execBlkRd_kept {x0 x1 x2 s3} (h3 : Kept q s3) : KeptOut q (execBlkRd x0 x1 x2 s3) := by
  unfold execBlkRd
  try dsimp only
  repeat' (first | (with_reducible first | assumption | apply keptOut_next | apply arriveReq_kept))

theorem execNarrowStore_kept {x0 x1 x2 s3} (h3 : Kept q s3) : KeptOut q (execNarrowStore x0 x1 x2 s3) := by
  unfold execNarrowStore
  try dsimp only
  repeat' (first | (with_reducible first | assumption | apply kept_ite | apply kept_ite2 | apply keptOut_next | apply keptOut_ite | apply arriveReq_kept | apply ok_kept | apply State.upTo_kept) | split | (dsimp only))

theorem execResponse_kept {x0 x1 x2 x3 x4 x5 x6 x7 s8} (h8 : Kept q s8) : KeptOut q (execResponse x0 x1 x2 x3 x4 x5 x6 x7 s8) := by
  unfold execResponse
  try dsimp only
  repeat' (first | (with_reducible first | assumption | apply keptOut_next | apply ok_kept | apply settle_kept | apply arrive_kept | apply State.upTo_kept))

theorem execUnitAssemblySend_kept {x0 x1 x2 x3 s4} (h4 : Kept q s4) : KeptOut q (execUnitAssemblySend x0 x1 x2 x3 s4) := by
  unfold execUnitAssemblySend
  try dsimp only
  repeat' (first | (with_reducible first | assumption | apply keptOut_next | apply ok_kept | apply settle_kept | apply sendUnit_kept | apply State.upTo_kept))

theorem execStore_kept {x0 x1 x2 s3} (h3 : Kept q s3) : KeptOut q (execStore x0 x1 x2 s3) := by
  unfold execStore
  try dsimp only
  repeat' (first | (with_reducible first | assumption | apply keptOut_next | apply arriveReq_kept))

theorem execTagRelease_kept {x0 x1 x2 s3} (h3 : Kept q s3) : KeptOut q (execTagRelease x0 x1 x2 s3) := by
  unfold execTagRelease
  try dsimp only
  repeat' (first | (with_reducible first | assumption | apply kept_all) | (simp only [kept_mk]) | (with_reducible first | apply keptOut_next | apply State.upTo_kept | apply ok_kept | apply settle_kept))

theorem execPageRd_kept {x0 x1 s2} (h2 : Kept q s2) : KeptOut q (execPageRd x0 x1 s2) := by
  unfold execPageRd
  try dsimp only
  repeat' (first | (with_reducible first | assumption | apply keptOut_next | apply arriveReq_kept))

theorem execUnitWrResponse_kept {x0 x1 x2 x3 x4 s5} (h5 : Kept q s5) : KeptOut q (execUnitWrResponse x0 x1 x2 x3 x4 s5) := by
  unfold execUnitWrResponse
  try dsimp only
  repeat' (first | (with_reducible first | assumption | apply kept_ite | apply kept_ite2 | apply keptOut_next | apply keptOut_ite | apply ok_kept | apply settle_kept | apply arrive_kept | apply State.upTo_kept) | split | (dsimp only) | (with_reducible first | refine kept_snd (by with_reducible assumption) ?_ | refine kept_some (by with_reducible assumption) ?_))

theorem execAtomic_kept {x0 x1 x2 x3 x4 x5 s6} (h6 : Kept q s6) : KeptOut q (execAtomic x0 x1 x2 x3 x4 x5 s6) := by
  unfold execAtomic
  try dsimp only
  repeat' (first | (with_reducible first | assumption | apply keptOut_next | apply arriveReq_kept))

theorem execPublishPoint_kept {x0 s1} (h1 : Kept q s1) : KeptOut q (execPublishPoint x0 s1) := by
  unfold execPublishPoint
  try dsimp only
  repeat' (first | (with_reducible first | assumption | apply kept_all) | (simp only [kept_mk]) | (with_reducible first | apply keptOut_next | apply State.upTo_kept | apply whenever_kept | apply settle_kept | apply publishAll_kept))

theorem execSubscribe_kept {x0 x1 s2} (h2 : Kept q s2) : KeptOut q (execSubscribe x0 x1 s2) := by
  unfold execSubscribe
  try dsimp only
  repeat' (first | (with_reducible first | assumption | apply keptOut_next | apply arriveReq_kept))

theorem execRspSData_kept {x0 x1 x2 x3 x4 s5} (h5 : Kept q s5) : KeptOut q (execRspSData x0 x1 x2 x3 x4 s5) := by
  unfold execRspSData
  try dsimp only
  repeat' (first | (with_reducible first | assumption | apply keptOut_next | apply ok_kept | apply settle_kept | apply arrive_kept | apply State.upTo_kept))

theorem execRdM_kept {x0 x1 s2} (h2 : Kept q s2) : KeptOut q (execRdM x0 x1 s2) := by
  unfold execRdM
  try dsimp only
  repeat' (first | (with_reducible first | assumption | apply keptOut_next | apply arriveReq_kept))

theorem execPrepare_kept {x0 x1 s2} (h2 : Kept q s2) : KeptOut q (execPrepare x0 x1 s2) := by
  unfold execPrepare
  try dsimp only
  repeat' (first | (with_reducible first | assumption | apply keptOut_next | apply arriveReq_kept))

theorem execRspS_kept {x0 x1 x2 x3 s4} (h4 : Kept q s4) : KeptOut q (execRspS x0 x1 x2 x3 s4) := by
  unfold execRspS
  try dsimp only
  repeat' (first | (with_reducible first | assumption | apply keptOut_next | apply ok_kept | apply settle_kept | apply arrive_kept | apply State.upTo_kept))

theorem execInvLimitExpiry_kept {x0 x1 s2} (h2 : Kept q s2) : KeptOut q (execInvLimitExpiry x0 x1 s2) := by
  unfold execInvLimitExpiry
  try dsimp only
  repeat' (first | (with_reducible first | assumption | apply keptOut_next | apply State.upTo_kept | apply whenever_kept | apply settle_kept | apply invExpire_kept | apply ok_kept) | split | (dsimp only) | (with_reducible first | refine kept_snd (by with_reducible assumption) ?_ | refine kept_some (by with_reducible assumption) ?_))

theorem execUpg_kept {x0 x1 s2} (h2 : Kept q s2) : KeptOut q (execUpg x0 x1 s2) := by
  unfold execUpg
  try dsimp only
  repeat' (first | (with_reducible first | assumption | apply keptOut_next | apply arriveReq_kept))

theorem execMemberRetrainLimit_kept {x0 x1 s2} (h2 : Kept q s2) : KeptOut q (execMemberRetrainLimit x0 x1 s2) := by
  unfold execMemberRetrainLimit
  try dsimp only
  repeat' (first | (with_reducible first | assumption | apply keptOut_next | apply State.upTo_kept | apply whenever_kept | apply settle_kept | apply memberLost_kept | apply ok_kept) | split | (dsimp only) | (with_reducible first | refine kept_snd (by with_reducible assumption) ?_ | refine kept_some (by with_reducible assumption) ?_))

theorem execUnsubscribe_kept {x0 x1 s2} (h2 : Kept q s2) : KeptOut q (execUnsubscribe x0 x1 s2) := by
  unfold execUnsubscribe
  try dsimp only
  repeat' (first | (with_reducible first | assumption | apply keptOut_next | apply arriveReq_kept))

theorem execSequencerAdmit_kept {x0 x1 s2} (h2 : Kept q s2) : KeptOut q (execSequencerAdmit x0 x1 s2) := by
  unfold execSequencerAdmit
  try dsimp only
  repeat' (first | (with_reducible first | assumption | apply keptOut_next | apply State.upTo_kept | apply whenever_kept | apply settle_kept | apply positionOp_kept))

theorem execSnoopLimitExpiry_kept {x0 s1} (h1 : Kept q s1) : KeptOut q (execSnoopLimitExpiry x0 s1) := by
  unfold execSnoopLimitExpiry
  try dsimp only
  repeat' (first | (with_reducible first | assumption | apply keptOut_next | apply State.upTo_kept | apply ok_kept | apply settle_kept | apply domainDown_kept) | split | (dsimp only) | (with_reducible first | refine kept_snd (by with_reducible assumption) ?_ | refine kept_some (by with_reducible assumption) ?_))

theorem execRdS_kept {x0 x1 s2} (h2 : Kept q s2) : KeptOut q (execRdS x0 x1 s2) := by
  unfold execRdS
  try dsimp only
  repeat' (first | (with_reducible first | assumption | apply keptOut_next | apply arriveReq_kept))

theorem execRspI_kept {x0 x1 x2 x3 s4} (h4 : Kept q s4) : KeptOut q (execRspI x0 x1 x2 x3 s4) := by
  unfold execRspI
  try dsimp only
  repeat' (first | (with_reducible first | assumption | apply keptOut_next | apply ok_kept | apply settle_kept | apply arrive_kept | apply State.upTo_kept))

theorem execDirectoryWaitTimeout_kept {x0 x1 s2} (h2 : Kept q s2) : KeptOut q (execDirectoryWaitTimeout x0 x1 s2) := by
  unfold execDirectoryWaitTimeout
  try dsimp only
  repeat' (first | (with_reducible first | assumption | apply kept_ite | apply kept_ite2 | apply keptOut_next | apply keptOut_ite | apply State.upTo_kept | apply ok_kept | apply settle_kept | apply timeoutTxn_kept) | split | (dsimp only) | (with_reducible first | refine kept_snd (by with_reducible assumption) ?_ | refine kept_some (by with_reducible assumption) ?_))

theorem execWb_kept {x0 x1 x2 s3} (h3 : Kept q s3) : KeptOut q (execWb x0 x1 x2 s3) := by
  unfold execWb
  try dsimp only
  repeat' (first | (with_reducible first | assumption | apply keptOut_next | apply arriveReq_kept))

theorem execInvAck_kept {x0 x1 x2 x3 s4} (h4 : Kept q s4) : KeptOut q (execInvAck x0 x1 x2 x3 s4) := by
  unfold execInvAck
  try dsimp only
  repeat' (first | (with_reducible first | assumption | apply keptOut_next | apply ok_kept | apply settle_kept | apply arrive_kept | apply State.upTo_kept))

theorem execDomainResetDone_kept {x0 x1 s2} (h2 : Kept q s2) : KeptOut q (execDomainResetDone x0 x1 s2) := by
  unfold execDomainResetDone
  try dsimp only
  repeat' (first | (with_reducible first | assumption | apply keptOut_next | apply State.upTo_kept | apply whenever_kept | apply settle_kept | apply domainUp_kept))

theorem execPublish_kept {x0 x1 s2} (h2 : Kept q s2) : KeptOut q (execPublish x0 x1 s2) := by
  unfold execPublish
  try dsimp only
  repeat' (first | (with_reducible first | assumption | apply keptOut_next | apply arriveReq_kept))

theorem execInval_kept {x0 x1 x2 s3} (h3 : Kept q s3) : KeptOut q (execInval x0 x1 x2 s3) := by
  unfold execInval
  try dsimp only
  repeat' (first | (with_reducible first | assumption | apply keptOut_next | apply arriveReq_kept))

theorem execPrepareTimeout_kept {x0 x1 s2} (h2 : Kept q s2) : KeptOut q (execPrepareTimeout x0 x1 s2) := by
  unfold execPrepareTimeout
  try dsimp only
  repeat' (first | (with_reducible first | assumption | apply kept_ite | apply kept_ite2 | apply keptOut_next | apply keptOut_ite | apply State.upTo_kept | apply ok_kept | apply settle_kept | apply timeoutTxn_kept) | split | (dsimp only) | (with_reducible first | refine kept_snd (by with_reducible assumption) ?_ | refine kept_some (by with_reducible assumption) ?_))

theorem execRspIData_kept {x0 x1 x2 x3 x4 s5} (h5 : Kept q s5) : KeptOut q (execRspIData x0 x1 x2 x3 x4 s5) := by
  unfold execRspIData
  try dsimp only
  repeat' (first | (with_reducible first | assumption | apply keptOut_next | apply ok_kept | apply settle_kept | apply arrive_kept | apply State.upTo_kept))

theorem execOpenRegion_kept {x0 x1 s2} (h2 : Kept q s2) : KeptOut q (execOpenRegion x0 x1 s2) := by
  unfold execOpenRegion
  try dsimp only
  repeat' (first | (with_reducible first | assumption | apply keptOut_next | apply arriveReq_kept))

theorem execCloseRegion_kept {x0 x1 s2} (h2 : Kept q s2) : KeptOut q (execCloseRegion x0 x1 s2) := by
  unfold execCloseRegion
  try dsimp only
  repeat' (first | (with_reducible first | assumption | apply keptOut_next | apply arriveReq_kept))

theorem execEvict_kept {x0 x1 s2} (h2 : Kept q s2) : KeptOut q (execEvict x0 x1 s2) := by
  unfold execEvict
  try dsimp only
  repeat' (first | (with_reducible first | assumption | apply keptOut_next | apply arriveReq_kept))

theorem execSequencerHold_kept {x0 s1} (h1 : Kept q s1) : KeptOut q (execSequencerHold x0 s1) := by
  unfold execSequencerHold
  try dsimp only
  repeat' (first | (with_reducible first | assumption | apply keptOut_next | apply ok_kept | apply settle_kept | apply holdOp_kept | apply State.upTo_kept))

theorem execDomainResetPoison_kept {x0 x1 s2} (h2 : Kept q s2) : KeptOut q (execDomainResetPoison x0 x1 s2) := by
  unfold execDomainResetPoison
  try dsimp only
  repeat' (first | (with_reducible first | assumption | apply keptOut_next | apply State.upTo_kept | apply whenever_kept | apply settle_kept | apply domainSweep_kept))

theorem execPublishForward_kept {x0 x1 s2} (h2 : Kept q s2) : KeptOut q (execPublishForward x0 x1 s2) := by
  unfold execPublishForward
  try dsimp only
  repeat' (first | (with_reducible first | assumption | apply kept_ite | apply kept_ite2 | apply keptOut_next | apply keptOut_ite | apply State.upTo_kept | apply ok_kept | apply settle_kept | apply publishForward_kept) | split | (dsimp only) | (with_reducible first | refine kept_snd (by with_reducible assumption) ?_ | refine kept_some (by with_reducible assumption) ?_))

theorem refillAll_kept {s0} (h0 : Kept q s0) : Kept q (refillAll s0) := by
  unfold refillAll
  try dsimp only
  repeat' (first | (with_reducible assumption) | (intro _) | (with_reducible first | apply kept_foldl | apply kept_foldl2 | apply refillPort_kept | apply refillClr_kept))

theorem countHolds_kept {s0} (h0 : Kept q s0) : Kept q (countHolds s0) := by
  unfold countHolds
  try dsimp only
  repeat' (first | (with_reducible assumption) | (intro _) | (with_reducible first | apply kept_foldl | apply kept_foldl2 | apply countHold_kept))

theorem execShaperRefill_kept {x0 s1} (h1 : Kept q s1) : KeptOut q (execShaperRefill x0 s1) := by
  unfold execShaperRefill
  try dsimp only
  repeat' (first | (with_reducible first | assumption | apply kept_all) | (simp only [kept_mk]) | (with_reducible first | apply keptOut_next | apply State.upTo_kept | apply whenever_kept | apply settle_kept | apply retryHeld_kept | apply refillAll_kept | apply countHolds_kept))

theorem execGateEntryEnd_kept {x0 x1 s2} (h2 : Kept q s2) : KeptOut q (execGateEntryEnd x0 x1 s2) := by
  unfold execGateEntryEnd
  try dsimp only
  repeat' (first | (with_reducible first | assumption | apply keptOut_next | apply ok_kept | apply settle_kept | apply gateTick_kept | apply State.upTo_kept))

theorem execGateSwitch_kept {x0 x1 s2} (h2 : Kept q s2) : KeptOut q (execGateSwitch x0 x1 s2) := by
  unfold execGateSwitch
  try dsimp only
  repeat' (first | (with_reducible first | assumption | apply keptOut_next | apply State.upTo_kept | apply whenever_kept | apply settle_kept | apply gateSwitch_kept | apply ok_kept) | split | (dsimp only) | (with_reducible first | refine kept_snd (by with_reducible assumption) ?_ | refine kept_some (by with_reducible assumption) ?_))

theorem takeAck_kept {x0 x1 s2} (h2 : Kept q s2) : Kept q (takeAck x0 x1 s2) := by
  unfold takeAck
  try dsimp only
  repeat' (first | (with_reducible first | assumption | apply drainWait_kept | apply State.setLport_kept) | split | (dsimp only) | (with_reducible first | refine kept_snd (by with_reducible assumption) ?_ | refine kept_some (by with_reducible assumption) ?_))

theorem takeCredit_kept {x0 x1 x2 s3} (h3 : Kept q s3) : Kept q (takeCredit x0 x1 x2 s3) := by
  unfold takeCredit
  try dsimp only
  repeat' (first | (with_reducible first | assumption | apply kept_ite | apply kept_ite2 | apply State.setLport_kept) | split | (dsimp only))

theorem receiveParams_kept {x0 x1 x2 x3 x4 s5} (h5 : Kept q s5) : Kept q (receiveParams x0 x1 x2 x3 x4 s5) := by
  unfold receiveParams
  try dsimp only
  repeat' (first | (with_reducible first | assumption | apply kept_ite | apply kept_ite2 | apply State.fset_kept | apply linkDown_kept | apply State.setLport_kept) | split | (dsimp only) | (with_reducible first | refine kept_snd (by with_reducible assumption) ?_ | refine kept_some (by with_reducible assumption) ?_))

theorem receiveNotice_kept {x0 s1} (h1 : Kept q s1) : Kept q (receiveNotice x0 s1) := by
  unfold receiveNotice
  try dsimp only
  repeat' (first | (with_reducible first | assumption | apply kept_ite | apply kept_ite2 | apply State.setLport_kept) | split | (dsimp only))

theorem receiveKeySwitch_kept {x0 x1 s2} (h2 : Kept q s2) : Kept q (receiveKeySwitch x0 x1 s2) := by
  unfold receiveKeySwitch
  try dsimp only
  repeat' (first | (with_reducible first | assumption | apply kept_ite | apply kept_ite2 | apply sendLinkMsg_kept | apply State.setLport_kept) | split | (dsimp only))

theorem receiveKeyAck_kept {x0 x1 s2} (h2 : Kept q s2) : Kept q (receiveKeyAck x0 x1 s2) := by
  unfold receiveKeyAck
  try dsimp only
  repeat' (first | (with_reducible first | assumption | apply kept_ite | apply kept_ite2 | apply State.setLport_kept) | split | (dsimp only))

theorem receiveSpdm_kept {x0 x1 x2 x3 s4} (h4 : Kept q s4) : Kept q (receiveSpdm x0 x1 x2 x3 s4) := by
  unfold receiveSpdm
  try dsimp only
  repeat' (first | (with_reducible first | assumption | apply kept_all) | (simp only [kept_mk]) | (with_reducible first | apply kept_ite | apply kept_ite2 | apply State.setLport_kept) | split | (dsimp only) | (with_reducible first | refine kept_snd (by with_reducible assumption) ?_ | refine kept_some (by with_reducible assumption) ?_))

theorem receiveMessage_kept {x0 x1 s2} (h2 : Kept q s2) : Kept q (receiveMessage x0 x1 s2) := by
  unfold receiveMessage
  try dsimp only
  repeat' (first | (with_reducible first | assumption | apply receiveParams_kept | apply receiveHold_kept | apply receiveNotice_kept | apply receiveKeySwitch_kept | apply receiveKeyAck_kept | apply receiveSpdm_kept | apply State.fadd_kept) | split | (dsimp only) | (with_reducible first | refine kept_snd (by with_reducible assumption) ?_ | refine kept_some (by with_reducible assumption) ?_))

theorem takeSlots_kept {x0 s1} (h1 : Kept q s1) : Kept q (takeSlots x0 s1) := by
  unfold takeSlots
  try dsimp only
  repeat' (first | (with_reducible first | assumption | apply kept_ite | apply kept_ite2 | apply State.setLport_kept | apply arrive_kept) | split | (dsimp only) | (with_reducible first | refine kept_snd (by with_reducible assumption) ?_ | refine kept_some (by with_reducible assumption) ?_))

theorem rxSlot_kept {x0 x1 x2 s3} (h3 : Kept q s3) : Kept q (rxSlot x0 x1 x2 s3) := by
  unfold rxSlot
  try dsimp only
  repeat' (first | (with_reducible first | assumption | apply kept_ite | apply kept_ite2 | apply State.setLport_kept | apply takeSlots_kept | apply State.fadd_kept) | split | (dsimp only))

theorem rxSlots_kept {x0 x1 s2} (h2 : Kept q s2) : Kept q (rxSlots x0 x1 s2) := by
  induction x1 generalizing x0 s2 with
  | nil =>
    unfold rxSlots
    try dsimp only
    repeat' (first | (with_reducible first | assumption | apply rxSlot_kept) | split | (dsimp only) | (with_reducible first | refine kept_snd (by with_reducible assumption) ?_ | refine kept_some (by with_reducible assumption) ?_))
  | cons a l ih =>
    unfold rxSlots
    try dsimp only
    repeat' (first | (with_reducible first | assumption | apply ih | apply rxSlot_kept) | split | (dsimp only) | (with_reducible first | refine kept_snd (by with_reducible assumption) ?_ | refine kept_some (by with_reducible assumption) ?_))

theorem closeGroup_kept {x0 x1 x2 s3} (h3 : Kept q s3) : Kept q (closeGroup x0 x1 x2 s3) := by
  unfold closeGroup
  try dsimp only
  repeat' (first | (with_reducible assumption) | (intro _) | (with_reducible first | apply kept_ite | apply kept_ite2 | apply kept_getD | apply State.setLport_kept | apply rxSlots_kept | apply linkDown_kept | apply State.fadd_kept) | split | (dsimp only) | (with_reducible first | refine kept_snd (by with_reducible assumption) ?_ | refine kept_some (by with_reducible assumption) ?_))

theorem rxPayload_kept {x0 x1 s2} (h2 : Kept q s2) : Kept q (rxPayload x0 x1 s2) := by
  unfold rxPayload
  try dsimp only
  repeat' (first | (with_reducible first | assumption | apply kept_ite | apply kept_ite2 | apply closeGroup_kept | apply State.setLport_kept | apply rxSlots_kept) | split | (dsimp only))

theorem rxGood_kept {x0 x1 x2 s3} (h3 : Kept q s3) : Kept q (rxGood x0 x1 x2 s3) := by
  unfold rxGood
  try dsimp only
  repeat' (first | (with_reducible first | assumption | apply kept_ite | apply kept_ite2 | apply takeAck_kept | apply takeCredit_kept | apply startReplay_kept | apply State.fadd_kept | apply State.setLport_kept | apply receiveMessage_kept | apply rxPayload_kept) | split | (dsimp only) | (with_reducible first | refine kept_snd (by with_reducible assumption) ?_ | refine kept_some (by with_reducible assumption) ?_))

theorem sendKeySwitch_kept {x0 s1} (h1 : Kept q s1) : Kept q (sendKeySwitch x0 s1) := by
  unfold sendKeySwitch
  try dsimp only
  repeat' (first | (with_reducible first | assumption | apply kept_ite | apply kept_ite2 | apply sendLinkMsg_kept | apply State.setLport_kept) | split | (dsimp only))

theorem sendIdle_kept {x0 s1} (h1 : Kept q s1) : Kept q (sendIdle x0 s1) := by
  unfold sendIdle
  try dsimp only
  repeat' (first | (with_reducible first | assumption | apply transmit_kept))

theorem receiveFlit_kept {x0 x1 x2 s3} (h3 : Kept q s3) : Kept q (receiveFlit x0 x1 x2 s3) := by
  unfold receiveFlit
  try dsimp only
  repeat' (first | (with_reducible first | assumption | apply kept_ite | apply kept_ite2 | apply State.fadd_kept | apply State.setLport_kept | apply rxGood_kept | apply State.addTotal_kept | apply sendIdle_kept) | split | (dsimp only))

theorem sendParams_kept {x0 s1} (h1 : Kept q s1) : Kept q (sendParams x0 s1) := by
  unfold sendParams
  try dsimp only
  repeat' (first | (with_reducible first | assumption | apply State.emit_kept))

theorem setPower_kept {x0 x1 s2} (h2 : Kept q s2) : Kept q (setPower x0 x1 s2) := by
  unfold setPower
  try dsimp only
  repeat' (first | (with_reducible first | assumption | apply kept_ite | apply kept_ite2 | apply State.fset_kept | apply State.setLane_kept) | split | (dsimp only))

theorem spareFails_kept {x0 s1} (h1 : Kept q s1) : Kept q (spareFails x0 s1) := by
  unfold spareFails
  try dsimp only
  repeat' (first | (with_reducible first | assumption | apply State.fset_kept | apply freeSpareLane_kept | apply State.setLane_kept) | split | (dsimp only) | (with_reducible first | refine kept_snd (by with_reducible assumption) ?_ | refine kept_some (by with_reducible assumption) ?_))

theorem setPaused_kept {x0 x1 s2} (h2 : Kept q s2) : Kept q (setPaused x0 x1 s2) := by
  unfold setPaused
  try dsimp only
  repeat' (first | (with_reducible first | assumption | apply State.setLport_kept))

theorem tellLanes_kept {x0 x1 x2 x3 x4 s5} (h5 : Kept q s5) : Kept q (tellLanes x0 x1 x2 x3 x4 s5) := by
  unfold tellLanes
  try dsimp only
  repeat' (first | (with_reducible assumption) | (intro _) | (with_reducible first | apply kept_foldl | apply kept_foldl2 | apply sendLane_kept))

theorem askSpare_kept {x0 x1 x2 x3 s4} (h4 : Kept q s4) : Kept q (askSpare x0 x1 x2 x3 s4) := by
  unfold askSpare
  try dsimp only
  repeat' (first | (with_reducible first | assumption | apply State.fset_kept | apply setPaused_kept | apply State.setLane_kept | apply sendLane_kept | apply tellLanes_kept))

theorem narrowOrDown_kept {x0 x1 s2} (h2 : Kept q s2) : Kept q (narrowOrDown x0 x1 s2) := by
  unfold narrowOrDown
  try dsimp only
  repeat' (first | (with_reducible first | assumption | apply kept_ite | apply kept_ite2 | apply tellLanes_kept | apply setPaused_kept | apply State.setLane_kept | apply linkDown_kept) | split | (dsimp only))

theorem failLane_kept {x0 s1} (h1 : Kept q s1) : Kept q (failLane x0 s1) := by
  unfold failLane
  try dsimp only
  repeat' (first | (with_reducible assumption) | (intro _) | (with_reducible first | apply kept_ite | apply kept_ite2 | apply kept_foldl | apply kept_foldl2 | apply abandonSwap_kept | apply State.fset_kept | apply spareFails_kept | apply State.setLport_kept | apply askSpare_kept | apply narrowOrDown_kept) | split | (dsimp only) | (with_reducible first | refine kept_snd (by with_reducible assumption) ?_ | refine kept_some (by with_reducible assumption) ?_))

theorem loseLight_kept {x0 x1 s2} (h2 : Kept q s2) : Kept q (loseLight x0 x1 s2) := by
  unfold loseLight
  try dsimp only
  repeat' (first | (with_reducible first | assumption | apply kept_ite | apply kept_ite2 | apply setPower_kept | apply linkFalls_kept | apply State.setLane_kept | apply failLane_kept) | split | (dsimp only) | (with_reducible first | refine kept_snd (by with_reducible assumption) ?_ | refine kept_some (by with_reducible assumption) ?_))

theorem laneMoved_kept {x0 s1} (h1 : Kept q s1) : Kept q (laneMoved x0 s1) := by
  unfold laneMoved
  try dsimp only
  repeat' (first | (with_reducible first | assumption | apply State.emit_kept | apply State.fadd_kept))

theorem swapResume_kept {x0 s1} (h1 : Kept q s1) : Kept q (swapResume x0 s1) := by
  unfold swapResume
  try dsimp only
  repeat' (first | (with_reducible first | assumption | apply kept_ite | apply kept_ite2 | apply laneMoved_kept | apply resend_kept | apply setPaused_kept) | split | (dsimp only))

theorem keyLifeWritten_kept {x0 s1} (h1 : Kept q s1) : Kept q (keyLifeWritten x0 s1) := by
  unfold keyLifeWritten
  try dsimp only
  repeat' (first | (with_reducible assumption) | (intro _) | (with_reducible first | apply kept_foldl | apply kept_foldl2 | apply sendKeySwitch_kept))

theorem narrow_kept {x0 s1} (h1 : Kept q s1) : Kept q (narrow x0 s1) := by
  unfold narrow
  try dsimp only
  repeat' (first | (with_reducible first | assumption | apply laneMoved_kept | apply resend_kept | apply setPaused_kept | apply State.fset_kept | apply linkDown_kept) | split | (dsimp only) | (with_reducible first | refine kept_snd (by with_reducible assumption) ?_ | refine kept_some (by with_reducible assumption) ?_))

theorem trainingDone_kept {x0 s1} (h1 : Kept q s1) : Kept q (trainingDone x0 s1) := by
  unfold trainingDone
  try dsimp only
  repeat' (first | (with_reducible first | assumption | apply kept_all) | (simp only [kept_mk]) | (with_reducible first | apply kept_ite | apply kept_ite2 | apply State.fset_kept | apply State.setLport_kept | apply becomeActive_kept) | split | (dsimp only))

theorem enablePort_kept {x0 x1 s2} (h2 : Kept q s2) : Kept q (enablePort x0 x1 s2) := by
  unfold enablePort
  try dsimp only
  repeat' (first | (with_reducible first | assumption | apply kept_all) | (intro _) | (simp only [kept_mk]) | (with_reducible first | apply kept_ite | apply kept_ite2 | apply kept_foldl | apply kept_foldl2 | apply linkDown_kept) | split | (dsimp only))

theorem spareTrained_kept {x0 x1 x2 x3 s4} (h4 : Kept q s4) : Kept q (spareTrained x0 x1 x2 x3 s4) := by
  unfold spareTrained
  try dsimp only
  repeat' (first | (with_reducible first | assumption | apply kept_ite | apply kept_ite2 | apply State.fset_kept | apply State.setLane_kept) | split | (dsimp only))

theorem moveToSpare_kept {x0 x1 s2} (h2 : Kept q s2) : Kept q (moveToSpare x0 x1 s2) := by
  unfold moveToSpare
  try dsimp only
  repeat' (first | (with_reducible first | assumption | apply State.setLane_kept | apply State.fset_kept))

theorem spareAck_kept {x0 s1} (h1 : Kept q s1) : Kept q (spareAck x0 s1) := by
  unfold spareAck
  try dsimp only
  repeat' (first | (with_reducible first | assumption | apply kept_ite | apply kept_ite2 | apply moveToSpare_kept | apply laneMoved_kept | apply drainWait_kept | apply setPaused_kept) | split | (dsimp only) | (with_reducible first | refine kept_snd (by with_reducible assumption) ?_ | refine kept_some (by with_reducible assumption) ?_))

theorem spareReq_kept {x0 x1 s2} (h2 : Kept q s2) : Kept q (spareReq x0 x1 s2) := by
  unfold spareReq
  try dsimp only
  repeat' (first | (with_reducible first | assumption | apply kept_ite | apply kept_ite2 | apply abandonSwap_kept | apply sendLane_kept | apply setPaused_kept | apply State.fset_kept | apply moveToSpare_kept) | split | (dsimp only) | (with_reducible first | refine kept_snd (by with_reducible assumption) ?_ | refine kept_some (by with_reducible assumption) ?_))

theorem lightUp_kept {x0 x1 s2} (h2 : Kept q s2) : Kept q (lightUp x0 x1 s2) := by
  unfold lightUp
  try dsimp only
  repeat' (first | (with_reducible assumption) | (intro _) | (with_reducible first | apply kept_ite | apply kept_ite2 | apply kept_foldl | apply kept_foldl2 | apply takeMode_kept | apply setPower_kept | apply startTraining_kept) | split | (dsimp only))

theorem degradeLane_kept {x0 s1} (h1 : Kept q s1) : Kept q (degradeLane x0 s1) := by
  unfold degradeLane
  try dsimp only
  repeat' (first | (with_reducible first | assumption | apply kept_ite | apply kept_ite2 | apply askSpare_kept | apply State.fset_kept) | split | (dsimp only) | (with_reducible first | refine kept_snd (by with_reducible assumption) ?_ | refine kept_some (by with_reducible assumption) ?_))

theorem recalDone_kept {x0 x1 s2} (h2 : Kept q s2) : Kept q (recalDone x0 x1 s2) := by
  unfold recalDone
  try dsimp only
  repeat' (first | (with_reducible first | assumption | apply kept_ite | apply kept_ite2 | apply State.fset_kept | apply State.setLane_kept | apply tellLanes_kept) | split | (dsimp only) | (with_reducible first | refine kept_snd (by with_reducible assumption) ?_ | refine kept_some (by with_reducible assumption) ?_))

theorem setRecal_kept {x0 x1 s2} (h2 : Kept q s2) : Kept q (setRecal x0 x1 s2) := by
  unfold setRecal
  try dsimp only
  repeat' (first | (with_reducible first | assumption | apply State.fset_kept | apply State.setLane_kept))

theorem sessionDone_kept {x0 x1 x2 s3} (h3 : Kept q s3) : Kept q (sessionDone x0 x1 x2 s3) := by
  unfold sessionDone
  try dsimp only
  repeat' (first | (with_reducible first | assumption | apply kept_all) | (simp only [kept_mk]) | (with_reducible first | apply kept_ite | apply kept_ite2 | apply pulse_kept | apply State.fset_kept | apply becomeActive_kept | apply State.setLport_kept | apply trainFails_kept) | split | (dsimp only) | (with_reducible first | refine kept_snd (by with_reducible assumption) ?_ | refine kept_some (by with_reducible assumption) ?_))

theorem restoreLane_kept {x0 s1} (h1 : Kept q s1) : Kept q (restoreLane x0 s1) := by
  unfold restoreLane
  try dsimp only
  repeat' (first | (with_reducible first | assumption | apply State.setLane_kept | apply laneMoved_kept | apply State.fset_kept | apply freeSpareLane_kept) | split | (dsimp only) | (with_reducible first | refine kept_snd (by with_reducible assumption) ?_ | refine kept_some (by with_reducible assumption) ?_))

theorem recalLane_kept {x0 s1} (h1 : Kept q s1) : Kept q (recalLane x0 s1) := by
  unfold recalLane
  try dsimp only
  repeat' (first | (with_reducible first | assumption | apply kept_ite | apply kept_ite2 | apply State.fset_kept | apply setRecal_kept | apply askSpare_kept) | split | (dsimp only) | (with_reducible first | refine kept_snd (by with_reducible assumption) ?_ | refine kept_some (by with_reducible assumption) ?_))

theorem execTrainingStart_kept {x0 x1 x2 s3} (h3 : Kept q s3) : KeptOut q (execTrainingStart x0 x1 x2 s3) := by
  unfold execTrainingStart
  try dsimp only
  repeat' (first | (with_reducible first | assumption | apply keptOut_next | apply ok_kept | apply settle_kept | apply lightUp_kept | apply State.upTo_kept))

theorem execLaneFailed_kept {x0 x1 x2 s3} (h3 : Kept q s3) : KeptOut q (execLaneFailed x0 x1 x2 s3) := by
  unfold execLaneFailed
  try dsimp only
  repeat' (first | (with_reducible first | assumption | apply keptOut_next | apply State.upTo_kept | apply ok_kept | apply settle_kept | apply loseLight_kept | apply failLane_kept | apply State.fadd_kept) | split | (dsimp only) | (with_reducible first | refine kept_snd (by with_reducible assumption) ?_ | refine kept_some (by with_reducible assumption) ?_))

theorem execSpareTraining_kept {x0 x1 x2 x3 x4 s5} (h5 : Kept q s5) : KeptOut q (execSpareTraining x0 x1 x2 x3 x4 s5) := by
  unfold execSpareTraining
  try dsimp only
  repeat' (first | (with_reducible first | assumption | apply keptOut_next | apply State.upTo_kept | apply whenever_kept | apply spareTrained_kept))

theorem execPdQuery_kept {x0 x1 x2 s3} (h3 : Kept q s3) : KeptOut q (execPdQuery x0 x1 x2 s3) := by
  unfold execPdQuery
  try dsimp only
  repeat' (first | (with_reducible first | assumption | apply keptOut_next | apply ok_kept | apply State.upTo_kept | refine kept_snd (by with_reducible assumption) ?_ | refine kept_some (by with_reducible assumption) ?_))

theorem execPdAccept_kept {x0 x1 s2} (h2 : Kept q s2) : KeptOut q (execPdAccept x0 x1 s2) := by
  unfold execPdAccept
  try dsimp only
  repeat' (first | (with_reducible first | assumption | apply keptOut_next | apply ok_kept | apply State.upTo_kept))

theorem execLaneRecalDone_kept {x0 x1 x2 s3} (h3 : Kept q s3) : KeptOut q (execLaneRecalDone x0 x1 x2 s3) := by
  unfold execLaneRecalDone
  try dsimp only
  repeat' (first | (with_reducible first | assumption | apply keptOut_next | apply ok_kept | apply recalDone_kept | apply State.upTo_kept))

theorem execTrainingRetry_kept {x0 x1 s2} (h2 : Kept q s2) : KeptOut q (execTrainingRetry x0 x1 s2) := by
  unfold execTrainingRetry
  try dsimp only
  repeat' (first | (with_reducible first | assumption | apply keptOut_next | apply State.upTo_kept | apply whenever_kept | apply settle_kept | apply startTraining_kept | apply ok_kept) | split | (dsimp only) | (with_reducible first | refine kept_snd (by with_reducible assumption) ?_ | refine kept_some (by with_reducible assumption) ?_))

theorem execNarrowAck_kept {x0 x1 s2} (h2 : Kept q s2) : KeptOut q (execNarrowAck x0 x1 s2) := by
  unfold execNarrowAck
  try dsimp only
  repeat' (first | (with_reducible first | assumption | apply keptOut_next | apply State.upTo_kept | apply whenever_kept | apply settle_kept | apply narrow_kept | apply State.setLane_kept | apply ok_kept) | split | (dsimp only) | (with_reducible first | refine kept_snd (by with_reducible assumption) ?_ | refine kept_some (by with_reducible assumption) ?_))

theorem execNarrowReq_kept {x0 x1 s2} (h2 : Kept q s2) : KeptOut q (execNarrowReq x0 x1 s2) := by
  unfold execNarrowReq
  try dsimp only
  repeat' (first | (with_reducible assumption) | (intro _) | (with_reducible first | apply kept_ite | apply kept_ite2 | apply kept_foldl | apply kept_foldl2 | apply keptOut_next | apply keptOut_ite | apply State.upTo_kept | apply abandonSwap_kept | apply State.fset_kept | apply spareFails_kept | apply ok_kept | apply settle_kept | apply narrow_kept | apply tellLanes_kept | apply linkDown_kept) | split | (dsimp only) | (with_reducible first | refine kept_snd (by with_reducible assumption) ?_ | refine kept_some (by with_reducible assumption) ?_))

theorem execReplayTimer_kept {x0 x1 s2} (h2 : Kept q s2) : KeptOut q (execReplayTimer x0 x1 s2) := by
  unfold execReplayTimer
  try dsimp only
  repeat' (first | (with_reducible first | assumption | apply keptOut_next | apply State.upTo_kept | apply whenever_kept | apply startReplay_kept | apply State.setLport_kept))

theorem execSpdm_kept {x0 x1 x2 x3 x4 s5} (h5 : Kept q s5) : KeptOut q (execSpdm x0 x1 x2 x3 x4 s5) := by
  unfold execSpdm
  try dsimp only
  repeat' (first | (with_reducible first | assumption | apply keptOut_next | apply ok_kept | apply receiveSpdm_kept | apply State.upTo_kept))

theorem execSpdmSessionDone_kept {x0 x1 x2 x3 s4} (h4 : Kept q s4) : KeptOut q (execSpdmSessionDone x0 x1 x2 x3 s4) := by
  unfold execSpdmSessionDone
  try dsimp only
  repeat' (first | (with_reducible first | assumption | apply keptOut_next | apply State.upTo_kept | apply whenever_kept | apply settle_kept | apply sessionDone_kept))

theorem execReplayLimit_kept {x0 x1 s2} (h2 : Kept q s2) : KeptOut q (execReplayLimit x0 x1 s2) := by
  unfold execReplayLimit
  try dsimp only
  repeat' (first | (with_reducible first | assumption | apply keptOut_next | apply State.upTo_kept | apply whenever_kept | apply startTraining_kept | apply State.setLport_kept))

theorem execPdHold_kept {x0 x1 s2} (h2 : Kept q s2) : KeptOut q (execPdHold x0 x1 s2) := by
  unfold execPdHold
  try dsimp only
  repeat' (first | (with_reducible first | assumption | apply keptOut_next | apply ok_kept | apply receiveHold_kept | apply State.upTo_kept))

theorem execMismatchDown_kept {x0 x1 x2 s3} (h3 : Kept q s3) : KeptOut q (execMismatchDown x0 x1 x2 s3) := by
  unfold execMismatchDown
  try dsimp only
  repeat' (first | (with_reducible first | assumption | apply keptOut_next | apply State.upTo_kept | apply whenever_kept | apply settle_kept | apply linkDown_kept | apply setPower_kept | apply ok_kept) | split | (dsimp only) | (with_reducible first | refine kept_snd (by with_reducible assumption) ?_ | refine kept_some (by with_reducible assumption) ?_))

theorem execRestoreAck_kept {x0 x1 s2} (h2 : Kept q s2) : KeptOut q (execRestoreAck x0 x1 s2) := by
  unfold execRestoreAck
  try dsimp only
  repeat' (first | (with_reducible first | assumption | apply keptOut_next | apply State.upTo_kept | apply whenever_kept | apply restoreLane_kept))

theorem execFlitRx_kept {x0 x1 x2 x3 s4} (h4 : Kept q s4) : KeptOut q (execFlitRx x0 x1 x2 x3 s4) := by
  unfold execFlitRx
  try dsimp only
  repeat' (first | (with_reducible first | assumption | apply keptOut_next | apply ok_kept | apply settle_kept | apply receiveFlit_kept | apply State.upTo_kept))

theorem execSpareAck_kept {x0 x1 s2} (h2 : Kept q s2) : KeptOut q (execSpareAck x0 x1 s2) := by
  unfold execSpareAck
  try dsimp only
  repeat' (first | (with_reducible first | assumption | apply keptOut_next | apply ok_kept | apply settle_kept | apply spareAck_kept | apply State.upTo_kept))

theorem execRestoreReq_kept {x0 x1 s2} (h2 : Kept q s2) : KeptOut q (execRestoreReq x0 x1 s2) := by
  unfold execRestoreReq
  try dsimp only
  repeat' (first | (with_reducible first | assumption | apply keptOut_next | apply kept_getD | apply State.upTo_kept | apply whenever_kept | apply sendLane_kept | apply restoreLane_kept))

theorem execSpareSwapResume_kept {x0 x1 s2} (h2 : Kept q s2) : KeptOut q (execSpareSwapResume x0 x1 s2) := by
  unfold execSpareSwapResume
  try dsimp only
  repeat' (first | (with_reducible first | assumption | apply keptOut_next | apply ok_kept | apply settle_kept | apply swapResume_kept | apply State.upTo_kept))

theorem execSpareReq_kept {x0 x1 x2 s3} (h3 : Kept q s3) : KeptOut q (execSpareReq x0 x1 x2 s3) := by
  unfold execSpareReq
  try dsimp only
  repeat' (first | (with_reducible first | assumption | apply keptOut_next | apply ok_kept | apply spareReq_kept | apply State.upTo_kept))

theorem execParams_kept {x0 x1 x2 x3 x4 x5 s6} (h6 : Kept q s6) : KeptOut q (execParams x0 x1 x2 x3 x4 x5 s6) := by
  unfold execParams
  try dsimp only
  repeat' (first | (with_reducible first | assumption | apply keptOut_next | apply ok_kept | apply settle_kept | apply receiveParams_kept | apply State.upTo_kept))

theorem execPdNotice_kept {x0 x1 s2} (h2 : Kept q s2) : KeptOut q (execPdNotice x0 x1 s2) := by
  unfold execPdNotice
  try dsimp only
  repeat' (first | (with_reducible first | assumption | apply keptOut_next | apply ok_kept | apply receiveNotice_kept | apply State.upTo_kept))

theorem execRetrainReq_kept {x0 x1 s2} (h2 : Kept q s2) : KeptOut q (execRetrainReq x0 x1 s2) := by
  unfold execRetrainReq
  try dsimp only
  repeat' (first | (with_reducible first | assumption | apply keptOut_next | apply ok_kept | apply State.upTo_kept))

theorem execTrainingDone_kept {x0 x1 s2} (h2 : Kept q s2) : KeptOut q (execTrainingDone x0 x1 s2) := by
  unfold execTrainingDone
  try dsimp only
  repeat' (first | (with_reducible first | assumption | apply keptOut_next | apply State.upTo_kept | apply whenever_kept | apply settle_kept | apply trainingDone_kept))

theorem execEqAck_kept {x0 x1 s2} (h2 : Kept q s2) : KeptOut q (execEqAck x0 x1 s2) := by
  unfold execEqAck
  try dsimp only
  repeat' (first | (with_reducible first | assumption | apply kept_ite | apply kept_ite2 | apply keptOut_next | apply keptOut_ite | apply State.upTo_kept | apply State.setLane_kept | apply whenever_kept | apply sendParams_kept | apply State.setLport_kept | apply ok_kept) | split | (dsimp only) | (with_reducible first | refine kept_snd (by with_reducible assumption) ?_ | refine kept_some (by with_reducible assumption) ?_))

theorem execKeyLifeExpiry_kept {x0 x1 s2} (h2 : Kept q s2) : KeptOut q (execKeyLifeExpiry x0 x1 s2) := by
  unfold execKeyLifeExpiry
  try dsimp only
  repeat' (first | (with_reducible first | assumption | apply keptOut_next | apply State.upTo_kept | apply whenever_kept | apply sendKeySwitch_kept))

theorem execTrainingStepFail_kept {x0 x1 s2} (h2 : Kept q s2) : KeptOut q (execTrainingStepFail x0 x1 s2) := by
  unfold execTrainingStepFail
  try dsimp only
  repeat' (first | (with_reducible first | assumption | apply keptOut_next | apply State.upTo_kept | apply whenever_kept | apply settle_kept | apply trainFails_kept | apply ok_kept) | split | (dsimp only) | (with_reducible first | refine kept_snd (by with_reducible assumption) ?_ | refine kept_some (by with_reducible assumption) ?_))

theorem execLaneDegraded_kept {x0 x1 x2 s3} (h3 : Kept q s3) : KeptOut q (execLaneDegraded x0 x1 x2 s3) := by
  unfold execLaneDegraded
  try dsimp only
  repeat' (first | (with_reducible first | assumption | apply keptOut_next | apply ok_kept | apply degradeLane_kept | apply State.fadd_kept | apply State.upTo_kept))

theorem execKeySwitch_kept {x0 x1 x2 s3} (h3 : Kept q s3) : KeptOut q (execKeySwitch x0 x1 x2 s3) := by
  unfold execKeySwitch
  try dsimp only
  repeat' (first | (with_reducible first | assumption | apply keptOut_next | apply ok_kept | apply receiveKeySwitch_kept | apply State.upTo_kept))

theorem execEqReq_kept {x0 x1 s2} (h2 : Kept q s2) : KeptOut q (execEqReq x0 x1 s2) := by
  unfold execEqReq
  try dsimp only
  repeat' (first | (with_reducible first | assumption | apply keptOut_next | apply State.upTo_kept | apply whenever_kept | apply sendLane_kept))

theorem execKeySwitchAck_kept {x0 x1 x2 s3} (h3 : Kept q s3) : KeptOut q (execKeySwitchAck x0 x1 x2 s3) := by
  unfold execKeySwitchAck
  try dsimp only
  repeat' (first | (with_reducible first | assumption | apply keptOut_next | apply ok_kept | apply receiveKeyAck_kept | apply State.upTo_kept))

theorem execRemoteFault_kept {x0 x1 s2} (h2 : Kept q s2) : KeptOut q (execRemoteFault x0 x1 s2) := by
  unfold execRemoteFault
  try dsimp only
  repeat' (first | (with_reducible first | assumption | apply keptOut_next | apply ok_kept | apply settle_kept | apply failLane_kept | apply State.upTo_kept))

theorem State.setSess_kept {s0 x1} (h0 : Kept q s0) : Kept q (State.setSess s0 x1) := by
  unfold State.setSess
  try dsimp only
  repeat' (first | (with_reducible first | assumption | apply kept_all) | (simp only [kept_mk]) | (with_reducible first | apply kept_ite | apply kept_ite2) | split | (dsimp only))

theorem emitCcp_kept {x0 x1 x2 x3 x4 x5 x6 s7} (h7 : Kept q s7) : Kept q (emitCcp x0 x1 x2 x3 x4 x5 x6 s7) := by
  unfold emitCcp
  try dsimp only
  repeat' (first | (with_reducible first | assumption | apply State.addTotal_kept | apply State.emit_kept))

theorem sendDatagram_kept {x0 x1 x2 x3 x4 x5 s6} (h6 : Kept q s6) : Kept q (sendDatagram x0 x1 x2 x3 x4 x5 s6) := by
  unfold sendDatagram
  try dsimp only
  repeat' (first | (with_reducible first | assumption | apply kept_ite | apply kept_ite2 | apply emitCcp_kept | apply State.setSess_kept) | split | (dsimp only) | (with_reducible first | refine kept_snd (by with_reducible assumption) ?_ | refine kept_some (by with_reducible assumption) ?_))

theorem queueDatagram_kept {x0 x1 x2 x3 x4 x5 s6} (h6 : Kept q s6) : Kept q (queueDatagram x0 x1 x2 x3 x4 x5 s6) := by
  unfold queueDatagram
  try dsimp only
  repeat' (first | (with_reducible first | assumption | apply kept_ite | apply kept_ite2 | apply State.setSess_kept | apply sendDatagram_kept) | split | (dsimp only) | (with_reducible first | refine kept_snd (by with_reducible assumption) ?_ | refine kept_some (by with_reducible assumption) ?_))

theorem queueFrags_kept {x0 x1 x2 x3 x4 x5 s6} (h6 : Kept q s6) : Kept q (queueFrags x0 x1 x2 x3 x4 x5 s6) := by
  induction x5 generalizing x0 x1 x2 x3 x4 s6 with
  | nil =>
    unfold queueFrags
    try dsimp only
    repeat' (first | (with_reducible first | assumption | apply queueDatagram_kept) | split | (dsimp only) | (with_reducible first | refine kept_snd (by with_reducible assumption) ?_ | refine kept_some (by with_reducible assumption) ?_))
  | cons a l ih =>
    unfold queueFrags
    try dsimp only
    repeat' (first | (with_reducible first | assumption | apply ih | apply queueDatagram_kept) | split | (dsimp only) | (with_reducible first | refine kept_snd (by with_reducible assumption) ?_ | refine kept_some (by with_reducible assumption) ?_))

theorem ptpSource_kept {s0} (h0 : Kept q s0) : Kept q (ptpSource s0) := by
  unfold ptpSource
  try dsimp only
  repeat' (first | (with_reducible first | assumption | apply kept_all) | (simp only [kept_mk]) | (with_reducible first | apply kept_ite | apply kept_ite2 | apply State.fset_kept) | split | (dsimp only))

theorem countMgmt_kept {s0} (h0 : Kept q s0) : Kept q (countMgmt s0) := by
  unfold countMgmt
  try dsimp only
  repeat' (first | (with_reducible first | assumption | apply kept_all | apply State.fset_kept))

theorem freeSlot_kept {x0 s1} (h1 : Kept q s1) : Kept q (freeSlot x0 s1) := by
  unfold freeSlot
  try dsimp only
  repeat' (first | (with_reducible first | assumption | apply kept_all) | (simp only [kept_mk]) | (with_reducible apply countMgmt_kept))

theorem putSlot_kept {x0 x1 s2} (h2 : Kept q s2) : Kept q (putSlot x0 x1 s2) := by
  unfold putSlot
  try dsimp only
  repeat' (first | (with_reducible first | assumption | apply kept_all) | (simp only [kept_mk]))

theorem ccpSend_kept {x0 x1 x2 s3} (h3 : Kept q s3) : Kept q (ccpSend x0 x1 x2 s3) := by
  unfold ccpSend
  try dsimp only
  repeat' (first | (with_reducible first | assumption | apply kept_ite | apply kept_ite2 | apply queueFrags_kept | apply State.setSess_kept) | split | (dsimp only) | (with_reducible first | refine kept_snd (by with_reducible assumption) ?_ | refine kept_some (by with_reducible assumption) ?_))

theorem sendCompletion_kept {x0 x1 x2 x3 s4} (h4 : Kept q s4) : Kept q (sendCompletion x0 x1 x2 x3 s4) := by
  unfold sendCompletion
  try dsimp only
  repeat' (first | (with_reducible assumption) | (intro _) | (with_reducible first | apply kept_getD | apply ccpSend_kept | apply putSlot_kept))

theorem offerRecords_kept {s0} (h0 : Kept q s0) : Kept q (offerRecords s0) := by
  unfold offerRecords
  try dsimp only
  repeat' (first | (with_reducible first | assumption | apply kept_all) | (intro _) | (with_reducible first | apply kept_foldl | apply kept_foldl2 | apply sendCompletion_kept) | split | (dsimp only) | (with_reducible first | refine kept_snd (by with_reducible assumption) ?_ | refine kept_some (by with_reducible assumption) ?_))

theorem dropSession_kept {x0 s1} (h1 : Kept q s1) : Kept q (dropSession x0 s1) := by
  unfold dropSession
  try dsimp only
  repeat' (first | (with_reducible first | assumption | apply kept_all) | (simp only [kept_mk]) | (with_reducible first | apply kept_ite | apply kept_ite2 | apply countMgmt_kept | apply offerRecords_kept) | split | (dsimp only))

theorem nvAppend_kept {x0 s1} (h1 : Kept q s1) : Kept q (nvAppend x0 s1) := by
  unfold nvAppend
  try dsimp only
  repeat' (first | (with_reducible first | assumption | apply kept_ite | apply kept_ite2 | apply nvCommit_kept | apply seedWrite_kept) | split | (dsimp only))

theorem endClrSessions_kept {x0 s1} (h1 : Kept q s1) : Kept q (endClrSessions x0 s1) := by
  unfold endClrSessions
  try dsimp only
  repeat' (first | (with_reducible first | assumption | apply kept_all) | (intro _) | (with_reducible first | apply kept_foldl | apply kept_foldl2 | apply dropSession_kept | apply State.setWord_kept))

theorem drainTx_kept {x0 x1 s2} (h2 : Kept q s2) : Kept q (drainTx x0 x1 s2) := by
  induction x1 generalizing x0 s2 with
  | zero =>
    unfold drainTx
    try dsimp only
    repeat' (first | (with_reducible first | assumption | apply kept_ite | apply kept_ite2 | apply sendDatagram_kept | apply State.setSess_kept) | split | (dsimp only) | (with_reducible first | refine kept_snd (by with_reducible assumption) ?_ | refine kept_some (by with_reducible assumption) ?_))
  | succ k ih =>
    unfold drainTx
    try dsimp only
    repeat' (first | (with_reducible first | assumption | apply kept_ite | apply kept_ite2 | apply ih | apply sendDatagram_kept | apply State.setSess_kept) | split | (dsimp only) | (with_reducible first | refine kept_snd (by with_reducible assumption) ?_ | refine kept_some (by with_reducible assumption) ?_))

theorem scheduleCopses_kept {s0} (h0 : Kept q s0) : Kept q (scheduleCopses s0) := by
  unfold scheduleCopses
  try dsimp only
  repeat' (first | (with_reducible assumption) | (intro _) | (with_reducible first | apply kept_foldl | apply kept_foldl2 | apply scheduleAll_kept))

theorem goOn_kept {s0} (h0 : Kept q s0) : Kept q (goOn s0) := by
  unfold goOn
  try dsimp only
  repeat' (first | (with_reducible first | assumption | apply settle_kept | apply scheduleCopses_kept | apply retryHeld_kept))

theorem execUpdateSwitched_kept {x0 s1} (h1 : Kept q s1) : KeptOut q (execUpdateSwitched x0 s1) := by
  unfold execUpdateSwitched
  try dsimp only
  repeat' (first | (with_reducible first | assumption | apply keptOut_next | apply State.upTo_kept | apply whenever_kept | apply goOn_kept | apply endUpdate_kept | apply ok_kept) | split | (dsimp only) | (with_reducible first | refine kept_snd (by with_reducible assumption) ?_ | refine kept_some (by with_reducible assumption) ?_))

theorem execHandoverDone_kept {x0 s1} (h1 : Kept q s1) : KeptOut q (execHandoverDone x0 s1) := by
  unfold execHandoverDone
  try dsimp only
  repeat' (first | (with_reducible first | assumption | apply kept_all) | (simp only [kept_mk]) | (with_reducible first | apply kept_ite | apply kept_ite2 | apply keptOut_next | apply keptOut_ite | apply State.upTo_kept | apply restartScrubs_kept | apply clearClaims_kept | apply becomeActiveLookout_kept | apply State.fset_kept | apply whenever_kept | apply settle_kept | apply evidenceChanged_kept | apply ok_kept) | split | (dsimp only) | (with_reducible first | refine kept_snd (by with_reducible assumption) ?_ | refine kept_some (by with_reducible assumption) ?_))

theorem setCuGate_kept {x0 x1 s2} (h2 : Kept q s2) : Kept q (setCuGate x0 x1 s2) := by
  unfold setCuGate
  try dsimp only
  repeat' (first | (with_reducible first | assumption | apply kept_all) | (simp only [kept_mk]))

theorem execCuPowerGate_kept {x0 x1 x2 s3} (h3 : Kept q s3) : KeptOut q (execCuPowerGate x0 x1 x2 s3) := by
  unfold execCuPowerGate
  try dsimp only
  repeat' (first | (with_reducible first | assumption | apply keptOut_next | apply State.upTo_kept | apply whenever_kept | apply setCuGate_kept | apply State.setCopse_kept))

theorem requeueScrubs_kept {x0 s1} (h1 : Kept q s1) : Kept q (requeueScrubs x0 s1) := by
  unfold requeueScrubs
  try dsimp only
  repeat' (first | (with_reducible first | assumption | apply kept_all) | (simp only [kept_mk]) | (with_reducible first | apply State.fadd_kept | refine kept_snd (by with_reducible assumption) ?_ | refine kept_some (by with_reducible assumption) ?_))

theorem handoverGo_kept {s0} (h0 : Kept q s0) : Kept q (handoverGo s0) := by
  unfold handoverGo
  try dsimp only
  repeat' (first | (with_reducible first | assumption | apply kept_ite | apply kept_ite2 | apply startHandover_kept | apply State.fset_kept) | split | (dsimp only))

theorem execUpdateRevert_kept {x0 s1} (h1 : Kept q s1) : KeptOut q (execUpdateRevert x0 s1) := by
  unfold execUpdateRevert
  try dsimp only
  repeat' (first | (with_reducible first | assumption | apply keptOut_next | apply State.upTo_kept | apply whenever_kept | apply goOn_kept | apply endUpdate_kept | apply State.fwrap_kept | apply ok_kept) | split | (dsimp only) | (with_reducible first | refine kept_snd (by with_reducible assumption) ?_ | refine kept_some (by with_reducible assumption) ?_))

theorem execDieCalibrationApply_kept {x0 s1} (h1 : Kept q s1) : KeptOut q (execDieCalibrationApply x0 s1) := by
  unfold execDieCalibrationApply
  try dsimp only
  repeat' (first | (with_reducible first | assumption | apply kept_all) | (intro _) | (simp only [kept_mk]) | (with_reducible first | apply kept_ite | apply kept_ite2 | apply kept_foldl | apply kept_foldl2 | apply keptOut_next | apply keptOut_ite | apply State.upTo_kept | apply applyCalibration_kept | apply applyNv_kept | apply lightFringe_kept | apply whenever_kept) | split | (dsimp only))

theorem queueSwapped_kept {s0} (h0 : Kept q s0) : Kept q (queueSwapped s0) := by
  unfold queueSwapped
  try dsimp only
  repeat' (first | (with_reducible first | assumption | apply kept_all) | (simp only [kept_mk]) | (with_reducible first | apply kept_ite | apply kept_ite2) | split | (dsimp only))

end Sys2Proof.Machine
end

