-- ==== Sys2Proof/Laws/KeptE.lean ====
section
/-! SUPPORT. The operations and commands keep it, fifth part. -/

namespace Sys2Proof.Machine

set_option linter.unusedTactic false
set_option linter.unreachableTactic false
set_option linter.unusedVariables false

variable {q : State}

theorem swapOutAll_kept {s0} (h0 : Kept q s0) : Kept q (swapOutAll s0) := by
  unfold swapOutAll
  try dsimp only
  repeat' (first | (with_reducible assumption) | (intro _) | (with_reducible first | apply kept_foldl | apply kept_foldl2 | apply swapOutCopse_kept))

theorem endLost_kept {x0 s1} (h1 : Kept q s1) : Kept q (endLost x0 s1) := by
  unfold endLost
  try dsimp only
  repeat' (first | (with_reducible assumption) | (intro _) | (with_reducible first | apply kept_ite | apply kept_ite2 | apply kept_foldl | apply kept_foldl2 | apply endProgram_kept) | split | (dsimp only))

theorem downDomains_kept {s0} (h0 : Kept q s0) : Kept q (downDomains s0) := by
  unfold downDomains
  try dsimp only
  repeat' (first | (with_reducible assumption) | (intro _) | (with_reducible first | apply kept_foldl | apply kept_foldl2 | apply domainDown_kept))

theorem commitEntry_kept {x0 s1} (h1 : Kept q s1) : Kept q (commitEntry x0 s1) := by
  unfold commitEntry
  try dsimp only
  repeat' (first | (with_reducible first | assumption | apply kept_all) | (simp only [kept_mk]) | (with_reducible first | apply kept_ite | apply kept_ite2 | apply downDomains_kept | apply armComparators_kept) | split | (dsimp only))

theorem endCheck_kept {s0} (h0 : Kept q s0) : Kept q (endCheck s0) := by
  unfold endCheck
  try dsimp only
  repeat' (first | (with_reducible first | assumption | apply kept_all) | (simp only [kept_mk]) | (with_reducible first | apply kept_ite | apply kept_ite2 | apply refuseEntry_kept | apply commitEntry_kept) | split | (dsimp only) | (with_reducible first | refine kept_snd (by with_reducible assumption) ?_ | refine kept_some (by with_reducible assumption) ?_))

theorem execContextSwapOutEnd_kept {x0 s1} (h1 : Kept q s1) : KeptOut q (execContextSwapOutEnd x0 s1) := by
  unfold execContextSwapOutEnd
  try dsimp only
  repeat' (first | (with_reducible first | assumption | apply kept_ite | apply kept_ite2 | apply keptOut_next | apply keptOut_ite | apply State.upTo_kept | apply startCheck_kept | apply swapOutAll_kept | apply ok_kept | apply settle_kept | apply endCheck_kept) | split | (dsimp only) | (with_reducible first | refine kept_snd (by with_reducible assumption) ?_ | refine kept_some (by with_reducible assumption) ?_))

theorem gateCopse_kept {x0 s1} (h1 : Kept q s1) : Kept q (gateCopse x0 s1) := by
  unfold gateCopse
  try dsimp only
  repeat' (first | (with_reducible first | assumption | apply State.setCopse_kept))

theorem commitRetained_kept {s0} (h0 : Kept q s0) : Kept q (commitRetained s0) := by
  unfold commitRetained
  try dsimp only
  repeat' (first | (with_reducible first | assumption | apply kept_all) | (intro _) | (simp only [kept_mk]) | (with_reducible first | apply kept_foldl | apply kept_foldl2 | apply switchMap_kept | apply revertMoving_kept | apply State.fset_kept))

theorem execBootApplyLookout_kept {x0 s1} (h1 : Kept q s1) : KeptOut q (execBootApplyLookout x0 s1) := by
  unfold execBootApplyLookout
  try dsimp only
  repeat' (first | (with_reducible first | assumption | apply kept_all) | (simp only [kept_mk]) | (with_reducible first | apply kept_ite | apply kept_ite2 | apply keptOut_next | apply keptOut_ite | apply State.upTo_kept | apply applyNv_kept | apply ptpSource_kept | apply State.fset_kept | apply whenever_kept | apply evidenceChanged_kept | apply commitRetained_kept) | split | (dsimp only) | (with_reducible first | refine kept_snd (by with_reducible assumption) ?_ | refine kept_some (by with_reducible assumption) ?_))

theorem setCopseGate_kept {x0 x1 s2} (h2 : Kept q s2) : Kept q (setCopseGate x0 x1 s2) := by
  unfold setCopseGate
  try dsimp only
  repeat' (first | (with_reducible first | assumption | apply kept_all) | (simp only [kept_mk]))

theorem execCopsePowerGate_kept {x0 x1 x2 s3} (h3 : Kept q s3) : KeptOut q (execCopsePowerGate x0 x1 x2 s3) := by
  unfold execCopsePowerGate
  try dsimp only
  repeat' (first | (with_reducible first | assumption | apply keptOut_next | apply State.upTo_kept | apply whenever_kept | apply setCopseGate_kept | apply gateCopse_kept))

theorem dropAllCells_kept {s0} (h0 : Kept q s0) : Kept q (dropAllCells s0) := by
  unfold dropAllCells
  try dsimp only
  repeat' (first | (with_reducible first | assumption | apply kept_all) | (intro _) | (simp only [kept_mk]) | (with_reducible first | apply kept_foldl | apply kept_foldl2 | apply dropEgress_kept | apply dropCells_kept | apply dropQueued_kept | apply State.setFlow_kept | apply dropCell_kept))

theorem execStandbyCellDrop_kept {x0 s1} (h1 : Kept q s1) : KeptOut q (execStandbyCellDrop x0 s1) := by
  unfold execStandbyCellDrop
  try dsimp only
  repeat' (first | (with_reducible first | assumption | apply kept_all) | (simp only [kept_mk]) | (with_reducible first | apply keptOut_next | apply State.upTo_kept | apply whenever_kept | apply settle_kept | apply dropAllCells_kept))

theorem interruptTxns_kept {x0 s1} (h1 : Kept q s1) : Kept q (interruptTxns x0 s1) := by
  induction x0 generalizing s1 with
  | nil =>
    unfold interruptTxns
    try dsimp only
    repeat' (first | (with_reducible first | assumption | apply endTxn_kept) | split | (dsimp only) | (with_reducible first | refine kept_snd (by with_reducible assumption) ?_ | refine kept_some (by with_reducible assumption) ?_))
  | cons a l ih =>
    unfold interruptTxns
    try dsimp only
    repeat' (first | (with_reducible first | assumption | apply ih | apply endTxn_kept) | split | (dsimp only) | (with_reducible first | refine kept_snd (by with_reducible assumption) ?_ | refine kept_some (by with_reducible assumption) ?_))

theorem execUnitWake_kept {x0 x1 x2 s3} (h3 : Kept q s3) : KeptOut q (execUnitWake x0 x1 x2 s3) := by
  unfold execUnitWake
  try dsimp only
  repeat' (first | (with_reducible first | assumption | apply keptOut_next | apply State.upTo_kept | apply whenever_kept | apply setCuGate_kept | apply setCopseGate_kept) | split | (dsimp only) | (with_reducible first | refine kept_snd (by with_reducible assumption) ?_ | refine kept_some (by with_reducible assumption) ?_))

theorem execCopseClockGate_kept {x0 x1 x2 s3} (h3 : Kept q s3) : KeptOut q (execCopseClockGate x0 x1 x2 s3) := by
  unfold execCopseClockGate
  try dsimp only
  repeat' (first | (with_reducible first | assumption | apply keptOut_next | apply State.upTo_kept | apply whenever_kept | apply setCopseGate_kept))

theorem takeSources_kept {x0 x1 s2} (h2 : Kept q s2) : Kept q (takeSources x0 x1 s2) := by
  unfold takeSources
  try dsimp only
  repeat' (first | (with_reducible assumption) | (intro _) | (with_reducible first | apply kept_ite | apply kept_ite2 | apply kept_foldl | apply kept_foldl2 | apply State.fset_kept) | split | (dsimp only))

theorem endEntry_kept {x0 s1} (h1 : Kept q s1) : Kept q (endEntry x0 s1) := by
  unfold endEntry
  try dsimp only
  repeat' (first | (with_reducible first | assumption | apply kept_all) | (simp only [kept_mk]) | (with_reducible apply State.fset_kept))

theorem execFailoverResume_kept {x0 s1} (h1 : Kept q s1) : KeptOut q (execFailoverResume x0 s1) := by
  unfold execFailoverResume
  try dsimp only
  repeat' (first | (with_reducible first | assumption | apply kept_all) | (simp only [kept_mk]) | (with_reducible first | apply keptOut_next | apply State.upTo_kept | apply whenever_kept | apply settle_kept | apply resumeSequencer_kept | apply ok_kept) | split | (dsimp only) | (with_reducible first | refine kept_snd (by with_reducible assumption) ?_ | refine kept_some (by with_reducible assumption) ?_))

theorem execUpdateLoaded_kept {x0 s1} (h1 : Kept q s1) : KeptOut q (execUpdateLoaded x0 s1) := by
  unfold execUpdateLoaded
  try dsimp only
  repeat' (first | (with_reducible first | assumption | apply keptOut_next | apply State.upTo_kept | apply whenever_kept | apply settle_kept | apply updateLoaded_kept))

theorem losePower_kept {x0 s1} (h1 : Kept q s1) : Kept q (losePower x0 s1) := by
  unfold losePower
  try dsimp only
  repeat' (first | (with_reducible first | assumption | apply kept_all) | (simp only [kept_mk]) | (with_reducible first | apply kept_ctl | apply kept_t0 | apply kept_seed0 | apply kept_seed1 | apply SMap.sorted_filter | apply SMap.sorted_keep | apply SMap.wf_keep | apply wf_nil | apply writeBytes_wf | apply copyRegion_wf | apply Kept.ctl (q := q) | apply Kept.t0 (q := q) | apply Kept.seed0 (q := q) | apply Kept.seed1 (q := q)))

theorem execStandbyEntryEnd_kept {x0 s1} (h1 : Kept q s1) : KeptOut q (execStandbyEntryEnd x0 s1) := by
  unfold execStandbyEntryEnd
  try dsimp only
  repeat' (first | (with_reducible first | assumption | apply kept_all) | (simp only [kept_mk]) | (with_reducible first | apply keptOut_next | apply State.upTo_kept | apply endEntry_kept | apply whenever_kept | apply decideWake_kept) | split | (dsimp only) | (with_reducible first | refine kept_snd (by with_reducible assumption) ?_ | refine kept_some (by with_reducible assumption) ?_))

theorem domainsGo_kept {s0} (h0 : Kept q s0) : Kept q (domainsGo s0) := by
  unfold domainsGo
  try dsimp only
  repeat' (first | (with_reducible first | assumption | apply kept_all) | (simp only [kept_mk]) | (with_reducible first | apply settle_kept | apply interruptTxns_kept | apply endMgmt_kept | apply State.reset_kept | refine kept_snd (by with_reducible assumption) ?_ | refine kept_some (by with_reducible assumption) ?_ | apply kept_ctl | apply kept_t0 | apply kept_seed0 | apply kept_seed1 | apply SMap.sorted_filter | apply SMap.sorted_keep | apply SMap.wf_keep | apply wf_nil | apply writeBytes_wf | apply copyRegion_wf | apply Kept.ctl (q := q) | apply Kept.t0 (q := q) | apply Kept.seed0 (q := q) | apply Kept.seed1 (q := q)))

theorem execBootDone_kept {x0 s1} (h1 : Kept q s1) : KeptOut q (execBootDone x0 s1) := by
  unfold execBootDone
  try dsimp only
  repeat' (first | (with_reducible first | assumption | apply kept_all) | (simp only [kept_mk]) | (with_reducible first | apply kept_ite | apply kept_ite2 | apply keptOut_next | apply keptOut_ite | apply State.upTo_kept | apply State.emit_kept | apply State.fset_kept | apply scheduleCopses_kept | apply queueSwapped_kept | apply endLost_kept | apply requeueScrubs_kept | apply whenever_kept | apply settle_kept | apply evidenceChanged_kept) | split | (dsimp only) | (with_reducible first | refine kept_snd (by with_reducible assumption) ?_ | refine kept_some (by with_reducible assumption) ?_))

theorem execUnderstorySelfRefresh_kept {x0 s1} (h1 : Kept q s1) : KeptOut q (execUnderstorySelfRefresh x0 s1) := by
  unfold execUnderstorySelfRefresh
  try dsimp only
  repeat' (first | (with_reducible first | assumption | apply kept_all) | (intro _) | (simp only [kept_mk]) | (with_reducible first | apply kept_ite | apply kept_ite2 | apply kept_foldl | apply kept_foldl2 | apply keptOut_next | apply keptOut_ite | apply State.upTo_kept | apply losePower_kept | apply whenever_kept) | split | (dsimp only) | (with_reducible first | refine kept_snd (by with_reducible assumption) ?_ | refine kept_some (by with_reducible assumption) ?_))

theorem execRefuserCheckEnd_kept {x0 s1} (h1 : Kept q s1) : KeptOut q (execRefuserCheckEnd x0 s1) := by
  unfold execRefuserCheckEnd
  try dsimp only
  repeat' (first | (with_reducible first | assumption | apply keptOut_next | apply State.upTo_kept | apply whenever_kept | apply settle_kept | apply endCheck_kept | apply ok_kept) | split | (dsimp only) | (with_reducible first | refine kept_snd (by with_reducible assumption) ?_ | refine kept_some (by with_reducible assumption) ?_))

theorem execDomainsOff_kept {x0 s1} (h1 : Kept q s1) : KeptOut q (execDomainsOff x0 s1) := by
  unfold execDomainsOff
  try dsimp only
  repeat' (first | (with_reducible first | assumption | apply keptOut_next | apply State.upTo_kept | apply whenever_kept | apply domainsGo_kept))

theorem execUnderstoryChannelsTrained_kept {x0 s1} (h1 : Kept q s1) : KeptOut q (execUnderstoryChannelsTrained x0 s1) := by
  unfold execUnderstoryChannelsTrained
  try dsimp only
  repeat' (first | (with_reducible first | assumption | apply kept_all) | (simp only [kept_mk]) | (with_reducible first | apply kept_ite | apply kept_ite2 | apply keptOut_next | apply keptOut_ite | apply State.upTo_kept | apply whenever_kept) | split | (dsimp only) | (with_reducible first | refine kept_snd (by with_reducible assumption) ?_ | refine kept_some (by with_reducible assumption) ?_ | apply kept_ctl | apply kept_t0 | apply kept_seed0 | apply kept_seed1 | apply SMap.sorted_filter | apply SMap.sorted_keep | apply SMap.wf_keep | apply wf_nil | apply writeBytes_wf | apply copyRegion_wf | apply Kept.ctl (q := q) | apply Kept.t0 (q := q) | apply Kept.seed0 (q := q) | apply Kept.seed1 (q := q)))

theorem execFailoverEvents_kept {x0 s1} (h1 : Kept q s1) : KeptOut q (execFailoverEvents x0 s1) := by
  unfold execFailoverEvents
  try dsimp only
  repeat' (first | (with_reducible first | assumption | apply kept_all) | (simp only [kept_mk]) | (with_reducible first | apply keptOut_next | apply State.upTo_kept | apply ok_kept | apply takeSources_kept) | split | (dsimp only) | (with_reducible first | refine kept_snd (by with_reducible assumption) ?_ | refine kept_some (by with_reducible assumption) ?_))

theorem execLookoutReloadDone_kept {x0 x1 s2} (h2 : Kept q s2) : KeptOut q (execLookoutReloadDone x0 x1 s2) := by
  unfold execLookoutReloadDone
  try dsimp only
  repeat' (first | (with_reducible first | assumption | apply kept_ite | apply kept_ite2 | apply keptOut_next | apply keptOut_ite | apply State.upTo_kept | apply endUpdate_kept | apply lookoutBack_kept | apply startImage_kept | apply whenever_kept | apply goOn_kept) | split | (dsimp only) | (with_reducible first | refine kept_snd (by with_reducible assumption) ?_ | refine kept_some (by with_reducible assumption) ?_))

theorem execHeartbeatLoss_kept {x0 x1 s2} (h2 : Kept q s2) : KeptOut q (execHeartbeatLoss x0 x1 s2) := by
  unfold execHeartbeatLoss
  try dsimp only
  repeat' (first | (with_reducible first | assumption | apply keptOut_next | apply State.upTo_kept | apply whenever_kept | apply settle_kept | apply loseActive_kept) | split | (dsimp only) | (with_reducible first | refine kept_snd (by with_reducible assumption) ?_ | refine kept_some (by with_reducible assumption) ?_))

theorem execTransmittersOff_kept {x0 s1} (h1 : Kept q s1) : KeptOut q (execTransmittersOff x0 s1) := by
  unfold execTransmittersOff
  try dsimp only
  repeat' (first | (with_reducible first | assumption | apply kept_all) | (intro _) | (simp only [kept_mk]) | (with_reducible first | apply kept_ite | apply kept_ite2 | apply kept_foldl | apply kept_foldl2 | apply keptOut_next | apply keptOut_ite | apply State.upTo_kept | apply linkDown_kept | apply whenever_kept | apply settle_kept) | split | (dsimp only))

theorem execCuClockGate_kept {x0 x1 x2 s3} (h3 : Kept q s3) : KeptOut q (execCuClockGate x0 x1 x2 s3) := by
  unfold execCuClockGate
  try dsimp only
  repeat' (first | (with_reducible first | assumption | apply keptOut_next | apply State.upTo_kept | apply whenever_kept | apply setCuGate_kept))

theorem execPdNoticeSend_kept {x0 s1} (h1 : Kept q s1) : KeptOut q (execPdNoticeSend x0 s1) := by
  unfold execPdNoticeSend
  try dsimp only
  repeat' (first | (with_reducible first | assumption | apply kept_all) | (intro _) | (simp only [kept_mk]) | (with_reducible first | apply kept_ite | apply kept_ite2 | apply kept_foldl | apply kept_foldl2 | apply keptOut_next | apply keptOut_ite | apply State.upTo_kept | apply whenever_kept | apply sendLinkMsg_kept) | split | (dsimp only))

theorem execFailoverAnswers_kept {x0 s1} (h1 : Kept q s1) : KeptOut q (execFailoverAnswers x0 s1) := by
  unfold execFailoverAnswers
  try dsimp only
  repeat' (first | (with_reducible first | assumption | apply kept_all) | (simp only [kept_mk]) | (with_reducible first | apply keptOut_next | apply State.upTo_kept | apply ok_kept | apply settle_kept | apply evidenceChanged_kept | apply restartScrubs_kept | apply becomeActiveLookout_kept) | split | (dsimp only) | (with_reducible first | refine kept_snd (by with_reducible assumption) ?_ | refine kept_some (by with_reducible assumption) ?_))

theorem execPortsOnlyEntryEnd_kept {x0 s1} (h1 : Kept q s1) : KeptOut q (execPortsOnlyEntryEnd x0 s1) := by
  unfold execPortsOnlyEntryEnd
  try dsimp only
  repeat' (first | (with_reducible first | assumption | apply kept_all) | (intro _) | (simp only [kept_mk]) | (with_reducible first | apply kept_foldl | apply kept_foldl2 | apply keptOut_next | apply State.upTo_kept | apply whenever_kept | apply settle_kept | apply endEntry_kept | apply requeueScrubs_kept | apply gateCopse_kept))

theorem dropUnmapped_kept {x0 s1} (h1 : Kept q s1) : Kept q (dropUnmapped x0 s1) := by
  unfold dropUnmapped
  try dsimp only
  repeat' (first | (with_reducible first | assumption | apply countScrub_kept | apply State.setCopse_kept))

theorem backInvalidate_kept {x0 s1} (h1 : Kept q s1) : Kept q (backInvalidate x0 s1) := by
  unfold backInvalidate
  try dsimp only
  repeat' (first | (with_reducible assumption) | (intro _) | (with_reducible first | apply kept_ite | apply kept_ite2 | apply kept_getD | apply State.delEntry_kept | apply sendSnoops_kept | apply State.fadd_kept | apply State.putEntry_kept) | split | (dsimp only))

theorem backInvalidateAll_kept {x0 s1} (h1 : Kept q s1) : Kept q (backInvalidateAll x0 s1) := by
  induction x0 generalizing s1 with
  | nil =>
    unfold backInvalidateAll
    try dsimp only
    repeat' (first | (with_reducible first | assumption | apply backInvalidate_kept) | split | (dsimp only) | (with_reducible first | refine kept_snd (by with_reducible assumption) ?_ | refine kept_some (by with_reducible assumption) ?_))
  | cons a l ih =>
    unfold backInvalidateAll
    try dsimp only
    repeat' (first | (with_reducible first | assumption | apply ih | apply backInvalidate_kept) | split | (dsimp only) | (with_reducible first | refine kept_snd (by with_reducible assumption) ?_ | refine kept_some (by with_reducible assumption) ?_))

theorem downPort_kept {x0 s1} (h1 : Kept q s1) : Kept q (downPort x0 s1) := by
  unfold downPort
  try dsimp only
  repeat' (first | (with_reducible assumption) | (intro _) | (with_reducible first | apply kept_ite | apply kept_ite2 | apply kept_foldl | apply kept_foldl2 | apply linkDown_kept) | split | (dsimp only))

theorem startScrub_kept {x0 x1 x2 x3 s4} (h4 : Kept q s4) : Kept q (startScrub x0 x1 x2 x3 s4) := by
  unfold startScrub
  try dsimp only
  repeat' (first | (with_reducible first | assumption | apply kept_all) | (simp only [kept_mk]) | (with_reducible first | apply kept_ite | apply kept_ite2 | apply setUnit_kept | apply dropUnmapped_kept | apply backInvalidateAll_kept | apply downPort_kept) | split | (dsimp only))

theorem scrubGo_kept {s0} (h0 : Kept q s0) : Kept q (scrubGo s0) := by
  unfold scrubGo
  try dsimp only
  repeat' (first | (with_reducible assumption) | (intro _) | (with_reducible first | apply kept_ite | apply kept_ite2 | apply kept_getD | apply startScrub_kept | apply State.fset_kept) | split | (dsimp only))

theorem zeroUnit_kept {x0 s1} (h1 : Kept q s1) : Kept q (zeroUnit x0 s1) := by
  unfold zeroUnit
  try dsimp only
  repeat' (first | (with_reducible first | assumption | apply kept_all) | (simp only [kept_mk]) | (with_reducible first | apply kept_ite | apply kept_ite2 | apply resetWords_kept | apply State.setCopse_kept) | split | (dsimp only) | (with_reducible first | apply kept_ctl | apply kept_t0 | apply kept_seed0 | apply kept_seed1 | apply SMap.sorted_filter | apply SMap.sorted_keep | apply SMap.wf_keep | apply wf_nil | apply writeBytes_wf | apply copyRegion_wf | apply Kept.ctl (q := q) | apply Kept.t0 (q := q) | apply Kept.seed0 (q := q) | apply Kept.seed1 (q := q)))

theorem State.putScrub_kept {s0 x1} (h0 : Kept q s0) : Kept q (State.putScrub s0 x1) := by
  unfold State.putScrub
  try dsimp only
  repeat' (first | (with_reducible first | assumption | apply kept_all) | (simp only [kept_mk]) | (with_reducible first | apply kept_ite | apply kept_ite2) | split | (dsimp only))

theorem execScrubReadbackDone_kept {x0 x1 x2 s3} (h3 : Kept q s3) : KeptOut q (execScrubReadbackDone x0 x1 x2 s3) := by
  unfold execScrubReadbackDone
  try dsimp only
  repeat' (first | (with_reducible first | assumption | apply kept_ite | apply kept_ite2 | apply keptOut_next | apply keptOut_ite | apply State.upTo_kept | apply whenever_kept | apply State.putScrub_kept | apply setUnit_kept | apply ok_kept) | split | (dsimp only) | (with_reducible first | refine kept_snd (by with_reducible assumption) ?_ | refine kept_some (by with_reducible assumption) ?_))

theorem clearLast_kept {x0 x1 s2} (h2 : Kept q s2) : Kept q (clearLast x0 x1 s2) := by
  unfold clearLast
  try dsimp only
  repeat' (first | (with_reducible first | assumption | apply kept_all) | (simp only [kept_mk]) | (with_reducible first | apply kept_ite | apply kept_ite2 | apply resetWords_kept | apply endClrSessions_kept | apply State.fset_kept) | split | (dsimp only))

theorem execScrubStart_kept {x0 x1 s2} (h2 : Kept q s2) : KeptOut q (execScrubStart x0 x1 s2) := by
  unfold execScrubStart
  try dsimp only
  repeat' (first | (with_reducible first | assumption | apply kept_all) | (simp only [kept_mk]) | (with_reducible first | apply keptOut_next | apply kept_getD | apply State.upTo_kept | apply whenever_kept | apply settle_kept | apply startScrub_kept | apply ok_kept) | split | (dsimp only) | (with_reducible first | refine kept_snd (by with_reducible assumption) ?_ | refine kept_some (by with_reducible assumption) ?_))

theorem execScrubWritebackDone_kept {x0 x1 s2} (h2 : Kept q s2) : KeptOut q (execScrubWritebackDone x0 x1 s2) := by
  unfold execScrubWritebackDone
  try dsimp only
  repeat' (first | (with_reducible first | assumption | apply kept_ite | apply kept_ite2 | apply keptOut_next | apply keptOut_ite | apply State.upTo_kept | apply backInvalidateAll_kept | apply ok_kept | apply settle_kept | apply State.putScrub_kept) | split | (dsimp only) | (with_reducible first | refine kept_snd (by with_reducible assumption) ?_ | refine kept_some (by with_reducible assumption) ?_))

theorem recordScrub_kept {x0 s1} (h1 : Kept q s1) : Kept q (recordScrub x0 s1) := by
  unfold recordScrub
  try dsimp only
  repeat' (first | (with_reducible first | assumption | apply kept_all) | (simp only [kept_mk]) | (with_reducible first | apply kept_ite | apply kept_ite2 | apply setUnit_kept | apply State.fset_kept | apply pulse_kept | apply State.fadd_kept | apply clearLast_kept | apply trainAgain_kept) | split | (dsimp only))

theorem execScrubRecordHeld_kept {x0 x1 s2} (h2 : Kept q s2) : KeptOut q (execScrubRecordHeld x0 x1 s2) := by
  unfold execScrubRecordHeld
  try dsimp only
  repeat' (first | (with_reducible first | assumption | apply keptOut_next | apply State.upTo_kept | apply whenever_kept | apply settle_kept | apply recordScrub_kept | apply ok_kept) | split | (dsimp only) | (with_reducible first | refine kept_snd (by with_reducible assumption) ?_ | refine kept_some (by with_reducible assumption) ?_))

theorem execScrubZeroDone_kept {x0 x1 s2} (h2 : Kept q s2) : KeptOut q (execScrubZeroDone x0 x1 s2) := by
  unfold execScrubZeroDone
  try dsimp only
  repeat' (first | (with_reducible first | assumption | apply keptOut_next | apply State.upTo_kept | apply whenever_kept | apply State.putScrub_kept | apply zeroUnit_kept | apply ok_kept) | split | (dsimp only) | (with_reducible first | refine kept_snd (by with_reducible assumption) ?_ | refine kept_some (by with_reducible assumption) ?_))

theorem execMsg_kept {x0 x1 x2 x3 x4 s5} (h5 : Kept q s5) : KeptOut q (execMsg x0 x1 x2 x3 x4 s5) := by
  unfold execMsg
  try dsimp only
  repeat' (first | (with_reducible first | assumption | apply kept_ite | apply kept_ite2 | apply keptOut_next | apply keptOut_ite | apply arriveReq_kept) | split | (dsimp only))

theorem askLedger_kept {x0 x1 x2 x3 x4 s5} (h5 : Kept q s5) : KeptOut q (askLedger x0 x1 x2 x3 x4 s5) := by
  unfold askLedger
  try dsimp only
  repeat' (first | (with_reducible first | assumption | apply keptOut_next | apply arriveReq_kept))

theorem execAccept_kept {x0 x1 x2 s3} (h3 : Kept q s3) : KeptOut q (execAccept x0 x1 x2 s3) := by
  unfold execAccept
  try dsimp only
  repeat' (first | (with_reducible first | assumption | apply keptOut_next | apply askLedger_kept))

theorem execQuiesceInstall_kept {x0 s1} (h1 : Kept q s1) : KeptOut q (execQuiesceInstall x0 s1) := by
  unfold execQuiesceInstall
  try dsimp only
  repeat' (first | (with_reducible first | assumption | apply keptOut_next | apply State.upTo_kept | apply whenever_kept | apply settle_kept | apply quiesceInstall_kept))

theorem execCommitChecked_kept {x0 s1} (h1 : Kept q s1) : KeptOut q (execCommitChecked x0 s1) := by
  unfold execCommitChecked
  try dsimp only
  repeat' (first | (with_reducible first | assumption | apply keptOut_next | apply State.upTo_kept | apply whenever_kept | apply settle_kept | apply commitChecked_kept))

theorem execSpareTestEnd_kept {x0 x1 s2} (h2 : Kept q s2) : KeptOut q (execSpareTestEnd x0 x1 s2) := by
  unfold execSpareTestEnd
  try dsimp only
  repeat' (first | (with_reducible first | assumption | apply keptOut_next | apply State.upTo_kept | apply whenever_kept | apply settle_kept | apply spareTestEnd_kept))

theorem execEpochNote_kept {x0 x1 s2} (h2 : Kept q s2) : KeptOut q (execEpochNote x0 x1 s2) := by
  unfold execEpochNote
  try dsimp only
  repeat' (first | (with_reducible first | assumption | apply keptOut_next | apply arriveReq_kept))

theorem execSpareAdmission_kept {x0 x1 s2} (h2 : Kept q s2) : KeptOut q (execSpareAdmission x0 x1 s2) := by
  unfold execSpareAdmission
  try dsimp only
  repeat' (first | (with_reducible first | assumption | apply keptOut_next | apply State.upTo_kept | apply whenever_kept | apply settle_kept | apply holdOp_kept))

theorem execLedgerRevert_kept {x0 x1 x2 s3} (h3 : Kept q s3) : KeptOut q (execLedgerRevert x0 x1 x2 s3) := by
  unfold execLedgerRevert
  try dsimp only
  repeat' (first | (with_reducible first | assumption | apply kept_all) | (simp only [kept_mk]) | (with_reducible first | apply keptOut_next | apply State.upTo_kept | apply whenever_kept))

theorem execQuiesceResume_kept {x0 s1} (h1 : Kept q s1) : KeptOut q (execQuiesceResume x0 s1) := by
  unfold execQuiesceResume
  try dsimp only
  repeat' (first | (with_reducible first | assumption | apply kept_all) | (intro _) | (simp only [kept_mk]) | (with_reducible first | apply kept_ite | apply kept_ite2 | apply kept_foldl | apply kept_foldl2 | apply keptOut_next | apply keptOut_ite | apply State.upTo_kept | apply retryHeld_kept | apply noteAll_kept | apply endCommit_kept | apply ok_kept | apply settle_kept | apply scheduleAll_kept) | split | (dsimp only) | (with_reducible first | refine kept_snd (by with_reducible assumption) ?_ | refine kept_some (by with_reducible assumption) ?_))

theorem execCommitPosition_kept {x0 s1} (h1 : Kept q s1) : KeptOut q (execCommitPosition x0 s1) := by
  unfold execCommitPosition
  try dsimp only
  repeat' (first | (with_reducible first | assumption | apply keptOut_next | apply State.upTo_kept | apply whenever_kept | apply settle_kept | apply positionOp_kept))

theorem execCommitSwitch_kept {x0 s1} (h1 : Kept q s1) : KeptOut q (execCommitSwitch x0 s1) := by
  unfold execCommitSwitch
  try dsimp only
  repeat' (first | (with_reducible first | assumption | apply keptOut_next | apply State.upTo_kept | apply whenever_kept | apply settle_kept | apply commitSwitch_kept))

theorem execQuery_kept {x0 x1 x2 s3} (h3 : Kept q s3) : KeptOut q (execQuery x0 x1 x2 s3) := by
  unfold execQuery
  try dsimp only
  repeat' (first | (with_reducible first | assumption | apply keptOut_next | apply askLedger_kept))

theorem execQuiesceDrained_kept {x0 s1} (h1 : Kept q s1) : KeptOut q (execQuiesceDrained x0 s1) := by
  unfold execQuiesceDrained
  try dsimp only
  repeat' (first | (with_reducible first | assumption | apply keptOut_next | apply State.upTo_kept | apply whenever_kept | apply settle_kept | apply quiesceDrained_kept | apply ok_kept) | split | (dsimp only) | (with_reducible first | refine kept_snd (by with_reducible assumption) ?_ | refine kept_some (by with_reducible assumption) ?_))

theorem execCommitHeld_kept {x0 s1} (h1 : Kept q s1) : KeptOut q (execCommitHeld x0 s1) := by
  unfold execCommitHeld
  try dsimp only
  repeat' (first | (with_reducible first | assumption | apply keptOut_next | apply State.upTo_kept | apply whenever_kept | apply settle_kept | apply holdOp_kept))

theorem execCreate_kept {x0 x1 x2 s3} (h3 : Kept q s3) : KeptOut q (execCreate x0 x1 x2 s3) := by
  unfold execCreate
  try dsimp only
  repeat' (first | (with_reducible first | assumption | apply keptOut_next | apply askLedger_kept))

theorem execSpareLoaded_kept {x0 x1 s2} (h2 : Kept q s2) : KeptOut q (execSpareLoaded x0 x1 s2) := by
  unfold execSpareLoaded
  try dsimp only
  repeat' (first | (with_reducible first | assumption | apply keptOut_next | apply State.upTo_kept | apply whenever_kept | apply sparePhase_kept))

theorem execSubmit_kept {x0 x1 x2 s3} (h3 : Kept q s3) : KeptOut q (execSubmit x0 x1 x2 s3) := by
  unfold execSubmit
  try dsimp only
  repeat' (first | (with_reducible first | assumption | apply kept_ite | apply kept_ite2 | apply keptOut_next | apply keptOut_ite | apply arriveReq_kept) | split | (dsimp only))

theorem execDrainWindowEnd_kept {x0 s1} (h1 : Kept q s1) : KeptOut q (execDrainWindowEnd x0 s1) := by
  unfold execDrainWindowEnd
  try dsimp only
  repeat' (first | (with_reducible first | assumption | apply keptOut_next | apply State.upTo_kept | apply whenever_kept | apply settle_kept | apply drainEnd_kept | apply ok_kept) | split | (dsimp only) | (with_reducible first | refine kept_snd (by with_reducible assumption) ?_ | refine kept_some (by with_reducible assumption) ?_))

theorem execBegin_kept {x0 x1 x2 x3 s4} (h4 : Kept q s4) : KeptOut q (execBegin x0 x1 x2 x3 s4) := by
  unfold execBegin
  try dsimp only
  repeat' (first | (with_reducible first | assumption | apply keptOut_next | apply askLedger_kept))

theorem execDelete_kept {x0 x1 x2 s3} (h3 : Kept q s3) : KeptOut q (execDelete x0 x1 x2 s3) := by
  unfold execDelete
  try dsimp only
  repeat' (first | (with_reducible first | assumption | apply keptOut_next | apply askLedger_kept))

theorem execAbort_kept {x0 x1 x2 s3} (h3 : Kept q s3) : KeptOut q (execAbort x0 x1 x2 s3) := by
  unfold execAbort
  try dsimp only
  repeat' (first | (with_reducible first | assumption | apply keptOut_next | apply askLedger_kept))

theorem execSpareLoadStall_kept {x0 x1 s2} (h2 : Kept q s2) : KeptOut q (execSpareLoadStall x0 x1 s2) := by
  unfold execSpareLoadStall
  try dsimp only
  repeat' (first | (with_reducible first | assumption | apply keptOut_next | apply State.upTo_kept | apply whenever_kept | apply settle_kept | apply spareStall_kept))

theorem classWritten_kept {x0 x1 x2 x3 s4} (h4 : Kept q s4) : Kept q (classWritten x0 x1 x2 x3 s4) := by
  unfold classWritten
  try dsimp only
  repeat' (first | (with_reducible first | assumption | apply kept_ite | apply kept_ite2 | apply shaperWritten_kept | apply leaveStrict_kept) | split | (dsimp only))

theorem installKeys_kept {s0} (h0 : Kept q s0) : Kept q (installKeys s0) := by
  unfold installKeys
  try dsimp only
  repeat' (first | (with_reducible first | assumption | apply kept_all) | (simp only [kept_mk]))

theorem runDiag_kept {s0} (h0 : Kept q s0) : Kept q (runDiag s0) := by
  unfold runDiag
  try dsimp only
  repeat' (first | (with_reducible first | assumption | apply writeRaw_kept | apply clearRaw_kept | apply readRaw_kept) | split | (dsimp only) | (with_reducible first | refine kept_snd (by with_reducible assumption) ?_ | refine kept_some (by with_reducible assumption) ?_))

theorem ringWritten_kept {x0 x1 x2 x3 s4} (h4 : Kept q s4) : Kept q (ringWritten x0 x1 x2 x3 s4) := by
  unfold ringWritten
  try dsimp only
  repeat' (first | (with_reducible first | assumption | apply kept_ite | apply kept_ite2 | apply State.setWord_kept) | split | (dsimp only))

theorem afterWrite_kept {x0 x1 x2 x3 s4 s5} (h4 : Kept q s4) (h5 : Kept q s5) : Kept q (afterWrite x0 x1 x2 x3 s4 s5) := by
  unfold afterWrite
  try dsimp only
  repeat' (first | (with_reducible first | assumption | apply kept_ite | apply kept_ite2 | apply kept_getD | apply targetWrite_kept | apply writeSet_kept | apply raiseSvn_kept | apply nvCommit_kept | apply ucalCommit_kept | apply updateGo_kept | apply handoverGo_kept | apply installKeys_kept | apply ptpSource_kept | apply enablePort_kept | apply keyLifeWritten_kept | apply trainAgain_kept | apply recalLane_kept | apply domainReset_kept | apply unpoison_kept | apply commitGo_kept | apply scrubGo_kept | apply spareCmd_kept | apply runDiag_kept | apply unmask_kept | apply setMask_kept | apply endOfEvent_kept | apply pulse_kept | apply freeAmax_kept | apply freeResid_kept | apply shaperWritten_kept | apply classWritten_kept | apply polWritten_kept | apply refreshGates_kept | apply gateCommit_kept | apply gateCancel_kept | apply ringWritten_kept) | split | (dsimp only) | (with_reducible first | refine kept_snd (by with_reducible assumption) ?_ | refine kept_some (by with_reducible assumption) ?_))

theorem writeWord_kept {x0 x1 x2 x3 x4 s5} (h5 : Kept q s5) : Kept q (writeWord x0 x1 x2 x3 x4 s5).2 := by
  unfold writeWord
  try dsimp only
  repeat' (first | (with_reducible first | assumption | apply kept_ite | apply kept_ite2 | apply State.setWord_kept | apply afterWrite_kept) | split | (dsimp only) | (with_reducible first | refine kept_snd (by with_reducible assumption) ?_ | refine kept_some (by with_reducible assumption) ?_))

theorem cmdWrite_kept {x0 x1 x2 x3 x4 s5} (h5 : Kept q s5) : Kept q (cmdWrite x0 x1 x2 x3 x4 s5) := by
  unfold cmdWrite
  try dsimp only
  repeat' (first | (with_reducible first | assumption | apply kept_ite | apply kept_ite2 | apply writeWord_kept | apply State.done_kept) | split | (dsimp only) | (with_reducible first | refine kept_snd (by with_reducible assumption) ?_ | refine kept_some (by with_reducible assumption) ?_))

theorem writeSeed_kept {x0 x1 x2 s3} (h3 : Kept q s3) : Kept q (writeSeed x0 x1 x2 s3).2 := by
  unfold writeSeed
  try dsimp only
  repeat' (first | (with_reducible first | assumption | apply windowWrite_kept))

theorem writeShadow_kept {x0 x1 x2 s3} (h3 : Kept q s3) : Kept q (writeShadow x0 x1 x2 s3).2 := by
  unfold writeShadow
  try dsimp only
  repeat' (first | (with_reducible first | assumption | apply kept_all) | (simp only [kept_mk]) | (with_reducible first | apply kept_ite | apply kept_ite2) | split | (dsimp only) | (with_reducible first | refine kept_snd (by with_reducible assumption) ?_ | refine kept_some (by with_reducible assumption) ?_))

theorem ctlWrite_kept {x0 x1 x2 x3 s4} (h4 : Kept q s4) : Kept q (ctlWrite x0 x1 x2 x3 s4).2 := by
  unfold ctlWrite
  try dsimp only
  repeat' (first | (with_reducible first | assumption | apply kept_ite | apply kept_ite2 | apply writeSeed_kept | apply writeShadow_kept | apply writeWord_kept) | split | (dsimp only) | (with_reducible first | refine kept_snd (by with_reducible assumption) ?_ | refine kept_some (by with_reducible assumption) ?_))

theorem readTake_kept {x0 x1 x2 x3 s4} (h4 : Kept q s4) : Kept q (readTake x0 x1 x2 x3 s4).2 := by
  unfold readTake
  try dsimp only
  repeat' (first | (with_reducible first | assumption | apply kept_all) | (simp only [kept_mk]) | (with_reducible first | apply kept_ite | apply kept_ite2 | apply claimSource_kept) | split | (dsimp only) | (with_reducible first | refine kept_snd (by with_reducible assumption) ?_ | refine kept_some (by with_reducible assumption) ?_))

theorem readWindow_kept {x0 s1} (h1 : Kept q s1) : Kept q (readWindow x0 s1).2 := by
  unfold readWindow
  try dsimp only
  repeat' (first | (with_reducible first | assumption | apply kept_ite | apply kept_ite2 | apply State.draw_kept) | split | (dsimp only) | (with_reducible first | refine kept_snd (by with_reducible assumption) ?_ | refine kept_some (by with_reducible assumption) ?_))

theorem cmdField_kept {x0 x1 x2 x3 s4} (h4 : Kept q s4) : Kept q (cmdField x0 x1 x2 x3 s4) := by
  unfold cmdField
  try dsimp only
  repeat' (first | (with_reducible first | assumption | apply cmdWrite_kept))

theorem readWordOf_kept {x0 x1 x2 x3 s4} (h4 : Kept q s4) : Kept q (readWordOf x0 x1 x2 x3 s4).2 := by
  unfold readWordOf
  try dsimp only
  repeat' (first | (with_reducible first | assumption | apply kept_ite | apply kept_ite2 | apply readTake_kept | apply State.setWord_kept) | split | (dsimp only) | (with_reducible first | refine kept_snd (by with_reducible assumption) ?_ | refine kept_some (by with_reducible assumption) ?_))

theorem ctlRead_kept {x0 x1 x2 s3} (h3 : Kept q s3) : Kept q (ctlRead x0 x1 x2 s3).2 := by
  unfold ctlRead
  try dsimp only
  repeat' (first | (with_reducible first | assumption | apply kept_ite | apply kept_ite2 | apply readWindow_kept | apply readWordOf_kept) | split | (dsimp only) | (with_reducible first | refine kept_snd (by with_reducible assumption) ?_ | refine kept_some (by with_reducible assumption) ?_))

theorem cmdFields_kept {x0 x1 x2 x3 s4} (h4 : Kept q s4) : Kept q (cmdFields x0 x1 x2 x3 s4) := by
  unfold cmdFields
  try dsimp only
  repeat' (first | (with_reducible assumption) | (intro _) | (with_reducible first | apply kept_foldl | apply kept_foldl2 | apply cmdWrite_kept))

theorem ctlIns_kept {x0 x1 x2 x3 x4 f5 s6} (h5 : ∀ y0 y1 y2 y3,Kept q y3 →  Kept q (f5 y0 y1 y2 y3)) (h6 : Kept q s6) : Kept q (ctlIns x0 x1 x2 x3 x4 f5 s6) := by
  unfold ctlIns
  try dsimp only
  repeat' (first | (with_reducible assumption) | (intro _) | (with_reducible first | apply kept_ite | apply kept_ite2 | apply h5 | apply issue_kept | apply fault_kept | apply countIssue_kept | apply failWith_kept) | split | (dsimp only))

theorem ctlStore_kept {x0 x1 x2 x3 x4 s5} (h5 : Kept q s5) : Kept q (ctlStore x0 x1 x2 x3 x4 s5) := by
  unfold ctlStore
  try dsimp only
  repeat' (first | (with_reducible first | assumption | apply ctlWrite_kept | apply retire_kept | apply failWith_kept | apply countIssue_kept) | split | (dsimp only) | (with_reducible first | refine kept_snd (by with_reducible assumption) ?_ | refine kept_some (by with_reducible assumption) ?_))

theorem execCsmw_kept {x0 x1 s2} (h2 : Kept q s2) : KeptOut q (execCsmw x0 x1 s2) := by
  unfold execCsmw
  try dsimp only
  repeat' (first | (with_reducible assumption) | (intro _) | (with_reducible first | apply keptOut_next | apply ok_kept | apply settle_kept | apply ctlIns_kept | apply ctlStore_kept))

theorem execQuiesceGo_kept {x0 x1 s2} (h2 : Kept q s2) : KeptOut q (execQuiesceGo x0 x1 s2) := by
  unfold execQuiesceGo
  try dsimp only
  repeat' (first | (with_reducible first | assumption | apply keptOut_next | apply ok_kept | apply settle_kept | apply cmdFields_kept | apply State.upTo_kept | refine kept_snd (by with_reducible assumption) ?_ | refine kept_some (by with_reducible assumption) ?_))

theorem execGateCancel_kept {x0 x1 x2 s3} (h3 : Kept q s3) : KeptOut q (execGateCancel x0 x1 x2 s3) := by
  unfold execGateCancel
  try dsimp only
  repeat' (first | (with_reducible first | assumption | apply keptOut_next | apply ok_kept | apply settle_kept | apply cmdField_kept | apply State.upTo_kept))

theorem execGateCommit_kept {x0 x1 x2 s3} (h3 : Kept q s3) : KeptOut q (execGateCommit x0 x1 x2 s3) := by
  unfold execGateCommit
  try dsimp only
  repeat' (first | (with_reducible first | assumption | apply keptOut_next | apply ok_kept | apply settle_kept | apply cmdField_kept | apply State.upTo_kept))

theorem execLaneRecal_kept {x0 x1 x2 x3 s4} (h4 : Kept q s4) : KeptOut q (execLaneRecal x0 x1 x2 x3 s4) := by
  unfold execLaneRecal
  try dsimp only
  repeat' (first | (with_reducible first | assumption | apply keptOut_next | apply ok_kept | apply settle_kept | apply cmdField_kept | apply State.upTo_kept))

theorem execSpareAdmit_kept {x0 x1 x2 s3} (h3 : Kept q s3) : KeptOut q (execSpareAdmit x0 x1 x2 s3) := by
  unfold execSpareAdmit
  try dsimp only
  repeat' (first | (with_reducible first | assumption | apply keptOut_next | apply ok_kept | apply settle_kept | apply cmdField_kept | apply State.upTo_kept))

theorem execUpdateGo_kept {x0 x1 x2 x3 x4 x5 s6} (h6 : Kept q s6) : KeptOut q (execUpdateGo x0 x1 x2 x3 x4 x5 s6) := by
  unfold execUpdateGo
  try dsimp only
  repeat' (first | (with_reducible first | assumption | apply keptOut_next | apply ok_kept | apply settle_kept | apply cmdFields_kept | apply State.upTo_kept | refine kept_snd (by with_reducible assumption) ?_ | refine kept_some (by with_reducible assumption) ?_))

theorem execRetrain_kept {x0 x1 x2 s3} (h3 : Kept q s3) : KeptOut q (execRetrain x0 x1 x2 s3) := by
  unfold execRetrain
  try dsimp only
  repeat' (first | (with_reducible first | assumption | apply keptOut_next | apply ok_kept | apply settle_kept | apply cmdField_kept | apply State.upTo_kept))

theorem execCommitGo_kept {x0 x1 s2} (h2 : Kept q s2) : KeptOut q (execCommitGo x0 x1 s2) := by
  unfold execCommitGo
  try dsimp only
  repeat' (first | (with_reducible first | assumption | apply keptOut_next | apply ok_kept | apply settle_kept | apply cmdFields_kept | apply State.upTo_kept | refine kept_snd (by with_reducible assumption) ?_ | refine kept_some (by with_reducible assumption) ?_))

theorem execShaperWrite_kept {x0 x1 x2 x3 x4 s5} (h5 : Kept q s5) : KeptOut q (execShaperWrite x0 x1 x2 x3 x4 s5) := by
  unfold execShaperWrite
  try dsimp only
  repeat' (first | (with_reducible first | assumption | apply kept_ite | apply kept_ite2 | apply keptOut_next | apply keptOut_ite | apply ok_kept | apply settle_kept | apply cmdWrite_kept | apply State.upTo_kept) | split | (dsimp only))

theorem execSpareTest_kept {x0 x1 x2 x3 x4 x5 s6} (h6 : Kept q s6) : KeptOut q (execSpareTest x0 x1 x2 x3 x4 x5 s6) := by
  unfold execSpareTest
  try dsimp only
  repeat' (first | (with_reducible first | assumption | apply keptOut_next | apply ok_kept | apply settle_kept | apply cmdFields_kept | apply State.upTo_kept | refine kept_snd (by with_reducible assumption) ?_ | refine kept_some (by with_reducible assumption) ?_))

theorem execCswr_kept {x0 x1 s2} (h2 : Kept q s2) : KeptOut q (execCswr x0 x1 s2) := by
  unfold execCswr
  try dsimp only
  repeat' (first | (with_reducible assumption) | (intro _) | (with_reducible first | apply keptOut_next | apply ok_kept | apply settle_kept | apply ctlIns_kept | apply ctlStore_kept))

theorem execTrailCfgWrite_kept {x0 x1 x2 x3 x4 s5} (h5 : Kept q s5) : KeptOut q (execTrailCfgWrite x0 x1 x2 x3 x4 s5) := by
  unfold execTrailCfgWrite
  try dsimp only
  repeat' (first | (with_reducible first | assumption | apply kept_ite | apply kept_ite2 | apply keptOut_next | apply keptOut_ite | apply ok_kept | apply settle_kept | apply cmdWrite_kept | apply State.upTo_kept) | split | (dsimp only))

theorem execPolicerWrite_kept {x0 x1 x2 x3 x4 x5 s6} (h6 : Kept q s6) : KeptOut q (execPolicerWrite x0 x1 x2 x3 x4 x5 s6) := by
  unfold execPolicerWrite
  try dsimp only
  repeat' (first | (with_reducible first | assumption | apply keptOut_next | apply ok_kept | apply settle_kept | apply cmdWrite_kept | apply State.upTo_kept))

theorem execDomainReset_kept {x0 x1 x2 s3} (h3 : Kept q s3) : KeptOut q (execDomainReset x0 x1 x2 s3) := by
  unfold execDomainReset
  try dsimp only
  repeat' (first | (with_reducible first | assumption | apply keptOut_next | apply ok_kept | apply settle_kept | apply cmdField_kept | apply State.upTo_kept))

theorem execSpareLoad_kept {x0 x1 x2 s3} (h3 : Kept q s3) : KeptOut q (execSpareLoad x0 x1 x2 s3) := by
  unfold execSpareLoad
  try dsimp only
  repeat' (first | (with_reducible first | assumption | apply keptOut_next | apply ok_kept | apply settle_kept | apply cmdField_kept | apply State.upTo_kept))

theorem execPortEnable_kept {x0 x1 x2 s3} (h3 : Kept q s3) : KeptOut q (execPortEnable x0 x1 x2 s3) := by
  unfold execPortEnable
  try dsimp only
  repeat' (first | (with_reducible first | assumption | apply keptOut_next | apply ok_kept | apply settle_kept | apply cmdField_kept | apply State.upTo_kept))

theorem execUnpoison_kept {x0 x1 x2 x3 s4} (h4 : Kept q s4) : KeptOut q (execUnpoison x0 x1 x2 x3 s4) := by
  unfold execUnpoison
  try dsimp only
  repeat' (first | (with_reducible first | assumption | apply keptOut_next | apply ok_kept | apply settle_kept | apply cmdField_kept | apply State.upTo_kept))

theorem execScrubGo_kept {x0 x1 x2 s3} (h3 : Kept q s3) : KeptOut q (execScrubGo x0 x1 x2 s3) := by
  unfold execScrubGo
  try dsimp only
  repeat' (first | (with_reducible first | assumption | apply keptOut_next | apply ok_kept | apply settle_kept | apply cmdFields_kept | apply State.upTo_kept | refine kept_snd (by with_reducible assumption) ?_ | refine kept_some (by with_reducible assumption) ?_))

theorem execCsrd_kept {x0 x1 s2} (h2 : Kept q s2) : KeptOut q (execCsrd x0 x1 s2) := by
  unfold execCsrd
  try dsimp only
  repeat' (first | (with_reducible assumption) | (intro _) | (with_reducible first | apply keptOut_next | apply ok_kept | apply settle_kept | apply ctlIns_kept | apply ctlRead_kept | apply retire_kept | apply State.setS_kept | apply failWith_kept | apply countIssue_kept | apply waitFor_kept) | split | (dsimp only) | (with_reducible first | refine kept_snd (by with_reducible assumption) ?_ | refine kept_some (by with_reducible assumption) ?_))

theorem execHandoverGo_kept {x0 x1 x2 s3} (h3 : Kept q s3) : KeptOut q (execHandoverGo x0 x1 x2 s3) := by
  unfold execHandoverGo
  try dsimp only
  repeat' (first | (with_reducible first | assumption | apply keptOut_next | apply ok_kept | apply settle_kept | apply cmdField_kept | apply State.upTo_kept))

theorem execKeyLifeWrite_kept {x0 x1 x2 x3 s4} (h4 : Kept q s4) : KeptOut q (execKeyLifeWrite x0 x1 x2 x3 s4) := by
  unfold execKeyLifeWrite
  try dsimp only
  repeat' (first | (with_reducible first | assumption | apply keptOut_next | apply ok_kept | apply settle_kept | apply cmdField_kept | apply State.upTo_kept))

theorem diagCmd_kept {x0 x1 x2 x3 x4 x5 x6 x7 s8} (h8 : Kept q s8) : Kept q (diagCmd x0 x1 x2 x3 x4 x5 x6 x7 s8) := by
  unfold diagCmd
  try dsimp only
  repeat' (first | (with_reducible assumption) | (intro _) | (with_reducible first | apply kept_ite | apply kept_ite2 | apply kept_foldl | apply kept_foldl2 | apply State.fset_kept | apply State.setWord_kept | apply settle_kept | apply cmdFields_kept | apply State.done_kept) | split | (dsimp only) | (with_reducible first | refine kept_snd (by with_reducible assumption) ?_ | refine kept_some (by with_reducible assumption) ?_))

theorem execReadRaw_kept {x0 x1 x2 x3 x4 x5 s6} (h6 : Kept q s6) : KeptOut q (execReadRaw x0 x1 x2 x3 x4 x5 s6) := by
  unfold execReadRaw
  try dsimp only
  repeat' (first | (with_reducible first | assumption | apply keptOut_next | apply ok_kept | apply diagCmd_kept | apply State.upTo_kept))

theorem execCoalesceTimeout_kept {x0 x1 x2 s3} (h3 : Kept q s3) : KeptOut q (execCoalesceTimeout x0 x1 x2 s3) := by
  unfold execCoalesceTimeout
  try dsimp only
  repeat' (first | (with_reducible first | assumption | apply keptOut_next | apply State.upTo_kept | apply whenever_kept | apply settle_kept | apply State.fset_kept))

theorem execSourceUnmask_kept {x0 x1 x2 x3 s4} (h4 : Kept q s4) : KeptOut q (execSourceUnmask x0 x1 x2 x3 s4) := by
  unfold execSourceUnmask
  try dsimp only
  repeat' (first | (with_reducible first | assumption | apply keptOut_next | apply ok_kept | apply settle_kept | apply cmdField_kept | apply State.upTo_kept))

theorem execWriteRaw_kept {x0 x1 x2 x3 x4 x5 x6 x7 s8} (h8 : Kept q s8) : KeptOut q (execWriteRaw x0 x1 x2 x3 x4 x5 x6 x7 s8) := by
  unfold execWriteRaw
  try dsimp only
  repeat' (first | (with_reducible first | assumption | apply keptOut_next | apply ok_kept | apply diagCmd_kept | apply State.upTo_kept))

theorem execDoorbell_kept {x0 x1 x2 x3 s4} (h4 : Kept q s4) : KeptOut q (execDoorbell x0 x1 x2 x3 s4) := by
  unfold execDoorbell
  try dsimp only
  repeat' (first | (with_reducible first | assumption | apply keptOut_next | apply ok_kept | apply settle_kept | apply cmdField_kept | apply State.upTo_kept))

theorem execEoe_kept {x0 x1 x2 x3 s4} (h4 : Kept q s4) : KeptOut q (execEoe x0 x1 x2 x3 s4) := by
  unfold execEoe
  try dsimp only
  repeat' (first | (with_reducible first | assumption | apply keptOut_next | apply ok_kept | apply settle_kept | apply cmdField_kept | apply State.upTo_kept))

theorem execScopeResetDone_kept {x0 x1 x2 x3 s4} (h4 : Kept q s4) : KeptOut q (execScopeResetDone x0 x1 x2 x3 s4) := by
  unfold execScopeResetDone
  try dsimp only
  repeat' (first | (with_reducible first | assumption | apply keptOut_next | apply State.upTo_kept | apply ok_kept | apply settle_kept | apply retryHeld_kept | apply endReset_kept) | split | (dsimp only) | (with_reducible first | refine kept_snd (by with_reducible assumption) ?_ | refine kept_some (by with_reducible assumption) ?_))

theorem execSourceEdge_kept {x0 x1 x2 x3 s4} (h4 : Kept q s4) : KeptOut q (execSourceEdge x0 x1 x2 x3 s4) := by
  unfold execSourceEdge
  try dsimp only
  repeat' (first | (with_reducible first | assumption | apply keptOut_next | apply State.upTo_kept | apply whenever_kept | apply settle_kept | apply sourceEdge_kept))

theorem execTake_kept {x0 x1 x2 x3 s4} (h4 : Kept q s4) : KeptOut q (execTake x0 x1 x2 x3 s4) := by
  unfold execTake
  try dsimp only
  repeat' (first | (with_reducible first | assumption | apply kept_ite | apply kept_ite2 | apply keptOut_next | apply keptOut_ite | apply State.upTo_kept | apply readWordOf_kept | apply ok_kept | apply settle_kept | apply State.done_kept) | split | (dsimp only) | (with_reducible first | refine kept_snd (by with_reducible assumption) ?_ | refine kept_some (by with_reducible assumption) ?_))

theorem execClear_kept {x0 x1 x2 x3 x4 x5 x6 x7 s8} (h8 : Kept q s8) : KeptOut q (execClear x0 x1 x2 x3 x4 x5 x6 x7 s8) := by
  unfold execClear
  try dsimp only
  repeat' (first | (with_reducible first | assumption | apply keptOut_next | apply ok_kept | apply diagCmd_kept | apply State.upTo_kept))

theorem execPatrolSlot_kept {x0 x1 x2 x3 x4 x5 x6 x7 s8} (h8 : Kept q s8) : KeptOut q (execPatrolSlot x0 x1 x2 x3 x4 x5 x6 x7 s8) := by
  unfold execPatrolSlot
  try dsimp only
  repeat' (first | (with_reducible first | assumption | apply keptOut_next | apply State.upTo_kept | apply whenever_kept | apply settle_kept | apply machineRead_kept))

theorem programAck_kept {x0 x1 x2 x3 s4} (h4 : Kept q s4) : Kept q (programAck x0 x1 x2 x3 s4) := by
  unfold programAck
  try dsimp only
  repeat' (first | (with_reducible first | assumption | apply ccpSend_kept))

theorem programChecked_kept {x0 x1 x2 s3} (h3 : Kept q s3) : Kept q (programChecked x0 x1 x2 s3) := by
  unfold programChecked
  try dsimp only
  repeat' (first | (with_reducible first | assumption | apply kept_all) | (simp only [kept_mk]) | (with_reducible first | apply kept_ite | apply kept_ite2 | apply kept_getD | apply programAck_kept | apply freeSlot_kept | apply putSlot_kept | apply addLoad_kept) | split | (dsimp only) | (with_reducible first | refine kept_snd (by with_reducible assumption) ?_ | refine kept_some (by with_reducible assumption) ?_))

theorem completeSlots_kept {x0 s1} (h1 : Kept q s1) : Kept q (completeSlots x0 s1) := by
  unfold completeSlots
  try dsimp only
  repeat' (first | (with_reducible first | assumption | apply kept_all) | (intro _) | (with_reducible first | apply kept_ite | apply kept_ite2 | apply kept_foldl | apply kept_foldl2 | apply freeSlot_kept) | split | (dsimp only) | (with_reducible first | refine kept_snd (by with_reducible assumption) ?_ | refine kept_some (by with_reducible assumption) ?_))

theorem gotAck_kept {x0 x1 s2} (h2 : Kept q s2) : Kept q (gotAck x0 x1 s2) := by
  unfold gotAck
  try dsimp only
  repeat' (first | (with_reducible first | assumption | apply completeSlots_kept | apply drainTx_kept | apply State.setSess_kept) | split | (dsimp only) | (with_reducible first | refine kept_snd (by with_reducible assumption) ?_ | refine kept_some (by with_reducible assumption) ?_))

theorem authFail_kept {s0} (h0 : Kept q s0) : Kept q (authFail s0) := by
  unfold authFail
  try dsimp only
  repeat' (first | (with_reducible first | assumption | apply State.fadd_kept))

theorem hello_kept {x0 s1} (h1 : Kept q s1) : Kept q (hello x0 s1) := by
  unfold hello
  try dsimp only
  repeat' (first | (with_reducible first | assumption | apply kept_all) | (simp only [kept_mk]) | (with_reducible first | apply kept_ite | apply kept_ite2 | apply authFail_kept | apply State.draw_kept | apply ccpSend_kept) | split | (dsimp only))

theorem streamTrail_kept {g seen s} {a b s'} (e : streamTrail g seen s = (a, b, s')) (h : Kept q s) : Kept q s' := by
  unfold streamTrail at e
  dsimp only at e
  cases e
  exact kept_ite h (State.fadd_kept h)

theorem streamTrails_kept {gs seen s} {a b s'} (e : streamTrails gs seen s = (a, b, s')) (h : Kept q s) : Kept q s' := by
  induction gs generalizing s a b s' with
  | nil => cases e; exact h
  | cons g gs ih =>
    cases e
    exact ih rfl (streamTrail_kept rfl h)

theorem streamTrails_state {gs seen} {s : State} (h : Kept q s) : Kept q (streamTrails gs seen s).2.2 := streamTrails_kept rfl h

theorem refusedFrag_kept {x0 x1 x2 s3} (h3 : Kept q s3) : Kept q (refusedFrag x0 x1 x2 s3) := by
  unfold refusedFrag
  try dsimp only
  repeat' (first | (with_reducible first | assumption | apply kept_ite | apply kept_ite2 | apply State.setSess_kept) | split | (dsimp only) | (with_reducible first | refine kept_snd (by with_reducible assumption) ?_ | refine kept_some (by with_reducible assumption) ?_))

theorem fillSlot_kept {x0 x1 x2 x3 s4} (h4 : Kept q s4) : Kept q (fillSlot x0 x1 x2 x3 s4) := by
  unfold fillSlot
  try dsimp only
  repeat' (first | (with_reducible first | assumption | apply kept_ite | apply kept_ite2 | apply refusedFrag_kept | apply programAck_kept | apply freeSlot_kept | apply putSlot_kept) | split | (dsimp only))

theorem programDgram_kept {x0 x1 s2} (h2 : Kept q s2) : Kept q (programDgram x0 x1 s2) := by
  unfold programDgram
  try dsimp only
  repeat' (first | (with_reducible first | assumption | apply kept_all | apply kept_ite | apply kept_ite2 | apply fillSlot_kept | apply refusedFrag_kept | apply countMgmt_kept | apply programAck_kept) | split | (dsimp only) | (with_reducible first | refine kept_snd (by with_reducible assumption) ?_ | refine kept_some (by with_reducible assumption) ?_))

theorem sendAck_kept {x0 s1} (h1 : Kept q s1) : Kept q (sendAck x0 s1) := by
  unfold sendAck
  try dsimp only
  repeat' (first | (with_reducible first | assumption | apply ccpSend_kept) | split | (dsimp only) | (with_reducible first | refine kept_snd (by with_reducible assumption) ?_ | refine kept_some (by with_reducible assumption) ?_))

theorem telemSend_kept {x0 x1 x2 s3} (h3 : Kept q s3) : Kept q (telemSend x0 x1 x2 s3) := by
  unfold telemSend
  try dsimp only
  repeat' (first | (with_reducible first | assumption | apply kept_ite | apply kept_ite2 | apply streamTrails_state | apply State.setSess_kept | apply ccpSend_kept) | split | (dsimp only) | (with_reducible first | refine kept_snd (by with_reducible assumption) ?_ | refine kept_some (by with_reducible assumption) ?_))

theorem enrolFm_kept {x0 s1} (h1 : Kept q s1) : Kept q (enrolFm x0 s1) := by
  unfold enrolFm
  try dsimp only
  repeat' (first | (with_reducible assumption) | (intro _) | (with_reducible first | apply kept_foldl | apply kept_foldl2 | apply State.setWord_kept | apply State.fset_kept | apply nvAppend_kept))

theorem finish_kept {x0 x1 s2} (h2 : Kept q s2) : Kept q (finish x0 x1 s2) := by
  unfold finish
  try dsimp only
  repeat' (first | (with_reducible first | assumption | apply kept_ite | apply kept_ite2 | apply kept_getD | apply enrolFm_kept | apply offerRecords_kept | apply countMgmt_kept | apply ccpSend_kept | apply State.setSess_kept | apply authFail_kept | apply dropSession_kept) | split | (dsimp only) | (with_reducible first | refine kept_snd (by with_reducible assumption) ?_ | refine kept_some (by with_reducible assumption) ?_))

theorem telemEntry_kept {x0 x1 s2} (h2 : Kept q s2) : Kept q (telemEntry x0 x1 s2) := by
  unfold telemEntry
  try dsimp only
  repeat' (first | (with_reducible first | assumption | apply kept_ite | apply kept_ite2 | apply State.setSess_kept) | split | (dsimp only) | (with_reducible first | refine kept_snd (by with_reducible assumption) ?_ | refine kept_some (by with_reducible assumption) ?_))

theorem telemEntries_kept {x0 x1 s2} (h2 : Kept q s2) : Kept q (telemEntries x0 x1 s2) := by
  induction x1 generalizing x0 s2 with
  | nil =>
    unfold telemEntries
    try dsimp only
    repeat' (first | (with_reducible first | assumption | apply kept_ite | apply kept_ite2 | apply telemEntry_kept) | split | (dsimp only) | (with_reducible first | refine kept_snd (by with_reducible assumption) ?_ | refine kept_some (by with_reducible assumption) ?_))
  | cons a l ih =>
    unfold telemEntries
    try dsimp only
    repeat' (first | (with_reducible first | assumption | apply kept_ite | apply kept_ite2 | apply ih | apply telemEntry_kept) | split | (dsimp only) | (with_reducible first | refine kept_snd (by with_reducible assumption) ?_ | refine kept_some (by with_reducible assumption) ?_))

theorem gotMessage_kept {x0 x1 x2 s3} (h3 : Kept q s3) : Kept q (gotMessage x0 x1 x2 s3) := by
  unfold gotMessage
  try dsimp only
  repeat' (first | (with_reducible first | assumption | apply kept_all) | (simp only [kept_mk]) | (with_reducible first | apply kept_ite | apply kept_ite2 | apply telemEntries_kept | apply ccpSend_kept) | split | (dsimp only) | (with_reducible first | refine kept_snd (by with_reducible assumption) ?_ | refine kept_some (by with_reducible assumption) ?_))

theorem dgramInOrder_kept {x0 x1 s2} (h2 : Kept q s2) : Kept q (dgramInOrder x0 x1 s2) := by
  unfold dgramInOrder
  try dsimp only
  repeat' (first | (with_reducible first | assumption | apply kept_ite | apply kept_ite2 | apply dropSession_kept | apply programDgram_kept | apply gotMessage_kept | apply State.setSess_kept) | split | (dsimp only))

theorem deliverHeld_kept {x0 x1 s2} (h2 : Kept q s2) : Kept q (deliverHeld x0 x1 s2) := by
  induction x1 generalizing x0 s2 with
  | zero =>
    unfold deliverHeld
    try dsimp only
    repeat' (first | (with_reducible first | assumption | apply dgramInOrder_kept | apply State.setSess_kept) | split | (dsimp only) | (with_reducible first | refine kept_snd (by with_reducible assumption) ?_ | refine kept_some (by with_reducible assumption) ?_))
  | succ k ih =>
    unfold deliverHeld
    try dsimp only
    repeat' (first | (with_reducible first | assumption | apply ih | apply dgramInOrder_kept | apply State.setSess_kept) | split | (dsimp only) | (with_reducible first | refine kept_snd (by with_reducible assumption) ?_ | refine kept_some (by with_reducible assumption) ?_))

theorem receiveDgram.ccpAckLast_kept {x0 s1} (h1 : Kept q s1) : Kept q (receiveDgram.ccpAckLast x0 s1) := by
  unfold receiveDgram.ccpAckLast
  try dsimp only
  repeat' (first | (with_reducible first | assumption | apply emitCcp_kept))

theorem receiveDgram_kept {x0 s1} (h1 : Kept q s1) : Kept q (receiveDgram x0 s1) := by
  unfold receiveDgram
  try dsimp only
  repeat' (first | (with_reducible first | assumption | apply kept_ite | apply kept_ite2 | apply State.addTotal_kept | apply State.fadd_kept | apply finish_kept | apply State.setSess_kept | apply gotAck_kept | apply deliverHeld_kept | apply sendAck_kept | apply receiveDgram.ccpAckLast_kept) | split | (dsimp only) | (with_reducible first | refine kept_snd (by with_reducible assumption) ?_ | refine kept_some (by with_reducible assumption) ?_))

theorem answerEvidence_kept {x0 s1} (h1 : Kept q s1) : Kept q (answerEvidence x0 s1) := by
  induction x0 generalizing s1 with
  | nil =>
    unfold answerEvidence
    try dsimp only
    repeat' (first | (with_reducible first | assumption | apply ccpSend_kept) | split | (dsimp only) | (with_reducible first | refine kept_snd (by with_reducible assumption) ?_ | refine kept_some (by with_reducible assumption) ?_))
  | cons a l ih =>
    unfold answerEvidence
    try dsimp only
    repeat' (first | (with_reducible first | assumption | apply ih | apply ccpSend_kept) | split | (dsimp only) | (with_reducible first | refine kept_snd (by with_reducible assumption) ?_ | refine kept_some (by with_reducible assumption) ?_))

theorem signed_kept {s0} (h0 : Kept q s0) : Kept q (signed s0) := by
  unfold signed
  try dsimp only
  repeat' (first | (with_reducible first | assumption | apply kept_all) | (simp only [kept_mk]) | (with_reducible first | apply kept_ite | apply kept_ite2 | apply State.fset_kept | apply answerEvidence_kept) | split | (dsimp only))

theorem startSigning_kept {s0} (h0 : Kept q s0) : Kept q (startSigning s0) := by
  unfold startSigning
  try dsimp only
  repeat' (first | (with_reducible first | assumption | apply kept_all) | (simp only [kept_mk]) | (with_reducible apply State.fset_kept))

theorem recoveryDone_kept {x0 x1 x2 x3 s4} (h4 : Kept q s4) : Kept q (recoveryDone x0 x1 x2 x3 s4) := by
  unfold recoveryDone
  try dsimp only
  repeat' (first | (with_reducible first | assumption | apply kept_all) | (simp only [kept_mk]) | (with_reducible first | apply kept_ite | apply kept_ite2 | apply State.emit_kept | apply recordCheck_kept | apply seedWrite_kept | apply State.fset_kept) | split | (dsimp only))

theorem takeDgram_kept {x0 s1} (h1 : Kept q s1) : Kept q (takeDgram x0 s1) := by
  unfold takeDgram
  try dsimp only
  repeat' (first | (with_reducible first | assumption | apply kept_ite | apply kept_ite2 | apply hello_kept | apply State.addTotal_kept | apply receiveDgram_kept) | split | (dsimp only))

theorem dgramCmd_kept {x0 x1 x2 s3} (h3 : Kept q s3) : KeptOut q (dgramCmd x0 x1 x2 s3) := by
  unfold dgramCmd
  try dsimp only
  repeat' (first | (with_reducible first | assumption | apply keptOut_next | apply State.upTo_kept | apply whenever_kept | apply settle_kept | apply takeDgram_kept))

theorem execAck_kept {x0 x1 s2} (h2 : Kept q s2) : KeptOut q (execAck x0 x1 s2) := by
  unfold execAck
  try dsimp only
  repeat' (first | (with_reducible first | assumption | apply keptOut_next | apply dgramCmd_kept))

theorem execPackagePartSign_kept {x0 s1} (h1 : Kept q s1) : KeptOut q (execPackagePartSign x0 s1) := by
  unfold execPackagePartSign
  try dsimp only
  repeat' (first | (with_reducible first | assumption | apply keptOut_next | apply State.upTo_kept | apply whenever_kept | apply startSigning_kept))

theorem execFinish_kept {x0 x1 s2} (h2 : Kept q s2) : KeptOut q (execFinish x0 x1 s2) := by
  unfold execFinish
  try dsimp only
  repeat' (first | (with_reducible first | assumption | apply keptOut_next | apply dgramCmd_kept))

theorem execKeepalive_kept {x0 x1 s2} (h2 : Kept q s2) : KeptOut q (execKeepalive x0 x1 s2) := by
  unfold execKeepalive
  try dsimp only
  repeat' (first | (with_reducible first | assumption | apply keptOut_next | apply dgramCmd_kept))

theorem execTelemSub_kept {x0 x1 s2} (h2 : Kept q s2) : KeptOut q (execTelemSub x0 x1 s2) := by
  unfold execTelemSub
  try dsimp only
  repeat' (first | (with_reducible first | assumption | apply keptOut_next | apply dgramCmd_kept))

theorem execKeepaliveSend_kept {x0 x1 s2} (h2 : Kept q s2) : KeptOut q (execKeepaliveSend x0 x1 s2) := by
  unfold execKeepaliveSend
  try dsimp only
  repeat' (first | (with_reducible first | assumption | apply keptOut_next | apply State.upTo_kept | apply whenever_kept | apply ccpSend_kept | apply State.setSess_kept | apply ok_kept) | split | (dsimp only) | (with_reducible first | refine kept_snd (by with_reducible assumption) ?_ | refine kept_some (by with_reducible assumption) ?_))

theorem execCcpClose_kept {x0 x1 s2} (h2 : Kept q s2) : KeptOut q (execCcpClose x0 x1 s2) := by
  unfold execCcpClose
  try dsimp only
  repeat' (first | (with_reducible first | assumption | apply keptOut_next | apply dgramCmd_kept))

theorem eventTo_kept {x0 x1 s2} (h2 : Kept q s2) : Kept q (eventTo x0 x1 s2) := by
  unfold eventTo
  try dsimp only
  repeat' (first | (with_reducible first | assumption | apply kept_ite | apply kept_ite2 | apply ccpSend_kept | apply State.fadd_kept | apply State.setSess_kept) | split | (dsimp only) | (with_reducible first | refine kept_snd (by with_reducible assumption) ?_ | refine kept_some (by with_reducible assumption) ?_))

theorem eventToAll_kept {x0 x1 s2} (h2 : Kept q s2) : Kept q (eventToAll x0 x1 s2) := by
  induction x1 generalizing x0 s2 with
  | nil =>
    unfold eventToAll
    try dsimp only
    repeat' (first | (with_reducible first | assumption | apply eventTo_kept) | split | (dsimp only) | (with_reducible first | refine kept_snd (by with_reducible assumption) ?_ | refine kept_some (by with_reducible assumption) ?_))
  | cons a l ih =>
    unfold eventToAll
    try dsimp only
    repeat' (first | (with_reducible first | assumption | apply ih | apply eventTo_kept) | split | (dsimp only) | (with_reducible first | refine kept_snd (by with_reducible assumption) ?_ | refine kept_some (by with_reducible assumption) ?_))

theorem execCompletionSend_kept {x0 x1 s2} (h2 : Kept q s2) : KeptOut q (execCompletionSend x0 x1 s2) := by
  unfold execCompletionSend
  try dsimp only
  repeat' (first | (with_reducible first | assumption | apply kept_all) | (simp only [kept_mk]) | (with_reducible first | apply keptOut_next | apply State.upTo_kept | apply ok_kept | apply settle_kept | apply sendCompletion_kept | apply offerRecords_kept | apply putSlot_kept) | split | (dsimp only) | (with_reducible first | refine kept_snd (by with_reducible assumption) ?_ | refine kept_some (by with_reducible assumption) ?_))

theorem execCompletionHoldExpiry_kept {x0 x1 s2} (h2 : Kept q s2) : KeptOut q (execCompletionHoldExpiry x0 x1 s2) := by
  unfold execCompletionHoldExpiry
  try dsimp only
  repeat' (first | (with_reducible first | assumption | apply kept_all | apply keptOut_next | apply State.upTo_kept | apply whenever_kept | apply State.fadd_kept | apply freeSlot_kept | apply ok_kept) | split | (dsimp only) | (with_reducible first | refine kept_snd (by with_reducible assumption) ?_ | refine kept_some (by with_reducible assumption) ?_))

theorem syncOffset_kept {x0 s1} (h1 : Kept q s1) : Kept q (syncOffset x0 s1) := by
  unfold syncOffset
  try dsimp only
  repeat' (first | (with_reducible first | assumption | apply kept_all) | (simp only [kept_mk]) | (with_reducible first | apply kept_ite | apply kept_ite2 | apply State.fset_kept) | split | (dsimp only))

theorem execEventSend_kept {x0 x1 x2 x3 x4 x5 x6 x7 x8 s9} (h9 : Kept q s9) : KeptOut q (execEventSend x0 x1 x2 x3 x4 x5 x6 x7 x8 s9) := by
  unfold execEventSend
  try dsimp only
  repeat' (first | (with_reducible first | assumption | apply kept_all) | (simp only [kept_mk]) | (with_reducible first | apply keptOut_next | apply State.upTo_kept | apply whenever_kept | apply eventToAll_kept))

theorem execProgramSigChecked_kept {x0 x1 x2 s3} (h3 : Kept q s3) : KeptOut q (execProgramSigChecked x0 x1 x2 s3) := by
  unfold execProgramSigChecked
  try dsimp only
  repeat' (first | (with_reducible first | assumption | apply kept_all | apply keptOut_next | apply State.upTo_kept | apply whenever_kept | apply settle_kept | apply programChecked_kept | apply ok_kept) | split | (dsimp only) | (with_reducible first | refine kept_snd (by with_reducible assumption) ?_ | refine kept_some (by with_reducible assumption) ?_))

theorem execSignatureDone_kept {x0 s1} (h1 : Kept q s1) : KeptOut q (execSignatureDone x0 s1) := by
  unfold execSignatureDone
  try dsimp only
  repeat' (first | (with_reducible first | assumption | apply keptOut_next | apply State.upTo_kept | apply whenever_kept | apply settle_kept | apply signed_kept))

theorem execProgramFragTimeout_kept {x0 x1 s2} (h2 : Kept q s2) : KeptOut q (execProgramFragTimeout x0 x1 s2) := by
  unfold execProgramFragTimeout
  try dsimp only
  repeat' (first | (with_reducible first | assumption | apply kept_all | apply keptOut_next | apply State.upTo_kept | apply whenever_kept | apply refusedFrag_kept | apply programAck_kept | apply freeSlot_kept | apply ok_kept) | split | (dsimp only) | (with_reducible first | refine kept_snd (by with_reducible assumption) ?_ | refine kept_some (by with_reducible assumption) ?_))

theorem execMgmtFrame_kept {x0 x1 x2 x3 s4} (h4 : Kept q s4) : KeptOut q (execMgmtFrame x0 x1 x2 x3 s4) := by
  unfold execMgmtFrame
  try dsimp only
  repeat' (first | (with_reducible first | assumption | apply kept_all) | (simp only [kept_mk]) | (with_reducible first | apply kept_ite | apply kept_ite2 | apply keptOut_next | apply keptOut_ite | apply State.upTo_kept | apply State.fadd_kept | apply whenever_kept | apply State.addTotal_kept | apply State.fset_kept | apply settle_kept | apply takeDgram_kept) | split | (dsimp only) | (with_reducible first | refine kept_snd (by with_reducible assumption) ?_ | refine kept_some (by with_reducible assumption) ?_))

theorem execPpsOut_kept {x0 s1} (h1 : Kept q s1) : KeptOut q (execPpsOut x0 s1) := by
  unfold execPpsOut
  try dsimp only
  repeat' (first | (with_reducible first | assumption | apply kept_all) | (simp only [kept_mk]) | (with_reducible first | apply kept_ite | apply kept_ite2 | apply keptOut_next | apply keptOut_ite | apply State.upTo_kept | apply ok_kept | apply State.emit_kept | apply whenever_kept) | split | (dsimp only) | (with_reducible first | refine kept_snd (by with_reducible assumption) ?_ | refine kept_some (by with_reducible assumption) ?_))

theorem execAckResend_kept {x0 x1 x2 s3} (h3 : Kept q s3) : KeptOut q (execAckResend x0 x1 x2 s3) := by
  unfold execAckResend
  try dsimp only
  repeat' (first | (with_reducible first | assumption | apply kept_ite | apply kept_ite2 | apply keptOut_next | apply keptOut_ite | apply State.upTo_kept | apply whenever_kept | apply dropSession_kept | apply emitCcp_kept | apply State.setSess_kept | apply ok_kept) | split | (dsimp only) | (with_reducible first | refine kept_snd (by with_reducible assumption) ?_ | refine kept_some (by with_reducible assumption) ?_))

theorem execSessionSilence_kept {x0 x1 s2} (h2 : Kept q s2) : KeptOut q (execSessionSilence x0 x1 s2) := by
  unfold execSessionSilence
  try dsimp only
  repeat' (first | (with_reducible first | assumption | apply keptOut_next | apply State.upTo_kept | apply whenever_kept | apply dropSession_kept | apply ok_kept) | split | (dsimp only) | (with_reducible first | refine kept_snd (by with_reducible assumption) ?_ | refine kept_some (by with_reducible assumption) ?_))

theorem execHello_kept {x0 x1 s2} (h2 : Kept q s2) : KeptOut q (execHello x0 x1 s2) := by
  unfold execHello
  try dsimp only
  repeat' (first | (with_reducible first | assumption | apply keptOut_next | apply dgramCmd_kept))

theorem execSyncLoss_kept {x0 s1} (h1 : Kept q s1) : KeptOut q (execSyncLoss x0 s1) := by
  unfold execSyncLoss
  try dsimp only
  repeat' (first | (with_reducible first | assumption | apply kept_all) | (simp only [kept_mk]) | (with_reducible first | apply keptOut_next | apply State.upTo_kept | apply whenever_kept | apply State.fset_kept))

theorem execSync_kept {x0 x1 s2} (h2 : Kept q s2) : KeptOut q (execSync x0 x1 s2) := by
  unfold execSync
  try dsimp only
  repeat' (first | (with_reducible first | assumption | apply keptOut_next | apply State.upTo_kept | apply whenever_kept | apply syncOffset_kept))

theorem execEvidenceReq_kept {x0 x1 s2} (h2 : Kept q s2) : KeptOut q (execEvidenceReq x0 x1 s2) := by
  unfold execEvidenceReq
  try dsimp only
  repeat' (first | (with_reducible first | assumption | apply keptOut_next | apply dgramCmd_kept))

theorem execFinishTimeout_kept {x0 x1 s2} (h2 : Kept q s2) : KeptOut q (execFinishTimeout x0 x1 s2) := by
  unfold execFinishTimeout
  try dsimp only
  repeat' (first | (with_reducible first | assumption | apply keptOut_next | apply State.upTo_kept | apply whenever_kept | apply authFail_kept | apply dropSession_kept | apply ok_kept) | split | (dsimp only) | (with_reducible first | refine kept_snd (by with_reducible assumption) ?_ | refine kept_some (by with_reducible assumption) ?_))

theorem execPpsIn_kept {x0 s1} (h1 : Kept q s1) : KeptOut q (execPpsIn x0 s1) := by
  unfold execPpsIn
  try dsimp only
  repeat' (first | (with_reducible first | assumption | apply kept_all) | (simp only [kept_mk]) | (with_reducible first | apply kept_ite | apply kept_ite2 | apply keptOut_next | apply keptOut_ite | apply State.upTo_kept | apply whenever_kept | apply State.fset_kept) | split | (dsimp only))

theorem execInstall_kept {x0 x1 s2} (h2 : Kept q s2) : KeptOut q (execInstall x0 x1 s2) := by
  unfold execInstall
  try dsimp only
  repeat' (first | (with_reducible first | assumption | apply keptOut_next | apply ok_kept | apply settle_kept | apply cmdField_kept | apply State.upTo_kept))

theorem execMgmtPortLinkUp_kept {x0 s1} (h1 : Kept q s1) : KeptOut q (execMgmtPortLinkUp x0 s1) := by
  unfold execMgmtPortLinkUp
  try dsimp only
  repeat' (first | (with_reducible first | assumption | apply kept_all) | (simp only [kept_mk]) | (with_reducible first | apply keptOut_next | apply State.upTo_kept | apply whenever_kept | apply State.fset_kept))

theorem execRecoveryImage_kept {x0 x1 x2 x3 x4 x5 x6 x7 x8 s9} (h9 : Kept q s9) : KeptOut q (execRecoveryImage x0 x1 x2 x3 x4 x5 x6 x7 x8 s9) := by
  unfold execRecoveryImage
  try dsimp only
  repeat' (first | (with_reducible first | assumption | apply kept_all) | (simp only [kept_mk]) | (with_reducible first | apply kept_ite | apply kept_ite2 | apply keptOut_next | apply keptOut_ite | apply State.upTo_kept | apply State.emit_kept | apply whenever_kept | apply recoveryDone_kept) | split | (dsimp only))

theorem execProgram_kept {x0 x1 s2} (h2 : Kept q s2) : KeptOut q (execProgram x0 x1 s2) := by
  unfold execProgram
  try dsimp only
  repeat' (first | (with_reducible first | assumption | apply keptOut_next | apply dgramCmd_kept))

theorem execTelemPeriod_kept {x0 x1 x2 x3 s4} (h4 : Kept q s4) : KeptOut q (execTelemPeriod x0 x1 x2 x3 s4) := by
  unfold execTelemPeriod
  try dsimp only
  repeat' (first | (with_reducible first | assumption | apply keptOut_next | apply State.upTo_kept | apply whenever_kept | apply telemSend_kept | apply ok_kept) | split | (dsimp only) | (with_reducible first | refine kept_snd (by with_reducible assumption) ?_ | refine kept_some (by with_reducible assumption) ?_))

theorem execPortModeChange_kept {x0 s1} (h1 : Kept q s1) : KeptOut q (execPortModeChange x0 s1) := by
  unfold execPortModeChange
  try dsimp only
  repeat' (first | (with_reducible first | assumption | apply kept_all) | (simp only [kept_mk]) | (with_reducible first | apply keptOut_next | apply State.upTo_kept | apply whenever_kept | apply State.fset_kept))

end Sys2Proof.Machine
end

