-- ==== Sys2Proof/Tests/Slice0.lean ====
section
/-! SUPPORT. Tests of the model on small values worked out from the specification. -/

open Sys2Proof Sys2Proof.Machine

theorem test_reset_queue_is_empty : State.reset.pending = [] := by decide
end

