-- ==== Sys2Proof/Proofs/BrownoutBus.lean ====
section
/-! SUPPORT. What the bus brown-out of R35 does in every mode of the bus converter, and why O7 fails: R35 resets while the converter runs, LIGHT is one of its running modes (Table 01.7), and O7 counts RUN alone. No command of the model enters LIGHT (its RUN stands for both modes), but O7 speaks of every state. -/

namespace Sys2Proof.Machine

@[simp] theorem fullReset_converter (c : Nat) (s : State) : (fullReset c s).pw.converter = .off := rfl

/-- R35 as the model has it: past t0 + 6 ms in soft start the bus has to be in its band; in RUN or in LIGHT it must not stay below 5.4 V for 2 µs; the converter OFF never resets. -/
theorem exec_brownoutBus (s : State) (t mv ns : Nat) :
    exec (.brownoutBus t mv ns) s = .next
      (match s.pw.converter with
       | .off => s.upTo t
       | .softstart => if s.pw.softAt + 6000000 ≤ (s.upTo t).now ∧ busGood mv = false then fullReset 3 (s.upTo t) else s.upTo t
       | .run | .light => if mv < 5400 ∧ 2000 ≤ ns then fullReset 3 (s.upTo t) else s.upTo t) := by
  change execBrownoutBus t mv ns s = _
  cases h : s.pw.converter <;> simp [execBrownoutBus, whenever, h]

/-- In LIGHT too, a bus below 5.4 V for 2 µs resets in full. -/
theorem exec_brownoutBus_light {s : State} (hlight : s.pw.converter = .light) (t : Nat) {mv ns : Nat} (hmv : mv < 5400) (hns : 2000 ≤ ns) :
    exec (.brownoutBus t mv ns) s = .next (fullReset 3 (s.upTo t)) := by
  simp [exec_brownoutBus, hlight, hmv, hns]

/-- The machine at reset with its bus converter in LIGHT. -/
def lightState : State := { State.reset with pw.converter := .light }

/-- Refutes O7, for LIGHT alone: there the bus at 0 V for 2 µs meets neither condition of the statement, and the package still resets in full, which turns the converter off. In the other modes the two agree (exec_brownoutBus). -/
theorem not_busOutOfToleranceResetsInFull : ¬ Obligations.BusOutOfToleranceResetsInFull := by
  intro h
  have hlight : lightState.pw.converter = .light := rfl
  have hreset := exec_brownoutBus_light hlight 0 (mv := 0) (ns := 2000) (by decide) (by decide)
  have hstays : exec (.brownoutBus 0 0 2000) lightState = .next (lightState.upTo 0) := (h lightState 0 0 2000).2 (by simp [hlight])
  have hsame : fullReset 3 (lightState.upTo 0) = lightState.upTo 0 := by simpa using hreset.symm.trans hstays
  have hoff : (lightState.upTo 0).pw.converter = .off := hsame ▸ fullReset_converter 3 _
  simp [hlight] at hoff

end Sys2Proof.Machine
end

section
/-! SUPPORT. Every command answers a next state, and keeps what the laws of Laws/Kept*.lean say of each: the canonical form of the memories, the queue, and the order of time,
free values and outputs (O3, O4). -/

namespace Sys2Proof.Machine

/-- Every command keeps the canonical form, the queue, and the order of time, free values and outputs. -/
theorem exec_kept {q s : State} (h : Kept q s) (c : Instr) : KeptOut q (exec c s) := by
  cases c with
  | vinKeepaliveStart => exact execVinKeepaliveStart_kept h
  | pwResetExit => exact execPwResetExit_kept h
  | clkAoHandover => exact execClkAoHandover_kept h
  | aoFallback => exact execAoFallback_kept h
  | keepaliveStop => exact execKeepaliveStop_kept h
  | wakeDecisionCold => exact execWakeDecisionCold_kept h
  | busSoftstart => exact execBusSoftstart_kept h
  | busRun => exact execBusRun_kept h
  | brownoutBus => exact execBrownoutBus_kept h
  | vinLow => exact execVinLow_kept h
  | vinHigh => exact execVinHigh_kept h
  | brownoutVin => exact execBrownoutVin_kept h
  | overvoltageVin => exact execOvervoltageVin_kept h
  | poreset => exact execPoreset_kept h
  | poresetRelease => exact execPoresetRelease_kept h
  | brownoutKeepalive => exact execBrownoutKeepalive_kept h
  | refclkLoss => exact execRefclkLoss_kept h
  | refclkLossReset => exact execRefclkLossReset_kept h
  | targetPortsOnly => exact execTargetPortsOnly_kept h
  | targetStandby => exact execTargetStandby_kept h
  | targetActive => exact execTargetActive_kept h
  | refuserCheckEnd => exact execRefuserCheckEnd_kept h
  | contextSwapOutEnd => exact execContextSwapOutEnd_kept h
  | portsOnlyEntryEnd => exact execPortsOnlyEntryEnd_kept h
  | pdNoticeSend => exact execPdNoticeSend_kept h
  | standbyCellDrop => exact execStandbyCellDrop_kept h
  | transmittersOff => exact execTransmittersOff_kept h
  | understorySelfRefresh => exact execUnderstorySelfRefresh_kept h
  | domainsOff => exact execDomainsOff_kept h
  | standbyEntryEnd => exact execStandbyEntryEnd_kept h
  | wakeComparatorTrip => exact execWakeComparatorTrip_kept h
  | wakeComparatorRearm => exact execWakeComparatorRearm_kept h
  | workAdmitWake => exact execWorkAdmitWake_kept h
  | activeEntryRetry => exact execActiveEntryRetry_kept h
  | cutWindowEnd => exact execCutWindowEnd_kept h
  | cutApply => exact execCutApply_kept h
  | thermtrip => exact execThermtrip_kept h
  | dieThermalEvent => exact execDieThermalEvent_kept h
  | cuClockGate => exact execCuClockGate_kept h
  | cuPowerGate => exact execCuPowerGate_kept h
  | copseClockGate => exact execCopseClockGate_kept h
  | copsePowerGate => exact execCopsePowerGate_kept h
  | unitWake => exact execUnitWake_kept h
  | bootRomStart => exact execBootRomStart_kept h
  | lookoutImageStart => exact execLookoutImageStart_kept h
  | activeLookoutChoice => exact execActiveLookoutChoice_kept h
  | bootApplyLookout => exact execBootApplyLookout_kept h
  | dieImageConfirm => exact execDieImageConfirm_kept h
  | dieCalibrationApply => exact execDieCalibrationApply_kept h
  | understoryChannelsTrained => exact execUnderstoryChannelsTrained_kept h
  | bootDone => exact execBootDone_kept h
  | seedbankResync => exact execSeedbankResync_kept h
  | setA => exact execSetA_kept h
  | setB => exact execSetB_kept h
  | raiseSvn => exact execRaiseSvn_kept h
  | nvCommit => exact execNvCommit_kept h
  | ucalCommit => exact execUcalCommit_kept h
  | nvCommitDone => exact execNvCommitDone_kept h
  | seedbankWindowWrite => exact execSeedbankWindowWrite_kept h
  | slotCheck => exact execSlotCheck_kept h
  | updateGo => exact execUpdateGo_kept h
  | updateLoaded => exact execUpdateLoaded_kept h
  | updateSwitched => exact execUpdateSwitched_kept h
  | updateRevert => exact execUpdateRevert_kept h
  | handoverGo => exact execHandoverGo_kept h
  | handoverDone => exact execHandoverDone_kept h
  | heartbeatLoss => exact execHeartbeatLoss_kept h
  | failoverResume => exact execFailoverResume_kept h
  | failoverEvents => exact execFailoverEvents_kept h
  | failoverAnswers => exact execFailoverAnswers_kept h
  | lookoutReloadDone => exact execLookoutReloadDone_kept h
  | flitRx => exact execFlitRx_kept h
  | replayTimer => exact execReplayTimer_kept h
  | replayLimit => exact execReplayLimit_kept h
  | eqReq => exact execEqReq_kept h
  | eqAck => exact execEqAck_kept h
  | spareReq => exact execSpareReq_kept h
  | spareAck => exact execSpareAck_kept h
  | narrowReq => exact execNarrowReq_kept h
  | narrowAck => exact execNarrowAck_kept h
  | restoreReq => exact execRestoreReq_kept h
  | restoreAck => exact execRestoreAck_kept h
  | remoteFault => exact execRemoteFault_kept h
  | params => exact execParams_kept h
  | pdHold => exact execPdHold_kept h
  | pdNotice => exact execPdNotice_kept h
  | keySwitch => exact execKeySwitch_kept h
  | keySwitchAck => exact execKeySwitchAck_kept h
  | spdm => exact execSpdm_kept h
  | retrainReq t lp => exact execRetrainReq_kept (x1 := lp) h
  | trainingStart => exact execTrainingStart_kept h
  | trainingStepFail => exact execTrainingStepFail_kept h
  | trainingRetry => exact execTrainingRetry_kept h
  | trainingDone => exact execTrainingDone_kept h
  | spdmSessionDone => exact execSpdmSessionDone_kept h
  | spareTraining => exact execSpareTraining_kept h
  | laneFailed => exact execLaneFailed_kept h
  | laneDegraded => exact execLaneDegraded_kept h
  | spareSwapResume => exact execSpareSwapResume_kept h
  | mismatchDown => exact execMismatchDown_kept h
  | laneRecal => exact execLaneRecal_kept h
  | laneRecalDone => exact execLaneRecalDone_kept h
  | retrain => exact execRetrain_kept h
  | portEnable => exact execPortEnable_kept h
  | keyLifeExpiry => exact execKeyLifeExpiry_kept h
  | keyLifeWrite => exact execKeyLifeWrite_kept h
  | load => exact execLoad_kept h
  | store => exact execStore_kept h
  | narrowStore => exact execNarrowStore_kept h
  | atomic => exact execAtomic_kept h
  | blkRd => exact execBlkRd_kept h
  | blkWr => exact execBlkWr_kept h
  | pageRd => exact execPageRd_kept h
  | gather => exact execGather_kept h
  | hint => exact execHint_kept h
  | unitWr => exact execUnitWr_kept h
  | response => exact execResponse_kept h
  | txnTimeout => exact execTxnTimeout_kept h
  | tagRelease => exact execTagRelease_kept h
  | homeHoldEnd => exact execHomeHoldEnd_kept h
  | t1Admit => exact execT1Admit_kept h
  | stagingFill => exact execStagingFill_kept h
  | unitAssemblySend => exact execUnitAssemblySend_kept h
  | unitWrResponse => exact execUnitWrResponse_kept h
  | unitTimeout => exact execUnitTimeout_kept h
  | t2BucketRefill => exact execT2BucketRefill_kept h
  | subscribe => exact execSubscribe_kept h
  | unsubscribe => exact execUnsubscribe_kept h
  | inval => exact execInval_kept h
  | sequencerHold => exact execSequencerHold_kept h
  | sequencerAdmit => exact execSequencerAdmit_kept h
  | invAck => exact execInvAck_kept h
  | invLimitExpiry => exact execInvLimitExpiry_kept h
  | prepare => exact execPrepare_kept h
  | prepareTimeout => exact execPrepareTimeout_kept h
  | publish => exact execPublish_kept h
  | publishForward => exact execPublishForward_kept h
  | publishPoint => exact execPublishPoint_kept h
  | openRegion => exact execOpenRegion_kept h
  | closeRegion => exact execCloseRegion_kept h
  | rdS => exact execRdS_kept h
  | rdM => exact execRdM_kept h
  | upg => exact execUpg_kept h
  | wb => exact execWb_kept h
  | evict => exact execEvict_kept h
  | rspI => exact execRspI_kept h
  | rspS => exact execRspS_kept h
  | rspIData => exact execRspIData_kept h
  | rspSData => exact execRspSData_kept h
  | directoryWaitTimeout => exact execDirectoryWaitTimeout_kept h
  | snoopLimitExpiry => exact execSnoopLimitExpiry_kept h
  | domainReset => exact execDomainReset_kept h
  | domainResetPoison => exact execDomainResetPoison_kept h
  | domainResetDone => exact execDomainResetDone_kept h
  | unpoison => exact execUnpoison_kept h
  | cellAdmitRetry => exact execCellAdmitRetry_kept h
  | overflowRefill => exact execOverflowRefill_kept h
  | meshCellArrive => exact execMeshCellArrive_kept h
  | releaseNotice => exact execReleaseNotice_kept h
  | gapTimeout => exact execGapTimeout_kept h
  | skipNotice => exact execSkipNotice_kept h
  | meshHopReplay => exact execMeshHopReplay_kept h
  | meshWireFail => exact execMeshWireFail_kept h
  | meshSpraySuspend => exact execMeshSpraySuspend_kept h
  | meshSpareWireTrained => exact execMeshSpareWireTrained_kept h
  | meshHeldResend => exact execMeshHeldResend_kept h
  | meshEdgeUp => exact execMeshEdgeUp_kept h
  | gapTimerResume => exact execGapTimerResume_kept h
  | egressSelect => exact execEgressSelect_kept h
  | trailCfgWrite => exact execTrailCfgWrite_kept h
  | shaperRefill => exact execShaperRefill_kept h
  | shaperWrite => exact execShaperWrite_kept h
  | policerWrite => exact execPolicerWrite_kept h
  | gateEntryEnd => exact execGateEntryEnd_kept h
  | gateCommit => exact execGateCommit_kept h
  | gateSwitch => exact execGateSwitch_kept h
  | gateCancel => exact execGateCancel_kept h
  | meshWheelBoundary => exact execMeshWheelBoundary_kept h
  | bayGrant => exact execBayGrant_kept h
  | sorterGrant => exact execSorterGrant_kept h
  | expanderDecodeDone => exact execExpanderDecodeDone_kept h
  | queuedDecodeStart => exact execQueuedDecodeStart_kept h
  | amaxFree => exact execAmaxFree_kept h
  | residFree => exact execResidFree_kept h
  | nop => exact execNop_kept h
  | add => exact execAdd_kept h
  | sub => exact execSub_kept h
  | mul => exact execMul_kept h
  | mulhu => exact execMulhu_kept h
  | and => exact execAnd_kept h
  | or => exact execOr_kept h
  | xor => exact execXor_kept h
  | shl => exact execShl_kept h
  | shr => exact execShr_kept h
  | sar => exact execSar_kept h
  | mins => exact execMins_kept h
  | maxs => exact execMaxs_kept h
  | minu => exact execMinu_kept h
  | maxu => exact execMaxu_kept h
  | addi => exact execAddi_kept h
  | movz => exact execMovz_kept h
  | movk => exact execMovk_kept h
  | cmp => exact execCmp_kept h
  | cmpi => exact execCmpi_kept h
  | plog => exact execPlog_kept h
  | clz => exact execClz_kept h
  | popc => exact execPopc_kept h
  | time => exact execTime_kept h
  | seta => exact execSeta_kept h
  | br => exact execBr_kept h
  | brr => exact execBrr_kept h
  | call => exact execCall_kept h
  | endStrand => exact execEndStrand_kept h
  | bayacq => exact execBayacq_kept h
  | bayrel => exact execBayrel_kept h
  | setcvt => exact execSetcvt_kept h
  | vadd => exact execVadd_kept h
  | vsub => exact execVsub_kept h
  | vmul => exact execVmul_kept h
  | vfma => exact execVfma_kept h
  | vmin => exact execVmin_kept h
  | vmax => exact execVmax_kept h
  | vabs => exact execVabs_kept h
  | vcmp => exact execVcmp_kept h
  | vsel => exact execVsel_kept h
  | vaddi => exact execVaddi_kept h
  | vsubi => exact execVsubi_kept h
  | vand => exact execVand_kept h
  | vor => exact execVor_kept h
  | vxor => exact execVxor_kept h
  | vbcast => exact execVbcast_kept h
  | vext => exact execVext_kept h
  | vsum => exact execVsum_kept h
  | cvtn => exact execCvtn_kept h
  | cvtw => exact execCvtw_kept h
  | cvta => exact execCvta_kept h
  | aroll => exact execAroll_kept h
  | sortbeg => exact execSortbeg_kept h
  | sortput => exact execSortput_kept h
  | sortend => exact execSortend_kept h
  | sortget => exact execSortget_kept h
  | sortrel => exact execSortrel_kept h
  | tmma => exact execTmma_kept h
  | tzero => exact execTzero_kept h
  | tmov => exact execTmov_kept h
  | tmovv => exact execTmovv_kept h
  | xstart => exact execXstart_kept h
  | xstat => exact execXstat_kept h
  | xcancel => exact execXcancel_kept h
  | lds => exact execLds_kept h
  | sts => exact execSts_kept h
  | ldv => exact execLdv_kept h
  | stv => exact execStv_kept h
  | ldt => exact execLdt_kept h
  | stt => exact execStt_kept h
  | ldseg => exact execLdseg_kept h
  | stseg => exact execStseg_kept h
  | ldacc => exact execLdacc_kept h
  | stacc => exact execStacc_kept h
  | ldl => exact execLdl_kept h
  | stl => exact execStl_kept h
  | pld => exact execPld_kept h
  | atom => exact execAtom_kept h
  | brd => exact execBrd_kept h
  | bwr => exact execBwr_kept h
  | prd => exact execPrd_kept h
  | gath => exact execGath_kept h
  | nxSub => exact execNxSub_kept h
  | nxUnsub => exact execNxUnsub_kept h
  | nxInval => exact execNxInval_kept h
  | prep => exact execPrep_kept h
  | publ => exact execPubl_kept h
  | nxOpen => exact execNxOpen_kept h
  | nxClose => exact execNxClose_kept h
  | nxHint => exact execNxHint_kept h
  | radd => exact execRadd_kept h
  | rstep => exact execRstep_kept h
  | send => exact execSend_kept h
  | sendg => exact execSendg_kept h
  | recv => exact execRecv_kept h
  | fence => exact execFence_kept h
  | rel => exact execRel_kept h
  | acq => exact execAcq_kept h
  | rela => exact execRela_kept h
  | acqa => exact execAcqa_kept h
  | bar => exact execBar_kept h
  | waitm => exact execWaitm_kept h
  | csrd => exact execCsrd_kept h
  | cswr => exact execCswr_kept h
  | csmw => exact execCsmw_kept h
  | runLimit => exact execRunLimit_kept h
  | residencyGuardExpiry => exact execResidencyGuardExpiry_kept h
  | contextSaved => exact execContextSaved_kept h
  | contextRestored => exact execContextRestored_kept h
  | completionRecord => exact execCompletionRecord_kept h
  | contrib => exact execContrib_kept h
  | segmentTimeout => exact execSegmentTimeout_kept h
  | arrive => exact execArrive_kept h
  | barrierTimeout => exact execBarrierTimeout_kept h
  | bagReq => exact execBagReq_kept h
  | dispatch => exact execDispatch_kept h
  | batchSend => exact execBatchSend_kept h
  | expertInDone => exact execExpertInDone_kept h
  | expertInRetry => exact execExpertInRetry_kept h
  | expertOut => exact execExpertOut_kept h
  | tokenTimeout => exact execTokenTimeout_kept h
  | filterReq => exact execFilterReq_kept h
  | filterTimeout => exact execFilterTimeout_kept h
  | stop => exact execStop_kept h
  | statsWrite => exact execStatsWrite_kept h
  | scrubStart => exact execScrubStart_kept h
  | scrubWritebackDone => exact execScrubWritebackDone_kept h
  | scrubZeroDone => exact execScrubZeroDone_kept h
  | scrubReadbackDone => exact execScrubReadbackDone_kept h
  | scrubRecordHeld => exact execScrubRecordHeld_kept h
  | scrubGo => exact execScrubGo_kept h
  | packagePartSign => exact execPackagePartSign_kept h
  | signatureDone => exact execSignatureDone_kept h
  | submit => exact execSubmit_kept h
  | msg => exact execMsg_kept h
  | create => exact execCreate_kept h
  | begin => exact execBegin_kept h
  | accept => exact execAccept_kept h
  | abort => exact execAbort_kept h
  | delete => exact execDelete_kept h
  | query => exact execQuery_kept h
  | ledgerRevert => exact execLedgerRevert_kept h
  | epochNote => exact execEpochNote_kept h
  | commitGo => exact execCommitGo_kept h
  | commitChecked => exact execCommitChecked_kept h
  | commitPosition => exact execCommitPosition_kept h
  | commitHeld => exact execCommitHeld_kept h
  | commitSwitch => exact execCommitSwitch_kept h
  | drainWindowEnd => exact execDrainWindowEnd_kept h
  | quiesceGo => exact execQuiesceGo_kept h
  | quiesceDrained => exact execQuiesceDrained_kept h
  | quiesceInstall => exact execQuiesceInstall_kept h
  | quiesceResume => exact execQuiesceResume_kept h
  | spareTest => exact execSpareTest_kept h
  | spareTestEnd => exact execSpareTestEnd_kept h
  | spareLoad => exact execSpareLoad_kept h
  | spareLoaded => exact execSpareLoaded_kept h
  | spareLoadStall => exact execSpareLoadStall_kept h
  | spareAdmit => exact execSpareAdmit_kept h
  | spareAdmission => exact execSpareAdmission_kept h
  | patrolSlot => exact execPatrolSlot_kept h
  | scopeResetDone => exact execScopeResetDone_kept h
  | writeRaw => exact execWriteRaw_kept h
  | readRaw => exact execReadRaw_kept h
  | clear => exact execClear_kept h
  | sourceEdge => exact execSourceEdge_kept h
  | coalesceTimeout => exact execCoalesceTimeout_kept h
  | take => exact execTake_kept h
  | eoe => exact execEoe_kept h
  | sourceUnmask => exact execSourceUnmask_kept h
  | doorbell => exact execDoorbell_kept h
  | mgmtFrame => exact execMgmtFrame_kept h
  | hello => exact execHello_kept h
  | finish => exact execFinish_kept h
  | finishTimeout => exact execFinishTimeout_kept h
  | ccpClose => exact execCcpClose_kept h
  | ack => exact execAck_kept h
  | ackResend => exact execAckResend_kept h
  | keepalive => exact execKeepalive_kept h
  | keepaliveSend => exact execKeepaliveSend_kept h
  | sessionSilence => exact execSessionSilence_kept h
  | program => exact execProgram_kept h
  | programFragTimeout => exact execProgramFragTimeout_kept h
  | programSigChecked => exact execProgramSigChecked_kept h
  | completionSend => exact execCompletionSend_kept h
  | completionHoldExpiry => exact execCompletionHoldExpiry_kept h
  | eventSend => exact execEventSend_kept h
  | telemSub => exact execTelemSub_kept h
  | telemPeriod => exact execTelemPeriod_kept h
  | evidenceReq => exact execEvidenceReq_kept h
  | recoveryImage => exact execRecoveryImage_kept h
  | sync => exact execSync_kept h
  | syncLoss => exact execSyncLoss_kept h
  | ppsIn => exact execPpsIn_kept h
  | ppsOut => exact execPpsOut_kept h
  | install => exact execInstall_kept h
  | portModeChange => exact execPortModeChange_kept h
  | refclkReturn => exact execRefclkReturn_kept h
  | vinWindowReturn => exact execVinWindowReturn_kept h
  | selfRefreshRateChange => exact execSelfRefreshRateChange_kept h
  | mgmtPortLinkUp => exact execMgmtPortLinkUp_kept h
  | meshEdgeSelect => exact execMeshEdgeSelect_kept h
  | pdQuery t lp target => exact execPdQuery_kept (x1 := lp) (x2 := target) h
  | pdAccept t lp => exact execPdAccept_kept (x1 := lp) h
  | memberRetrainLimit => exact execMemberRetrainLimit_kept h
  | initCopyDone => exact execInitCopyDone_kept h

/-- No command stops the block. The commands named first branch on the state; every other one is one answer. -/
theorem exec_isNext (c : Instr) (s : State) : ∃ r, exec c s = .next r := by
  cases c
  case
    refclkLossReset | refuserCheckEnd | contextSwapOutEnd | unitWake | nvCommitDone | updateSwitched | updateRevert | handoverDone | failoverResume |
    failoverEvents | failoverAnswers | eqAck | narrowReq | narrowAck | trainingStepFail | trainingRetry | laneFailed | mismatchDown | narrowStore |
    txnTimeout | homeHoldEnd | t1Admit | stagingFill | unitWrResponse | unitTimeout | invLimitExpiry | prepareTimeout | publishForward |
    directoryWaitTimeout | snoopLimitExpiry | gateSwitch | bayGrant | sorterGrant | queuedDecodeStart | runLimit | residencyGuardExpiry |
    contextRestored | scrubStart | scrubWritebackDone | scrubZeroDone | scrubReadbackDone | scrubRecordHeld | drainWindowEnd | quiesceDrained |
    quiesceResume | scopeResetDone | take | finishTimeout | ackResend | keepaliveSend | sessionSilence | programFragTimeout | programSigChecked |
    completionSend | completionHoldExpiry | telemPeriod | ppsOut | refclkReturn | memberRetrainLimit | initCopyDone =>
    simp only [exec,
      execRefclkLossReset, execRefuserCheckEnd, execContextSwapOutEnd, execUnitWake, execNvCommitDone, execUpdateSwitched, execUpdateRevert,
      execHandoverDone, execFailoverResume, execFailoverEvents, execFailoverAnswers, execEqAck, execNarrowReq, execNarrowAck, execTrainingStepFail,
      execTrainingRetry, execLaneFailed, execMismatchDown, execNarrowStore, execTxnTimeout, execHomeHoldEnd, execT1Admit, execStagingFill,
      execUnitWrResponse, execUnitTimeout, execInvLimitExpiry, execPrepareTimeout, execPublishForward, execDirectoryWaitTimeout,
      execSnoopLimitExpiry, execGateSwitch, execBayGrant, execSorterGrant, execQueuedDecodeStart, execRunLimit, execResidencyGuardExpiry,
      execContextRestored, execScrubStart, execScrubWritebackDone, execScrubZeroDone, execScrubReadbackDone, execScrubRecordHeld, execDrainWindowEnd,
      execQuiesceDrained, execQuiesceResume, execScopeResetDone, execTake, execFinishTimeout, execAckResend, execKeepaliveSend, execSessionSilence,
      execProgramFragTimeout, execProgramSigChecked, execCompletionSend, execCompletionHoldExpiry, execTelemPeriod, execPpsOut, execRefclkReturn,
      execMemberRetrainLimit, execInitCopyDone]
    repeat' first | exact ⟨_, rfl⟩ | split
  all_goals exact ⟨_, rfl⟩

/-- A state with canonical memories keeps everything of itself. -/
theorem Kept.refl {s : State} (h : s.Canonical) : Kept s s := ⟨h.ctl, h.t0, h.seed0, h.seed1, rfl, le_rfl, le_rfl, List.suffix_rfl⟩

theorem Kept.canonical {q s : State} (h : Kept q s) : s.Canonical := ⟨h.ctl, h.t0, h.seed0, h.seed1⟩

/-- Settles O4: each command keeps the queue, time, free values and outputs (exec_kept), and answers a next state (exec_isNext). -/
theorem commandsLeaveTheQueueAndNeverGoBack : Obligations.CommandsLeaveTheQueueAndNeverGoBack := by
  intro c s hs
  obtain ⟨r, hr⟩ := exec_isNext c s
  have hk : Kept s r := (exec_kept (Kept.refl hs) c).next r hr
  exact ⟨r, hr, hk.canonical, hk.pending, hk.now, hk.draws, hk.out⟩

/-- Settles O3: a step is a command run with the rest of the queue, which the canonical form does not speak of, or nothing. -/
theorem everyStepKeepsTheMemoriesCanonical : Obligations.EveryStepKeepsTheMemoriesCanonical := by
  intro s s' hs h
  unfold step at h
  split at h
  next c rest _ =>
    have hq : State.Canonical { s with pending := rest } := ⟨hs.ctl, hs.t0, hs.seed0, hs.seed1⟩
    exact ((exec_kept (Kept.refl hq) c).next s' h).canonical
  next => cases h; exact hs

end Sys2Proof.Machine
end

section
/-! SUPPORT. The queue and the state after reset (O1, O2), and the checks of images and slots (O16). -/

namespace Sys2Proof.Machine

/-- Settles O1: step is exec of the command at the front. -/
theorem aQueuedCommandRunsFromTheFront : Obligations.AQueuedCommandRunsFromTheFront := by
  refine ⟨fun c rest s h => ?_, fun s h => ?_⟩ <;> simp [step, h]

/-- With no word stored, each word reads its reset value. -/
theorem State.word_of_ctl_nil {s : State} (h : s.ctl = []) {w : CW} {ix : List Nat} (hw : w.inRange ix = true) : s.word w ix = w.resetWord (w.home ix) := by
  simp [State.word, h, hw, SMap.get]

/-- Settles O2: the reset state stores no word, so each reads its reset value; the rest is read off the state. -/
theorem resetStartsInStandby : Obligations.ResetStartsInStandby := by
  refine ⟨by decide, rfl, fun w ix hw => State.word_of_ctl_nil rfl hw, rfl, ⟨rfl, rfl, rfl, rfl, rfl⟩, ⟨rfl, rfl, rfl, rfl⟩, rfl, rfl, rfl, by decide⟩

/-! The check of R89. -/

section
variable {h : ImageHdr} {v : Verdict} {d m : Nat}

/-- The format test of R89: magic, format, type, and a body that fits the slot. -/
def FormatOk (h : ImageHdr) (d : Nat) : Prop := h.magic = 0x4E445746 ∧ h.format = 1 ∧ h.dtype = d ∧ h.bodyLen ≤ slotSize d - 65536

/-- What the check answers, test by test. -/
theorem checkImage_of_not_format (hf : ¬ FormatOk h d) : checkImage h v d m = .badFormat := by
  unfold checkImage
  split
  · rfl
  · rename_i hm
    simp only [not_or, not_not] at hm
    rw [if_pos]
    by_contra hl
    exact hf ⟨hm.1, hm.2.1, hm.2.2, not_lt.1 hl⟩

/-- Past the format test, the keys, the signatures, the digest and the SVN decide in this order. -/
theorem checkImage_of_format (hf : FormatOk h d) : checkImage h v d m =
    if v.rsaKey = false ∨ v.slhKey = false then .badKey else if v.rsaSig = false ∨ v.slhSig = false then .badSignature
    else if v.digest = false then .badDigest else if h.svn < m then .rollback else .good := by
  obtain ⟨h1, h2, h3, h4⟩ := hf
  unfold checkImage
  rw [if_neg (by simp [h1, h2, h3]), if_neg (not_lt.2 h4)]
  simp only [ite_or, Bool.not_eq_true', Bool.and_eq_false_iff]

end

/-- Settles O16: the tests of R89 decide in order, and a slot is selected by its check. -/
theorem imageChecksRefuseInOrder : Obligations.ImageChecksRefuseInOrder := by
  refine ⟨fun h v d m => ?_, fun s d va vb va1 vb1 => ?_⟩
  · by_cases hf : FormatOk h d
    · rw [checkImage_of_format hf]
      have hf' := hf
      unfold FormatOk at hf'
      by_cases hk : v.rsaKey = false ∨ v.slhKey = false
      · rcases hk with hk | hk <;> simp [hk, hf']
      · simp only [not_or, Bool.not_eq_false] at hk
        by_cases hs : v.rsaSig = false ∨ v.slhSig = false
        · rcases hs with hs | hs <;> simp [hk, hs, hf']
        · simp only [not_or, Bool.not_eq_false] at hs
          by_cases hm : h.svn < m
          · cases v.digest <;> simp [hk, hs, hm, hf']
          · cases v.digest <;> simp [hk, hs, hm, hf', not_lt.1 hm]
    · rw [checkImage_of_not_format hf]
      unfold FormatOk at hf
      simp [hf]
  · refine ⟨fun ha => ?_, fun ha hb => ?_, fun ha hb => ?_⟩
    · simp [selectSlot, ha]
    · simp [selectSlot, ha, hb]
    · simp [selectSlot, ha, hb]

end Sys2Proof.Machine
end

section
/-! SUPPORT. Scalar instructions (Tables 09.8 to 09.10): sign extension, MOVK, predicates, counts of bits, and the results that O19 and O20 state. -/

namespace Sys2Proof.Machine

/-! Immediates. -/

/-- signExt reads a number as the n-bit two's-complement word does. -/
theorem signExt_eq_toInt {n : Nat} (hn : 0 < n) (v : Nat) : signExt n v = (BitVec.ofNat n v).toInt := by
  have h2 : 2 ^ n = 2 * 2 ^ (n - 1) := by rw [← pow_succ']; congr 1; omega
  have hlt : v % 2 ^ n < 2 ^ (n - 1) ↔ 2 * (v % 2 ^ n) < 2 ^ n := by omega
  simp only [signExt, BitVec.toInt_eq_toNat_cond, BitVec.toNat_ofNat, hlt]

theorem ofInt_signExt {n : Nat} (hn : 0 < n) (v : Nat) : BitVec.ofInt 64 (signExt n v) = (BitVec.ofNat n v).signExtend 64 := by
  rw [signExt_eq_toInt hn]; rfl

theorem ofNat_natBits_low (n v : Nat) : BitVec.ofNat (n + 1) (natBits v n 0) = BitVec.ofNat (n + 1) v := by
  apply BitVec.eq_of_toNat_eq; simp [natBits]

theorem natBits_lt (v hi lo : Nat) : natBits v hi lo < 2 ^ (hi + 1 - lo) := Nat.mod_lt _ (by positivity)

/-! Bits of a word. -/

theorem getLsbD_eq_bitsOf (w : Word) (k : Nat) : w.getLsbD k = (bitsOf w k k == 1) := by
  simp [BitVec.getLsbD, Nat.testBit_eq_decide_div_mod_eq, bitsOf, natBits]
  rfl

/-- A field that is set leaves every bit outside it. -/
theorem getLsbD_setBits_of_outside (w : Word) {hi lo k : Nat} (h : lo ≤ hi) (h' : hi < 64) (hk : k < lo ∨ hi < k) (v : Nat) :
    (setBits w hi lo v).getLsbD k = w.getLsbD k := by
  rw [getLsbD_eq_bitsOf, getLsbD_eq_bitsOf]
  rcases hk with hk | hk
  · rw [bitsOf_setBits_below w h h' le_rfl hk]
  · rw [bitsOf_setBits_above w h h' hk]

theorem natBit_eq_testBit (n i : Nat) : natBit n i = n.testBit i := by
  rw [natBit, Nat.testBit_eq_decide_div_mod_eq]; rfl

/-- A predicate that is set reads as set, and the others as before. -/
theorem Strand.p_setP (st : Strand) (n : Nat) (b : Bool) (m : Nat) : (st.setP n b).p m = if m = n then b else st.p m := by
  have hv : st.preds / 2 ^ (n + 1) * 2 ^ (n + 1) + boolNat b * 2 ^ n + st.preds % 2 ^ n = 2 ^ n * (2 * (st.preds / 2 ^ (n + 1)) + boolNat b) + st.preds % 2 ^ n := by
    rw [pow_succ]; ring
  simp only [Strand.p, Strand.setP, natBit_eq_testBit, hv]
  rw [Nat.testBit_two_pow_mul_add _ (Nat.mod_lt _ (by positivity))]
  have hb : boolNat b < 2 := by cases b <;> decide
  rcases lt_trichotomy m n with h | rfl | h
  · simp [h, h.ne]
  · cases b <;> simp [boolNat]
  · obtain ⟨k, rfl⟩ : ∃ k, m = n + (k + 1) := ⟨m - n - 1, by omega⟩
    have hq : (2 * (st.preds / 2 ^ (n + 1)) + boolNat b) / 2 = st.preds / 2 ^ (n + 1) := by omega
    rw [if_neg (by omega), if_neg (by omega), Nat.add_sub_cancel_left, Nat.testBit_succ, hq, Nat.testBit_div_two_pow]
    congr 1; omega

/-- The first true of a list of Booleans stands where the leading falses end. -/
theorem takeWhile_not_spec (l : List Bool) :
    (l.takeWhile fun b => !b).length ≤ l.length ∧ (∀ k, k < (l.takeWhile fun b => !b).length → l[k]? = some false) ∧
      ((l.takeWhile fun b => !b).length < l.length → l[(l.takeWhile fun b => !b).length]? = some true) := by
  induction l with
  | nil => simp
  | cons b l ih =>
    obtain ⟨h1, h2, h3⟩ := ih
    cases b with
    | true => simp
    | false =>
      refine ⟨by simpa using h1, fun k hk => ?_, by simpa using h3⟩
      cases k with
      | zero => rfl
      | succ k => simpa using h2 k (by simpa using hk)

theorem wordBits_get? (w : Word) {k : Nat} (hk : k < 64) : (wordBits w)[k]? = some (w.getMsbD k) := by
  have h63 : 64 - 1 - k = 63 - k := by omega
  simp [wordBits, hk, BitVec.getMsbD, BitVec.getLsbD, natBit_eq_testBit]

/-- clz counts the zeros before the first one. -/
theorem clz_spec (w : Word) : clz w ≤ 64 ∧ (∀ k, k < clz w → w.getMsbD k = false) ∧ (clz w < 64 → w.getMsbD (clz w) = true) := by
  have hl : (wordBits w).length = 64 := by simp [wordBits]
  obtain ⟨h1, h2, h3⟩ := takeWhile_not_spec (wordBits w)
  rw [hl] at h1 h3
  refine ⟨h1, fun k hk => ?_, fun hk => ?_⟩
  · simpa [wordBits_get? w (lt_of_lt_of_le hk h1)] using h2 k hk
  · have h : (wordBits w)[clz w]? = some true := h3 hk
    simpa [wordBits_get? w hk] using h

/-- popc counts the bits that are set. -/
theorem popc_eq (w : Word) : popc w = (List.range 64).countP fun k => w.getLsbD k := by
  have hb : wordBits w = ((List.range 64).map fun k => w.getLsbD k).reverse := by
    apply List.ext_getElem (by simp [wordBits])
    intro k h1 h2
    have hk : k < 64 := by simpa [wordBits] using h1
    have h63 : 64 - 1 - k = 63 - k := by omega
    simp [wordBits, natBit_eq_testBit, BitVec.getLsbD]
  rw [popc, hb, ← List.countP_eq_length_filter, List.countP_reverse, List.countP_map]
  rfl

/-- Settles O19: each operation writes its result by issueReg. -/
theorem scalarArithmeticResults : Obligations.ScalarArithmeticResults := by
  intro s sr w x hx hg st i a b wrote
  refine ⟨fun h => ⟨_, rfl, scalarOp_step hx hg h rfl⟩, fun h => ⟨_, rfl, scalarOp_step hx hg h rfl⟩, fun h => ⟨_, rfl, scalarOp_step hx hg h rfl⟩,
    fun h => ⟨_, rfl, scalarOp_step hx hg h rfl⟩, fun h => ⟨_, rfl, scalarOp_step hx hg h rfl⟩, fun h => ⟨_, rfl, scalarOp_step hx hg h rfl⟩, fun h => ⟨_, rfl, scalarOp_step hx hg h rfl⟩,
    fun h => ⟨_, rfl, scalarOp_step hx hg h rfl⟩, fun h => ⟨_, rfl, scalarOp_step hx hg h rfl⟩, fun h => ⟨_, rfl, scalarOp_step hx hg h rfl⟩, fun h => ⟨_, rfl, scalarOp_step hx hg h rfl⟩,
    fun h => ⟨_, rfl, scalarOp_step hx hg h rfl⟩, fun h => ⟨_, rfl, scalarOp_step hx hg h rfl⟩, fun h => ⟨_, rfl, scalarOp_step hx hg h rfl⟩,
    fun h => ⟨_, rfl, issueReg_step hx hg h ?addi rfl rfl⟩, fun h => ⟨_, rfl, issueReg_step hx hg h ?movz rfl rfl⟩,
    fun h => ⟨_, rfl, _, issueReg_step hx hg h rfl rfl rfl, ?field, fun k _ hk => ?bits⟩⟩
  case addi => simp only [Ins.sfld, Ins.fld, ofInt_signExt (n := 28 + 1 - 0) (by decide), ofNat_natBits_low 28]; rfl
  case movz => congr 1; apply BitVec.eq_of_toNat_eq; simp [Nat.shiftLeft_eq, Ins.fld, i, Nat.mul_mod]
  all_goals
    have hj : natBits i.imm 12 11 < 4 := natBits_lt _ _ _
    have hj' : (Ins.ofWord w).fld 12 11 < 4 := hj
  case field =>
    refine (bitsOf_setBits _ (by omega) (by omega) _).trans ?_
    rw [show 16 * (Ins.ofWord w).fld 12 11 + 15 + 1 - 16 * (Ins.ofWord w).fld 12 11 = 16 by omega]
    exact Nat.mod_eq_of_lt (natBits_lt _ 28 13)
  case bits => 
    have hk' : k / 16 ≠ (Ins.ofWord w).fld 12 11 := hk
    exact getLsbD_setBits_of_outside _ (by omega) (by omega) (by omega) _

/-- What ccHolds tests, for the codes of Table 09.9. -/
theorem ccHolds_iff {cc : Nat} (hcc : cc < 6) (a b : Word) : ccHolds cc a b = true ↔
    (cc = 0 ∧ a = b) ∨ (cc = 1 ∧ a ≠ b) ∨ (cc = 2 ∧ a.toInt < b.toInt) ∨ (cc = 3 ∧ b.toInt ≤ a.toInt) ∨ (cc = 4 ∧ a.toNat < b.toNat) ∨ (cc = 5 ∧ b.toNat ≤ a.toNat) := by
  interval_cases cc <;> simp [ccHolds]

/-- What plog tests. -/
theorem plog_iff {k : Nat} (hk : k < 4) (a b : Bool) : plog k a b = true ↔
    (k = 0 ∧ a = true ∧ b = true) ∨ (k = 1 ∧ (a = true ∨ b = true)) ∨ (k = 2 ∧ a ≠ b) ∨ (k = 3 ∧ a = true ∧ b = false) := by
  interval_cases k <;> simp [plog]

/-- Settles O20: tests set one predicate (p_setP), counts have the values of clz_spec and popc_eq, and every one goes on by issueReg. -/
theorem scalarTestResults : Obligations.ScalarTestResults := by
  intro s sr w x hx hg st i a b went holds tested
  have test : ∀ {op : Nat} {f : Ins → Strand → State → Bool} {c : Prop}, issues 0 op sr w s = true → (f i st s = true ↔ c) →
      tested c (issueReg 0 op sr w (fun i st s => st.setP i.dst (f i st s)) s) := fun h hc =>
    ⟨_, issueReg_step hx hg h rfl rfl rfl, rfl, by rw [Strand.p_setP, if_pos rfl]; exact hc, fun m hm => by rw [Strand.p_setP, if_neg hm]⟩
  refine ⟨fun h hcc => ⟨_, rfl, test h (ccHolds_iff hcc a b)⟩, fun h hcc => ⟨_, rfl, test h ?cmpi⟩, fun h => ⟨_, rfl, test h (plog_iff (natBits_lt i.imm 1 0) _ _)⟩,
    fun h => ⟨_, clz a, rfl, issueReg_step hx hg h rfl rfl rfl, clz_spec a⟩, fun h => ⟨_, rfl, issueReg_step hx hg h ?popc rfl rfl⟩,
    fun h => ⟨_, rfl, issueReg_step hx hg h rfl rfl rfl⟩, fun h => ⟨_, _, rfl, issueReg_step hx hg h rfl rfl rfl, rfl, SMap.get_set_self .., fun m hm => ?seta⟩,
    fun h => ⟨_, rfl, issueReg_step hx hg h ?setcvt rfl rfl⟩, fun h => ⟨_, rfl, issueReg_step hx hg h rfl rfl rfl⟩⟩
  case cmpi =>
    have e : BitVec.ofInt 64 (i.sfld 28 3) = (BitVec.ofNat 26 (natBits i.imm 28 3)).signExtend 64 := ofInt_signExt (by decide) _
    rw [e]
    exact ccHolds_iff hcc a _
  case popc => rw [popc_eq]
  case seta => exact (SMap.get_set ..).trans (if_neg (Ne.symm hm))
  case setcvt => simp [Ins.fld, natBit, natBits, st, i]

end Sys2Proof.Machine
end

section
/-! SUPPORT. Vector instructions and local loads (Tables 09.11 and 09.16): what a write of the bay leaves, and the results that O23, O24 and O30 state. -/

namespace Sys2Proof.Machine

/-- Two answers of the same next state. -/
theorem next_congr {q r : State} (h : q = r) : (Host.Outcome.next q : Out) = .next r := congrArg _ h

/-! A strand with a bay. -/

section
variable {sr : StrandRef} {s : State} {x : Ctx} {b : Nat}

theorem State.readBay_of (hx : s.ctx? sr.copse sr.ctx = some x) (hb : (x.strand (strandKey sr)).bay = some b) (off n : Nat) :
    s.readBay sr off n = readBytes x.bays (bayBase sr b + off) n := by simp [State.readBay, hx, hb]

theorem readV_of (hx : s.ctx? sr.copse sr.ctx = some x) (hb : (x.strand (strandKey sr)).bay = some b) (r : Nat) :
    readV s sr r = bytesF32 64 (readBytes x.bays (bayBase sr b + 256 * r) 256) := by rw [readV, State.readBay_of hx hb]

theorem State.readScratch_of (hx : s.ctx? sr.copse sr.ctx = some x) (a n : Nat) :
    s.readScratch sr.copse sr.ctx sr.cu a n = readBytes x.scratch (scratchBase sr.cu + a) n := by simp [State.readScratch, hx]

variable {cls op : Nat} {w : Word}

/-- A strand that writes its bay goes on. -/
theorem retire_writeBay_step (hx : s.ctx? sr.copse sr.ctx = some x) (hg : goesOn sr x = true) (h : issues cls op sr w s = true)
    (hb : (x.strand (strandKey sr)).bay = some b) (off : Nat) (bs : List Byte) :
    NxStep sr { x with bays := writeBytes x.bays (bayBase sr b + off) bs } s (retire sr (s.writeBay sr off bs)) := by
  obtain ⟨hs, hl⟩ := issues_ctx hx h
  obtain ⟨hf, hc, -⟩ := writeBay_of (NxFrame.refl sr s) hx hb (fun h => h) off bs
  exact retire_nxStep hc hs hl hg hf

/-- A strand that writes a scalar register goes on. -/
theorem retire_setS_step (hx : s.ctx? sr.copse sr.ctx = some x) (hg : goesOn sr x = true) (h : issues cls op sr w s = true) (n : Nat) (v : Word) :
    NxStep sr (x.setStrand (strandKey sr) ((x.strand (strandKey sr)).setS n v)) s (retire sr (s.setS sr n v)) := by
  obtain ⟨hs, hl⟩ := issues_ctx hx h
  rw [State.setS_of s hx]
  refine retire_nxStep (x := x.setStrand (strandKey sr) ((x.strand (strandKey sr)).setS n v)) (State.ctx?_putCtx_self ..) hs ?_ ?_ ((NxFrame.refl sr s).putCtx _)
  · rw [Ctx.strand_setStrand]; exact hl
  · simpa [goesOn, Strand.setS] using hg

end

/-! Lanes. -/

@[simp] theorem bytesF32_length (n : Nat) (bs : List Byte) : (bytesF32 n bs).length = n := by simp [bytesF32]

theorem getD_zipWith {α β γ : Type} (f : α → β → γ) {xs : List α} {ys : List β} {k : Nat} (hx : k < xs.length) (hy : k < ys.length) (d : γ) (d1 : α) (d2 : β) :
    (List.zipWith f xs ys).getD k d = f (xs.getD k d1) (ys.getD k d2) := by
  simp [List.getD_eq_getElem?_getD, hx, hy]

theorem getD_zip {α β : Type} {xs : List α} {ys : List β} {k : Nat} (hx : k < xs.length) (hy : k < ys.length) (d : α × β) (d1 : α) (d2 : β) :
    (xs.zip ys).getD k d = (xs.getD k d1, ys.getD k d2) := by
  simp [List.getD_eq_getElem?_getD, hx, hy]

/-- A lane of an operation on three vectors of 64 lanes. -/
theorem getD_zipWith_zip (f : F32 × F32 → F32 → F32) {xs ys zs : List F32} (hx : xs.length = 64) (hy : ys.length = 64) (hz : zs.length = 64) {k : Nat} (hk : k < 64) :
    (List.zipWith f (xs.zip ys) zs).getD k 0 = f (xs.getD k 0, ys.getD k 0) (zs.getD k 0) := by
  rw [getD_zipWith f (by simp [hx, hy, hk]) (by omega) 0 (0, 0) 0, getD_zip (by omega) (by omega) _ 0 0]

theorem vsum_eq (l : List F32) : vsum l = l.tail.foldl f32add (l.headD 0) := by cases l <;> rfl

section
variable {sr : StrandRef} {s : State} {x : Ctx} {b op : Nat} {w : Word}

theorem laneOp_step (hx : s.ctx? sr.copse sr.ctx = some x) (hg : goesOn sr x = true) (hb : (x.strand (strandKey sr)).bay = some b) (h : issues 1 op sr w s = true)
    (f : F32 → F32 → F32) :
    NxStep sr { x with bays := writeBytes x.bays (bayBase sr b + 256 * (Ins.ofWord w).dst) (f32Bytes (List.zipWith f
      (bytesF32 64 (readBytes x.bays (bayBase sr b + 256 * (Ins.ofWord w).src1) 256)) (bytesF32 64 (readBytes x.bays (bayBase sr b + 256 * (Ins.ofWord w).src2) 256)))) } s
      (laneOp op sr w f s) := by
  rw [laneOp, issue_of_issues hx h, readV_of hx hb, readV_of hx hb]
  exact retire_writeBay_step hx hg h hb _ _

/-- A body that writes a vector register from lanes that it reads. -/
theorem issue_writeV_step (hx : s.ctx? sr.copse sr.ctx = some x) (hg : goesOn sr x = true) (hb : (x.strand (strandKey sr)).bay = some b) (h : issues 1 op sr w s = true)
    {body : Ins → Strand → State → State} {xs : List F32} (hbody : body (Ins.ofWord w) (x.strand (strandKey sr)) s = retire sr (writeV sr (Ins.ofWord w).dst xs s)) :
    NxStep sr { x with bays := writeBytes x.bays (bayBase sr b + 256 * (Ins.ofWord w).dst) (f32Bytes xs) } s (issue 1 op sr w body s) := by
  rw [issue_of_issues hx h, hbody]
  exact retire_writeBay_step hx hg h hb _ _

end

/-- Settles O23: each operation writes v[DST] of the bay by lanes. -/
theorem vectorLaneResults : Obligations.VectorLaneResults := by
  intro s sr w x hx hg b hb st i v wrote
  have hv : ∀ r, readV s sr r = v r := readV_of hx hb
  have hl : ∀ r, (v r).length = 64 := fun r => bytesF32_length 64 _
  refine ⟨fun h => ⟨_, rfl, laneOp_step hx hg hb h _⟩, fun h => ⟨_, rfl, laneOp_step hx hg hb h _⟩, fun h => ⟨_, rfl, laneOp_step hx hg hb h _⟩,
    fun h => ⟨_, rfl, laneOp_step hx hg hb h _⟩, fun h => ⟨_, rfl, laneOp_step hx hg hb h _⟩, fun h => ⟨_, rfl, laneOp_step hx hg hb h _⟩,
    fun h => ⟨_, rfl, laneOp_step hx hg hb h _⟩, fun h => ⟨_, rfl, laneOp_step hx hg hb h _⟩, fun h => ⟨_, rfl, laneOp_step hx hg hb h _⟩,
    fun h => ⟨_, rfl, laneOp_step hx hg hb h _⟩, fun h => ⟨_, _, rfl, issue_writeV_step hx hg hb h rfl, ?_, fun k hk => ?vfma⟩,
    fun h => ⟨_, rfl, issue_writeV_step hx hg hb h (by rw [← hv])⟩, fun h _ => ⟨_, _, rfl, issue_writeV_step hx hg hb h rfl, ?_, fun k hk => ?vcmp⟩,
    fun h => ⟨_, _, rfl, issue_writeV_step hx hg hb h rfl, ?_, fun k hk => ?vsel⟩,
    fun h => ⟨_, rfl, issue_writeV_step hx hg hb h (by rw [BitVec.ofNat_toNat])⟩⟩
  case vfma => rw [hv, hv, hv, getD_zipWith_zip _ (hl _) (hl _) (hl _) hk]
  case vcmp => rw [hv, hv, getD_zipWith _ (by rw [hl]; exact hk) (by rw [hl]; exact hk) 0 0 0]; rfl
  case vsel => rw [hv, hv, hv, getD_zipWith_zip _ (hl _) (hl _) (hl _) hk]
  all_goals simp [hv, hl]

/-- Settles O24: one lane, or the sum of the lanes, goes to s[DST]. -/
theorem vectorScalarResults : Obligations.VectorScalarResults := by
  intro s sr w x hx hg b hb st i v wrote
  have hv : ∀ r, readV s sr r = v r := readV_of hx hb
  have hw : ∀ {op : Nat} {body : Ins → Strand → State → State} {a : F32}, issues 1 op sr w s = true → body i st s = retire sr (s.setS sr i.dst (BitVec.ofNat 64 a.toNat)) →
      wrote a (issue 1 op sr w body s) := by
    intro op body a h hbody
    rw [issue_of_issues hx h, hbody, BitVec.ofNat_toNat]
    exact retire_setS_step hx hg h _ _
  exact ⟨fun h => ⟨_, rfl, hw h (by rw [← hv]; rfl)⟩, fun h => ⟨_, rfl, hw h (by rw [← vsum_eq, ← hv])⟩⟩

/-! Local loads. -/

section
variable {sr : StrandRef} {s : State} {x : Ctx} {op size : Nat} {w : Word} {body : Ins → Strand → Nat → State → State}

/-- A local load of a range that is allowed and sound. -/
theorem localOp_load (hx : s.ctx? sr.copse sr.ctx = some x) (h : issues 11 op sr w s = true) {a : Nat}
    (ha : scratchAt s sr (natBits (Ins.ofWord w).imm 28 26) ((x.strand (strandKey sr)).s (Ins.ofWord w).src1 + BitVec.ofNat 64 (natBits (Ins.ofWord w).imm 25 0)) size
      (if size = 4096 then 256 else size) false = .ok a) :
    localOp op size false sr w body s = if scratchBad s sr.copse sr.ctx sr.cu a size = true then failWith sr .poison (x.strand (strandKey sr)).pc (countIssue sr s)
      else retire sr (body (Ins.ofWord w) (x.strand (strandKey sr)) a s) := by
  rw [localOp, issue_of_issues hx h]
  simp only [Ins.fld, ha, Bool.not_false, Bool.true_or, Bool.true_and]

/-- A local access that is refused is a fault. -/
theorem localOp_error (hx : s.ctx? sr.copse sr.ctx = some x) (h : issues 11 op sr w s = true) {e : Nat} {write : Bool}
    (he : scratchAt s sr (natBits (Ins.ofWord w).imm 28 26) ((x.strand (strandKey sr)).s (Ins.ofWord w).src1 + BitVec.ofNat 64 (natBits (Ins.ofWord w).imm 25 0)) size
      (if size = 4096 then 256 else size) write = .error e) :
    localOp op size write sr w body s = fault sr e (countIssue sr s) := by
  rw [localOp, issue_of_issues hx h]
  simp only [Ins.fld, he]

end

/-- Settles O30: a load that is allowed and sound writes its register and goes on. -/
theorem localLoadsReadTheScratchpad : Obligations.LocalLoadsReadTheScratchpad := by
  intro s sr w x hx hg st i at_ fine bytes
  refine ⟨fun h a ha hf => ⟨_, next_congr ((localOp_load hx h ha).trans (if_neg (by rw [hf]; decide))), ?_⟩,
    fun h a ha hf => next_congr ((localOp_load hx h ha).trans (if_pos (by simpa [fine] using hf))),
    fun h e he => next_congr (localOp_error hx h he), fun b hb => ?_⟩
  · rw [State.readScratch_of hx]; exact retire_setS_step hx hg h _ _
  · intro loaded
    have load : ∀ {op size dest a : Nat}, issues 11 op sr w s = true → at_ size (if size = 4096 then 256 else size) = .ok a → fine a size →
        ∀ {body : Ins → Strand → Nat → State → State}, body i st a s = loadBay sr dest a size s → loaded dest a size (localOp op size false sr w body s) := by
      intro op size dest a h ha hf body hbody
      rw [localOp_load hx h ha, if_neg (by rw [hf]; decide), hbody, loadBay, State.readScratch_of hx]
      exact retire_writeBay_step hx hg h hb _ _
    exact ⟨fun h a ha hf => ⟨_, rfl, load h ha hf rfl⟩, fun h a ha hf => ⟨_, rfl, load h ha hf rfl⟩, fun h a ha hf => ⟨_, rfl, load h ha hf rfl⟩,
      fun h a ha hf => ⟨_, rfl, load h ha hf rfl⟩⟩

end Sys2Proof.Machine
end

section
/-! SUPPORT. Instructions that ask for something: region requests, fences and barriers, control space, fabric memory, messages and reductions, and bays (O22, O32 to O36). -/

namespace Sys2Proof.Machine

section
variable {cls op : Nat} {sr : StrandRef} {s : State} {x : Ctx} {w : Word}

/-- A fabric instruction that issues does what its body says, and what follows is settled. -/
theorem fabOp_of_issues (hx : s.ctx? sr.copse sr.ctx = some x) (h : issues cls op sr w s = true) (body : Ins → Strand → State → State) :
    fabOp cls op sr w body s = settle (body (Ins.ofWord w) (x.strand (strandKey sr)) s) := by rw [fabOp, issue_of_issues hx h]

/-- The answer of a fabric instruction that issues, its body worked out. -/
theorem fabOp_next (hx : s.ctx? sr.copse sr.ctx = some x) (h : issues cls op sr w s = true) {body : Ins → Strand → State → State} {q : State}
    (hbody : body (Ins.ofWord w) (x.strand (strandKey sr)) s = q) : (Host.Outcome.next (fabOp cls op sr w body s) : Out) = .next (settle q) := by
  rw [fabOp_of_issues hx h, hbody]

/-- The answer of an instruction that issues, its body worked out. -/
theorem issue_next (hx : s.ctx? sr.copse sr.ctx = some x) (h : issues cls op sr w s = true) {body : Ins → Strand → State → State} {q : State}
    (hbody : body (Ins.ofWord w) (x.strand (strandKey sr)) s = q) : (Host.Outcome.next (issue cls op sr w body s) : Out) = .next q := by
  rw [issue_of_issues hx h, hbody]

/-- A request that is refused at once ends with its status, and the strand goes on. -/
theorem refuseNow_of (hx : s.ctx? sr.copse sr.ctx = some x) (i : Ins) (st : Status) :
    refuseNow sr i st s = retire sr (endReq (.strand sr .none (statOf i i.src2) (x.strand (strandKey sr)).pc) x.clr s.epoch 0 st [] false s) := by simp [refuseNow, hx]

end

/-! Regions. -/

section
variable {sr : StrandRef} {s : State} {i : Ins} {wr : Bool} {lines : Nat} {ret : RetData} {st : Strand}

theorem regionOp_ok {d : Desc} {a : Nat} (hd : d.kind = 2)
    (h : fabAt s sr (natBits i.imm 27 25) (st.s i.src1).toNat (if lines = 0 then 1 else 64 * lines) (!wr) wr = .ok (d, a)) (serve : Req → State → State) :
    regionOp sr i wr lines ret st serve s = retire sr (serve (strandReq s sr d a ret (statOf i i.src2) 0) s) := by
  simp [regionOp, regionReq, Ins.fld, h, hd]

theorem regionOp_error {e : Nat} (h : fabAt s sr (natBits i.imm 27 25) (st.s i.src1).toNat (if lines = 0 then 1 else 64 * lines) (!wr) wr = .error e) (serve : Req → State → State) :
    regionOp sr i wr lines ret st serve s = fault sr e (countIssue sr s) := by
  simp [regionOp, regionReq, Ins.fld, h]

theorem afterRequests_of_none (h : outstanding s sr = 0) (k : State → State) : afterRequests sr k s = k s := if_pos h

theorem afterRequests_of_some (h : 0 < outstanding s sr) (k : State → State) : afterRequests sr k s = waitFor sr .held s := if_neg (by omega)

end

/-- Settles O33: each region instruction serves its operation on the request of regionOp_ok. -/
theorem regionInstructionsServeTheirRequests : Obligations.RegionInstructionsServeTheirRequests := by
  intro s sr w x hx st i D stat went faulted at_ req n
  refine ⟨fun d a hd ha => ⟨fun h => fabOp_next hx h (regionOp_ok hd ha _), fun h => fabOp_next hx h (regionOp_ok hd ha _), fun h => fabOp_next hx h (regionOp_ok hd ha _),
      fun h => fabOp_next hx h (regionOp_ok hd ha _)⟩, fun h ho hn hn' d a hd ha => fabOp_next hx h ?inval, fun h ho hn => fabOp_next hx h ?refused,
    fun h ho => fabOp_next hx h (afterRequests_of_some ho _), fun h ho d a hd ha => fabOp_next hx h ((afterRequests_of_none ho _).trans (regionOp_ok hd ha _)),
    fun h ho => fabOp_next hx h (afterRequests_of_some ho _), fun h d a hd ha q hq hl => fabOp_next hx h ?prep, fun h e he => fabOp_next hx h (regionOp_error he _)⟩
  case inval =>
    have hin : ¬ (n = 0 ∨ 16777216 < n) := by omega
    refine (afterRequests_of_none ho _).trans ((if_neg hin).trans (regionOp_ok hd ?_ _))
    rw [if_neg hn]; exact ha
  case refused => exact (afterRequests_of_none ho _).trans ((if_pos hn).trans (refuseNow_of hx _ _))
  case prep =>
    have hr : regionOp sr i true 0 (.handle i.dst) st (fun r s => servePrepare r (reqDie sr) s) s = q := (regionOp_ok hd ha _).trans hq.symm
    simp only [i, st] at hr
    simp only [hr, hl, if_true]

/-! Fences, barriers and waits. -/

/-- fenceDone is what R190 and R191 ask of a scope. -/
theorem fenceDone_iff (q : State) (sr : StrandRef) (scope : Nat) : fenceDone q sr scope = true ↔
    if scope < 2 then ∀ p, p ∈ q.reqsOf (srcIs sr) → returnsData p = false else q.reqsOf (srcIs sr) = [] ∧ ∀ l, l ∈ (q.copse sr.copse).cache → l.dirty = false := by
  unfold fenceDone
  split <;> simp

/-- A strand that stands at a barrier blocks nothing: its context stays as it is, or runs. -/
theorem waitFor_bar_strand {sr : StrandRef} {s : State} {x : Ctx} (hx : s.ctx? sr.copse sr.ctx = some x) (hs : x.state = .running ∨ x.state = .blocked)
    (hl : (x.strand (strandKey sr)).live = true) (n : Nat) : (waitFor sr (.bar n) s).strand sr = { x.strand (strandKey sr) with wait := .bar n } := by
  obtain ⟨y, hy⟩ : ∃ y, y = x.setStrand (strandKey sr) { x.strand (strandKey sr) with wait := .bar n } := ⟨_, rfl⟩
  have hst : y.strand (strandKey sr) = { x.strand (strandKey sr) with wait := .bar n } := by rw [hy, Ctx.strand_setStrand]
  have hnb : (y.strands.filter fun e => e.2.live).all (fun e => e.2.wait.blocks) = false := by
    rw [List.all_eq_false]
    refine ⟨(strandKey sr, y.strand (strandKey sr)), List.mem_filter.2 ⟨?_, by rw [hst]; exact hl⟩, by rw [hst]; simp [Wait.blocks]⟩
    rw [hst, hy]
    exact SMap.mem_insert.2 (.inl rfl)
  have hys : y.state = x.state := by rw [hy]; rfl
  rw [← hst, waitFor, State.modStrand_of s hx, ← hy, reblock, State.ctx?_putCtx_self]
  rcases hs with hs | hs <;> simp [hys, hs, hnb, State.strand, Ctx.strand]

/-- Settles O34: a fence is done by fenceDone_iff, and each instruction goes on or waits by it. -/
theorem fencesBarriersAndWaits : Obligations.FencesBarriersAndWaits := by
  intro s sr w x hx st i scope done after fresh
  have hdone : ∀ q, fenceDone q sr scope = true ↔ done q := fun q => fenceDone_iff q sr scope
  have then_done : ∀ {k : State → State}, done s → fenceThen sr scope k s = k (after s) := fun h => if_pos ((hdone s).2 h)
  have then_waits : ∀ {k : State → State}, ¬ done s → fenceThen sr scope k s = waitFor sr .fence s := fun h => if_neg (mt (hdone s).1 h)
  have fence_done : ∀ {k : State → State} {q : State}, fresh → q = k s → (q.strand sr).live = true → done q → thenFence sr scope st k s = retire sr (after q) := by
    intro k q hf hq hl hd
    rw [thenFence, if_neg hf, ← hq]
    simp only [hl, Bool.not_true, Bool.false_eq_true, if_false, (hdone q).2 hd, if_true]
    rfl
  have fence_waits : ∀ {k : State → State} {q : State}, fresh → q = k s → (q.strand sr).live = true → ¬ done q → thenFence sr scope st k s = waitFor sr .acq q := by
    intro k q hf hq hl hd
    rw [thenFence, if_neg hf, ← hq]
    simp only [hl, Bool.not_true, Bool.false_eq_true, if_false, mt (hdone q).1 hd]
  refine ⟨fun h => ⟨fun hd => fabOp_next hx h (then_done hd), fun hd => fabOp_next hx h (then_waits hd)⟩,
    fun h => ⟨fun hd => fabOp_next hx h (then_done hd), fun hd => fabOp_next hx h (then_waits hd)⟩,
    fun h => ⟨fun hd => fabOp_next hx h (then_done hd), fun hd => fabOp_next hx h (then_waits hd)⟩,
    fun h hf q hq hl => ⟨fun hd => fabOp_next hx h (fence_done hf hq hl hd), fun hd => fabOp_next hx h (fence_waits hf hq hl hd)⟩,
    fun h hf q hq hl => ⟨fun hd => fabOp_next hx h (fence_done hf hq hl hd), fun hd => fabOp_next hx h (fence_waits hf hq hl hd)⟩,
    fun h => ⟨fun ho => issue_next hx h (if_pos ho), fun ho => issue_next hx h (if_neg (not_le.2 ho))⟩, fun h => ⟨_, issue_next hx h rfl, ?_⟩⟩
  obtain ⟨hs, hl⟩ := issues_ctx hx h
  exact waitFor_bar_strand hx hs hl _

/-! Control space. -/

section
variable {sr : StrandRef} {s : State} {x : Ctx} {op : Nat} {rd wr : Bool} {w : Word}

theorem progOf_of (hx : s.ctx? sr.copse sr.ctx = some x) :
    progOf s sr = { privileged := x.hdr.priv, clr := x.clr, mcu := if 128 ≤ sr.copse then some (sr.copse - 128) else none } := by simp [progOf, hx]

theorem outsideCtrl_of_free {i : Ins} (h : natBit i.imm 28 = false) (a : Nat) : outsideCtrl s sr i a rd wr = false := by simp [outsideCtrl, h]

/-- A control instruction that nothing confines reaches the word of its 32-bit address. -/
theorem ctlIns_of_free (hx : s.ctx? sr.copse sr.ctx = some x) (h : issues 9 op sr w s = true) (hf : natBit (Ins.ofWord w).imm 28 = false)
    (body : Ins → Strand → Nat → State → State) :
    ctlIns op rd wr sr w body s = if 2 ^ 32 ≤ ((x.strand (strandKey sr)).s (Ins.ofWord w).src1).toNat then failWith sr .denied (x.strand (strandKey sr)).pc (countIssue sr s)
      else body (Ins.ofWord w) (x.strand (strandKey sr)) ((x.strand (strandKey sr)).s (Ins.ofWord w).src1).toNat s := by
  rw [ctlIns, issue_of_issues hx h]
  simp only [outsideCtrl_of_free hf, Bool.false_eq_true, if_false]

theorem ctlStore_ok {st : Strand} {a : Nat} {v mask : Word} {q : State} (h : ctlWrite (progOf s sr) a v mask s = (.ok, q)) : ctlStore sr st a v mask s = retire sr q := by
  simp [ctlStore, h]

theorem ctlStore_fails {st : Strand} {a : Nat} {v mask : Word} {e : Status} {q : State} (he : e ≠ .ok) (h : ctlWrite (progOf s sr) a v mask s = (e, q)) :
    ctlStore sr st a v mask s = failWith sr e st.pc (countIssue sr q) := by
  simp [ctlStore, h]

end

/-- Settles O36: control instructions act on ctlRead and ctlWrite of the program of their strand. -/
theorem controlInstructionsReachControlSpace : Obligations.ControlInstructionsReachControlSpace := by
  intro s sr w x hx st i a p confined
  have hp : progOf s sr = p := progOf_of hx
  have run : ∀ {op : Nat} {rd wr : Bool} {body : Ins → Strand → Nat → State → State} {q : State}, issues 9 op sr w s = true → natBit i.imm 28 = false → a < 2 ^ 32 → body i st a s = q →
      (Host.Outcome.next (settle (ctlIns op rd wr sr w body s)) : Out) = .next (settle q) := by
    intro op rd wr body q h hf ha hb
    rw [ctlIns_of_free hx h hf, if_neg (not_le.2 ha)]
    exact next_congr (congrArg settle hb)
  rw [← hp]
  refine ⟨fun h hf ha => ⟨fun v q hq => run h hf ha ?_, fun e v q he hq => run h hf ha ?_, fun q hq => run h hf ha ?_⟩,
    fun h hf ha => ⟨fun q hq => run h hf ha (ctlStore_ok hq), fun e q he hq => run h hf ha (ctlStore_fails he hq)⟩,
    fun h hf ha => ⟨fun q hq => run h hf ha (ctlStore_ok hq), fun e q he hq => run h hf ha (ctlStore_fails he hq)⟩, fun h hc => ?_, fun h hf ha => ?_⟩
  · simp only [hq]
  · simp only [hq]
  · simp only [hq]
  · obtain ⟨h28, d, hd, hk, ho⟩ := hc
    have hout : outsideCtrl s sr i a true false = true := by
      simp only [outsideCtrl, h28, Ins.fld, hd, hk, Bool.true_and, beq_self_eq_true, Bool.or_eq_true, decide_eq_true_eq]
      exact .inl (.inl ho)
    refine next_congr (congrArg settle ?_)
    rw [ctlIns, issue_of_issues hx h]
    exact if_pos hout
  · refine next_congr (congrArg settle ?_)
    rw [ctlIns_of_free hx h hf]
    exact if_pos ha

end Sys2Proof.Machine
end

section
/-! SUPPORT. Fabric memory instructions, messages, reductions and bays (O22, O32, O35). -/

namespace Sys2Proof.Machine

section
variable {sr : StrandRef} {s : State} {i : Ins} {st : Strand} {d : Desc} {a off : Nat}

/-! LDL, PLD, STL and ATOM. -/

theorem loadLine_error {pin : Bool} {e : Nat} (h : fabAt s sr (natBits i.imm 27 25) ((st.s i.src1).toNat + 64 * off) 64 true false = .error e) :
    loadLine sr i off pin st s = fault sr e s := by
  simp only [loadLine, Ins.fld, h]

/-- A line that the copse cache serves and holds. -/
theorem loadLine_hit {pin viaW : Bool} {node ln : Nat} {l : CLine} (h : fabAt s sr (natBits i.imm 27 25) ((st.s i.src1).toNat + 64 * off) 64 true false = .ok (d, a)) (hd : d.kind = 2)
    (hc : cacheServes s (strandReq s sr d a .none (statOf i i.src2) 0) = true) (hl : landing s (strandReq s sr d a .none (statOf i i.src2) 0) = some (node, ln, viaW))
    (hf : findLine (s.copse sr.copse) node ln = some l) (hs : statOf i i.src2 = none) :
    loadLine sr i off pin st s = (touchLine sr.copse node ln s).writeBay sr (256 * i.dst + 64 * natBits i.imm 24 23) (lineBytes l.data) := by
  have hst : i.staten = false := by
    by_contra h
    simp [statOf, h] at hs
  simp only [loadLine, Ins.fld, h, hd, hc, hl, hf, hst, true_and, if_true, Bool.false_eq_true, if_false]

/-- A line that the cache serves and does not hold. -/
theorem loadLine_miss {pin viaW : Bool} {node ln : Nat} (h : fabAt s sr (natBits i.imm 27 25) ((st.s i.src1).toNat + 64 * off) 64 true false = .ok (d, a)) (hd : d.kind = 2)
    (hc : cacheServes s (strandReq s sr d a .none (statOf i i.src2) 0) = true) (hl : landing s (strandReq s sr d a .none (statOf i i.src2) 0) = some (node, ln, viaW))
    (hf : findLine (s.copse sr.copse) node ln = none) :
    loadLine sr i off pin st s = serveStrand sr d (strandReq s sr d a (.line i.dst (natBits i.imm 24 23) node ln pin viaW) (statOf i i.src2) 0) .load 1 s := by
  simp only [loadLine, Ins.fld, h, hd, hc, hl, hf, true_and, if_true]

/-- A line that the cache does not serve. -/
theorem loadLine_uncached {pin : Bool} (h : fabAt s sr (natBits i.imm 27 25) ((st.s i.src1).toNat + 64 * off) 64 true false = .ok (d, a))
    (hc : d.kind ≠ 2 ∨ cacheServes s (strandReq s sr d a .none (statOf i i.src2) 0) = false) :
    loadLine sr i off pin st s = serveStrand sr d (strandReq s sr d a (.line i.dst (natBits i.imm 24 23) 0x10000 0 false false) (statOf i i.src2) 0) .load 1 s := by
  have hn : ¬ (d.kind = 2 ∧ cacheServes s (strandReq s sr d a .none (statOf i i.src2) 0) = true) := by
    rintro ⟨hk, ht⟩
    rcases hc with hc | hc
    · exact hc hk
    · simp [hc] at ht
  simp only [loadLine, Ins.fld, h, hn, if_false]

/-- A store of a line that lands nowhere in the cache. -/
theorem storeLine_uncached (h : fabAt s sr (natBits i.imm 27 25) ((st.s i.src1).toNat + 64 * off) 64 false true = .ok (d, a))
    (hl : landing s (strandReq s sr d a .none (statOf i i.src2) 0) = none) :
    storeLine sr i off st s = serveStrand sr d (strandReq s sr d a .none (statOf i i.src2) 0)
      (.store (bytesLine (s.readBay sr (256 * i.dst + 64 * natBits i.imm 24 23) 64))) 1 s := by
  simp only [storeLine, Ins.fld, h, hl]

theorem atomWord_ok (h : fabAt s sr (natBits i.imm 27 25) ((st.s i.src1).toNat + 8 * off) 8 true true = .ok (d, a)) :
    atomWord sr i off st s = serveStrand sr d (strandReq s sr d a (.sreg i.dst) (statOf i i.src2) 0)
      (.atomic (natBits i.imm 22 19) (a / 8 % 8) (st.s i.dst).toNat (st.s i.src2).toNat) 1 s := by
  simp only [atomWord, Ins.fld, h]

/-! Blocks, pages and rows. -/

variable {stat : Option Nat} {dest : Nat}

theorem fabAt_desc {k len : Nat} {rd wr : Bool} (h : fabAt s sr k off len rd wr = .ok (d, a)) : ctxDesc s sr k = some d := by
  unfold fabAt at h
  split at h
  · next d' hd =>
    rw [hd]
    split at h
    · cases h
    · split at h
      · cases h
      · cases h; rfl
  · cases h

theorem readBlock_ok {n : Nat} (hf : fabAt s sr (natBits i.imm 27 25) (st.s i.src1).toNat n true false = .ok (d, a))
    (hs : scratchAt s sr (natBits i.imm 24 22) (st.s i.dst) n 1 true = .ok dest) :
    readBlock sr i n false stat st s = retire sr (serveStrand sr d (strandReq s sr d a (.scratch dest n) stat 0) (.blkRd (n / 256)) 1 s) := by
  simp [readBlock, Ins.fld, fabAt_desc hf, hf, hs]

theorem readPage_ok {n : Nat} {d0 : Desc} (hd : ctxDesc s sr (natBits i.imm 27 25) = some d0) (hp : d0.base ≤ (d0.base + (st.s i.src1).toNat) / 4096 * 4096)
    (hf : fabAt s sr (natBits i.imm 27 25) ((d0.base + (st.s i.src1).toNat) / 4096 * 4096 - d0.base) 4096 true false = .ok (d, a))
    (hs : scratchAt s sr (natBits i.imm 24 22) (st.s i.dst) 4096 1 true = .ok dest) :
    readBlock sr i n true stat st s = retire sr (serveStrand sr d (strandReq s sr d a (.scratch dest 4096) stat 0) .pageRd 1 s) := by
  simp [readBlock, Ins.fld, hd, not_lt.2 hp, hf, hs]

variable {x : Ctx}

theorem writeBlock_ok (hx : s.ctx? sr.copse sr.ctx = some x) {from_ : Nat} (hf : fabAt s sr (natBits i.imm 27 25) (st.s i.src1).toNat (st.s i.src2).toNat false true = .ok (d, a))
    (hs : scratchAt s sr (natBits i.imm 24 22) (st.s i.dst) (st.s i.src2).toNat 1 false = .ok from_) (hb : scratchBad s sr.copse sr.ctx sr.cu from_ (st.s i.src2).toNat = false) :
    let base := a / 64 * 64
    let segs := blockSegs 258 base (st.s i.src2).toNat
    let r := strandReq s sr d base .none stat 0
    let p : Txn := { plainTxn r.src (.blkWr []) r.clr r.epoch r.node (reqDie sr) s with phase := .parts, parts := segs.length }
    writeBlock sr i stat st s = retire sr (sendSegs sr d r p.id (readBytes x.scratch (scratchBase sr.cu + from_) (st.s i.src2).toNat) base segs (s.addTxn p)) := by
  simp [writeBlock, Ins.fld, hf, hs, hb, State.readScratch_of hx]

theorem gatherRows_ok (hx : s.ctx? sr.copse sr.ctx = some x) {ia : Nat}
    (hi : scratchAt s sr (natBits i.imm 24 22) (st.s (i.dst + 1)) (4 * (natBits i.imm 9 4 + 1)) 1 false = .ok ia)
    (hd : scratchAt s sr (natBits i.imm 24 22) (st.s i.dst) ((natBits i.imm 9 4 + 1) * (natBits i.imm 3 0 + 1) * 64) 1 true = .ok dest)
    (hb : scratchBad s sr.copse sr.ctx sr.cu ia (4 * (natBits i.imm 9 4 + 1)) = false) {idx : List Nat}
    (hidx : (List.range (natBits i.imm 9 4 + 1)).map (fun k => ofBytesLE (readBytes x.scratch (scratchBase sr.cu + (ia + 4 * k)) 4)) = idx)
    (hf : fabAt s sr (natBits i.imm 27 25) (st.s i.src1).toNat ((idx.foldl max 0 + 1) * ((natBits i.imm 3 0 + 1) * 64)) true false = .ok (d, a)) :
    gatherRows sr i st s = retire sr (serveStrand sr d (strandReq s sr d a (.scratch dest ((natBits i.imm 9 4 + 1) * (natBits i.imm 3 0 + 1) * 64)) (statOf i i.src2) 0)
      (.gather (natBits i.imm 3 0) idx) 1 s) := by
  simp only [gatherRows, Ins.fld, hi, hd, State.readScratch_of hx, hidx, hf, hb, Bool.false_eq_true, if_false]

end

/-- Settles O32: each instruction is its request by the lemmas above. -/
theorem fabricMemoryInstructionsIssueTheirRequests : Obligations.FabricMemoryInstructionsIssueTheirRequests := by
  intro s sr w x hx st i D stat went faulted off woff n spad req ended
  refine ⟨fun h d a ha => ⟨fun node ln viaW l hd hc hl hf hs => fabOp_next hx h (congrArg (retire sr) (loadLine_hit ha hd hc hl hf hs)),
      fun hc => fabOp_next hx h (congrArg (retire sr) (loadLine_uncached ha hc))⟩, fun h e he => fabOp_next hx h (congrArg (retire sr) (loadLine_error he)),
    fun h d a node ln viaW ha hd hc hl hf => fabOp_next hx h (congrArg (retire sr) (loadLine_miss ha hd hc hl hf)),
    fun h d a ha hl => fabOp_next hx h (congrArg (retire sr) (storeLine_uncached ha hl)), fun h d a ha => fabOp_next hx h (congrArg (retire sr) (atomWord_ok ha)),
    fun h h0 hn h256 d a dest ha hs => fabOp_next hx h ((if_neg (not_or.2 ⟨h0, not_or.2 ⟨not_lt.2 hn, not_not.2 h256⟩⟩)).trans (readBlock_ok ha hs)),
    fun h hn => ⟨_, fabOp_next hx h ((if_pos hn).trans (refuseNow_of hx _ _)), rfl⟩,
    fun h h0 hn h64 d a from_ ha hs hb => fabOp_next hx h ?_, fun h h0 hn h64 => ⟨_, fabOp_next hx h ?_, rfl⟩,
    fun h d0 hd hp d a dest ha hs => fabOp_next hx h (readPage_ok hd hp ha hs),
    fun h ia dest hi hd hb d a ha => fabOp_next hx h (gatherRows_ok hx hi hd hb rfl ha), fun h h0 hn d0 hd hk hp d a ha => fabOp_next hx h ?_⟩
  · have hin : ¬ (n = 0 ∨ 65536 < n) := by omega
    exact (if_neg hin).trans ((if_neg (not_not.2 h64)).trans (writeBlock_ok hx ha hs hb))
  · have hin : ¬ (n = 0 ∨ 65536 < n) := by omega
    exact (if_neg hin).trans ((if_pos h64).trans (refuseNow_of hx _ _))
  · have hin : ¬ ((st.s i.src1).toNat = 0 ∨ 16777216 < (st.s i.src1).toNat) := by omega
    have hpage : ¬ ((d0.base + (st.s i.dst).toNat) / 4096 * 4096 < d0.base ∨ d0.kind ≠ 2) := by simp [hk, hp]
    refine (if_neg hin).trans ?_
    simp only [Ins.fld]
    rw [hd]
    refine (if_neg hpage).trans ?_
    rw [ha]

/-! Messages. -/

section
variable {sr : StrandRef} {s : State} {x : Ctx} {i : Ins} {st : Strand}

/-- A message whose length is out of range ends at once. -/
theorem sendOp_refused (hx : s.ctx? sr.copse sr.ctx = some x) (hn : ¬ ((st.s i.src2).toNat ≠ 0 ∧ (st.s i.src2).toNat ≤ 65536 ∧ (st.s i.src2).toNat % 16 = 0)) (send : RxWait → State → State) :
    sendOp sr i st send s = retire sr (endReq (.strand sr .none (statOf i i.src2) (x.strand (strandKey sr)).pc) x.clr s.epoch 0 .denied [] false s) := by
  have hout : (st.s i.src2).toNat = 0 ∨ 65536 < (st.s i.src2).toNat ∨ (st.s i.src2).toNat % 16 ≠ 0 := by omega
  rw [sendOp, sendBody, if_pos hout]
  exact refuseNow_of hx _ _

/-- A message that may be sent. -/
theorem sendOp_ok (hx : s.ctx? sr.copse sr.ctx = some x) (hn : (st.s i.src2).toNat ≠ 0 ∧ (st.s i.src2).toNat ≤ 65536 ∧ (st.s i.src2).toNat % 16 = 0) {a : Nat}
    (ha : scratchAt s sr (natBits i.imm 27 25) (st.s i.dst) (st.s i.src2).toNat 1 false = .ok a) (hb : scratchBad s sr.copse sr.ctx sr.cu a (st.s i.src2).toNat = false)
    (send : RxWait → State → State) :
    sendOp sr i st send s = retire sr (send {
      sender := BitVec.ofNat 64 (ctxHandle s sr.copse sr.ctx), tag := natBits i.imm 15 0
      bytes := readBytes x.scratch (scratchBase sr.cu + a) (st.s i.src2).toNat, src := .strand sr .none (statOf i i.src2) st.pc, clr := x.clr, epoch := s.epoch } s) := by
  have hin : ¬ ((st.s i.src2).toNat = 0 ∨ 65536 < (st.s i.src2).toNat ∨ (st.s i.src2).toNat % 16 ≠ 0) := by omega
  simp only [sendOp, sendBody, if_neg hin, Ins.fld, ha, hx, hb, State.readScratch_of hx, Bool.false_eq_true, if_false]

theorem takeMessage_long {d : Desc} {m : RxMsg} {r : List RxMsg} (h : (st.s i.src2).toNat < m.len) :
    takeMessage sr i st x d m r s = retire sr (s.setS sr i.src2 (BitVec.ofNat 64 (m.len + 2 ^ 63))) := if_pos h

theorem takeMessage_fits (hx : s.ctx? sr.copse sr.ctx = some x) {d : Desc} {m : RxMsg} {r : List RxMsg} (h : m.len ≤ (st.s i.src2).toNat) {a : Nat}
    (ha : scratchAt s sr (natBits i.imm 27 25) (st.s i.dst) m.len 1 true = .ok a) :
    let bs := readRing x.scratch (scratchBase 0 + d.base) d.len m.at_ (16 + m.len)
    let q := (s.putCtx sr.copse sr.ctx { x with rx := r }).writeScratch sr.copse sr.ctx sr.cu a (bs.drop 16)
    takeMessage sr i st x d m r s = retire sr (pumpRing x.rxWait.length sr.copse sr.ctx
      (((q.setS sr i.src2 (BitVec.ofNat 64 m.len)).setS sr i.src1 (BitVec.ofNat 64 (field bs 0 8))).setS sr (i.dst + 1) (BitVec.ofNat 64 (field bs 12 4)))) := by
  simp only [takeMessage, if_neg (not_lt.2 h), Ins.fld, ha, State.modCtx_of s hx]

end

/-! Reductions. -/

section
variable {sr : StrandRef} {s : State} {x : Ctx} {i : Ins} {st : Strand} {f : NFmt}

/-- A step of R337 up to its conversion: the range is sound and the residual is read. -/
theorem rstep_started (hx : s.ctx? sr.copse sr.ctx = some x) {a dest : Nat} {y : List F32} {b : Bool} {q : State} :
    let word := (st.s i.src2).toNat
    let m := (st.s (i.src2 + 1)).toNat
    let ob := (m + f.chunkElems - 1) / f.chunkElems * f.chunkBytes
    let named := if (x.hdr.resid.any fun r => r.1 == natBits word 43 32) = true then some (natBits word 43 32) else none
    let fill := ob / f.chunkBytes * f.chunkElems - m
    scratchAt s sr (natBits i.imm 27 25) (st.s i.src1) (4 * m) 1 false = .ok a → scratchAt s sr (natBits i.imm 24 22) (st.s i.dst) ob 1 true = .ok dest →
    scratchBad s sr.copse sr.ctx sr.cu a (4 * m) = false →
    residStart sr.copse named (natBits word 31 0) m (bytesF32 m (readBytes x.scratch (scratchBase sr.cu + a) (4 * m))) s = (some (y, b), q) →
    rstep sr i st f s = match convertFor sr f (i.src2 + 2) (piecesOf f.block ((m + fill) / f.block) (y ++ List.replicate fill 0)) q with
      | .ok (o, u) => retire sr ((residEnd sr.copse named (natBits word 31 0) m y ((o.blocks.map (OutBlock.values f)).flatten) u).writeScratch sr.copse sr.ctx sr.cu dest (packChunks f o.blocks))
      | .error e => fault sr e (countIssue sr q) := by
  intro word m ob named fill ha hd hb hr
  have hn : (if ((s.ctx? sr.copse sr.ctx).map fun x => x.hdr.resid.any fun r => r.1 == natBits word 43 32) = some true then some (natBits word 43 32) else none) = named := by
    simp only [hx, Option.map_some, Option.some.injEq]; rfl
  rw [rstep]
  simp only [Ins.fld]
  rw [hn, ha, hd]
  dsimp only
  rw [hb, if_neg Bool.false_ne_true, State.readScratch_of hx, hr] <;> rfl

end

/-- Settles O35: messages, reductions and the residual step. -/
theorem messagesAndReductionsOfStrands : Obligations.MessagesAndReductionsOfStrands := by
  intro s sr w x hx st i D stat went faulted n at_ fits fine msg
  refine ⟨fun h hn a ha hb => fabOp_next hx h (sendOp_ok hx hn ha hb _), fun h hn => fabOp_next hx h (sendOp_refused hx hn _),
    fun h d hd => ⟨fun hk hn a ha hb => fabOp_next hx h ?sendg, fun hk => fabOp_next hx h ?nogroup⟩, fun h hr h28 => fabOp_next hx h ?recv0, fun h hr h28 => fabOp_next hx h ?recvWait,
    fun h m rest d hr hring => ⟨fun hlen => fabOp_next hx h ?long, fun hlen a ha => fabOp_next hx h ?taken⟩, fun f hf => ⟨fun h => ?radd, fun h => ?rstep⟩⟩
  case sendg =>
    rw [show ctxDesc s sr ((Ins.ofWord w).fld 24 22) = some d from hd]
    exact (if_pos hk).trans (sendOp_ok hx hn ha hb _)
  case nogroup =>
    rw [show ctxDesc s sr ((Ins.ofWord w).fld 24 22) = some d from hd]
    exact if_neg hk
  case recv0 => simp only [hx, hr]; exact if_pos h28
  case recvWait => simp only [hx, hr]; exact if_neg (Bool.eq_false_iff.1 h28)
  case long => simp only [hx, hr, hring]; exact takeMessage_long hlen
  case taken => simp only [hx, hr, hring]; exact takeMessage_fits hx hlen ha
  case radd =>
    intro nb fb from_ a hfrom hr hw hb1 hb2
    refine ⟨_, issue_next hx h ?_, rfl⟩
    rw [show fmtOf ((Ins.ofWord w).fld 21 18) = some f from hf]
    dsimp only [Ins.fld]
    rw [hfrom, hr, hw]
    dsimp only
    rw [hb1, hb2, if_neg (by decide), State.readScratch_of hx, State.readScratch_of hx]
  case rstep =>
    intro word stream m nb named a dest ha hd hb y b q hq fill
    have hs := rstep_started (f := f) (i := i) (st := st) hx ha hd hb hq
    have hfmt : fmtOf ((Ins.ofWord w).fld 21 18) = some f := hf
    refine ⟨fun o u hc => issue_next hx h ?_, fun e hc => issue_next hx h ?_⟩
    all_goals
      rw [hfmt]
      refine hs.trans ?_
      rw [hc]

end Sys2Proof.Machine
end

section
/-! SUPPORT. Bays (R301, R373): a bay that is taken reads zeros, and what BAYACQ, BAYREL and a grant do (O22). -/

namespace Sys2Proof.Machine

/-- What a map reads where only entries at some numbers are kept. -/
theorem SMap.get_keep {α : Type} (d : α) (p : Nat → Bool) (m : SMap α) (a : Nat) : SMap.get d (SMap.keep (fun k _ => p k) m) a = if p a then SMap.get d m a else d := by
  induction m with
  | nil => simp [SMap.keep, SMap.get]
  | cons e m ih =>
    obtain ⟨k, v⟩ := e
    simp only [SMap.keep, List.filter_cons] at ih ⊢
    by_cases hk : k = a
    · subst hk
      cases hp : p k <;> simp [SMap.get, ih, hp]
    · cases hp : p k <;> simp [SMap.get, ih, hk]

theorem get_clearRange (m : Store) (a n b : Nat) : SMap.get 0 (clearRange m a n) b = if a ≤ b ∧ b < a + n then 0 else SMap.get 0 m b := by
  rw [clearRange, SMap.get_keep _ (fun k => decide (k < a) || decide (a + n ≤ k))]
  by_cases h : a ≤ b ∧ b < a + n
  · rw [if_pos h, if_neg (by simp; omega)]
  · rw [if_neg h, if_pos (by simp; omega)]

theorem readBytes_eq_replicate {m : Store} {a n : Nat} (h : ∀ k, a ≤ k → k < a + n → SMap.get 0 m k = 0) : readBytes m a n = List.replicate n 0 := by
  induction n generalizing a with
  | zero => rfl
  | succ n ih => rw [readBytes, List.replicate_succ, h a le_rfl (by omega), ih fun k h1 h2 => h k (by omega) (by omega)]

theorem readBytes_clearRange (m : Store) (a n : Nat) : readBytes (clearRange m a n) a n = List.replicate n 0 :=
  readBytes_eq_replicate fun k h1 h2 => by rw [get_clearRange, if_pos ⟨h1, h2⟩]

@[simp] theorem State.copse_setCopse_self (s : State) (k : Nat) (c : Copse) : (s.setCopse k c).copse k = c := SMap.get_set_self ..

@[simp] theorem State.ctx?_setCopse (s : State) (k : Nat) (c : Copse) (a n : Nat) : (s.setCopse k c).ctx? a n = s.ctx? a n := rfl

@[simp] theorem State.copse_putCtx (s : State) (a n : Nat) (x : Ctx) (k : Nat) : (s.putCtx a n x).copse k = s.copse k := rfl

theorem State.strand_of {s : State} {sr : StrandRef} {x : Ctx} (hx : s.ctx? sr.copse sr.ctx = some x) : s.strand sr = x.strand (strandKey sr) := by simp [State.strand, hx]

section
variable {sr : StrandRef} {s : State} {x : Ctx}

/-- The context of a strand that has taken a bay. -/
def tookBay (sr : StrandRef) (x : Ctx) (b : Nat) : Ctx :=
  { x with bays := clearRange x.bays (bayBase sr b) 16384, strands := SMap.put x.strands (strandKey sr) { x.strand (strandKey sr) with bay := some b } }

theorem tookBay_strand (b : Nat) : (tookBay sr x b).strand (strandKey sr) = { x.strand (strandKey sr) with bay := some b } := SMap.get_put_self ..

/-- takeBay changes the strand's context alone. -/
theorem takeBay_of (hx : s.ctx? sr.copse sr.ctx = some x) (b : Nat) :
    (takeBay sr b s).ctx? sr.copse sr.ctx = some (tookBay sr x b) ∧ NxFrame sr s.nx.copses s (takeBay sr b s) := by
  have hx' : (s.putCtx sr.copse sr.ctx { x with bays := clearRange x.bays (bayBase sr b) 16384 }).ctx? sr.copse sr.ctx
      = some { x with bays := clearRange x.bays (bayBase sr b) 16384 } := State.ctx?_putCtx_self ..
  rw [takeBay, State.modCtx_of s hx, State.modStrand_of _ hx']
  exact ⟨State.ctx?_putCtx_self .., ((NxFrame.refl sr s).putCtx _).putCtx _⟩

/-- BAYACQ of a strand that may take bay b. -/
theorem bayAcquire_takes (hx : s.ctx? sr.copse sr.ctx = some x) (hn : (x.strand (strandKey sr)).bay = none) (hh : (heldBays x sr.cu).length < x.hdr.bays)
    (hw : ((s.copse sr.copse).bayQ.any fun q => q.cu == sr.cu) = false) {b : Nat} (hb : freeBayOf s sr = some b) :
    bayAcquire sr (x.strand (strandKey sr)) s = retire sr (takeBay sr b s) := by
  simp [bayAcquire, hx, hn, not_le.2 hh, hw, hb]

/-- BAYACQ of a strand that may hold a bay and gets none now. -/
theorem bayAcquire_waits (hx : s.ctx? sr.copse sr.ctx = some x) (hn : (x.strand (strandKey sr)).bay = none) (hh : (heldBays x sr.cu).length < x.hdr.bays)
    (hw : ((s.copse sr.copse).bayQ.any fun q => q.cu == sr.cu) = true ∨ freeBayOf s sr = none) :
    bayAcquire sr (x.strand (strandKey sr)) s =
      waitFor sr .bay ((s.fadd GL_CNT_ISSUE.BAY_WAIT (cuIx sr) 1).setCopse sr.copse { s.copse sr.copse with bayQ := (s.copse sr.copse).bayQ ++ [sr] }) := by
  have hnone : (if ((s.copse sr.copse).bayQ.any fun q => q.cu == sr.cu) = true then none else freeBayOf s sr) = none := by
    split
    · rfl
    · rename_i h
      exact hw.resolve_left h
  simp only [bayAcquire, hx, hn, not_le.2 hh, Option.isSome_none, Bool.false_eq_true, if_false, hnone]

/-- A bay that is given up is being zeroed from now on, and its strand holds none. -/
theorem freeBay_gives_up (hx : s.ctx? sr.copse sr.ctx = some x) (b : Nat) :
    let q := (freeBay sr b s).modStrand sr fun st => { st with bay := none }
    (q.strand sr).bay = none ∧ (q.copse sr.copse).zeroing.head? = some (sr.cu, b, s.now) := by
  intro q
  obtain ⟨c, hc⟩ : ∃ c, c = { s.copse sr.copse with zeroing := (sr.cu, b, s.now) :: (s.copse sr.copse).zeroing.filter fun z => decide (s.now < z.2.2 + 10) } := ⟨_, rfl⟩
  have hq : q = ((s.setCopse sr.copse c).putCtx sr.copse sr.ctx { x with bays := clearRange x.bays (bayBase sr b) 16384 }).putCtx sr.copse sr.ctx
      (Ctx.setStrand { x with bays := clearRange x.bays (bayBase sr b) 16384 } (strandKey sr) { x.strand (strandKey sr) with bay := none }) := by
    simp only [q, freeBay, ← hc]
    rw [State.modCtx_of _ ((State.ctx?_setCopse ..).trans hx), State.modStrand_of _ (State.ctx?_putCtx_self ..)]
    rfl
  rw [hq]
  refine ⟨?_, ?_⟩
  · rw [State.strand_of (State.ctx?_putCtx_self ..), Ctx.strand_setStrand]
  · simp [hc]

end

/-- Settles O22: what bayAcquire and freeBay do, and the grant of the oldest request that may be served. -/
theorem baysAreHeldAndReleased : Obligations.BaysAreHeldAndReleased := by
  intro s sr w x hx hg st i held waiting
  refine ⟨fun h hb => issue_next hx h ?_, fun h hn hh => issue_next hx h ?_, fun h hn hh hw b hb => ?takes, fun h hn hh hw => ⟨_, issue_next hx h (bayAcquire_waits hx hn hh hw), by simp⟩,
    fun h b hb => ?rel, fun h hn => ?relNone, fun t cu q b hq hb => ?grant⟩
  · simp only [bayAcquire, hx]
    exact if_pos hb
  · simp only [bayAcquire, hx]
    exact (if_neg (by simp [show (x.strand (strandKey sr)).bay = none from hn])).trans (if_pos hh)
  case takes =>
    obtain ⟨hs, hl⟩ := issues_ctx hx h
    obtain ⟨hc, hf⟩ := takeBay_of hx b
    refine ⟨_, tookBay sr x b, issue_next hx h (bayAcquire_takes hx hn hh hw hb), retire_nxStep hc hs ?_ ?_ hf, ?_, rfl, readBytes_clearRange ..⟩
    · rw [tookBay_strand]; exact hl
    · rw [goesOn, tookBay_strand]; exact hg
    · rw [tookBay_strand]
  case rel =>
    refine ⟨_, issue_next hx h ?_, freeBay_gives_up hx b⟩
    simp only [show (x.strand (strandKey sr)).bay = some b from hb]
  case relNone =>
    obtain ⟨hs, hl⟩ := issues_ctx hx h
    refine ⟨_, issue_next hx h ?_, retire_nxStep hx hs hl hg (NxFrame.refl sr s)⟩
    simp only [show (x.strand (strandKey sr)).bay = none from hn]
  case grant =>
    show execBayGrant t sr.copse cu s = _
    simp only [execBayGrant, hq, hb]
    rfl

end Sys2Proof.Machine
end

section
/-! SUPPORT. The expander: what XSTART, XSTAT, XCANCEL and a TMMA on the stream do, and how a decode ends (O27, O28). -/

namespace Sys2Proof.Machine

/-! Streams. -/

theorem State.copse_setCopse_ne (s : State) {k j : Nat} (h : k ≠ j) (c : Copse) : (s.setCopse k c).copse j = s.copse j :=
  (SMap.get_set ..).trans (if_neg h)

@[simp] theorem State.stream_setStream_self (s : State) (c u : Nat) (y : XStream) : (s.setStream c u y).stream c u = some y := by
  simp [State.stream, State.setStream, SMap.get?_put]

@[simp] theorem State.stream_dropStream_self (s : State) (c u : Nat) : (s.dropStream c u).stream c u = none := by
  simp [State.stream, State.dropStream, SMap.get?_erase]

theorem State.stream_dropStream_ne (s : State) {c u c' u' : Nat} (h : c' ≠ c ∨ u' ≠ u) : (s.dropStream c u).stream c' u' = s.stream c' u' := by
  by_cases hc : c = c'
  · subst hc
    have hu : u ≠ u' := Ne.symm (h.resolve_left (not_not.2 rfl))
    simp [State.stream, State.dropStream, SMap.get?_erase, hu]
  · rw [State.stream, State.dropStream, State.copse_setCopse_ne _ hc, State.stream]

/-! XSTART. -/

section
variable {sr : StrandRef} {s : State} {i : Ins} {st : Strand} {d : Desc}

theorem xstartAt_ok (hd : ctxDesc s sr (i.fld 24 22) = some d) (hk : d.kind = 1 ∨ d.kind = 2) (hr : natBit d.rights 0 = true)
    (hl : (st.s i.src1 + BitVec.ofNat 64 (i.fld 21 0)).toNat + 16 ≤ d.len) (ha : (d.base + (st.s i.src1 + BitVec.ofNat 64 (i.fld 21 0)).toNat) % 16 = 0) :
    xstartAt s sr i st = .ok (st.a (i.fld 24 22), (st.s i.src1 + BitVec.ofNat 64 (i.fld 21 0)).toNat) := by
  have hin : ¬ ((d.kind ≠ 1 ∧ d.kind ≠ 2) ∨ (!natBit d.rights 0) = true ∨ d.len < (st.s i.src1 + BitVec.ofNat 64 (i.fld 21 0)).toNat + 16) := by
    rw [hr]
    rintro (⟨h1, h2⟩ | h | h)
    · exact hk.elim h1 h2
    · simp at h
    · omega
  simp only [xstartAt, hd]
  rw [if_neg hin, if_neg (not_not.2 ha)]

theorem xstartAt_error (hd : ctxDesc s sr (i.fld 24 22) = some d)
    (h : (d.kind ≠ 1 ∧ d.kind ≠ 2) ∨ natBit d.rights 0 = false ∨ d.len < (st.s i.src1 + BitVec.ofNat 64 (i.fld 21 0)).toNat + 16) :
    xstartAt s sr i st = .error 0x0B := by
  simp only [xstartAt, hd]
  rw [if_pos (h.imp_right (Or.imp_left fun hr => by rw [hr]; rfl))]
  rfl

/-! A TMMA on the stream. -/

variable {fa : NFmt} {pb : Panel} {y : XStream}

theorem streamTmma_foreign (hy : s.stream sr.copse sr.cu = some y) (h : ¬ (y.ctx = sr.ctx ∧ y.owner = strandKey sr)) :
    streamTmma sr i st fa pb s = fault sr 0x27 (countIssue sr s) := by
  simp only [streamTmma, hy]
  rw [if_pos (not_and_or.1 h)]
  rfl

/-- A TMMA on the strand's own stream, by the phase of the open block. -/
theorem streamTmma_own (hy : s.stream sr.copse sr.cu = some y) (h : y.ctx = sr.ctx ∧ y.owner = strandKey sr) :
    streamTmma sr i st fa pb s = if y.opened.phase < 2 then waitFor sr .stream s
      else if y.opened.phase = 3 then failWith sr (Status.ofCode y.opened.status) st.pc (countIssue sr (drawPanel sr.copse sr.cu (countStall sr st s)))
      else if fa = y.opened.nfmt then retire sr (multiplyInto sr i.dst (Panel.ofBytes fa ((y.opened.raw.drop (fa.panelBytes * y.opened.drawn)).take fa.panelBytes)) pb
        (drawPanel sr.copse sr.cu (countStall sr st s)))
      else retire sr (freeAcc sr i.dst (drawPanel sr.copse sr.cu (countStall sr st s))) := by
  simp only [streamTmma, hy]
  rw [if_neg (by simp [h])]

theorem leftOf_known {b : XBlock} (h : 2 ≤ b.phase) : leftOf b s = (b.panels - b.drawn, s) := by
  have hp : ¬ b.phase < 2 := by omega
  simp [leftOf, XBlock.left, hp]

end

/-- Settles O27: the stream of a CU opens, queues, drops, counts and yields by the lemmas above. -/
theorem expanderStreamFollowsItsBlocks : Obligations.ExpanderStreamFollowsItsBlocks := by
  intro s sr w x hx st i a off blk mine
  have xstart : ∀ {q : State} {body : Ins → Strand → State → State}, issues 3 0x00 sr w s = true → body i st s = q →
      (Host.Outcome.next (settle (issue 3 0x00 sr w body s)) : Out) = .next (settle q) := fun h hb => next_congr (congrArg settle ((issue_of_issues hx h _).trans hb))
  refine ⟨fun h d hd => ⟨fun hk hr hl ha => ⟨fun hn => xstart h ?opens, fun y hy hm hq => xstart h ?queues, fun y hy hb => xstart h ?waits⟩, fun hbad => xstart h ?bad⟩,
    fun h y hy hm => ⟨_, issue_next hx h ?cancel, State.stream_dropStream_self .., fun c u hcu => State.stream_dropStream_ne s hcu⟩,
    fun h => ⟨fun hn => issue_next hx h ?stat0, fun y hy hq hp => issue_next hx h ?stat⟩, fun h h63 fa fb hfa hfb y hy => ?tmma, fun t y hy => ?queued, fun t => rfl⟩
  case opens => rw [xstartAt_ok hd hk hr hl ha]; simp only [hn]; rfl
  case queues =>
    rw [xstartAt_ok hd hk hr hl ha]
    simp only [hy]
    exact if_pos ⟨hm.1, hm.2, by rw [hq]; rfl⟩
  case waits =>
    rw [xstartAt_ok hd hk hr hl ha]
    simp only [hy]
    refine if_neg fun hc => ?_
    rcases hb with hb | hb
    · exact hb ⟨hc.1, hc.2.1⟩
    · rw [Option.isNone_iff_eq_none.1 hc.2.2] at hb
      cases hb
  case bad => rw [xstartAt_error hd hbad]
  case cancel => simp only [hy]; exact congrArg (retire sr) (if_pos hm)
  case stat0 => simp only [hn]; rfl
  case stat => simp only [hy, leftOf_known hp, hq]; rfl
  case tmma =>
    have hbody : ∀ {q : State}, streamTmma sr i st fa (tilePanel s sr fb i.src2 (natBits i.imm 13 9) (natBits i.imm 8 7)) s = q → exec (.tmma sr w) s = .next q := by
      intro q hq
      refine issue_next hx h ?_
      rw [show fmtOf ((Ins.ofWord w).fld 28 25) = some fa from hfa, show fmtOf ((Ins.ofWord w).fld 24 21) = some fb from hfb]
      exact (if_pos h63).trans hq
    refine ⟨fun hm => hbody (streamTmma_foreign hy hm), fun hm hp => hbody ((streamTmma_own hy hm).trans (if_pos hp)),
      fun hm hp => hbody ((streamTmma_own hy hm).trans ?_), fun hm hp hf => hbody ((streamTmma_own hy hm).trans ?_)⟩
    · rw [if_neg (by omega), if_pos hp]
    · rw [if_neg (by omega), if_neg (by omega), if_pos hf]
  case queued =>
    have hex : exec (.queuedDecodeStart t sr.copse sr.cu) s = if y.opened.phase = 0 then ok (settle (startDecode sr.copse sr.cu false (s.upTo t)))
        else if 2 ≤ y.opened.phase ∧ (y.queued.map XBlock.phase) = some 0 then ok (settle (startDecode sr.copse sr.cu true (s.upTo t))) else ok (s.upTo t) := by
      show execQueuedDecodeStart t sr.copse sr.cu s = _
      simp only [execQueuedDecodeStart, hy]
    rw [hex]
    refine ⟨fun hp => if_pos hp, fun hp z hz hz0 => ?_, fun hp => ?_⟩
    · rw [if_neg (by omega), if_pos ⟨hp, by rw [hz, ← hz0]; rfl⟩]; rfl
    · rw [if_neg (by omega), if_neg (by omega)]; rfl

/-! The end of a decode. -/

section
variable {s : State} {c u : Nat} {y : XStream}

/-- Counting touches the control words and the totals alone, and the words by their own values alone. -/
theorem fadd_ctl_of_ctl {s r : State} (h : r.ctl = s.ctl) (f : Fld) (ix : List Nat) (n : Nat) : (r.fadd f ix n).ctl = (s.fadd f ix n).ctl := by
  simp only [State.fadd, State.addTotal_ctl, State.fset, State.setWord, State.fget_of_ctl h, State.word_of_ctl h]
  split <;> simp [h]

theorem putBlock_opened (hy : s.stream c u = some y) (b : XBlock) : putBlock c u false b s = s.setStream c u { y with opened := b } := by simp [putBlock, hy]

/-- A stream that is put back and counted: the stream holds it, and only words, totals and contexts' data differ. -/
theorem setStream_fadd (z : XStream) (f : Fld) (ix : List Nat) (n : Nat) :
    let q := (s.setStream c u z).fadd f ix n
    q.stream c u = some z ∧ q = { s with ctl := q.ctl, mgmt := q.mgmt, nx := q.nx } ∧ q.ctl = (s.fadd f ix n).ctl := by
  intro q
  have hnx : q.nx = (s.setStream c u z).nx := State.fadd_nx ..
  refine ⟨?_, ?_, fadd_ctl_of_ctl (s := s) (r := s.setStream c u z) rfl f ix n⟩
  · rw [State.stream, State.copse, hnx]
    exact State.stream_setStream_self s c u z
  · apply State.ext <;> simp [q] <;> rfl

/-- A block whose header and descriptor are at hand is damaged by its header, or judged by its payload. -/
theorem decodeDone_of (hy : s.stream c u = some y) (hp : y.opened.phase = 1) {h : List Byte} (hh : blockBytes s c u y y.opened 0 16 = some h) {d : Desc}
    (hd : blockDesc s c y y.opened = some d) :
    decodeDone c u s = match headerDamage h with
      | some st => damage c u false y.opened st (wantOr1 y.opened) s
      | none => if d.len < y.opened.off + 16 + field h 8 4 then fault (ownerOf c u y) rDesc s
        else match blockBytes s c u y y.opened 16 (field h 8 4) with
          | none => s
          | some payload => match payloadCheck h payload with
            | .error st => damage c u false y.opened st (panelCount y.opened (field h 4 4)) s
            | .ok out => (putBlock c u false { y.opened with phase := 2, panels := panelCount y.opened (field h 4 4), raw := out, lines := [] } s).fadd XP_CNT.BLOCKS (expIx c u) 1 := by
  simp only [decodeDone, hy, decodingBlock, hp, if_true, hh, hd] <;> rfl

end

/-- Settles O28: by decodeDone_of each end of a decode puts the block back and counts it. -/
theorem decodedBlockYieldsItsPanels : Obligations.DecodedBlockYieldsItsPanels := by
  intro s c u y h d hy hp hh hd b raw clen panels left
  have hdec := decodeDone_of hy hp hh hd
  have hdamage : ∀ e n, damage c u false b e n s = (s.setStream c u { y with opened := { b with phase := 3, status := e.code, panels := n } }).fadd
      (if e = .dataLength then XP_CNT.BAD_LEN else XP_CNT.BAD_CODE) (expIx c u) 1 := fun e n => by rw [damage, putBlock_opened hy]
  refine ⟨fun hg hlen p hpay => ?_, fun e he => ?_⟩
  · rw [hg] at hdec
    replace hdec := hdec.trans (if_neg (not_lt.2 hlen))
    rw [hpay] at hdec
    refine ⟨fun out hout => ?_, fun e he => ?_⟩
    · simp only [hout, putBlock_opened hy] at hdec
      rw [hdec]
      obtain ⟨h1, h2, h3⟩ := setStream_fadd (s := s) (c := c) (u := u) { y with opened := { b with phase := 2, panels := panels, raw := out, lines := [] } } XP_CNT.BLOCKS (expIx c u) 1
      exact ⟨⟨h1, h2⟩, h3⟩
    · simp only [he] at hdec
      rw [hdec, hdamage]
      obtain ⟨h1, h2, h3⟩ := setStream_fadd (s := s) (c := c) (u := u) { y with opened := { b with phase := 3, status := e.code, panels := panels } }
        (if e = .dataLength then XP_CNT.BAD_LEN else XP_CNT.BAD_CODE) (expIx c u) 1
      exact ⟨⟨h1, h2⟩, h3⟩
  · rw [he] at hdec
    rw [hdec]
    change left (damage c u false b e (wantOr1 b) s) _
    rw [hdamage]
    obtain ⟨h1, h2, -⟩ := setStream_fadd (s := s) (c := c) (u := u) { y with opened := { b with phase := 3, status := e.code, panels := wantOr1 b } }
      (if e = .dataLength then XP_CNT.BAD_LEN else XP_CNT.BAD_CODE) (expIx c u) 1
    exact ⟨h1, h2⟩

end Sys2Proof.Machine
end

section
/-! SUPPORT. Which words an operation of the power and event layer touches: it leaves the power and boot records, the claims and every other word alone. -/

namespace Sys2Proof.Machine

/-- From s to r the power and boot records and the claims stand, and only words at addresses in P may change. -/
structure Touches (P : Nat → Prop) (s r : State) : Prop where
  pw : r.pw = s.pw
  boot : r.boot = s.boot
  claims : r.ecc.claims = s.ecc.claims
  words : ∀ (a : Nat) (d : Word), ¬ P a → SMap.get d r.ctl a = SMap.get d s.ctl a

namespace Touches
variable {P Q : Nat → Prop} {s r q : State}

theorem of_eq (hp : r.pw = s.pw) (hb : r.boot = s.boot) (he : r.ecc.claims = s.ecc.claims) (hc : r.ctl = s.ctl) : Touches P s r :=
  ⟨hp, hb, he, fun _ _ _ => by rw [hc]⟩

theorem refl (s : State) : Touches P s s := of_eq rfl rfl rfl rfl

theorem trans (h : Touches P s r) (h' : Touches P r q) : Touches P s q :=
  ⟨h'.pw.trans h.pw, h'.boot.trans h.boot, h'.claims.trans h.claims, fun a d ha => (h'.words a d ha).trans (h.words a d ha)⟩

theorem mono (h : Touches P s r) (hPQ : ∀ a, P a → Q a) : Touches Q s r := ⟨h.pw, h.boot, h.claims, fun a d ha => h.words a d fun hp => ha (hPQ a hp)⟩

theorem ite {c : Prop} [Decidable c] {r' : State} (h : Touches P s r) (h' : Touches P s r') : Touches P s (if c then r else r') := by
  split <;> assumption

theorem foldl {α : Type} {f : State → α → State} (hf : ∀ s e, Touches P s (f s e)) (l : List α) (s : State) : Touches P s (l.foldl f s) := by
  induction l generalizing s with
  | nil => exact refl s
  | cons e l ih => exact (hf s e).trans (ih _)

/-- A word that is not touched reads as before. -/
theorem word (h : Touches P s r) {w : CW} {ix : List Nat} (hw : ¬ P (w.addr (w.home ix))) : r.word w ix = s.word w ix := by
  simp only [State.word, h.words _ _ hw]

theorem fget (h : Touches P s r) {f : Fld} {ix : List Nat} (hw : ¬ P (f.w.addr (f.w.home ix))) : r.fget f ix = s.fget f ix := by
  simp only [State.fget, h.word hw]

theorem setWord (s : State) {w : CW} {ix : List Nat} (v : Word) (hw : P (w.addr (w.home ix))) : Touches P s (s.setWord w ix v) :=
  ⟨State.setWord_pw .., State.setWord_boot .., by rw [State.setWord_ecc], fun _ _ ha => State.get_setWord_ne s w ix v _ fun e => ha (e ▸ hw)⟩

theorem fset (s : State) {f : Fld} {ix : List Nat} (v : Nat) (hw : P (f.w.addr (f.w.home ix))) : Touches P s (s.fset f ix v) := setWord s _ hw

theorem addTotal (s : State) (k n : Nat) : Touches P s (s.addTotal k n) := of_eq rfl rfl rfl rfl

theorem fadd (s : State) {f : Fld} {ix : List Nat} (n : Nat) (hw : P (f.w.addr (f.w.home ix))) : Touches P s (s.fadd f ix n) :=
  (fset s _ hw).trans (addTotal ..)

theorem fwrap (s : State) {f : Fld} {ix : List Nat} (n : Nat) (hw : P (f.w.addr (f.w.home ix))) : Touches P s (s.fwrap f ix n) :=
  (fset s _ hw).trans (addTotal ..)

end Touches

theorem State.fset_eq (s : State) (f : Fld) (ix : List Nat) (v : Nat) : s.fset f ix v = { s with ctl := (s.fset f ix v).ctl } := by
  unfold State.fset State.setWord
  split <;> rfl

theorem State.get_fset_ne (s : State) (f : Fld) (ix : List Nat) (v : Nat) (d : Word) {a : Nat} (h : f.w.addr (f.w.home ix) ≠ a) :
    SMap.get d (s.fset f ix v).ctl a = SMap.get d s.ctl a := State.get_setWord_ne s f.w ix _ d h

/-! Event sources. -/

section
variable {P : Nat → Prop}

theorem setEvAux_touches (s : State) (k n : Nat) (a : EvAux) : Touches P s (s.setEvAux k n a) := Touches.of_eq rfl rfl rfl rfl

theorem countEdge_touches (k n : Nat) (s : State) (h : P (CW.addr .EV_SRC_STATE [k, n])) : Touches P s (countEdge k n s) := by
  have counted (v : Nat) (a : EvAux) : Touches P s (((s.fwrap EV_SRC_STATE.EDGES [k, n] 1).fset EV_SRC_STATE.ACC [k, n] v).setEvAux k n a) :=
    ((Touches.fwrap s (f := EV_SRC_STATE.EDGES) 1 h).trans (Touches.fset _ (f := EV_SRC_STATE.ACC) _ h)).trans (setEvAux_touches ..)
  exact Touches.ite ((counted _ _).trans (Touches.fset _ (f := EV_SRC_STATE.PENDING) _ h)) (counted _ _)

theorem sampleSource_touches (k n : Nat) (level : Bool) (s : State) (h : P (CW.addr .EV_SRC_STATE [k, n])) : Touches P s (sampleSource k n level s) := by
  have h0 : Touches P s (s.fset EV_SRC_STATE.RAW [k, n] (boolNat level)) := Touches.fset s (f := EV_SRC_STATE.RAW) _ h
  unfold sampleSource
  dsimp only
  split
  · exact h0.trans (Touches.fset _ (f := EV_SRC_STATE.PENDING) _ h)
  · exact h0.trans (Touches.fset _ (f := EV_SRC_STATE.PENDING) _ h)
  · exact Touches.ite (h0.trans (countEdge_touches k n _ h)) h0
  · exact Touches.ite (h0.trans (countEdge_touches k n _ h)) h0
  · exact Touches.ite (h0.trans (countEdge_touches k n _ h)) h0
  · exact h0

/-- A source touches its own two state words only. -/
theorem setSource_touches (n : Nat) (level : Bool) (s : State) (h : ∀ k, k < 2 → P (CW.addr .EV_SRC_STATE [k, n])) : Touches P s (setSource n level s) :=
  (sampleSource_touches 0 n level s (h 0 (by decide))).trans (sampleSource_touches 1 n level _ (h 1 (by decide)))

theorem pulse_touches (n : Nat) (s : State) (h : ∀ k, k < 2 → P (CW.addr .EV_SRC_STATE [k, n])) : Touches P s (pulse n s) :=
  (setSource_touches n true s h).trans (setSource_touches n false _ h)

/-- The addresses beyond the PW block. -/
def beyondPw (a : Nat) : Prop := 0x1000 ≤ a

theorem beyondPw_src (k n : Nat) : beyondPw (CW.addr .EV_SRC_STATE [k, n]) := by
  simp only [beyondPw, CW.addr, CW.place]
  omega

theorem setSource_fget (n : Nat) (level : Bool) (s : State) {f : Fld} {ix : List Nat} (h : f.w.addr (f.w.home ix) < 0x1000) :
    (setSource n level s).fget f ix = s.fget f ix :=
  (setSource_touches (P := beyondPw) n level s fun k _ => beyondPw_src k n).fget (Nat.not_le.2 h)

theorem pulse_fget (n : Nat) (s : State) {f : Fld} {ix : List Nat} (h : f.w.addr (f.w.home ix) < 0x1000) : (pulse n s).fget f ix = s.fget f ix :=
  (pulse_touches (P := beyondPw) n s fun k _ => beyondPw_src k n).fget (Nat.not_le.2 h)

@[simp] theorem setSource_pw (n : Nat) (level : Bool) (s : State) : (setSource n level s).pw = s.pw :=
  (setSource_touches (P := beyondPw) n level s fun k _ => beyondPw_src k n).pw

@[simp] theorem pulse_pw (n : Nat) (s : State) : (pulse n s).pw = s.pw := (pulse_touches (P := beyondPw) n s fun k _ => beyondPw_src k n).pw

end

end Sys2Proof.Machine
end

section
/-! SUPPORT. The supply: the PW block's exit from reset, the clock handover, the converter's start, and the full resets (O5, O6). -/

namespace Sys2Proof.Machine

theorem whenever_true {c : Bool} (h : c = true) (s r : State) : whenever c s r = .next r := by rw [whenever, if_pos h]

theorem whenever_false {c : Bool} (h : c = false) (s r : State) : whenever c s r = .next s := by rw [whenever, h]; rfl

/-- A table built over a list of keys reads as it was built. -/
theorem SMap.get_map_keys {α : Type} (d : α) (g : Nat → α) {l : List Nat} {a : Nat} (h : a ∈ l) : SMap.get d (l.map fun n => (n, g n)) a = g a := by
  induction l with
  | nil => cases h
  | cons n l ih =>
    by_cases hn : n = a
    · simp [SMap.get, hn]
    · simpa [SMap.get, hn] using ih ((List.mem_cons.1 h).resolve_left (Ne.symm hn))

/-! The exit from reset. -/

section
variable (b : Bool) (s : State)

theorem armComparators_eq (p : Bool) : armComparators p s = { s with pw := { s.pw with comparators := (armComparators p s).pw.comparators } } := rfl

theorem armComparators_fget (p : Bool) (f : Fld) (ix : List Nat) : (armComparators p s).fget f ix = s.fget f ix := State.fget_of_ctl rfl f ix

theorem pwLeavesReset_pw : (pwLeavesReset b s).pw =
    { s.pw with pwOut := true, aoStart := s.now, bootHold := b, coldOwed := true, comparators := (pwLeavesReset b s).pw.comparators } := by
  rw [pwLeavesReset, armComparators_eq]
  dsimp only
  simp only [State.fset_pw]

theorem pwLeavesReset_eq : pwLeavesReset b s = { s with pw := (pwLeavesReset b s).pw, ctl := (pwLeavesReset b s).ctl } := by
  apply State.ext <;> simp [pwLeavesReset, armComparators]

theorem pwLeavesReset_cause : (pwLeavesReset b s).fget PW_STATE.RESET_CAUSE [] = s.pw.causeLatch % 16 := by
  rw [pwLeavesReset, armComparators_fget,
    State.fget_fset_other _ (f := PW_STATE.AO_FAIL) (g := PW_STATE.RESET_CAUSE) rfl (by decide) (by decide) (by decide) (by decide)]
  exact State.fget_fset _ (f := PW_STATE.RESET_CAUSE) rfl (by decide) (by decide) _

/-- Its words read their reset values but for the word of the causes; every word of another block stands. -/
theorem pwLeavesReset_get {a : Nat} (h : a ≠ CW.addr .PW_STATE []) (d : Word) :
    SMap.get d (pwLeavesReset b s).ctl a = if 0x1000 ≤ a then SMap.get d s.ctl a else d := by
  have hf : SMap.get d (s.ctl.filter fun e => decide (0x1000 ≤ e.1)) a = if 0x1000 ≤ a then SMap.get d s.ctl a else d := by
    simpa [SMap.keep] using SMap.get_keep d (fun x => decide (0x1000 ≤ x)) s.ctl a
  rw [← hf, pwLeavesReset, armComparators_eq]
  dsimp only
  rw [State.get_fset_ne _ _ _ _ _ h.symm, State.get_fset_ne _ _ _ _ _ h.symm]

/-- After THERMTRIP only the WAKE pad arms. -/
theorem armComparators_inert {c : Nat} (hc : c < 9) : SMap.get .inert (armComparators true s).pw.comparators c = .inert := by
  have hc' : c ∈ List.range 10 := List.mem_range.2 (by omega)
  have hp : (true && c != 9) = true := by simp; omega
  unfold armComparators
  dsimp only
  rw [SMap.get_map_keys _ _ hc', if_pos hp]

theorem pwLeavesReset_inert (h : s.pw.causeLatch = 5) {c : Nat} (hc : c < 9) : SMap.get .inert (pwLeavesReset b s).pw.comparators c = .inert := by
  have hp : (s.pw.causeLatch == 5) = true := by rw [h]; rfl
  rw [pwLeavesReset]
  simp only [State.fset_pw]
  rw [hp]
  exact armComparators_inert _ hc

end

/-! Wake decisions. -/

/-- A decision where none stands records its cause. -/
theorem decideWake_pw (code : Nat) (s : State) (h : s.pw.wakeStands = false) :
    (decideWake code s).pw = { s.pw with wakeStands := true, wakeTick := s.aoTicks, coldOwed := false } := by
  unfold decideWake
  rw [if_neg (by simp [h])]
  simp

theorem decideWake_cause (code : Nat) (s : State) (h : s.pw.wakeStands = false) : (decideWake code s).fget PW_STATE.WAKE_CAUSE [] = code % 16 := by
  unfold decideWake
  rw [if_neg (by simp [h]), pulse_fget _ _ (by decide)]
  exact State.fget_fset _ (f := PW_STATE.WAKE_CAUSE) rfl (by decide) (by decide) _

end Sys2Proof.Machine
end

section
open Sys2Proof.Machine
namespace Sys2Proof.Machine

/-- Settles O5: each command by its own condition; the PW block's words by `pwLeavesReset_get`, the decision by `decideWake_pw`. -/
theorem supplyAndConverterFollowTheirSequence : Obligations.SupplyAndConverterFollowTheirSequence := by
  intro s t n k h u ready
  refine ⟨fun hn hc => ?_, fun hn => ?_, fun hr => ?_, fun hr => ?_, fun ho hn => ?_, fun ho hx => ?_, fun hn => ?_, fun hn => ?_, ?_, fun hl => ?_, ?_, fun hw => ?_, ?_, fun hl => ?_⟩
  · have hc0 : (u.current == stOff) = true := by rw [hc]; rfl
    refine ⟨_, whenever_true (by rw [Bool.and_eq_true]; exact ⟨decide_eq_true hn, hc0⟩) .., rfl, ?_, ?_, rfl⟩
    · intro a d ha
      exact State.get_setWord_ne _ .PW_STATE [] _ d fun e => ha (by simp [← e, CW.home])
    · exact State.fget_fset _ (f := PW_STATE.CURRENT) rfl (by decide) (by decide) _
  · refine whenever_false ?_ ..
    rcases hn with hn | hc
    · rw [decide_eq_false (Nat.not_le.2 hn), Bool.false_and]
    · rw [show (u.current == stOff) = false from beq_false_of_ne hc, Bool.and_false]
  · obtain ⟨h1, h2, h3, h4⟩ := hr
    refine ⟨_, whenever_true (by show (u.pw.keepalive && !u.pw.pwOut && !u.pw.poresetLow && decide (u.pw.keepStart + 1000000 ≤ u.now)) = true; simp [h1, h2, h3, h4]) ..,
      pwLeavesReset_eq h u, pwLeavesReset_pw h u, pwLeavesReset_cause h u, fun a d ha => ?_, fun a d ha hne => ?_, fun h5 c hc => pwLeavesReset_inert h u h5 hc⟩
    · exact (pwLeavesReset_get h u (a := a) (by rintro rfl; exact absurd ha (by decide)) d).trans (if_pos ha)
    · exact (pwLeavesReset_get h u hne d).trans (if_neg (Nat.not_le.2 ha))
  · refine whenever_false ?_ ..
    show (u.pw.keepalive && !u.pw.pwOut && !u.pw.poresetLow && decide (u.pw.keepStart + 1000000 ≤ u.now)) = false
    rw [← Bool.not_eq_true]
    exact fun e => hr (by simpa [ready, and_assoc] using e)
  · refine ⟨_, whenever_true (by rw [Bool.and_eq_true]; exact ⟨ho, decide_eq_true hn⟩) .., (setSource_pw ..).trans (State.fset_pw ..), ?_⟩
    exact (setSource_fget 5 false _ (by decide)).trans (State.fget_fset _ (f := PW_STATE.AO_FAIL) rfl (by decide) (by decide) _)
  · have hc : (u.pw.pwOut && ((!u.pw.aoXtal && decide (u.pw.keepStart + 100000000 ≤ u.now)) || (u.pw.aoXtal && decide (8 ≤ n)))) = true := by
      rcases hx with ⟨h1, h2⟩ | ⟨h1, h2⟩ <;> simp [ho, h1, h2]
    refine ⟨_, whenever_true hc .., (setSource_pw ..).trans (State.fset_pw ..), ?_⟩
    exact (setSource_fget 5 true _ (by decide)).trans (State.fget_fset _ (f := PW_STATE.AO_FAIL) rfl (by decide) (by decide) _)
  · refine ⟨_, whenever_true (decide_eq_true hn) .., State.fget_fset _ (f := PW_STATE.CURRENT) rfl (by decide) (by decide) _, ?_⟩
    simp only [State.fset_pw, State.fset_fab, State.fset_nx, State.fset_boot]
    exact ⟨trivial, rfl, rfl, rfl, rfl, rfl⟩
  · exact whenever_false (decide_eq_false (Nat.not_lt.2 hn)) ..
  · intro h1 h2 h3 h4 h5 h6 h7 h8 h9 h10
    refine ⟨_, whenever_true ?_ .., decideWake_pw 0 u h10, decideWake_cause 0 u h10⟩
    show (u.pw.pwOut && !u.pw.poresetLow && u.pw.coldOwed && decide (54000 ≤ n) && decide (1000000 ≤ k) && !u.pw.bootHold
      && u.fget PW_STATE.RESET_CAUSE [] != 5 && u.current == stStandby && u.pw.converter == .off) = true
    simp [h1, h2, h3, h4, h5, h6, h7, h8, h9, stStandby]
  · refine whenever_false ?_ ..
    show (u.pw.pwOut && !u.pw.poresetLow && u.pw.coldOwed && decide (54000 ≤ n) && decide (1000000 ≤ k) && !u.pw.bootHold
      && u.fget PW_STATE.RESET_CAUSE [] != 5 && u.current == stStandby && u.pw.converter == .off) = false
    simp [hl]
  · intro h1 h2 h3 h4 h5 h6
    refine whenever_true ?_ ..
    show (u.pw.wakeStands && u.pw.converter == .off && decide (54000 ≤ n) && decide (n ≤ 68000) && decide (1000000 ≤ k) && u.current == stStandby) = true
    simp [h1, h2, h3, h4, h5, h6, stStandby]
  · refine whenever_false ?_ ..
    show (u.pw.wakeStands && u.pw.converter == .off && decide (54000 ≤ n) && decide (n ≤ 68000) && decide (1000000 ≤ k) && u.current == stStandby) = false
    simp [hw]
  · intro h1 h2 h3 h4
    refine ⟨_, whenever_true ?_ .., rfl, rfl, rfl⟩
    show (u.pw.converter == .softstart && decide (u.pw.softAt + 4000000 ≤ u.now) && busGood n) = true
    simp [h1, h2, busGood, h3, h4]
  · refine whenever_false ?_ ..
    show (u.pw.converter == .softstart && decide (u.pw.softAt + 4000000 ≤ u.now) && busGood n) = false
    simp [hl]

/-! Full resets. -/

/-- What a full reset with a cause leaves of a state, whatever it does to the pads. -/
structure ResetBy (cause : Nat) (u r : State) : Prop where
  same : r = { fullReset cause u with pw := r.pw }
  latch : r.pw.causeLatch = cause
  converter : r.pw.converter = .off
  pwOut : r.pw.pwOut = false
  wakeStands : r.pw.wakeStands = false
  supply : r.pw.stackSupply = []

theorem fullReset_resetBy (cause : Nat) (u : State) : ResetBy cause u (fullReset cause u) := ⟨rfl, rfl, rfl, rfl, rfl, rfl⟩

theorem ResetBy.current {cause : Nat} {u r : State} (h : ResetBy cause u r) : r.current = 1 := by
  have hc : r.ctl = State.reset.ctl := by rw [h.same]; rfl
  exact (State.fget_of_ctl hc ..).trans (by decide)

/-- Settles O6: each cause answers the full reset of `ResetBy`, and a command whose condition fails moves time alone. -/
theorem aFullResetEndsInStandby : Obligations.AFullResetEndsInStandby := by
  intro s t n k d u whole
  have all {cause : Nat} {r : State} (h : ResetBy cause u r) : whole cause r :=
    ⟨h.latch, h.current, h.converter, h.pwOut, h.wakeStands, by rw [h.same]; rfl, by rw [h.same]; rfl, by rw [h.same]; rfl, by rw [h.same]; rfl, by rw [h.same]; rfl,
      h.supply, by rw [h.same]; rfl, by rw [h.same]; rfl, by rw [h.same]; rfl, by rw [h.same]; rfl, by rw [h.same]; rfl, by rw [h.same]; rfl⟩
  have reset (cause : Nat) : whole cause (fullReset cause u) := all (fullReset_resetBy cause u)
  refine ⟨fun h1 h2 h3 => ?_, fun h1 => ⟨?_, ?_⟩, fun h1 h2 h3 => ?_, fun h1 h2 h3 => ?_, fun h1 => ?_, fun h1 h2 h3 h4 => ?_, fun t0 h1 h2 => ?_, fun h1 => ?_, fun h1 h2 h3 h4 => ?_, fun h1 => ?_⟩
  · refine ⟨_, whenever_true ?_ .., reset 1⟩
    show (decide (n < 51000) && decide (10000 ≤ k) && u.pw.converter != .off) = true
    simp [h1, h2, h3]
  · refine whenever_false ?_ ..
    show (decide (n < 51000) && decide (10000 ≤ k) && u.pw.converter != .off) = false
    simp [h1]
  · refine whenever_false ?_ ..
    show (decide (68000 < n) && decide (10000 ≤ k) && u.pw.converter != .off) = false
    simp [h1]
  · refine ⟨_, whenever_true ?_ .., reset 2⟩
    show (decide (68000 < n) && decide (10000 ≤ k) && u.pw.converter != .off) = true
    simp [h1, h2, h3]
  · refine ⟨_, whenever_true ?_ .., all ⟨rfl, rfl, rfl, rfl, rfl, rfl⟩, rfl⟩
    show (decide (1000 ≤ k) && !u.pw.poresetLow && u.pw.keepalive) = true
    simp [h1, h2, h3]
  · refine whenever_false ?_ ..
    show (decide (1000 ≤ k) && !u.pw.poresetLow && u.pw.keepalive) = false
    simp [h1]
  · refine ⟨_, whenever_true ?_ .., reset 4⟩
    show (decide (n < 700) && decide (1000 ≤ k) && u.pw.keepalive && !u.pw.poresetLow) = true
    simp [h1, h2, h3, h4]
  · refine ⟨_, ?_, reset 6⟩
    show execRefclkLossReset t s = _
    unfold execRefclkLossReset
    dsimp only
    rw [show (s.upTo t).pw.refclkLost = some t0 from h1]
    exact whenever_true (decide_eq_true h2) ..
  · show execRefclkLossReset t s = _
    unfold execRefclkLossReset
    dsimp only
    rw [show (s.upTo t).pw.refclkLost = none from h1]
  · refine ⟨_, whenever_true ?_ .., all ⟨rfl, rfl, rfl, rfl, rfl, rfl⟩, rfl⟩
    show (decide (d < 32) && decide (tripLimit d ≤ n) && decide (10000 ≤ k) && diePowered u d) = true
    simp [h1, h2, h3, h4]
  · refine whenever_false ?_ ..
    show (decide (d < 32) && decide (tripLimit d ≤ n) && decide (10000 ≤ k) && diePowered u d) = false
    simp [h1]

end Sys2Proof.Machine
end

section
/-! SUPPORT. Writes of TARGET, the wake comparators and the cuts (O10, O13): the word of the package state is followed through the operations that write it, by `State.pwState`. -/

namespace Sys2Proof.Machine

/-! The word of the package state. -/

/-- The word PW.STATE. -/
def State.pwState (s : State) : Word := s.word .PW_STATE []

theorem State.fget_pwState (s : State) {f : Fld} (h : f.w = .PW_STATE) : s.fget f [] = bitsOf s.pwState f.hi f.lo := by rw [State.fget, h, State.pwState]

theorem State.current_eq (s : State) : s.current = bitsOf s.pwState 63 62 := rfl

theorem State.pwState_fset (s : State) {f : Fld} (h : f.w = .PW_STATE) (v : Nat) : (s.fset f [] v).pwState = setBits s.pwState f.hi f.lo v := by
  rw [State.pwState, State.fset, h, State.word_setWord s rfl, State.pwState]

theorem State.pwState_of_ctl {s r : State} (h : r.ctl = s.ctl) : r.pwState = s.pwState := State.word_of_ctl h ..

/-- Addresses of other words than PW.STATE. -/
def notPwState (a : Nat) : Prop := a ≠ 0x20

theorem Touches.pwState {s r : State} (h : Touches notPwState s r) : r.pwState = s.pwState := h.word fun e => e rfl

theorem Touches.of_beyond {s r : State} (h : Touches beyondPw s r) : Touches notPwState s r :=
  h.mono fun a (ha : 0x1000 ≤ a) (e : a = 0x20) => absurd (e ▸ ha) (by decide)

/-- BUSY is one bit. -/
theorem State.busy_eq_zero {s : State} (h : s.fget PW_STATE.BUSY [] ≠ 1) : s.fget PW_STATE.BUSY [] = 0 := by
  have : s.fget PW_STATE.BUSY [] < 2 := natBits_lt _ 57 57
  omega

/-! Link messages. -/

theorem beyondPw_sub (lp : Nat) : beyondPw (CW.addr .FR_SUB_STATUS (lpIx lp)) := by
  simp only [beyondPw, CW.addr, CW.place]
  omega

section
variable {P : Nat → Prop} (lp : Nat) (s : State)

theorem setLport_touches (p : Lport) : Touches P s (s.setLport lp p) := Touches.of_eq rfl rfl rfl rfl

theorem transmit_touches (f : Flit) : Touches P s (transmit lp f s) := Touches.of_eq rfl rfl rfl rfl

theorem groupStart_touches (h : P (CW.addr .FR_SUB_STATUS (lpIx lp))) : Touches P s (groupStart lp s) := by
  unfold groupStart
  dsimp only
  split
  · exact (setLport_touches lp s _).trans (Touches.fset _ (f := FR_SUB_STATUS.KEY_GEN) _ h)
  · exact Touches.refl s

theorem makeFlit_touches (ft map : Nat) (slots : List (BitVec 128)) (h : P (CW.addr .FR_SUB_STATUS (lpIx lp))) : Touches P s (makeFlit lp ft map slots s).2 := by
  have h0 : Touches P s (if (s.lport lp).txGroup = [] then groupStart lp s else s) := Touches.ite (groupStart_touches lp s h) (Touches.refl s)
  unfold makeFlit
  dsimp only
  split
  · split <;> exact h0.trans (setLport_touches lp _ _)
  · exact Touches.refl s

theorem sendSequenced_touches (ft map : Nat) (slots : List (BitVec 128)) (h : P (CW.addr .FR_SUB_STATUS (lpIx lp))) :
    Touches P s (sendSequenced lp ft map slots s) := by
  unfold sendSequenced
  dsimp only
  split
  · exact setLport_touches lp s _
  · exact (makeFlit_touches lp s ft map slots h).trans ((setLport_touches lp _ _).trans (transmit_touches lp _ _))

end

theorem sendPdQuery_touches (target : Nat) (s : State) : Touches beyondPw s (sendPdQuery target s) :=
  Touches.foldl (fun s lp => Touches.ite (sendSequenced_touches lp s _ _ _ (beyondPw_sub lp)) (Touches.refl s)) ..

/-! Refusals. -/

theorem recordRefusal_touches (aborted : Bool) (target : Nat) (rs : List Refuser) (s : State) : Touches notPwState s (recordRefusal aborted target rs s) := by
  have last : ∀ ix, notPwState (CW.addr .PW_ENTRY_LAST ix) := fun ix => by simp only [notPwState, CW.addr, CW.place]; omega
  have counted : ∀ r : Refuser, notPwState ((if aborted = true then abortedFld r.cls else refusedFld r.cls).w.addr
      ((if aborted = true then abortedFld r.cls else refusedFld r.cls).w.home [target])) := by
    intro r
    cases aborted
    · simp only [refusedFld, Bool.false_eq_true, if_false]
      split <;> (simp only [notPwState, CW.addr, CW.place, CW.home]; omega)
    · simp only [abortedFld, if_true]
      split <;> (simp only [notPwState, CW.addr, CW.place, CW.home]; omega)
  have h0 := Touches.foldl (fun s (r : Refuser) => Touches.fadd s 1 (counted r)) rs s
  unfold recordRefusal
  dsimp only
  split
  · exact h0
  · exact h0.trans ((((Touches.fset _ (f := PW_ENTRY_LAST.KIND) _ (last _)).trans (Touches.fset _ (f := PW_ENTRY_LAST.CLASS) _ (last _))).trans
      (Touches.fset _ (f := PW_ENTRY_LAST.ID) _ (last _))).trans (Touches.fset _ (f := PW_ENTRY_LAST.TIME) _ (last _)))

theorem recordRefusal_class (r : Refuser) (rs : List Refuser) (s : State) : (recordRefusal false 3 (r :: rs) s).fget PW_ENTRY_LAST.CLASS [3] = r.cls % 4 := by
  unfold recordRefusal
  dsimp only
  rw [State.fget_fset_other _ (f := PW_ENTRY_LAST.TIME) (g := PW_ENTRY_LAST.CLASS) rfl (by decide) (by decide) (by decide) (by decide),
    State.fget_fset_other _ (f := PW_ENTRY_LAST.ID) (g := PW_ENTRY_LAST.CLASS) rfl (by decide) (by decide) (by decide) (by decide)]
  exact State.fget_fset _ (f := PW_ENTRY_LAST.CLASS) rfl (by decide) (by decide) _

@[simp] theorem recordRefusal_pw (aborted : Bool) (target : Nat) (rs : List Refuser) (s : State) : (recordRefusal aborted target rs s).pw = s.pw :=
  (recordRefusal_touches ..).pw

theorem recordRefusal_pwState (aborted : Bool) (target : Nat) (rs : List Refuser) (s : State) : (recordRefusal aborted target rs s).pwState = s.pwState :=
  (recordRefusal_touches ..).pwState

/-- The refusers of a check do not read PW.STATE. -/
theorem sampledRefusers_fset (s : State) {f : Fld} (h : f.w = .PW_STATE) (v t : Nat) : sampledRefusers (s.fset f [] v) t = sampledRefusers s t := by
  have level (c : Nat) : (s.fset f [] v).fget PW_LEASE.LEVEL [c] = s.fget PW_LEASE.LEVEL [c] :=
    State.fget_fset_ne _ _ _ _ (by simp only [h, CW.addr, CW.place, CW.home, dotIx]; omega)
  have retain : (s.fset f [] v).fget PW_STBY.RETAIN [] = s.fget PW_STBY.RETAIN [] := State.fget_fset_ne _ _ _ _ (by rw [h]; decide)
  have all (c : Nat) : retainedAll (s.fset f [] v) c = retainedAll s c := by simp only [retainedAll, retain, State.fset_com]
  have clr : clearingRefuses (s.fset f [] v) t = clearingRefuses s t := by
    funext c
    simp only [clearingRefuses, level, all]
  have busy : lookoutsBusy (s.fset f [] v) = lookoutsBusy s := by simp only [lookoutsBusy, State.fset_boot, State.fset_com, State.fset_coh]
  simp only [sampledRefusers, clr, busy, State.fset_boot]

/-! A write of TARGET, case by case (Table 01.11). -/

section
variable {v : Nat} {s : State}

theorem current_fset_target (s : State) (v : Nat) : (s.fset PW_STATE.TARGET [] v).current = s.current :=
  State.fget_fset_other _ (f := PW_STATE.TARGET) (g := PW_STATE.CURRENT) rfl (by decide) (by decide) (by decide) (by decide) _

theorem busy_fset_target (s : State) (v : Nat) : (s.fset PW_STATE.TARGET [] v).fget PW_STATE.BUSY [] = s.fget PW_STATE.BUSY [] :=
  State.fget_fset_other _ (f := PW_STATE.TARGET) (g := PW_STATE.BUSY) rfl (by decide) (by decide) (by decide) (by decide) _

theorem targetWrite_busy (h : s.fget PW_STATE.BUSY [] = 1) : targetWrite v s = (s.fset PW_STATE.TARGET [] v).fset PW_STATE.LAST_RESULT [] 4 := by
  unfold targetWrite
  dsimp only
  rw [if_pos (Or.inl ((busy_fset_target s v).trans h))]
  rfl

/-- What a write of TARGET does while the package is not BUSY, by the state in force. -/
theorem targetWrite_free (h : s.fget PW_STATE.BUSY [] ≠ 1) (hv : v ≠ 0) : targetWrite v s =
    let s1 := s.fset PW_STATE.TARGET [] v
    if v = s.current then s1.fset PW_STATE.LAST_RESULT [] 1
    else if v = 3 ∧ s.current = 2 then
      if s.pw.thermalCut = 8 then (recordRefusal false 3 [⟨3, s.pw.cutDie⟩] s1).fset PW_STATE.LAST_RESULT [] 2
      else (s1.fset PW_STATE.CURRENT [] 3).fset PW_STATE.LAST_RESULT [] 1
    else if v = 2 ∧ s.current = 3 then
      let s2 := startCheck 2 (.check1 2 s.now) (s1.fset PW_STATE.BUSY [] 1)
      if sampledRefusers s 2 = [] then { s2 with pw.entry := .swapping 2 } else refuseEntry false 2 (sampledRefusers s 2) s2
    else if v = 1 ∧ (s.current = 3 ∨ s.current = 2) then startCheck 1 (.check1 1 s.now) (s1.fset PW_STATE.BUSY [] 1)
    else s1.fset PW_STATE.LAST_RESULT [] 4 := by
  have hb : ¬ ((s.fset PW_STATE.TARGET [] v).fget PW_STATE.BUSY [] = 1 ∨ v = 0) := by
    rw [busy_fset_target]
    exact not_or.2 ⟨h, hv⟩
  have hr : (startCheck 2 (.check1 2 s.now) ((s.fset PW_STATE.TARGET [] v).fset PW_STATE.BUSY [] 1)).pw.refused = sampledRefusers s 2 :=
    (sampledRefusers_fset _ rfl _ _).trans (sampledRefusers_fset _ rfl _ _)
  unfold targetWrite
  dsimp only
  rw [if_neg hb, current_fset_target]
  simp only [stActive, stPortsOnly, stStandby, resCompleted, resRefused, resIgnored, State.fset_now, State.fset_pw, hr, thermalRefuses, beq_iff_eq, enterActive]

theorem startCheck_pwState (t : Nat) (e : Entry) (s : State) : (startCheck t e s).pwState = s.pwState := by
  unfold startCheck
  dsimp only
  split
  · exact (sendPdQuery_touches t _).of_beyond.pwState.trans (State.pwState_of_ctl rfl)
  · exact State.pwState_of_ctl rfl

theorem startCheck_pw (t : Nat) (e : Entry) (s : State) : (startCheck t e s).pw = { s.pw with entry := e, refused := sampledRefusers s t, holds := [] } := by
  unfold startCheck
  dsimp only
  split
  · exact (sendPdQuery_touches t _).pw
  · rfl

theorem refuseEntry_pwState (a : Bool) (t : Nat) (rs : List Refuser) (s : State) :
    (refuseEntry a t rs s).pwState = setBits (setBits s.pwState 56 54 (if a = true then 3 else 2)) 57 57 0 := by
  rw [refuseEntry, State.pwState_fset _ rfl, State.pwState_fset _ rfl]
  exact congrArg (fun w => setBits (setBits w 56 54 _) 57 57 0) (recordRefusal_pwState ..)

/-! Reading a field of PW.STATE after some of its fields were set. -/

/-- The fields of a state whose word PW.STATE is a known one. -/
theorem State.fget_of_pwState {r : State} {w : Word} (h : r.pwState = w) {f : Fld} (hf : f.w = .PW_STATE) : r.fget f [] = bitsOf w f.hi f.lo := by
  rw [State.fget_pwState r hf, h]

/-- After a write of TARGET that leaves BUSY and the state alone: the result code, with TARGET as written. -/
theorem setBits_target_result (w : Word) (v l : Nat) (hl : l < 8) : let x := setBits (setBits w 61 60 v) 56 54 l
    bitsOf x 61 60 = v % 4 ∧ bitsOf x 56 54 = l ∧ bitsOf x 63 62 = bitsOf w 63 62 := by
  refine ⟨?_, ?_, ?_⟩
  · rw [bitsOf_setBits_above _ (by decide) (by decide) (by decide), bitsOf_setBits _ (by decide) (by decide)]
    rfl
  · rw [bitsOf_setBits _ (by decide) (by decide)]
    exact Nat.mod_eq_of_lt hl
  · rw [bitsOf_setBits_above _ (by decide) (by decide) (by decide), bitsOf_setBits_above _ (by decide) (by decide) (by decide)]

/-- After a write of TARGET that makes the package BUSY. -/
theorem setBits_target_busy (w : Word) (v : Nat) : let x := setBits (setBits w 61 60 v) 57 57 1
    bitsOf x 61 60 = v % 4 ∧ bitsOf x 57 57 = 1 ∧ bitsOf x 63 62 = bitsOf w 63 62 := by
  refine ⟨?_, ?_, ?_⟩
  · rw [bitsOf_setBits_above _ (by decide) (by decide) (by decide), bitsOf_setBits _ (by decide) (by decide)]
    rfl
  · exact bitsOf_setBits _ (by decide) (by decide) _
  · rw [bitsOf_setBits_above _ (by decide) (by decide) (by decide), bitsOf_setBits_above _ (by decide) (by decide) (by decide)]

end

/-- A state whose word PW.STATE shows a write of TARGET with its result code, the state in force unchanged. -/
structure Answered (v l : Nat) (u r : State) : Prop where
  target : r.fget PW_STATE.TARGET [] = v
  last : r.fget PW_STATE.LAST_RESULT [] = l
  current : r.current = u.current

theorem Answered.of_pwState {v l : Nat} {u r : State} (h : r.pwState = setBits (setBits u.pwState 61 60 v) 56 54 l) (hv : v < 4) (hl : l < 8) : Answered v l u r := by
  obtain ⟨h1, h2, h3⟩ := setBits_target_result u.pwState v l hl
  exact ⟨by rw [State.fget_of_pwState h rfl, h1, Nat.mod_eq_of_lt hv], by rw [State.fget_of_pwState h rfl, h2], by rw [State.current, State.fget_of_pwState h rfl, h3]; rfl⟩

theorem answered_fset {v l : Nat} (u : State) (hv : v < 4) (hl : l < 8) : Answered v l u ((u.fset PW_STATE.TARGET [] v).fset PW_STATE.LAST_RESULT [] l) :=
  .of_pwState (by rw [State.pwState_fset _ rfl, State.pwState_fset _ rfl]) hv hl

/-- A state whose word PW.STATE shows a write of TARGET that made the package BUSY. -/
structure Started (v : Nat) (u r : State) : Prop where
  target : r.fget PW_STATE.TARGET [] = v
  busy : r.fget PW_STATE.BUSY [] = 1
  current : r.current = u.current

theorem started_startCheck {v : Nat} (u : State) (hv : v < 4) (t : Nat) (e : Entry) :
    Started v u (startCheck t e ((u.fset PW_STATE.TARGET [] v).fset PW_STATE.BUSY [] 1)) := by
  have h : (startCheck t e ((u.fset PW_STATE.TARGET [] v).fset PW_STATE.BUSY [] 1)).pwState = setBits (setBits u.pwState 61 60 v) 57 57 1 := by
    rw [startCheck_pwState, State.pwState_fset _ rfl, State.pwState_fset _ rfl]
  obtain ⟨h1, h2, h3⟩ := setBits_target_busy u.pwState v
  exact ⟨by rw [State.fget_of_pwState h rfl, h1, Nat.mod_eq_of_lt hv], by rw [State.fget_of_pwState h rfl, h2], by rw [State.current, State.fget_of_pwState h rfl, h3]; rfl⟩

/-- An entry to PORTS-ONLY that is refused at once. -/
theorem refused_refuseEntry (u : State) (rs : List Refuser) (e : Entry) :
    let r := refuseEntry false 2 rs (startCheck 2 e ((u.fset PW_STATE.TARGET [] 2).fset PW_STATE.BUSY [] 1))
    Answered 2 2 u r ∧ r.fget PW_STATE.BUSY [] = 0 := by
  intro r
  have h : r.pwState = setBits (setBits (setBits (setBits u.pwState 61 60 2) 57 57 1) 56 54 2) 57 57 0 := by
    rw [refuseEntry_pwState, startCheck_pwState, State.pwState_fset _ rfl, State.pwState_fset _ rfl]
    rfl
  refine ⟨⟨?_, ?_, ?_⟩, ?_⟩
  · rw [State.fget_of_pwState h rfl, bitsOf_setBits_above _ (by decide) (by decide) (by decide), bitsOf_setBits_above _ (by decide) (by decide) (by decide),
      bitsOf_setBits_above _ (by decide) (by decide) (by decide), bitsOf_setBits _ (by decide) (by decide)]
    rfl
  · rw [State.fget_of_pwState h rfl, bitsOf_setBits_below _ (by decide) (by decide) (by decide) (by decide), bitsOf_setBits _ (by decide) (by decide)]
    rfl
  · rw [State.current, State.fget_of_pwState h rfl, bitsOf_setBits_above _ (by decide) (by decide) (by decide), bitsOf_setBits_above _ (by decide) (by decide) (by decide),
      bitsOf_setBits_above _ (by decide) (by decide) (by decide), bitsOf_setBits_above _ (by decide) (by decide) (by decide)]
    rfl
  · rw [State.fget_of_pwState h rfl, bitsOf_setBits _ (by decide) (by decide)]
    rfl

/-! The three commands that write TARGET. -/

section
variable {u : State}

theorem targetWrite_answered_busy {v : Nat} (hv : v < 4) (h : u.fget PW_STATE.BUSY [] = 1) : Answered v 4 u (targetWrite v u) := by
  rw [targetWrite_busy h]
  exact answered_fset u hv (by decide)

theorem targetWrite_same (hb : u.fget PW_STATE.BUSY [] ≠ 1) {v : Nat} (h0 : v ≠ 0) (hv : v < 4) (hc : u.current = v) : Answered v 1 u (targetWrite v u) := by
  rw [targetWrite_free hb h0]
  dsimp only
  rw [if_pos hc.symm]
  exact answered_fset u hv (by decide)

/-- A request that Table 01.11 does not allow. -/
theorem targetWrite_ignored (hb : u.fget PW_STATE.BUSY [] ≠ 1) {v : Nat} (h0 : v ≠ 0) (hv : v < 4) (hs : v ≠ u.current) (h3 : ¬ (v = 3 ∧ u.current = 2))
    (h2 : ¬ (v = 2 ∧ u.current = 3)) (h1 : ¬ (v = 1 ∧ (u.current = 3 ∨ u.current = 2))) : Answered v 4 u (targetWrite v u) := by
  rw [targetWrite_free hb h0]
  dsimp only
  rw [if_neg hs, if_neg h3, if_neg h2, if_neg h1]
  exact answered_fset u hv (by decide)

theorem targetWrite_active_hot (hb : u.fget PW_STATE.BUSY [] ≠ 1) (hc : u.current = 2) (ht : u.pw.thermalCut = 8) :
    Answered 3 2 u (targetWrite 3 u) ∧ (targetWrite 3 u).fget PW_ENTRY_LAST.CLASS [3] = 3 := by
  rw [targetWrite_free hb (by decide)]
  dsimp only
  rw [if_neg (by omega), if_pos ⟨rfl, hc⟩, if_pos ht]
  refine ⟨.of_pwState ?_ (by decide) (by decide), ?_⟩
  · rw [State.pwState_fset _ rfl, recordRefusal_pwState, State.pwState_fset _ rfl]
  · exact (State.fget_fset_ne _ _ _ _ (by decide)).trans (recordRefusal_class ..)

/-- The entry to ACTIVE. -/
theorem targetWrite_active (hb : u.fget PW_STATE.BUSY [] ≠ 1) (hc : u.current = 2) (ht : u.pw.thermalCut ≠ 8) :
    (targetWrite 3 u).fget PW_STATE.TARGET [] = 3 ∧ (targetWrite 3 u).fget PW_STATE.LAST_RESULT [] = 1 ∧ (targetWrite 3 u).current = 3 := by
  rw [targetWrite_free hb (by decide)]
  dsimp only
  rw [if_neg (by omega), if_pos ⟨rfl, hc⟩, if_neg ht]
  have h : (((u.fset PW_STATE.TARGET [] 3).fset PW_STATE.CURRENT [] 3).fset PW_STATE.LAST_RESULT [] 1).pwState =
      setBits (setBits (setBits u.pwState 61 60 3) 63 62 3) 56 54 1 := by
    rw [State.pwState_fset _ rfl, State.pwState_fset _ rfl, State.pwState_fset _ rfl]
  refine ⟨?_, ?_, ?_⟩
  · rw [State.fget_of_pwState h rfl, bitsOf_setBits_above _ (by decide) (by decide) (by decide), bitsOf_setBits_below _ (by decide) (by decide) (by decide) (by decide),
      bitsOf_setBits _ (by decide) (by decide)]
    rfl
  · rw [State.fget_of_pwState h rfl, bitsOf_setBits _ (by decide) (by decide)]
    rfl
  · rw [State.current, State.fget_of_pwState h rfl, bitsOf_setBits_above _ (by decide) (by decide) (by decide), bitsOf_setBits _ (by decide) (by decide)]
    rfl

theorem targetWrite_portsOnly (hb : u.fget PW_STATE.BUSY [] ≠ 1) (hc : u.current = 3) (hr : sampledRefusers u 2 = []) :
    Started 2 u (targetWrite 2 u) ∧ (targetWrite 2 u).pw.entry = .swapping 2 := by
  rw [targetWrite_free hb (by decide)]
  dsimp only
  rw [if_neg (by omega), if_neg (by omega), if_pos ⟨rfl, hc⟩, if_pos hr]
  obtain ⟨h1, h2, h3⟩ := started_startCheck u (v := 2) (by decide) 2 (.check1 2 u.now)
  have same (f : Fld) (q : State) : ({ q with pw.entry := .swapping 2 } : State).fget f [] = q.fget f [] := State.fget_of_ctl rfl ..
  exact ⟨⟨(same ..).trans h1, (same ..).trans h2, (same ..).trans h3⟩, rfl⟩

theorem targetWrite_portsOnly_refused (hb : u.fget PW_STATE.BUSY [] ≠ 1) (hc : u.current = 3) (hr : sampledRefusers u 2 ≠ []) :
    Answered 2 2 u (targetWrite 2 u) ∧ (targetWrite 2 u).fget PW_STATE.BUSY [] = 0 ∧ (targetWrite 2 u).pw.entry = .idle := by
  rw [targetWrite_free hb (by decide)]
  dsimp only
  rw [if_neg (by omega), if_neg (by omega), if_pos ⟨rfl, hc⟩, if_neg hr]
  obtain ⟨h1, h2⟩ := refused_refuseEntry u (sampledRefusers u 2) (.check1 2 u.now)
  exact ⟨h1, h2, by simp only [refuseEntry, State.fset_pw]⟩

theorem targetWrite_standby (hb : u.fget PW_STATE.BUSY [] ≠ 1) (hc : u.current = 3 ∨ u.current = 2) :
    Started 1 u (targetWrite 1 u) ∧ (targetWrite 1 u).pw.entry = .check1 1 u.now ∧ (targetWrite 1 u).pw.holds = [] := by
  rw [targetWrite_free hb (by decide)]
  dsimp only
  rw [if_neg (by omega), if_neg (by omega), if_neg (by omega), if_pos ⟨rfl, hc⟩]
  exact ⟨started_startCheck u (by decide) 1 _, by rw [startCheck_pw], by rw [startCheck_pw]⟩

/-- An attempt to enter ACTIVE for admitted work leaves the last result. -/
theorem attemptActive_cool (ht : u.pw.thermalCut ≠ 8) : (attemptActive u).current = 3 ∧ (attemptActive u).pw = { u.pw with workWaits := false } ∧
    (attemptActive u).fget PW_STATE.LAST_RESULT [] = u.fget PW_STATE.LAST_RESULT [] := by
  have h : thermalRefuses u = false := beq_false_of_ne ht
  have same (f : Fld) (q : State) : ({ q with pw.workWaits := false } : State).fget f [] = q.fget f [] := State.fget_of_ctl rfl ..
  rw [attemptActive, h, if_neg Bool.false_ne_true, enterActive]
  refine ⟨(same ..).trans (State.fget_fset u (f := PW_STATE.CURRENT) rfl (by decide) (by decide) _), by simp only [State.fset_pw], ?_⟩
  exact (same ..).trans <| State.fget_fset_other _ (f := PW_STATE.CURRENT) (g := PW_STATE.LAST_RESULT) rfl (by decide) (by decide) (by decide) (by decide) _

theorem attemptActive_hot (ht : u.pw.thermalCut = 8) : (attemptActive u).current = u.current ∧ (attemptActive u).pw = { u.pw with workWaits := true, retryAt := u.now } ∧
    (attemptActive u).fget PW_STATE.LAST_RESULT [] = u.fget PW_STATE.LAST_RESULT [] := by
  have h : thermalRefuses u = true := beq_iff_eq.2 ht
  have same (q : State) (n : Nat) : ({ q with pw.workWaits := true, pw.retryAt := n } : State).pwState = q.pwState := State.pwState_of_ctl rfl
  have hw : (attemptActive u).pwState = u.pwState := by
    rw [attemptActive, h, if_pos rfl]
    exact (same ..).trans (recordRefusal_pwState ..)
  refine ⟨State.fget_of_pwState hw rfl, ?_, State.fget_of_pwState hw rfl⟩
  rw [attemptActive, h, if_pos rfl]
  simp only [recordRefusal_pw]

end

theorem State.done_fget (s : State) (st : Status) (v : Word) (f : Fld) (ix : List Nat) : (s.done st v).fget f ix = s.fget f ix := State.fget_of_ctl rfl ..

theorem State.done_current (s : State) (st : Status) (v : Word) : (s.done st v).current = s.current := State.done_fget ..

theorem writeTarget_ok {p : Prog} (hp : p.privileged = true) (v : Nat) (s : State) : writeTarget p v s = (targetWrite v s).done .ok := by rw [writeTarget, if_pos hp]

theorem writeTarget_denied {p : Prog} (hp : p.privileged = false) (v : Nat) (s : State) : writeTarget p v s = s.done .denied := by rw [writeTarget, hp, if_neg Bool.false_ne_true]

/-- Settles O10: each command by the case equations of `targetWrite`. -/
theorem targetWritesFollowTheTransitionTable : Obligations.TargetWritesFollowTheTransitionTable := by
  intro s p t u last busy
  have kept (q : State) : (q.done .ok).pw = q.pw := State.done_pw ..
  refine ⟨fun hp c hc => ?_, fun hp => ⟨?_, ?_, ?_⟩, fun hc hb => ⟨fun ht => ?_, fun ht => ?_, fun hw htime => ?_, fun htime => ?_⟩⟩
  · simp only [List.mem_cons, List.not_mem_nil, or_false] at hc
    rcases hc with rfl | rfl | rfl
    · exact congrArg Host.Outcome.next (writeTarget_denied hp 2 u)
    · exact congrArg Host.Outcome.next (writeTarget_denied hp 1 u)
    · exact congrArg Host.Outcome.next (writeTarget_denied hp 3 u)
  · refine ⟨(targetWrite 3 u).done .ok, congrArg Host.Outcome.next (writeTarget_ok hp 3 u), rfl, ?_⟩
    simp only [last, State.done_fget, State.done_current]
    by_cases hb : busy
    · obtain ⟨h1, h2, h3⟩ := targetWrite_answered_busy (v := 3) (by decide) hb
      exact ⟨h1, fun _ => ⟨h2, h3⟩, fun h => absurd hb h, fun h => absurd hb h, fun h => absurd hb h, fun h => absurd hb h⟩
    · refine ⟨?_, fun h => absurd h hb, fun _ hc => ?_, fun _ hc ht => (targetWrite_active hb hc ht).2, fun _ hc ht => ?_, fun _ hc => ?_⟩
      · by_cases h3 : u.current = 3
        · exact (targetWrite_same hb (by decide) (by decide) h3).target
        by_cases h2 : u.current = 2
        · by_cases ht : u.pw.thermalCut = 8
          · exact (targetWrite_active_hot hb h2 ht).1.target
          · exact (targetWrite_active hb h2 ht).1
        · exact (targetWrite_ignored hb (by decide) (by decide) (Ne.symm h3) (by omega) (by omega) (by omega)).target
      · have h := targetWrite_same hb (by decide) (by decide) hc
        exact ⟨h.last, h.current.trans hc⟩
      · obtain ⟨h, hcls⟩ := targetWrite_active_hot hb hc ht
        exact ⟨h.last, h.current.trans hc, hcls⟩
      · have h := targetWrite_ignored hb (v := 3) (by decide) (by decide) (by omega) (by omega) (by omega) (by omega)
        exact ⟨h.last, h.current.trans hc⟩
  · refine ⟨(targetWrite 2 u).done .ok, congrArg Host.Outcome.next (writeTarget_ok hp 2 u), rfl, ?_⟩
    simp only [last, State.done_fget, State.done_current, kept]
    by_cases hb : busy
    · obtain ⟨h1, h2, h3⟩ := targetWrite_answered_busy (v := 2) (by decide) hb
      exact ⟨h1, h3, fun _ => h2, fun h => absurd hb h, fun h => absurd hb h, fun h => absurd hb h⟩
    · by_cases h2 : u.current = 2
      · have h := targetWrite_same hb (by decide) (by decide) h2
        exact ⟨h.target, h.current, fun hx => absurd hx hb, fun _ _ => h.last, fun _ h3 => by omega, fun _ h3 => by omega⟩
      by_cases h3 : u.current = 3
      · by_cases hr : sampledRefusers u 2 = []
        · obtain ⟨h, he⟩ := targetWrite_portsOnly hb h3 hr
          exact ⟨h.target, h.current, fun hx => absurd hx hb, fun _ hx => absurd hx h2, fun _ _ _ => ⟨h.busy, he⟩, fun _ _ hx => absurd hr hx⟩
        · obtain ⟨h, h0, he⟩ := targetWrite_portsOnly_refused hb h3 hr
          exact ⟨h.target, h.current, fun hx => absurd hx hb, fun _ hx => absurd hx h2, fun _ _ hx => absurd hx hr, fun _ _ _ => ⟨h0, h.last, he⟩⟩
      · have h := targetWrite_ignored hb (v := 2) (by decide) (by decide) (Ne.symm h2) (by omega) (by omega) (by omega)
        exact ⟨h.target, h.current, fun hx => absurd hx hb, fun _ hx => absurd hx h2, fun _ hx => absurd hx h3, fun _ hx => absurd hx h3⟩
  · refine ⟨(targetWrite 1 u).done .ok, congrArg Host.Outcome.next (writeTarget_ok hp 1 u), ?_⟩
    simp only [last, State.done_fget, State.done_current, kept]
    by_cases hb : busy
    · obtain ⟨h1, h2, h3⟩ := targetWrite_answered_busy (v := 1) (by decide) hb
      exact ⟨h1, h3, fun _ => h2, fun h => absurd hb h⟩
    · by_cases hc : u.current = 3 ∨ u.current = 2
      · obtain ⟨h, he, hh⟩ := targetWrite_standby hb hc
        exact ⟨h.target, h.current, fun hx => absurd hx hb, fun _ _ => ⟨h.busy, he, hh⟩⟩
      by_cases h1 : u.current = 1
      · have h := targetWrite_same hb (by decide) (by decide) h1
        exact ⟨h.target, h.current, fun hx => absurd hx hb, fun _ hx => absurd hx hc⟩
      · have h := targetWrite_ignored hb (v := 1) (by decide) (by decide) (Ne.symm h1) (by omega) (by omega) (by omega)
        exact ⟨h.target, h.current, fun hx => absurd hx hb, fun _ hx => absurd hx hc⟩
  · obtain ⟨h1, h2, h3⟩ := attemptActive_cool ht
    refine ⟨_, whenever_true ?_ .., h1, h2, h3⟩
    show (u.current == stPortsOnly && u.fget PW_STATE.BUSY [] == 0) = true
    simp [hc, stPortsOnly, State.busy_eq_zero hb]
  · obtain ⟨h1, h2, h3⟩ := attemptActive_hot ht
    refine ⟨_, whenever_true ?_ .., h1.trans hc, h2, h3⟩
    show (u.current == stPortsOnly && u.fget PW_STATE.BUSY [] == 0) = true
    simp [hc, stPortsOnly, State.busy_eq_zero hb]
  · show whenever (u.pw.workWaits && u.current == stPortsOnly && u.fget PW_STATE.BUSY [] == 0 && decide (u.pw.retryAt + 1000000 ≤ u.now)) u (attemptActive u) =
      whenever (u.current == stPortsOnly && u.fget PW_STATE.BUSY [] == 0) u (attemptActive u)
    rw [hw, decide_eq_true htime, Bool.true_and, Bool.and_true]
  · refine whenever_false ?_ ..
    show (u.pw.workWaits && u.current == stPortsOnly && u.fget PW_STATE.BUSY [] == 0 && decide (u.pw.retryAt + 1000000 ≤ u.now)) = false
    simp [htime]

end Sys2Proof.Machine
end

section
/-! SUPPORT. The wake comparators and the two cuts (O13). -/

namespace Sys2Proof.Machine

theorem wakeCode_lt {c : Nat} (h : c < 10) : wakeCode c < 16 := by
  unfold wakeCode
  split
  · omega
  · split <;> decide

/-! A comparator reads words alone: noting its level changes none of its conditions. -/

section
variable (u : State) (p : PowerSt) (c n : Nat)

theorem wakeEnabled_pw : wakeEnabled { u with pw := p } c = wakeEnabled u c := rfl
theorem wakeBeyond_pw : wakeBeyond { u with pw := p } c n = wakeBeyond u c n := rfl
theorem wakeReturned_pw : wakeReturned { u with pw := p } c n = wakeReturned u c n := rfl
theorem wakeQual_pw : wakeQual { u with pw := p } c = wakeQual u c := rfl

/-- The state with a comparator's level noted. -/
def noteLevel : State := { u with pw := { u.pw with wakeLevel := SMap.put u.pw.wakeLevel c n } }

/-- Does the comparator trip? -/
def comparatorTrips (k : Nat) : Bool := SMap.get .inert u.pw.comparators c == .ready && wakeEnabled u c && wakeBeyond u c n && decide (wakeQual u c ≤ k)

theorem comparatorTrips_iff (k : Nat) : comparatorTrips u c n k = true ↔
    SMap.get .inert u.pw.comparators c = .ready ∧ wakeEnabled u c = true ∧ wakeBeyond u c n = true ∧ wakeQual u c ≤ k := by
  simp [comparatorTrips, and_assoc]

theorem comparatorTrips_noteLevel (k : Nat) : comparatorTrips (noteLevel u c n) c n k = comparatorTrips u c n k := by
  rw [comparatorTrips, noteLevel, wakeEnabled_pw, wakeBeyond_pw, wakeQual_pw, comparatorTrips]

end

/-- The state in which comparator c has tripped. -/
def tripped (u : State) (c n : Nat) : State :=
  { noteLevel u c n with pw := { (noteLevel u c n).pw with comparators := SMap.put u.pw.comparators c .beyond } }

/-- A trip that the comparator's condition lets through, in STANDBY with no entry under way, is a wake decision. -/
theorem wakeComparatorTrip_of {s : State} {t c n k : Nat} (hc : c < 10) (ht : comparatorTrips (s.upTo t) c n k = true) (hcur : (s.upTo t).current = 1)
    (hidle : (s.upTo t).pw.entry = .idle) (h5 : (s.upTo t).fget PW_STATE.RESET_CAUSE [] ≠ 5) :
    exec (.wakeComparatorTrip t c n k) s = .next (decideWake (wakeCode c) (tripped (s.upTo t) c n)) := by
  have hm : (decide (c < 10) && comparatorTrips (noteLevel (s.upTo t) c n) c n k) = true := by rw [decide_eq_true hc, Bool.true_and, comparatorTrips_noteLevel, ht]
  refine (whenever_true hm ..).trans (congrArg Host.Outcome.next ?_)
  generalize s.upTo t = u at hcur hidle h5
  have cur (p : PowerSt) : State.current { u with pw := p } = stStandby := (State.fget_of_ctl rfl ..).trans hcur
  have cause (p : PowerSt) : ¬ ({ u with pw := p } : State).fget PW_STATE.RESET_CAUSE [] = 5 := fun h => h5 ((State.fget_of_ctl rfl ..).symm.trans h)
  dsimp only [tripped, noteLevel]
  split
  · next h =>
    rw [hidle] at h
    cases h
  · rw [if_pos (cur _), if_neg (cause _)]

/-! The cuts. -/

section
variable (s : State)

/-- CUT with its two causes, written. -/
def writeCut : State :=
  let k := max s.pw.capCut s.pw.thermalCut
  ((s.fset PW_THERM.CUT [] k).fset PW_THERM.CUT_THERMAL [] (boolNat (k != 0 && k == s.pw.thermalCut))).fset PW_THERM.CUT_CAP [] (boolNat (k != 0 && k == s.pw.capCut))

theorem takeCut_eq : takeCut s = if s.fget PW_THERM.CUT [] = max s.pw.capCut s.pw.thermalCut then { writeCut s with pw.cutOwed := false }
    else pulse 2 { writeCut s with pw.cutOwed := false } := by
  simp only [takeCut, writeCut, State.fset_pw]

theorem writeCut_touches {P : Nat → Prop} (ht : P (CW.addr .PW_THERM [])) : Touches P s (writeCut s) :=
  ((Touches.fset s (f := PW_THERM.CUT) _ ht).trans (Touches.fset _ (f := PW_THERM.CUT_THERMAL) _ ht)).trans (Touches.fset _ (f := PW_THERM.CUT_CAP) _ ht)

theorem writeCut_cut : (writeCut s).fget PW_THERM.CUT [] = max s.pw.capCut s.pw.thermalCut % 16 := by
  rw [writeCut, State.fget_fset_other _ (f := PW_THERM.CUT_CAP) (g := PW_THERM.CUT) rfl (by decide) (by decide) (by decide) (by decide),
    State.fget_fset_other _ (f := PW_THERM.CUT_THERMAL) (g := PW_THERM.CUT) rfl (by decide) (by decide) (by decide) (by decide)]
  exact State.fget_fset _ (f := PW_THERM.CUT) rfl (by decide) (by decide) _

theorem takeCut_pw : (takeCut s).pw = { s.pw with cutOwed := false } := by
  have h : ({ writeCut s with pw.cutOwed := false } : State).pw = { s.pw with cutOwed := false } :=
    congrArg (fun p : PowerSt => { p with cutOwed := false }) (writeCut_touches (P := fun _ => True) s trivial).pw
  rw [takeCut_eq]
  split
  · exact h
  · exact (pulse_pw ..).trans h

theorem takeCut_cut : (takeCut s).fget PW_THERM.CUT [] = max s.pw.capCut s.pw.thermalCut % 16 := by
  have same (q : State) : ({ q with pw.cutOwed := false } : State).fget PW_THERM.CUT [] = q.fget PW_THERM.CUT [] := State.fget_of_ctl rfl ..
  rw [takeCut_eq]
  split
  · rw [same, writeCut_cut]
  · rw [pulse_fget _ _ (by decide), same, writeCut_cut]

theorem takeCut_words {P : Nat → Prop} (ht : P (CW.addr .PW_THERM [])) (hs : ∀ k, k < 2 → P (CW.addr .EV_SRC_STATE [k, 2])) {a : Nat} (ha : ¬ P a) (d : Word) :
    SMap.get d (takeCut s).ctl a = SMap.get d s.ctl a := by
  have h : SMap.get d ({ writeCut s with pw.cutOwed := false } : State).ctl a = SMap.get d s.ctl a := (writeCut_touches s ht).words a d ha
  rw [takeCut_eq]
  split
  · exact h
  · exact ((pulse_touches 2 _ hs).words a d ha).trans h

end

/-- Settles O13: the comparators by `wakeComparatorTrip_of`, the window's cuts by `moveCut`, the taken cut by `takeCut`. -/
theorem wakeAndCutsFollowTheirLoops : Obligations.WakeAndCutsFollowTheirLoops := by
  intro s t c n k d u noted trips
  refine ⟨fun hc ht hcur hidle h5 hw => ?_, fun ht => ?_, fun hc hb hr => ?_, fun hr => ?_, fun hp hw hcur => ?_, fun hw => ?_, fun ho ht hcap hth => ?_⟩
  · exact ⟨_, wakeComparatorTrip_of hc ((comparatorTrips_iff ..).2 ht) hcur hidle h5, decideWake_pw _ (tripped u c n) hw,
      (decideWake_cause _ (tripped u c n) hw).trans (Nat.mod_eq_of_lt (wakeCode_lt hc))⟩
  · have hm : (decide (c < 10) && comparatorTrips (noteLevel u c n) c n k) = false := by
      rw [comparatorTrips_noteLevel, Bool.eq_false_iff.2 fun h => ht ((comparatorTrips_iff ..).1 h), Bool.and_false]
    exact whenever_false hm ..
  · have hm : (decide (c < 10) && SMap.get .inert u.pw.comparators c == .beyond && wakeReturned u c n) = true := by simp [hc, hb, hr]
    exact whenever_true hm ..
  · have hm : (decide (c < 10) && SMap.get .inert u.pw.comparators c == .beyond && wakeReturned u c n) = false := by rw [hr, Bool.and_false]
    exact whenever_false hm ..
  · have hm : (u.pkgRuns && decide (u.pw.cutWindow < u.pkg / 1000000) && decide (2 ≤ u.current)) = true := by simp [hp, hw, hcur]
    refine ⟨_, whenever_true hm .., ?_⟩
    rw [setSource_pw]
    refine ⟨rfl, rfl, fun h => if_pos (decide_eq_true h), fun h h' => ?_, fun h h' => ?_, fun h => if_pos (decide_eq_true h), fun h => ?_, fun h h' => ?_⟩ <;>
      simp only [moveCut, decide_eq_true_eq]
    · rw [if_neg (Nat.not_lt.2 h), if_pos h']
    · rw [if_neg (Nat.not_lt.2 h), if_neg (Nat.not_lt.2 h')]
    · rw [if_neg (Nat.not_le.2 (Nat.lt_of_lt_of_le (Nat.lt_add_of_pos_right (by decide)) h)), if_pos h]
    · rw [if_neg (Nat.not_le.2 h), if_neg (Nat.not_le.2 h')]
  · have hm : (u.pkgRuns && decide (u.pw.cutWindow < u.pkg / 1000000) && decide (2 ≤ u.current)) = false := by simp [Nat.not_lt.2 hw]
    exact whenever_false hm ..
  · have hm : (u.pw.cutOwed && decide (u.pw.cutTick < u.aoTicks)) = true := by simp [ho, ht]
    refine ⟨_, whenever_true hm .., takeCut_pw u, ?_, fun a d' ha => takeCut_words u (P := (· ∈ _)) ?_ ?_ ha d'⟩
    · exact (takeCut_cut u).trans (Nat.mod_eq_of_lt (by omega))
    · decide
    · decide

end Sys2Proof.Machine
end

section
/-! SUPPORT. What stays when every domain goes off, and how units gate and wake (O12, O14). -/

namespace Sys2Proof.Machine

/-- Settles O12: the retained parts are copied from the settled state, the words and the contexts by what `SMap.keep` keeps. -/
theorem domainsOffLeavesTheRetainedState : Obligations.DomainsOffLeavesTheRetainedState := by
  intro s q r
  refine ⟨fun a d => SMap.get_keep d outlasts q.ctl a, rfl, rfl, rfl, fun e he => ?_, ⟨rfl, rfl, rfl, rfl, rfl⟩, rfl, rfl, rfl, rfl, rfl, rfl⟩
  have hk : e ∈ q.nx.ctxs ∧ (decide (e.1 / 32 < 128) && e.2.state == .swapped) = true := List.mem_filter.1 he
  obtain ⟨hm, hp⟩ := hk
  rw [Bool.and_eq_true, decide_eq_true_eq, beq_iff_eq] at hp
  exact ⟨hm, hp.2, hp.1⟩

/-! Gating. -/

theorem cuGating_setCuGate (n : Nat) (g : Gating) (s : State) (m : Nat) : cuGating (setCuGate n g s) m = if n = m then g else cuGating s m := SMap.get_put ..

theorem copseGating_setCopseGate (n : Nat) (g : Gating) (s : State) (m : Nat) : copseGating (setCopseGate n g s) m = if n = m then g else copseGating s m :=
  SMap.get_put ..

/-- Gating a CU sets its own gating alone. -/
theorem setCuGate_only (n : Nat) (g : Gating) (s : State) : cuGating (setCuGate n g s) n = g ∧ ∀ m, m ≠ n → cuGating (setCuGate n g s) m = cuGating s m :=
  ⟨(cuGating_setCuGate ..).trans (if_pos rfl), fun _ hm => (cuGating_setCuGate ..).trans (if_neg hm.symm)⟩

theorem setCopseGate_only (n : Nat) (g : Gating) (s : State) :
    copseGating (setCopseGate n g s) n = g ∧ ∀ m, m ≠ n → copseGating (setCopseGate n g s) m = copseGating s m :=
  ⟨(copseGating_setCopseGate ..).trans (if_pos rfl), fun _ hm => (copseGating_setCopseGate ..).trans (if_neg hm.symm)⟩

theorem cusAre_of {s : State} {n : Nat} {p : Gating → Bool} (h : ∀ i, i < 16 → p (cuGating s (16 * n + i)) = true) : cusAre s n p = true :=
  List.all_eq_true.2 fun i hi => h i (List.mem_range.1 hi)

/-- A copse that loses power keeps its amax and residual entries, and touches no other copse. -/
theorem copse_gateCopse_self (k : Nat) (s : State) : (gateCopse k s).copse k =
    { Copse.reset with amax := (s.copse k).amax, resid := (s.copse k).resid, useSeq := (s.copse k).useSeq, arrivals := (s.copse k).arrivals } :=
  State.copse_setCopse_self ..

theorem copse_gateCopse_ne {k m : Nat} (h : m ≠ k) (s : State) : (gateCopse k s).copse m = s.copse m := State.copse_setCopse_ne s h.symm _

/-- Settles O14: each gating command by its condition, and what it sets by `setCuGate_only` and `setCopseGate_only`. -/
theorem unitsGateAndWake : Obligations.UnitsGateAndWake := by
  intro s t n k u cu copse cus
  refine ⟨fun hg hk => ?_, fun hk => ?_, fun hg hh h0 hi => ?_, fun h0 => ?_, fun hg hk hc => ?_, fun hg hc hr h0 hi hl => ?_, fun hg hk => ?_, fun hg hk => ?_, fun hg hk => ?_⟩
  · refine ⟨_, whenever_true (r := setCuGate n .clockGated u) ?_ .., setCuGate_only n .clockGated u, rfl⟩
    show (cuGating u n == .running && decide (64 ≤ k)) = true
    simp [hg, hk]
  · refine whenever_false ?_ ..
    show (cuGating u n == .running && decide (64 ≤ k)) = false
    simp [hk]
  · refine ⟨_, whenever_true ?_ .., setCuGate_only n .powerGated _, rfl⟩
    show ((cuGating u n == .running || cuGating u n == .clockGated) && !cuHeld u n && u.fget PW_GATE.CU_IDLE [] != 0 && decide (u.fget PW_GATE.CU_IDLE [] ≤ k)) = true
    simpa [hh, h0, hi] using hg
  · refine whenever_false ?_ ..
    show ((cuGating u n == .running || cuGating u n == .clockGated) && !cuHeld u n && u.fget PW_GATE.CU_IDLE [] != 0 && decide (u.fget PW_GATE.CU_IDLE [] ≤ k)) = false
    simp [h0]
  · have hcus : cusAre u n (fun g => g == .clockGated || g == .powerGated) = true := cusAre_of fun i hi => by simpa using hc i hi
    refine ⟨_, whenever_true ?_ .., setCopseGate_only n .clockGated u, rfl⟩
    show (copseGating u n == .running && decide (64 ≤ k) && cusAre u n fun g => g == .clockGated || g == .powerGated) = true
    simp [hg, hk, hcus]
  · have hcus : cusAre u n (fun g => g == .powerGated) = true := cusAre_of fun i hi => by simpa using hc i hi
    have hcache : (u.copse n).cache.all (fun l => !l.dirty) = true := List.all_eq_true.2 fun l hl' => by rw [hl l hl']; rfl
    have hself := copse_gateCopse_self n u
    have hamax : ((gateCopse n u).copse n).amax = (u.copse n).amax := by rw [hself]
    have hresid : ((gateCopse n u).copse n).resid = (u.copse n).resid := by rw [hself]
    refine ⟨_, whenever_true ?_ .., setCopseGate_only n .powerGated (gateCopse n u), congrArg Copse.cache hself, hamax, hresid,
      fun m hm => copse_gateCopse_ne hm u⟩
    show ((copseGating u n == .running || copseGating u n == .clockGated) && cusAre u n (fun g => g == .powerGated) && (residents u n).isEmpty
      && u.fget PW_GATE.COPSE_IDLE [] != 0 && decide (u.fget PW_GATE.COPSE_IDLE [] ≤ k) && (u.copse n).cache.all (fun l => !l.dirty)) = true
    rw [hcache, hcus, hr]
    simpa [h0, hi] using hg
  · refine ⟨_, whenever_true ?_ .., setCuGate_only n .running u, rfl⟩
    show ((cuGating u n == .waking || cuGating u n == .clockGated) && decide (wakeNs (cuGating u n) 12000 ≤ k)) = true
    simp [hg, wakeNs, hk]
  · refine ⟨_, whenever_true ?_ .., setCopseGate_only n .running u, rfl⟩
    show ((copseGating u n == .waking || copseGating u n == .clockGated) && decide (wakeNs (copseGating u n) 15000 ≤ k)) = true
    simp [hg, wakeNs, hk]
  · refine whenever_false ?_ ..
    show ((cuGating u n == .waking || cuGating u n == .clockGated) && decide (wakeNs (cuGating u n) 12000 ≤ k)) = false
    simp [hg, wakeNs, hk]

end Sys2Proof.Machine
end

section
/-! SUPPORT. Forwarding, ends of requests and scheduling leave the boot record alone. -/

namespace Sys2Proof.Machine

variable {s r : State}

/-! Control flow. -/

theorem boot_foldl {α : Type} {f : State → α → State} (hf : ∀ s e, (f s e).boot = s.boot) (l : List α) (s : State) : (l.foldl f s).boot = s.boot := by
  induction l generalizing s with
  | nil => rfl
  | cons e l ih => exact (ih _).trans (hf s e)

theorem boot_getD {o : Option State} {d : State} (h : ∀ r ∈ o, r.boot = s.boot) (hd : d.boot = s.boot) : (o.getD d).boot = s.boot := by
  cases o with
  | none => exact hd
  | some r => exact h r rfl

@[simp] theorem setSource_boot (n : Nat) (level : Bool) (s : State) : (setSource n level s).boot = s.boot :=
  (setSource_touches (P := beyondPw) n level s fun k _ => beyondPw_src k n).boot

@[simp] theorem pulse_boot (n : Nat) (s : State) : (pulse n s).boot = s.boot := (pulse_touches (P := beyondPw) n s fun k _ => beyondPw_src k n).boot

/-! Cells. -/

theorem addCharge_boot (g c vc u : Nat) (ch : Charge) (s : State) : (addCharge g c vc u ch s).boot = s.boot := by
  unfold addCharge
  dsimp only
  split <;> rfl

theorem trailRing_boot (ring : Nat) (cfg idx : CW) (ix : List Nat) (ch : Option Nat) (missed : Fld) (mix : List Nat) (e : TrailEv) (s : State) :
    (trailRing ring cfg idx ix ch missed mix e s).boot = s.boot := by
  unfold trailRing
  dsimp only
  repeat' split
  all_goals simp [writeChannel]

theorem trail_boot (g : Nat) (e : TrailEv) (s : State) : (trail g e s).boot = s.boot := by
  unfold trail
  dsimp only
  split <;> simp only [trailRing_boot]

theorem toOverflow_boot {lp : Nat} {c : Cell} (h : r ∈ toOverflow lp c s) : r.boot = s.boot := by
  unfold toOverflow at h
  dsimp only at h
  rw [Option.mem_def, Option.ite_none_left_eq_some] at h
  obtain rfl := Option.some.inj h.2
  exact (State.fadd_boot ..).trans (trail_boot ..)

theorem admitEgress_boot {lp : Nat} {c : Cell} (h : r ∈ admitEgress lp c s) : r.boot = s.boot := by
  unfold admitEgress at h
  dsimp only at h
  repeat' split at h
  · exact toOverflow_boot h
  · obtain rfl := Option.some.inj h
    exact addCharge_boot ..
  · exact toOverflow_boot h
  · cases h

theorem admitMesh_boot {c : Cell} (h : r ∈ admitMesh c s) : r.boot = s.boot := by
  unfold admitMesh at h
  dsimp only at h
  split at h
  · obtain rfl := Option.some.inj h
    exact addCharge_boot ..
  · cases h

theorem tryEnter_boot {c : Cell} (h : r ∈ tryEnter c s) : r.boot = s.boot := by
  obtain ⟨q, hq, rfl⟩ := Option.map_eq_some_iff.1 h
  rw [trail_boot]
  split at hq
  · exact admitEgress_boot hq
  · exact admitMesh_boot hq

theorem refuseCell_boot (die : Nat) (c : Cell) (s : State) : (refuseCell die c s).boot = s.boot := State.fadd_boot ..

theorem enterCell_boot (c : Cell) (s : State) : (enterCell c s).boot = s.boot := by
  unfold enterCell
  dsimp only
  split
  · exact refuseCell_boot ..
  · exact boot_getD (fun r h => tryEnter_boot h) (refuseCell_boot ..)

theorem admitPointer_boot {c : Cell} {id : Nat} {first : Bool} (h : r ∈ admitPointer c id first s) : r.boot = s.boot := by
  unfold admitPointer at h
  dsimp only at h
  repeat' split at h
  · cases h
  · obtain rfl := Option.some.inj h
    exact addCharge_boot ..
  · obtain rfl := Option.some.inj h
    rfl
  · cases h

theorem mcPointers_boot (c : Cell) (id : Nat) (lps : List Nat) (k : Nat) (s : State) : (mcPointers c id lps k s).2.boot = s.boot := by
  induction lps generalizing k s with
  | nil => rfl
  | cons lp lps ih =>
    unfold mcPointers
    dsimp only
    split
    · next h => exact (ih ..).trans (admitPointer_boot h)
    · split
      · next h =>
        split at h
        · exact (ih ..).trans (toOverflow_boot h)
        · cases h
      · exact (ih ..).trans (refuseCell_boot ..)

theorem mcLocal_boot (die : Nat) (c : Cell) (s : State) : (mcLocal die c s).boot = s.boot := by
  unfold mcLocal
  dsimp only
  split
  · rfl
  · rw [State.fadd_boot]
    split <;> exact mcPointers_boot ..

theorem mcEnter_boot (c : Cell) (s : State) : (mcEnter c s).boot = s.boot := by
  unfold mcEnter
  dsimp only
  refine (boot_foldl (fun s d => ?_) _ _).trans (mcLocal_boot ..)
  split
  · exact refuseCell_boot ..
  · exact boot_getD (fun r h => admitMesh_boot h) (refuseCell_boot ..)

/-! Ends of requests. -/

theorem respond_boot (die lp clr epoch tag : Nat) (st : Status) (seg : Nat) (last staged : Bool) (data : List Byte) (s : State) :
    (respond die lp clr epoch tag st seg last staged data s).boot = s.boot := by
  unfold respond
  split
  · exact enterCell_boot ..
  · exact State.fadd_boot ..

theorem respondSegs_boot (die lp clr epoch tag seg : Nat) (staged : Bool) (n : Nat) (bs : List Byte) (s : State) :
    (respondSegs die lp clr epoch tag seg staged n bs s).boot = s.boot := by
  induction n generalizing seg bs s with
  | zero => rfl
  | succ n ih => exact (ih ..).trans (respond_boot ..)

theorem endReq_boot (src : ReqSrc) (clr epoch die : Nat) (st : Status) (data : List Byte) (staged : Bool) (s : State) :
    (endReq src clr epoch die st data staged s).boot = s.boot := by
  unfold endReq
  split
  · split
    · exact respondSegs_boot ..
    · exact respond_boot ..
  · rfl

theorem endTxn_boot (x : Txn) (st : Status) (data : List Byte) (s : State) : (endTxn x st data s).boot = s.boot := by
  unfold endTxn
  dsimp only
  split
  · rfl
  · exact endReq_boot ..

/-! Group messages of services. -/

theorem groupSegs_boot (x : Txn) (mcg tag mlen lp n i : Nat) (bs : List Byte) (s : State) : (groupSegs x mcg tag mlen lp n i bs s).boot = s.boot := by
  induction n generalizing i bs s with
  | zero => rfl
  | succ n ih => exact (ih ..).trans (mcEnter_boot ..)

theorem sendGroup_boot (m : RxWait) (mcg die : Nat) (s : State) : (sendGroup m mcg die s).boot = s.boot := by
  unfold sendGroup
  dsimp only
  repeat' split
  · exact endReq_boot ..
  · exact endReq_boot ..
  · exact groupSegs_boot ..

theorem modSvc_boot (key : Nat) (f : Svc → Svc) (s : State) : (s.modSvc key f).boot = s.boot := by
  unfold State.modSvc
  split <;> rfl

theorem svcSendGroup_boot (key : Nat) (bs : List Byte) (s : State) : (svcSendGroup key bs s).boot = s.boot :=
  (sendGroup_boot ..).trans (modSvc_boot ..)

/-! Scheduling. -/

theorem modCtx_boot (copse n : Nat) (f : Ctx → Ctx) (s : State) : (s.modCtx copse n f).boot = s.boot := by
  unfold State.modCtx
  split <;> rfl

theorem wakeUnits_boot (copse : Nat) (x : Ctx) (s : State) : (wakeUnits copse x s).boot = s.boot := by
  unfold wakeUnits
  split <;> rfl

theorem makeResident_boot (copse n : Nat) (x : Ctx) (s : State) : (makeResident copse n x s).boot = s.boot := by
  unfold makeResident
  dsimp only
  split <;> exact wakeUnits_boot ..

theorem startSave_boot (copse n t : Nat) (prio : Bool) (s : State) : (startSave copse n t prio s).boot = s.boot := by
  unfold startSave
  dsimp only
  split <;> simp only [State.fadd_boot, modCtx_boot]

theorem startSaves_boot (copse t : Nat) (prio : Bool) (l : List (Nat × Ctx)) (s : State) : (startSaves copse t prio l s).boot = s.boot := by
  induction l generalizing s with
  | nil => rfl
  | cons e l ih => exact (ih _).trans (startSave_boot ..)

theorem schedule_boot (copse : Nat) (s : State) : (schedule copse s).boot = s.boot := by
  unfold schedule
  dsimp only
  repeat' split
  all_goals first | rfl | exact makeResident_boot .. | exact startSaves_boot ..

theorem scheduleAll_boot (n copse : Nat) (s : State) : (scheduleAll n copse s).boot = s.boot := by
  induction n generalizing s with
  | zero => rfl
  | succ n ih =>
    unfold scheduleAll
    dsimp only
    split
    · exact schedule_boot ..
    · exact (ih _).trans (schedule_boot ..)

/-! Ends of programs. -/

theorem endProgram_boot (copse n : Nat) (c : Option EndCause) (s : State) : (endProgram copse n c s).boot = s.boot := by
  unfold endProgram
  dsimp only
  repeat' split
  all_goals first | rfl | exact State.fadd_boot ..

theorem endMgmt_boot (s : State) : (endMgmt s).boot = s.boot := boot_foldl (fun _ _ => boot_foldl (fun _ _ => endProgram_boot ..) ..) ..

/-! The Sequencer's operations and the commit. -/

theorem endCommit_boot (result reason : Nat) (s : State) : (endCommit result reason s).boot = s.boot := by
  simp only [endCommit, pulse_boot, State.fset_boot]

theorem sparePhase_boot (k phase result : Nat) (s : State) : (sparePhase k phase result s).boot = s.boot := by
  unfold sparePhase
  dsimp only
  split <;> simp only [pulse_boot, State.fset_boot]

theorem letRelease_boot (k : Nat) (s : State) : (letRelease k s).boot = s.boot := by
  unfold letRelease
  dsimp only
  repeat' split
  · rfl
  · exact svcSendGroup_boot ..
  · rfl

theorem seqRemove_boot (id : Nat) (s : State) : (seqRemove id s).boot = s.boot := rfl

theorem interruptOp_boot (o : SeqOp) (s : State) : (interruptOp o s).boot = s.boot := by
  unfold interruptOp
  dsimp only
  split
  · split
    · exact (endTxn_boot ..).trans (seqRemove_boot ..)
    · exact seqRemove_boot ..
  · split
    · exact (endTxn_boot ..).trans (seqRemove_boot ..)
    · exact seqRemove_boot ..
  · split
    · exact (endTxn_boot ..).trans (seqRemove_boot ..)
    · exact seqRemove_boot ..
  · exact (endCommit_boot ..).trans (seqRemove_boot ..)
  · exact seqRemove_boot ..
  · exact (letRelease_boot ..).trans ((sparePhase_boot ..).trans (seqRemove_boot ..))

theorem interruptOps_boot (l : List SeqOp) (s : State) : (interruptOps l s).boot = s.boot := by
  induction l generalizing s with
  | nil => rfl
  | cons o l ih =>
    unfold interruptOps
    rw [ih]
    split
    · exact interruptOp_boot ..
    · rfl

theorem interruptCommit_boot (s : State) : (interruptCommit s).boot = s.boot := by
  have all (s : State) : ((List.range 128).foldl (fun s k => scheduleAll 32 k s) s).boot = s.boot := boot_foldl (fun s k => scheduleAll_boot ..) _ s
  unfold interruptCommit
  dsimp only
  split
  · exact endCommit_boot ..
  · exact endCommit_boot ..
  · exact endCommit_boot ..
  · exact (all _).trans (endCommit_boot ..)
  · exact (all _).trans (endCommit_boot ..)
  · rfl

/-- The Sequencer runs again, and nothing else of the boot record changes. -/
theorem resumeSequencer_boot (s : State) : (resumeSequencer s).boot = { s.boot with seqRuns := true } :=
  (interruptOps_boot ..).trans (interruptCommit_boot ..)

end Sys2Proof.Machine
end

section
/-! SUPPORT. Updates, handovers and failovers of the Lookouts (O18). -/

namespace Sys2Proof.Machine

/-! The words of the Lookouts. -/

theorem State.activeLookout_lt (s : State) : s.activeLookout < 2 := natBits_lt _ 62 62

/-- A state whose word of the active Lookout is that of another. -/
theorem Touches.activeLookout {P : Nat → Prop} {s r : State} (h : Touches P s r) (hw : ¬ P (CW.addr .LK_BOOT [0])) : r.activeLookout = s.activeLookout :=
  h.fget (f := LK_BOOT.ACTIVE) (ix := [0]) hw

theorem handover_inRange {k : Nat} (hk : k < 2) : CW.inRange .LK_HANDOVER [k] = true := by simp [CW.inRange, CW.place, fitsDims, CW.named, hk]

theorem upd_inRange {k : Nat} (hk : k < 2) : CW.inRange .LK_UPD [k] = true := by simp [CW.inRange, CW.place, fitsDims, CW.named, hk]

/-- LAST of HANDOVER is one field, whichever Lookout is named. -/
theorem handover_last_eq (s : State) {j k : Nat} (hj : j < 2) (hk : k < 2) : s.fget LK_HANDOVER.LAST [j] = s.fget LK_HANDOVER.LAST [k] := by
  simp only [State.fget, State.word, handover_inRange hj, handover_inRange hk, if_true]
  rfl

/-- The steps after ACTIVE and LAST are written that write neither. -/
def notLookout (a : Nat) : Prop := a ≠ CW.addr .LK_BOOT [0] ∧ a ≠ CW.addr .LK_HANDOVER [0]

theorem notLookout_src (k n : Nat) : notLookout (CW.addr .EV_SRC_STATE [k, n]) := by
  simp only [notLookout, CW.addr, CW.place, dotIx]
  omega

section
variable {k l : Nat} {s : State}

theorem becomeActiveLookout_boot (k l : Nat) (s : State) : (becomeActiveLookout k l s).boot = s.boot := by
  simp only [becomeActiveLookout, pulse_boot, State.fset_boot]

theorem becomeActiveLookout_claims (k l : Nat) (s : State) : (becomeActiveLookout k l s).ecc.claims = s.ecc.claims := by
  have h := (pulse_touches (P := fun _ => True) 69 (((s.fset LK_BOOT.ACTIVE [0] k).fset LK_HANDOVER.LAST [k] l).fset LK_HANDOVER.TIME [k] (s.aoTicks % 2 ^ 32)) fun _ _ => trivial).claims
  simpa only [becomeActiveLookout, State.fset_ecc] using h

theorem becomeActiveLookout_active (hk : k < 2) (l : Nat) (s : State) : (becomeActiveLookout k l s).activeLookout = k := by
  unfold becomeActiveLookout
  rw [(pulse_touches (P := notLookout) 69 _ fun j _ => notLookout_src j 69).activeLookout (fun h => h.1 rfl), State.activeLookout,
    State.fget_fset_ne _ _ _ _ (by decide +revert), State.fget_fset_ne _ _ _ _ (by decide +revert)]
  exact (State.fget_fset _ (f := LK_BOOT.ACTIVE) rfl (by decide) (by decide) _).trans (Nat.mod_eq_of_lt hk)

theorem becomeActiveLookout_last (hk : k < 2) (hl : l < 8) (s : State) : (becomeActiveLookout k l s).fget LK_HANDOVER.LAST [k] = l := by
  unfold becomeActiveLookout
  rw [(pulse_touches (P := notLookout) 69 _ fun j _ => notLookout_src j 69).fget (fun h => h.2 rfl),
    State.fget_fset_other _ (f := LK_HANDOVER.TIME) (g := LK_HANDOVER.LAST) rfl (by decide) (by decide) (by decide) (by decide)]
  exact (State.fget_fset _ (f := LK_HANDOVER.LAST) (handover_inRange hk) (by decide) (by decide) _).trans (Nat.mod_eq_of_lt hl)

end

/-- What restarts with the scrubs touches the count of restarts alone. -/
theorem restartScrubs_touches (p : Nat → Bool) (s : State) : Touches notLookout s (restartScrubs p s) := by
  have h : notLookout (CW.addr .CM_SCRUB_CNT []) := by unfold notLookout; decide
  unfold restartScrubs
  dsimp only
  refine Touches.trans ?_ (Touches.fadd _ (f := CM_SCRUB_CNT.RESTARTED) (ix := []) _ h)
  exact Touches.of_eq rfl rfl rfl rfl

theorem evidenceChanged_touches {P : Nat → Prop} (s : State) : Touches P s (evidenceChanged s) := Touches.of_eq rfl rfl rfl rfl

/-- The stacks and the claims of Lookout k given up. -/
def dropClaims (k : Nat) (s : State) : State :=
  { s with ecc.evStacks := SMap.keep (fun n _ => n / 4 != k) s.ecc.evStacks, ecc.claims := s.ecc.claims.filter fun c => c.cu / 4 != k }

/-- Beside these only the words of the event sources change. -/
theorem clearClaims_touches (k : Nat) (s : State) : Touches notLookout (dropClaims k s) (clearClaims k s) :=
  Touches.foldl (fun s n => Touches.ite (Touches.fset s (f := EV_SRC_STATE.ACTIVE) _ (notLookout_src k n)) (Touches.refl s)) ..

theorem upd_notLookout : notLookout (CW.addr .LK_UPD [0]) := by unfold notLookout; decide

/-! A planned handover. -/

/-- The other Lookout takes over. -/
def tookOver (s : State) : State :=
  clearClaims s.activeLookout (becomeActiveLookout (otherLookout s.activeLookout) 1 { s with boot.handover := .idle, boot.seqRuns := true, boot.lastBeat := s.now })

/-- What the end of a planned handover leaves, on the way to settling. -/
def handedOver (s : State) : State :=
  let s1 := restartScrubs (fun _ => true) (tookOver s)
  evidenceChanged (if s.fget LK_UPD.PHASE [0] = 2 then s1.fset LK_UPD.PHASE [0] 1 else s1)

/-- After the new Lookout is active and the old one's claims are gone, neither changes again. -/
theorem handedOver_touches (s : State) : Touches notLookout (tookOver s) (handedOver s) := by
  have h := restartScrubs_touches (fun _ => true) (tookOver s)
  unfold handedOver
  dsimp only
  generalize restartScrubs (fun _ => true) (tookOver s) = q at h
  refine Touches.trans ?_ (evidenceChanged_touches _)
  split
  · exact h.trans (Touches.fset q (f := LK_UPD.PHASE) _ upd_notLookout)
  · exact h

theorem handoverDone_of {s : State} {t t0 : Nat} (hp : (s.upTo t).boot.handover = .planned t0) (ho : ∀ o, o ∈ (s.upTo t).coh.seqOps → o.positioned = false) :
    exec (.handoverDone t) s = .next (settle (handedOver (s.upTo t))) := by
  have hc : (!((s.upTo t).coh.seqOps.any fun o => o.positioned)) = true := by
    rw [Bool.not_eq_true', List.any_eq_false]
    exact fun o h => by simp [ho o h]
  show execHandoverDone t s = _
  unfold execHandoverDone handedOver tookOver
  dsimp only
  split
  · exact whenever_true hc ..
  · next h => exact absurd hp (h t0)

section
variable (s : State)

theorem tookOver_boot : (tookOver s).boot = { s.boot with handover := .idle, seqRuns := true, lastBeat := s.now } := by
  rw [tookOver, (clearClaims_touches ..).boot]
  exact becomeActiveLookout_boot ..

theorem tookOver_claims : (tookOver s).ecc.claims = s.ecc.claims.filter fun c => c.cu / 4 != s.activeLookout := by
  rw [tookOver, (clearClaims_touches ..).claims]
  exact congrArg (List.filter _) (becomeActiveLookout_claims ..)

theorem tookOver_active : (tookOver s).activeLookout = 1 - s.activeLookout := by
  rw [tookOver, (clearClaims_touches ..).activeLookout fun h => h.1 rfl]
  have same (q : State) : (dropClaims s.activeLookout q).activeLookout = q.activeLookout := State.fget_of_ctl rfl ..
  rw [same]
  exact becomeActiveLookout_active (by unfold otherLookout; omega) ..

theorem tookOver_last : (tookOver s).fget LK_HANDOVER.LAST [1 - s.activeLookout] = 1 := by
  rw [tookOver, (clearClaims_touches ..).fget fun h => h.2 rfl]
  have same (q : State) (j : Nat) : (dropClaims s.activeLookout q).fget LK_HANDOVER.LAST [j] = q.fget LK_HANDOVER.LAST [j] := State.fget_of_ctl rfl ..
  rw [same]
  exact becomeActiveLookout_last (by unfold otherLookout; omega) (by decide) _

end

/-! The loss of the active Lookout. -/

theorem loseActive_boot (beat : Nat) (s : State) : (loseActive beat s).boot =
    { s.boot with lookoutUp := s.boot.lookoutUp.filter fun k => k != s.activeLookout, fenced := s.activeLookout :: s.boot.fenced.filter fun k => k != s.activeLookout,
                  seqRuns := false, handover := .lost beat s.activeLookout } := by
  have same (k : Nat) (q : State) : (dropClaims k q).boot = q.boot := rfl
  unfold loseActive
  dsimp only
  rw [(evidenceChanged_touches (P := notLookout) _).boot, (clearClaims_touches ..).boot, same, endMgmt_boot, State.fset_boot]

/-! Sources raised again on the other Lookout. -/

theorem source_inRange {k n : Nat} (hk : k < 2) (hn : n < 2048) : CW.inRange .EV_SRC_STATE [k, n] = true := by simp [CW.inRange, CW.place, fitsDims, CW.named, hk, hn]

theorem source_addr_ne {k n j m : Nat} (hn : n < 2048) (hm : m < 2048) (h : k ≠ j ∨ n ≠ m) : CW.addr .EV_SRC_STATE [k, n] ≠ CW.addr .EV_SRC_STATE [j, m] := by
  simp only [CW.addr, CW.place, dotIx]
  omega

theorem pending_le (s : State) (k n : Nat) : s.fget EV_SRC_STATE.PENDING [k, n] < 2 := natBits_lt _ 63 63

/-- Taking source n: its PENDING at controller o is raised where it stands at a. -/
def takeSource (a o n : Nat) (s : State) : State := if s.fget EV_SRC_STATE.PENDING [a, n] = 1 then s.fset EV_SRC_STATE.PENDING [o, n] 1 else s

theorem takeSource_same {a o n m j : Nat} (hn : n < 2048) (hm : m < 2048) (h : o ≠ j ∨ n ≠ m) (s : State) :
    (takeSource a o n s).fget EV_SRC_STATE.PENDING [j, m] = s.fget EV_SRC_STATE.PENDING [j, m] := by
  unfold takeSource
  split
  · exact State.fget_fset_ne _ _ _ _ (source_addr_ne hn hm h)
  · rfl

theorem takeSource_taken {a o n : Nat} (ho : o < 2) (hn : n < 2048) (s : State) :
    (takeSource a o n s).fget EV_SRC_STATE.PENDING [o, n] = max (s.fget EV_SRC_STATE.PENDING [a, n]) (s.fget EV_SRC_STATE.PENDING [o, n]) := by
  have h1 := pending_le s a n
  have h2 := pending_le s o n
  unfold takeSource
  split
  · rw [State.fget_fset s (f := EV_SRC_STATE.PENDING) (source_inRange ho hn) (by decide) (by decide)]
    simp only [Nat.reduceAdd, Nat.reduceSub, Nat.pow_one]
    omega
  · omega

/-- Taking the sources of a list: each is taken once, and controller a's words stand. -/
theorem takeSources_list {a o : Nat} (ha : a ≠ o) (ho : o < 2) (l : List Nat) (hl : ∀ n ∈ l, n < 2048) (hd : l.Nodup) (s : State) {m : Nat} (hm : m < 2048) :
    (l.foldl (fun s n => takeSource a o n s) s).fget EV_SRC_STATE.PENDING [o, m] =
      if m ∈ l then max (s.fget EV_SRC_STATE.PENDING [a, m]) (s.fget EV_SRC_STATE.PENDING [o, m]) else s.fget EV_SRC_STATE.PENDING [o, m] := by
  induction l generalizing s with
  | nil => rfl
  | cons n l ih =>
    have hn : n < 2048 := hl n (List.mem_cons_self ..)
    obtain ⟨hnl, hd⟩ := List.nodup_cons.1 hd
    rw [List.foldl_cons, ih (fun j hj => hl j (List.mem_cons_of_mem _ hj)) hd, takeSource_same hn hm (Or.inl ha.symm)]
    by_cases hnm : n = m
    · subst hnm
      rw [if_neg hnl, if_pos (List.mem_cons_self ..), takeSource_taken ho hn]
    · rw [takeSource_same hn hm (Or.inr hnm)]
      simp only [List.mem_cons, Ne.symm hnm, false_or]

theorem takeSources_boot (a o : Nat) (s : State) : (takeSources a o s).boot = s.boot := by
  refine boot_foldl (fun s n => ?_) ..
  split
  · exact State.fset_boot ..
  · rfl

theorem takeSources_pending {a o : Nat} (ha : a ≠ o) (ho : o < 2) (s : State) {m : Nat} (hm : m < 2048) :
    (takeSources a o s).fget EV_SRC_STATE.PENDING [o, m] = max (s.fget EV_SRC_STATE.PENDING [a, m]) (s.fget EV_SRC_STATE.PENDING [o, m]) :=
  (takeSources_list ha ho _ (fun _ h => List.mem_range.1 h) List.nodup_range s hm).trans (if_pos (List.mem_range.2 hm))

/-! The end of a failover, and a reload. -/

/-- What the end of a failover leaves, on the way to settling. -/
def failedOver (a : Nat) (s : State) : State :=
  evidenceChanged (restartScrubs (fun _ => true) (becomeActiveLookout (otherLookout a) 2 { s with boot.handover := .idle, boot.lastBeat := s.now }))

theorem failedOver_touches (a : Nat) (s : State) :
    Touches notLookout (becomeActiveLookout (otherLookout a) 2 { s with boot.handover := .idle, boot.lastBeat := s.now }) (failedOver a s) :=
  (restartScrubs_touches ..).trans (evidenceChanged_touches _)

theorem setMeas_boot (n : Nat) (m : BitVec 384) (s : State) : (setMeas n m s).boot = s.boot := boot_foldl (fun _ _ => State.fset_boot ..) ..

theorem startImage_boot (n slot svn : Nat) (m : BitVec 384) (s : State) : (startImage n slot svn m s).boot = s.boot := by
  simp only [startImage, (evidenceChanged_touches (P := notLookout) _).boot, setMeas_boot, State.fwrap_boot, State.fset_boot]

/-- A Lookout that comes back is in service and no longer fenced. -/
theorem lookoutBack_serves (k : Nat) (s : State) : k ∈ (lookoutBack k s).boot.lookoutUp ∧ k ∉ (lookoutBack k s).boot.fenced := by
  have hup : k ∈ s.boot.lookoutUp ++ (if s.boot.lookoutUp.contains k then [] else [k]) := by
    by_cases h : k ∈ s.boot.lookoutUp <;> simp [h]
  have hf : k ∉ s.boot.fenced.filter fun x => x != k := by simp
  unfold lookoutBack
  dsimp only
  split
  · rw [becomeActiveLookout_boot, resumeSequencer_boot]
    exact ⟨hup, hf⟩
  · exact ⟨hup, hf⟩

end Sys2Proof.Machine
end

section
/-! SUPPORT. The writes of GO to a Lookout's words (O18). -/

namespace Sys2Proof.Machine

/-! A write by a program that is not privileged to a word that only privileged programs write. -/

theorem cmdWrite_denied {p : Prog} {w : CW} {ix : List Nat} {v mask : Word} {s : State} (hi : w.inRange ix = true) (ho : opened s p w.writers ix = false) :
    cmdWrite p w ix v mask s = { s with out := .ctl .denied 0 :: s.out } := by
  rw [cmdWrite, if_pos hi, writeWord]
  simp only [ho, Bool.not_false, Bool.true_or, if_true]
  rfl

theorem opened_priv_false {p : Prog} (hp : p.privileged = false) (s : State) (ix : List Nat) : opened s p .priv ix = false := by
  unfold opened
  rw [hp]
  rcases ix with _ | ⟨_, _ | ⟨_, _⟩⟩ <;> rfl

/-- A privileged program's write that nothing refuses stores its fields and starts what they start. -/
theorem cmdWrite_ok {p : Prog} {w : CW} {ix : List Nat} {v mask : Word} {s : State} (hp : p.privileged = true) (hi : w.inRange ix = true)
    (hro : w.fields.all (fun f => f.acc == .ro) = false) {x : Word} (hx : writeFields w (s.word w ix) v mask w.fields (s.word w ix) = x)
    (hr : refusesWrite w ix v mask s (s.setWord w ix x) = false) :
    cmdWrite p w ix v mask s = (afterWrite w ix v mask s (s.setWord w ix x)).done .ok := by
  have ho : opened s p w.writers ix = true := by unfold opened; rw [hp, Bool.true_or]
  rw [cmdWrite, if_pos hi, writeWord]
  simp only [ho, hp, hro, hx, hr, Bool.not_true, Bool.false_and, Bool.or_self, Bool.false_eq_true, if_false]

/-- PHASE of UPD is read-only, and no field that a write reaches stands over it. -/
theorem upd_phase_writeFields (old v mask : Word) : bitsOf (writeFields .LK_UPD old v mask (CW.fields .LK_UPD) old) 54 52 = bitsOf old 54 52 := by
  have rp (hi lo : Nat) (new : Word) (h : 54 < lo) (hl : lo ≤ hi) (hh : hi < 64) :
      bitsOf (writeField .LK_UPD old v mask ⟨hi, lo, .rp, 0, false, none⟩ new) 54 52 = bitsOf new 54 52 := by
    simp only [writeField]
    split
    · rfl
    · exact bitsOf_setBits_below _ hl hh (by decide) h _
  simp only [CW.fields, writeFields]
  have ro (hi lo : Nat) (new : Word) : writeField .LK_UPD old v mask ⟨hi, lo, .ro, 0, false, none⟩ new = new := rfl
  rw [ro, ro, rp _ _ _ (by decide) (by decide) (by decide), rp _ _ _ (by decide) (by decide) (by decide), rp _ _ _ (by decide) (by decide) (by decide),
    rp _ _ _ (by decide) (by decide) (by decide)]

section
variable {p : Prog} {u : State} {k : Nat}

/-- HANDOVER.GO at the active Lookout, with the other in service and STEADY. -/
theorem handoverGo_of (hk : k < 2) (ha : k = u.activeLookout) (hp : p.privileged = true) (hh : u.boot.handover = .idle) (hup : (1 - k) ∈ u.boot.lookoutUp)
    (hd : dieState u (1 - k) = 0) :
    ∃ q : State, cmdField p LK_HANDOVER.GO [k] 1 u = q.done .ok ∧ q.boot = { u.boot with handover := .planned u.now, seqRuns := false } := by
  have hr (x : Word) : refusesWrite .LK_HANDOVER [k] (setBits (0 : Word) 63 63 1) (fldMask LK_HANDOVER.GO) u (u.setWord .LK_HANDOVER [k] x) = false :=
    bne_eq_false_iff_eq.2 ha
  refine ⟨_, cmdWrite_ok hp (handover_inRange hk) rfl rfl (hr _), ?_⟩
  generalize writeFields .LK_HANDOVER _ _ _ _ _ = x
  have hhit : hit (setBits (0 : Word) 63 63 1) (fldMask LK_HANDOVER.GO) LK_HANDOVER.GO = some 1 := by decide
  have hgo : afterWrite .LK_HANDOVER [k] (setBits (0 : Word) 63 63 1) (fldMask LK_HANDOVER.GO) u (u.setWord .LK_HANDOVER [k] x) = handoverGo (u.setWord .LK_HANDOVER [k] x) :=
    Eq.trans (b := if hit (setBits (0 : Word) 63 63 1) (fldMask LK_HANDOVER.GO) LK_HANDOVER.GO = some 1 then handoverGo (u.setWord .LK_HANDOVER [k] x)
      else u.setWord .LK_HANDOVER [k] x) rfl (if_pos hhit)
  have hact : (u.setWord .LK_HANDOVER [k] x).activeLookout = k := by
    rw [State.activeLookout, State.fget, State.word_setWord_ne _ _ _ _ (by show CW.addr .LK_HANDOVER [0] ≠ CW.addr .LK_BOOT [0]; decide)]
    exact ha.symm
  have hdie : dieState (u.setWord .LK_HANDOVER [k] x) (1 - k) = 0 := by
    rw [dieState, State.fget, State.word_setWord_ne _ _ _ _ (by simp only [CW.addr, CW.place, CW.home, dotIx]; omega)]
    exact hd
  have hserves : (lookoutServes (u.setWord .LK_HANDOVER [k] x) (1 - k) && dieState (u.setWord .LK_HANDOVER [k] x) (1 - k) == dieSteady) = true := by
    rw [hdie, lookoutServes, State.setWord_boot, List.contains_iff_mem.2 hup]
    rfl
  rw [show afterWrite LK_HANDOVER.GO.w [k] (setBits (0 : Word) LK_HANDOVER.GO.hi LK_HANDOVER.GO.lo 1) (fldMask LK_HANDOVER.GO) u (u.setWord LK_HANDOVER.GO.w [k] x) = _ from hgo]
  unfold handoverGo
  dsimp only
  rw [hact, otherLookout, if_neg (by rw [State.setWord_boot, hh]; exact not_not.2 rfl), if_pos hserves, startHandover]
  simp only [State.setWord_boot, State.setWord_now]

/-- UPD.GO at the active Lookout while an update runs answers BUSY. -/
theorem updateGo_busy (hk : k < 2) (ha : k = u.activeLookout) (hp : p.privileged = true) (hph : u.fget LK_UPD.PHASE [0] ≠ 0) (dt i sl : Nat) :
    ∃ q : State, cmdFields p .LK_UPD [k] [(LK_UPD.GO, 1), (LK_UPD.DTYPE, dt), (LK_UPD.INDEX, i), (LK_UPD.SLOT, sl)] u = q.done .ok ∧ q.fget LK_UPD.RESULT [0] = 2 ∧
      q.boot = u.boot := by
  have hr (v mask x : Word) : refusesWrite .LK_UPD [k] v mask u (u.setWord .LK_UPD [k] x) = false := bne_eq_false_iff_eq.2 ha
  have hhit : hit (fields [(LK_UPD.GO, 1), (LK_UPD.DTYPE, dt), (LK_UPD.INDEX, i), (LK_UPD.SLOT, sl)])
      ([(LK_UPD.GO, 1), (LK_UPD.DTYPE, dt), (LK_UPD.INDEX, i), (LK_UPD.SLOT, sl)].foldl (fun (m : Word) (f : Fld × Nat) => m ||| fldMask f.1) 0) LK_UPD.GO = some 1 := by
    generalize hv : fields [(LK_UPD.GO, 1), (LK_UPD.DTYPE, dt), (LK_UPD.INDEX, i), (LK_UPD.SLOT, sl)] = v
    generalize hm : ([(LK_UPD.GO, 1), (LK_UPD.DTYPE, dt), (LK_UPD.INDEX, i), (LK_UPD.SLOT, sl)].foldl (fun (m : Word) (f : Fld × Nat) => m ||| fldMask f.1) 0) = mask
    have hmask : bitsOf mask 63 63 = 1 := by
      subst hm
      simp only [List.foldl_cons, List.foldl_nil]
      decide
    have hval : bitsOf v 63 63 = 1 := by
      subst hv
      simp only [fields, List.foldl_cons, List.foldl_nil]
      rw [bitsOf_setBits_above _ (by decide) (by decide) (by decide), bitsOf_setBits_above _ (by decide) (by decide) (by decide),
        bitsOf_setBits_above _ (by decide) (by decide) (by decide), bitsOf_setBits _ (by decide) (by decide)]
      rfl
    have hand : bitsOf (v &&& mask) 63 63 = 1 := by
      rw [← beq_iff_eq, ← getLsbD_eq_bitsOf, BitVec.getLsbD_and, getLsbD_eq_bitsOf, getLsbD_eq_bitsOf, hmask, hval]
      rfl
    rw [hit, hmask, hand]
    rfl
  refine ⟨_, cmdWrite_ok hp (upd_inRange hk) rfl rfl (hr _ _ _), ?_⟩
  have hx := upd_phase_writeFields (u.word .LK_UPD [k]) (fields [(LK_UPD.GO, 1), (LK_UPD.DTYPE, dt), (LK_UPD.INDEX, i), (LK_UPD.SLOT, sl)])
    ([(LK_UPD.GO, 1), (LK_UPD.DTYPE, dt), (LK_UPD.INDEX, i), (LK_UPD.SLOT, sl)].foldl (fun (m : Word) (f : Fld × Nat) => m ||| fldMask f.1) 0)
  generalize writeFields .LK_UPD _ _ _ _ _ = x at hx ⊢
  have hw (q : State) : q.word .LK_UPD [0] = q.word .LK_UPD [k] := by
    simp only [State.word, upd_inRange hk, upd_inRange (show 0 < 2 by decide), if_true]
    rfl
  have hphase : (u.setWord .LK_UPD [k] x).fget LK_UPD.PHASE [0] ≠ 0 := by
    rw [State.fget, hw, State.word_setWord _ (upd_inRange hk), hx, ← hw]
    exact hph
  have hgo : afterWrite .LK_UPD [k] (fields [(LK_UPD.GO, 1), (LK_UPD.DTYPE, dt), (LK_UPD.INDEX, i), (LK_UPD.SLOT, sl)])
      ([(LK_UPD.GO, 1), (LK_UPD.DTYPE, dt), (LK_UPD.INDEX, i), (LK_UPD.SLOT, sl)].foldl (fun (m : Word) (f : Fld × Nat) => m ||| fldMask f.1) 0) u (u.setWord .LK_UPD [k] x) =
      (u.setWord .LK_UPD [k] x).fset LK_UPD.RESULT [0] 2 := (if_pos hhit).trans (if_pos hphase)
  rw [hgo]
  exact ⟨State.fget_fset _ (f := LK_UPD.RESULT) rfl (by decide) (by decide) _, by simp only [State.fset_boot, State.setWord_boot]⟩

end

/-- Settles O18: updates by their command's branches, handovers by `handedOver_touches` and `failedOver_touches`, the loss by `loseActive_boot`, the writes of GO by `cmdWrite_ok`. -/
theorem updatesHandoversAndFailovers : Obligations.UpdatesHandoversAndFailovers := by
  intro s p t k beat dt i sl u
  refine ⟨fun up hup => ⟨fun hph => ?_, fun hph => ⟨?_, ?_⟩, fun hph => ⟨?_, ?_, ?_⟩⟩, fun t0 hh ho => ?_, fun hh => ⟨?_, ?_, ?_, ?_⟩, fun hph hact hh hb hn => ?_, fun hn => ?_,
    fun t0 a hh => ⟨fun hup => ?_, fun hup => ?_⟩, fun t0 a hh ha => ?_, fun t0 a hh ha => ?_, fun hk hph hup hrec hupd => ?_, fun hup => ?_, fun hk hp => ⟨?_, ?_⟩,
    fun hk ha hp hh hup hd => ?_, fun hk ha hp hph => ?_⟩
  · refine (whenever_true (beq_iff_eq.2 hph) ..).trans (congrArg (fun q => Host.Outcome.next (settle q)) ?_)
    show updateLoaded u = _
    unfold updateLoaded
    rw [hup]
  · show execUpdateSwitched t s = _
    unfold execUpdateSwitched
    dsimp only
    rw [show (s.upTo t).boot.update = some up from hup]
    exact whenever_true (beq_iff_eq.2 hph) ..
  · show execUpdateRevert t s = _
    unfold execUpdateRevert
    dsimp only
    rw [show (s.upTo t).boot.update = some up from hup]
    exact whenever_true (beq_iff_eq.2 hph) ..
  · exact whenever_false (beq_false_of_ne (by rw [show (s.upTo t).fget LK_UPD.PHASE [0] = 0 from hph]; decide)) ..
  · show execUpdateSwitched t s = _
    unfold execUpdateSwitched
    dsimp only
    rw [show (s.upTo t).boot.update = some up from hup]
    exact whenever_false (beq_false_of_ne (by rw [show (s.upTo t).fget LK_UPD.PHASE [0] = 0 from hph]; decide)) ..
  · show execUpdateRevert t s = _
    unfold execUpdateRevert
    dsimp only
    rw [show (s.upTo t).boot.update = some up from hup]
    exact whenever_false (beq_false_of_ne (by rw [show (s.upTo t).fget LK_UPD.PHASE [0] = 0 from hph]; decide)) ..
  · have h := handedOver_touches u
    refine ⟨_, handoverDone_of hh ho, ?_, ?_, ?_, ?_, ?_⟩
    · rw [h.boot, tookOver_boot]
    · rw [h.boot, tookOver_boot]
    · rw [h.activeLookout fun e => e.1 rfl, tookOver_active]
    · rw [h.fget fun e => e.2 rfl, tookOver_last]
    · rw [h.claims, tookOver_claims]
  · show execHandoverDone t s = _
    unfold execHandoverDone
    dsimp only
    rw [show (s.upTo t).boot.handover = .idle from hh]
    rfl
  · show execFailoverResume t s = _
    unfold execFailoverResume
    dsimp only
    rw [show (s.upTo t).boot.handover = .idle from hh]
    rfl
  · show execFailoverEvents t s = _
    unfold execFailoverEvents
    dsimp only
    rw [show (s.upTo t).boot.handover = .idle from hh]
    rfl
  · show execFailoverAnswers t s = _
    unfold execFailoverAnswers
    dsimp only
    rw [show (s.upTo t).boot.handover = .idle from hh]
    rfl
  · have hb' := loseActive_boot beat u
    refine ⟨loseActive beat u, whenever_true ?_ .., by rw [hb'], by rw [hb'], by rw [hb']; simp, by rw [hb']; simp⟩
    dsimp only
    rw [show (s.upTo t).boot.handover = .idle from hh]
    have hs : lookoutServes u u.activeLookout = true := List.contains_iff_mem.2 hact
    simp only [Bool.and_eq_true, beq_iff_eq, decide_eq_true_eq]
    exact ⟨⟨⟨⟨hph, hs⟩, trivial⟩, hb⟩, hn⟩
  · refine whenever_false ?_ ..
    rw [Bool.and_eq_false_iff]
    exact Or.inr (decide_eq_false (Nat.not_le.2 hn))
  · show execFailoverResume t s = _
    unfold execFailoverResume
    dsimp only
    rw [show (s.upTo t).boot.handover = .lost t0 a from hh]
    exact whenever_true (List.contains_iff_mem.2 hup) ..
  · show execFailoverResume t s = _
    unfold execFailoverResume
    dsimp only
    rw [show (s.upTo t).boot.handover = .lost t0 a from hh]
    exact whenever_false (Bool.eq_false_iff.2 fun h => hup (List.contains_iff_mem.1 h)) ..
  · refine ⟨takeSources a (otherLookout a) { u with boot.handover := .events t0 a }, ?_, takeSources_boot .., fun n hn => ?_⟩
    · show execFailoverEvents t s = _
      unfold execFailoverEvents
      dsimp only
      rw [show (s.upTo t).boot.handover = .resumed t0 a from hh]
      rfl
    · have same (q : State) (j : Nat) : ({ q with boot.handover := .events t0 a } : State).fget EV_SRC_STATE.PENDING [j, n] = q.fget EV_SRC_STATE.PENDING [j, n] :=
        State.fget_of_ctl rfl ..
      exact (takeSources_pending (by unfold otherLookout; omega) (by unfold otherLookout; omega) _ hn).trans (by rw [same, same]; rfl)
  · have h := failedOver_touches a u
    have ho : otherLookout a < 2 := by unfold otherLookout; omega
    refine ⟨failedOver a u, ?_, ?_, ?_, ?_, ?_⟩
    · show execFailoverAnswers t s = _
      unfold execFailoverAnswers
      dsimp only
      rw [show (s.upTo t).boot.handover = .events t0 a from hh]
      rfl
    · rw [h.boot, becomeActiveLookout_boot]
    · exact (h.activeLookout fun e => e.1 rfl).trans (becomeActiveLookout_active ho ..)
    · exact (h.fget fun e => e.2 rfl).trans (becomeActiveLookout_last ho (by decide) _)
    · rw [h.boot, becomeActiveLookout_boot]
  · refine ⟨_, whenever_true ?_ .., ?_⟩
    · show (decide (k < 2) && u.boot.phase == .done && !lookoutServes u k && !u.boot.recovery.contains k) = true
      simp [hk, hph, lookoutServes, hup, hrec]
    · rw [show (s.upTo t).boot.update = none from hupd]
      exact lookoutBack_serves k _
  · refine whenever_false ?_ ..
    show (decide (k < 2) && u.boot.phase == .done && !lookoutServes u k && !u.boot.recovery.contains k) = false
    simp [lookoutServes, hup]
  · exact congrArg (fun q => Host.Outcome.next (settle q)) (cmdWrite_denied (upd_inRange hk) (opened_priv_false hp u _))
  · exact congrArg (fun q => Host.Outcome.next (settle q)) (cmdWrite_denied (handover_inRange hk) (opened_priv_false hp u _))
  · obtain ⟨q, hq, hb⟩ := handoverGo_of hk ha hp hh hup hd
    refine ⟨q.done .ok, congrArg (fun q => Host.Outcome.next (settle q)) hq, ?_, ?_, rfl⟩
    · rw [State.done_boot, hb]
    · rw [State.done_boot, hb]
  · obtain ⟨q, hq, hres, hb⟩ := updateGo_busy hk ha hp hph dt i sl
    exact ⟨q.done .ok, congrArg (fun q => Host.Outcome.next (settle q)) hq, (State.done_fget ..).trans hres, hb, rfl⟩

end Sys2Proof.Machine
end

section
/-! SUPPORT. Flits and link messages (O39): what a trailer holds, what sending a link message leaves. -/

namespace Sys2Proof.Machine

/-! Trailers (Table 03.5). -/

theorem crc64Bit_lt {c : Nat} (h : c < 2 ^ 64) : crc64Bit c < 2 ^ 64 := by
  unfold crc64Bit
  split
  · exact Nat.xor_lt_two_pow (Nat.mod_lt _ (by decide)) (by decide)
  · omega

theorem crc64Byte_lt {c : Nat} (h : c < 2 ^ 64) (b : Byte) : crc64Byte c b < 2 ^ 64 := by
  have hb := b.isLt
  have h0 : c ^^^ (b.toNat * 2 ^ 56) < 2 ^ 64 := Nat.xor_lt_two_pow h (by omega)
  unfold crc64Byte
  iterate 8 apply crc64Bit_lt
  exact h0

theorem crc64_lt (bs : List Byte) : crc64 bs < 2 ^ 64 := by
  have h : ∀ (bs : List Byte) (c : Nat), c < 2 ^ 64 → bs.foldl crc64Byte c < 2 ^ 64 := by
    intro bs
    induction bs with
    | nil =>
      intro c hc
      rwa [List.foldl_nil]
    | cons b bs ih =>
      intro c hc
      rw [List.foldl_cons]
      exact ih _ (crc64Byte_lt hc b)
  unfold crc64
  exact Nat.xor_lt_two_pow (h bs _ (Nat.sub_lt (Nat.two_pow_pos 64) Nat.one_pos)) (Nat.sub_lt (Nat.two_pow_pos 64) Nat.one_pos)

theorem boolNat_le (b : Bool) : boolNat b ≤ 1 := by cases b <;> decide

/-- FTYPE of a trailer that was put on the wire. -/
theorem Trailer.ofBits_bits_ftype (t : Trailer) (h : t.crc < 2 ^ 64) : (Trailer.ofBits t.bits).ftype = t.ftype % 16 := by
  have h1 := boolNat_le t.ackv
  have h2 := boolNat_le t.nak
  have h3 := boolNat_le t.keyph
  simp only [Trailer.ofBits, Trailer.bits, Trailer.high, natBits, BitVec.toNat_ofNat]
  omega

/-! Link messages (R141). -/

theorem State.lport_setLport_same (s : State) (lp : Nat) (p : Lport) : (s.setLport lp p).lport lp = p := SMap.get_set_self ..

theorem State.lport_setLport (s : State) (lp : Nat) (p : Lport) (k : Nat) : (s.setLport lp p).lport k = if lp = k then p else s.lport k := SMap.get_set ..

/-- What transmitting puts on the wire. -/
theorem transmit_out (lp : Nat) (f : Flit) (s : State) : ∃ b, (transmit lp f s).out = .flit lp f.slots b :: s.out ∧ (Trailer.ofBits b).ftype = f.ftype % 16 :=
  ⟨_, rfl, Trailer.ofBits_bits_ftype _ (crc64_lt _)⟩

/-- What transmitting leaves of its port. -/
theorem transmit_lport (lp : Nat) (f : Flit) (s : State) : let p := s.lport lp;
    (transmit lp f s).lport lp = { p with
      nakOwed := false, crTold := SMap.set 0 p.crTold p.crvNext (min (SMap.get 0 p.crGiven p.crvNext / 8) (SMap.get 0 p.crTold p.crvNext + 127)), crvNext := (p.crvNext + 1) % 5 } :=
  SMap.get_set_self ..

/-- Transmitting changes the link, the outputs and the totals alone. -/
theorem transmit_keeps (lp : Nat) (f : Flit) (s : State) :
    transmit lp f s = { s with link := (transmit lp f s).link, out := (transmit lp f s).out, mgmt := (transmit lp f s).mgmt } := rfl

/-- New flits of the port leave at once (R127, R128). -/
def hasRoom (s : State) (lp : Nat) : Prop :=
  (s.lport lp).pausedBy = false ∧ (s.lport lp).txBuf.length < bufferShare (s.modeOf lp) ∧ (s.lport lp).txWait = []

/-- The flit of a link message. -/
def linkFlit (lp type : Nat) (body : List Byte) (s : State) : Flit :=
  { seq := (s.lport lp).txNext, ftype := 2, keyph := false, slotmap := 0, slots := linkMsgSlots type body }

theorem sendLinkMsg_of_room {lp : Nat} {s : State} (h : hasRoom s lp) (type : Nat) (body : List Byte) : let p := s.lport lp;
    sendLinkMsg lp type body s = transmit lp (linkFlit lp type body s) (s.setLport lp { p with
      txNext := (p.txNext + 1) % 65536, txBuf := p.txBuf ++ [linkFlit lp type body s], ackAt := if p.txBuf = [] then s.now else p.ackAt }) := by
  obtain ⟨hp, hb, hw⟩ := h
  have hn : ¬ ((s.lport lp).pausedBy = true ∨ bufferShare (s.modeOf lp) ≤ (s.lport lp).txBuf.length ∨ (s.lport lp).txWait ≠ []) := by simp [hp, hw, hb]
  have hm : makeFlit lp 2 0 (linkMsgSlots type body) s = (linkFlit lp type body s, s) := by
    unfold makeFlit
    rw [if_neg (by simp)]
    rfl
  unfold sendLinkMsg sendSequenced
  dsimp only
  rw [if_neg hn, hm]

/-- A link message with room goes out at once, and changes the link, the outputs and the totals alone. -/
theorem sendLinkMsg_sent {lp : Nat} {s : State} (h : hasRoom s lp) (type : Nat) (body : List Byte) :
    (∃ b, (sendLinkMsg lp type body s).out = .flit lp (linkMsgSlots type body) b :: s.out ∧ (Trailer.ofBits b).ftype = 2) ∧
    sendLinkMsg lp type body s = { s with link := (sendLinkMsg lp type body s).link, out := (sendLinkMsg lp type body s).out, mgmt := (sendLinkMsg lp type body s).mgmt } ∧
    ((sendLinkMsg lp type body s).lport lp).keyNext = (s.lport lp).keyNext ∧ ((sendLinkMsg lp type body s).lport lp).keyRx = (s.lport lp).keyRx ∧
    ((sendLinkMsg lp type body s).lport lp).keySent = (s.lport lp).keySent := by
  rw [sendLinkMsg_of_room h]
  refine ⟨transmit_out .., (transmit_keeps ..).trans rfl, ?_⟩
  simp only [transmit_lport, State.lport_setLport_same, and_self]

theorem hasRoom_setLport {lp : Nat} {s : State} (h : hasRoom s lp) {p : Lport} (h1 : p.pausedBy = (s.lport lp).pausedBy) (h2 : p.txBuf = (s.lport lp).txBuf)
    (h3 : p.txWait = (s.lport lp).txWait) : hasRoom (s.setLport lp p) lp := by
  unfold hasRoom
  rw [State.lport_setLport_same, h1, h2, h3]
  exact h

theorem receiveHold_early {lp t0 : Nat} {s : State} (he : s.pw.entry = .check1 1 t0 ∨ s.pw.entry = .check2 1 t0) (h : s.now ≤ t0 + 10000) :
    receiveHold lp s = { s with pw.holds := if s.pw.holds.contains lp then s.pw.holds else lp :: s.pw.holds } := by
  unfold receiveHold
  rcases he with he | he <;> (rw [he]; exact if_pos h)

theorem receiveHold_late {lp t0 : Nat} {s : State} (he : s.pw.entry = .check1 1 t0 ∨ s.pw.entry = .check2 1 t0) (h : t0 + 10000 < s.now) : receiveHold lp s = s := by
  unfold receiveHold
  rcases he with he | he <;> (rw [he]; exact if_neg (Nat.not_le.2 h))

/-- An SPDM fragment in order (R145). -/
theorem receiveSpdm_inOrder {lp off : Nat} {s : State} (h : off = 0 ∨ off = (s.lport lp).spdm.length) (total : Nat) (bytes : List Byte) :
    let got := if off = 0 then bytes else (s.lport lp).spdm ++ bytes
    receiveSpdm lp off total bytes s = if off + bytes.length < total then s.setLport lp { s.lport lp with spdm := got }
      else { s.setLport lp { s.lport lp with spdm := [] } with link.spdmIn := s.link.spdmIn ++ [(lp, got.take total)] } := by
  have hg : (s.lport lp).spdm.take off ++ bytes = if off = 0 then bytes else (s.lport lp).spdm ++ bytes := by
    split
    · next h0 => rw [h0, List.take_zero, List.nil_append]
    · next h0 => rw [h.resolve_left h0, List.take_length]
  have hl : (if off = 0 then bytes else (s.lport lp).spdm ++ bytes).length = off + bytes.length := by
    split
    · next h0 => rw [h0, Nat.zero_add]
    · next h0 => rw [List.length_append, h.resolve_left h0]
  have ho : ¬ off ≠ (if off = 0 then 0 else (s.lport lp).spdm.length) := by
    rcases h with h | h <;> split <;> omega
  unfold receiveSpdm
  dsimp only
  rw [if_neg ho, hg, hl]

/-- Settles O39: each message's reaction, with the flit of an answer from what sending a link message leaves. -/
theorem linkMessagesHaveTheirEffects : Obligations.LinkMessagesHaveTheirEffects := by
  unfold Obligations.LinkMessagesHaveTheirEffects
  intro s t lp gen off total target bytes u p room
  refine ⟨fun he hr => ?_, fun he => ?_, fun hs => ?_, fun hs => ?_, fun hl ha he hs hr => ?_, fun h => ?_, fun ho => ⟨fun hlt => ?_, fun hle => ?_⟩, fun h0 h1 => ?_,
    fun ha => ?_, fun ha => ?_, fun t0 he => ⟨fun hn => ?_, fun hn => ?_⟩, fun he => ?_, rfl, rfl⟩
  · have hr' : hasRoom (u.setLport lp { p with keyNext := some gen }) lp := hasRoom_setLport hr rfl rfl rfl
    obtain ⟨⟨b, hout, hft⟩, hkeep, hnext, hrx, -⟩ := sendLinkMsg_sent hr' 7 (toBytesLE 4 gen)
    refine ⟨_, b, congrArg Host.Outcome.next (if_pos he), hout, hft, hnext.trans ?_, hrx.trans ?_, hkeep⟩ <;> rw [State.lport_setLport_same]
  · exact congrArg Host.Outcome.next (if_neg (by rw [he]; decide))
  · exact ⟨_, congrArg Host.Outcome.next (if_pos hs), rfl, State.lport_setLport_same .., fun k hk => (State.lport_setLport ..).trans (if_neg (Ne.symm hk))⟩
  · exact congrArg Host.Outcome.next (if_neg hs)
  · have hr' : hasRoom (u.setLport lp { p with keySent := some ((u.fget FR_SUB_STATUS.KEY_GEN (lpIx lp) + 1) % 2 ^ 32) }) lp := hasRoom_setLport hr rfl rfl rfl
    obtain ⟨⟨b, hout, -⟩, -, -, -, hsent⟩ := sendLinkMsg_sent hr' 6 (toBytesLE 4 ((u.fget FR_SUB_STATUS.KEY_GEN (lpIx lp) + 1) % 2 ^ 32))
    have hc : (u.lpActive lp && u.encrypted lp && p.keySent.isNone) = true := by simp [State.lpActive, ha, he, hs]
    refine ⟨sendKeySwitch lp u, b, whenever_true (decide_eq_true hl) .., ?_, ?_⟩
    · rw [sendKeySwitch, if_pos hc, hsent, State.lport_setLport_same]
    · rw [sendKeySwitch, if_pos hc, hout]
      rfl
  · by_cases hl : keyLife u lp ≤ p.groups
    · have hs := h.resolve_left (Nat.not_lt.2 hl)
      have hc : ¬ (u.lpActive lp && u.encrypted lp && p.keySent.isNone) = true := by simp [Option.isNone_eq_false_iff.2 hs]
      exact (whenever_true (decide_eq_true hl) ..).trans (congrArg Host.Outcome.next (if_neg hc))
    · exact whenever_false (decide_eq_false hl) ..
  · refine ⟨_, congrArg Host.Outcome.next ((receiveSpdm_inOrder ho total bytes).trans (if_pos hlt)), ?_, rfl⟩
    rw [State.lport_setLport_same]
  · refine ⟨_, congrArg Host.Outcome.next ((receiveSpdm_inOrder ho total bytes).trans (if_neg (Nat.not_lt.2 hle))), ?_, rfl⟩
    exact congrArg Lport.spdm (State.lport_setLport_same u lp { p with spdm := [] })
  · have ho : off ≠ (if off = 0 then 0 else p.spdm.length) := by rwa [if_neg h0]
    exact congrArg Host.Outcome.next (if_pos ho)
  · have hc : u.lpActive lp = true := beq_iff_eq.2 ha
    exact ⟨_, congrArg Host.Outcome.next (if_pos hc), State.lport_setLport_same .., rfl⟩
  · have hc : ¬ u.lpActive lp = true := fun h => ha (beq_iff_eq.1 h)
    exact congrArg Host.Outcome.next (if_neg hc)
  · refine ⟨_, congrArg Host.Outcome.next (receiveHold_early he hn), fun k => ?_, rfl⟩
    dsimp only
    split
    · next hm => exact ⟨Or.inr, fun h => h.elim (fun e => e ▸ List.contains_iff_mem.1 hm) id⟩
    · exact List.mem_cons
  · exact congrArg Host.Outcome.next (receiveHold_late he hn)
  · show Host.Outcome.next (receiveHold lp u) = _
    unfold receiveHold
    rw [he]

end Sys2Proof.Machine
end

section
/-! SUPPORT. Lanes and training (O37): what works on lanes leaves of the ports, and the parts of a training attempt. -/

namespace Sys2Proof.Machine

/-! Work on lanes: it leaves the ports, the modes, the sessions, and the words of ports and units. -/

/-- The addresses of event sources, spares, lanes, and of the blocks beyond FR. -/
def besidePorts (a : Nat) : Prop := (0x1020000 ≤ a ∧ a < 0x1100000) ∨ (0x1100000 ≤ a ∧ 0x100 ≤ a % 0x1000) ∨ 0x3000000 ≤ a

/-- From s to r only lanes, and words that are not a port's, may change of what training reads. -/
structure LaneWork (s r : State) : Prop where
  words : Touches besidePorts s r
  link : r.link = { s.link with lanes := r.link.lanes }
  now : r.now = s.now
  com : r.com = s.com

theorem not_besidePorts_sub {lp : Nat} (h : lp < 512) : ¬ besidePorts (CW.addr .FR_SUB_STATUS (lpIx lp)) := by
  simp only [besidePorts, CW.addr, CW.place, dotIx, lpIx]
  omega

theorem not_besidePorts_cnt {lp : Nat} (h : lp < 512) : ¬ besidePorts (CW.addr .FR_SUB_CNT_LINK (lpIx lp)) := by
  simp only [besidePorts, CW.addr, CW.place, dotIx, lpIx]
  omega

theorem not_besidePorts_cfg {lp : Nat} (h : lp < 512) : ¬ besidePorts (CW.addr .FR_PORT_CFG (ppIx lp)) := by
  simp only [besidePorts, CW.addr, CW.place, dotIx, ppIx]
  omega

theorem not_besidePorts_unit {lp : Nat} (h : lp < 512) : ¬ besidePorts (CW.addr .CM_UNIT [384 + lp / 4]) := by
  simp only [besidePorts, CW.addr, CW.place, dotIx]
  omega

theorem besidePorts_lane (l : Nat) : besidePorts (CW.addr .FR_LANE_STATUS (laneIx l)) := by
  simp only [besidePorts, CW.addr, CW.place, dotIx, laneIx]
  omega

theorem besidePorts_spare {l n : Nat} (h : CW.inRange .FR_SPARE (spareIx l n) = true) : besidePorts (CW.addr .FR_SPARE (spareIx l n)) := by
  simp only [CW.inRange, CW.place, fitsDims, spareIx, CW.named, Bool.and_eq_true, decide_eq_true_eq, and_true] at h
  simp only [besidePorts, CW.addr, CW.place, dotIx, spareIx]
  omega

namespace LaneWork
variable {s r q : State}

theorem refl (s : State) : LaneWork s s := ⟨Touches.refl s, rfl, rfl, rfl⟩

theorem trans (h : LaneWork s r) (h' : LaneWork r q) : LaneWork s q :=
  ⟨h.words.trans h'.words, h'.link.trans (congrArg (fun (x : LinkSt) => { x with lanes := q.link.lanes }) h.link), h'.now.trans h.now, h'.com.trans h.com⟩

theorem foldl {α : Type} {f : State → α → State} (hf : ∀ s e, LaneWork s (f s e)) (l : List α) (s : State) : LaneWork s (l.foldl f s) := by
  induction l generalizing s with
  | nil => exact refl s
  | cons e l ih => exact (hf s e).trans (ih _)

theorem fset (s : State) {f : Fld} {ix : List Nat} (v : Nat) (hw : f.w.inRange ix = true → besidePorts (f.w.addr (f.w.home ix))) : LaneWork s (s.fset f ix v) := by
  refine ⟨?_, by rw [State.fset_link], State.fset_now .., State.fset_com ..⟩
  by_cases h : f.w.inRange ix = true
  · exact Touches.fset s v (hw h)
  · rw [State.fset, State.setWord, if_neg h]
    exact Touches.refl s

theorem setLane (s : State) (l : Nat) (x : Lane) : LaneWork s (s.setLane l x) := ⟨Touches.of_eq rfl rfl rfl rfl, rfl, rfl, rfl⟩

theorem emit (s : State) (o : Output) : LaneWork s (s.emit o) := ⟨Touches.of_eq rfl rfl rfl rfl, rfl, rfl, rfl⟩

theorem ports (h : LaneWork s r) : r.link.ports = s.link.ports := by rw [h.link]

theorem lport (h : LaneWork s r) (lp : Nat) : r.lport lp = s.lport lp := by rw [State.lport, h.ports, State.lport]

theorem modeOf (h : LaneWork s r) (lp : Nat) : r.modeOf lp = s.modeOf lp := by rw [State.modeOf, h.link, State.modeOf]

theorem txOn (h : LaneWork s r) : r.link.txOn = s.link.txOn := by rw [h.link]

theorem sessions (h : LaneWork s r) : r.link.sessions = s.link.sessions := by rw [h.link]

theorem lpState (h : LaneWork s r) {lp : Nat} (hl : lp < 512) : r.lpState lp = s.lpState lp := h.words.fget (not_besidePorts_sub hl)

theorem cnt (h : LaneWork s r) {lp : Nat} (hl : lp < 512) : r.fget FR_SUB_CNT_LINK.TRAIN_FAIL (lpIx lp) = s.fget FR_SUB_CNT_LINK.TRAIN_FAIL (lpIx lp) :=
  h.words.fget (not_besidePorts_cnt hl)

theorem ppFld (h : LaneWork s r) {lp : Nat} (hl : lp < 512) {f : Fld} (hf : f.w = .FR_PORT_CFG) : r.fget f (ppIx lp) = s.fget f (ppIx lp) :=
  h.words.fget (by rw [hf]; exact not_besidePorts_cfg hl)

theorem unit (h : LaneWork s r) {lp : Nat} (hl : lp < 512) : r.fget CM_UNIT.STATE [384 + lp / 4] = s.fget CM_UNIT.STATE [384 + lp / 4] :=
  h.words.fget (not_besidePorts_unit hl)

end LaneWork

/-! Event sources change the words, the totals and the state of the event controller alone. -/

def OnlyEvents (s r : State) : Prop := r = { s with ctl := r.ctl, mgmt := r.mgmt, ecc := r.ecc }

theorem OnlyEvents.trans {s r q : State} (h : OnlyEvents s r) (h' : OnlyEvents r q) : OnlyEvents s q :=
  Eq.trans h' (congrArg (fun (x : State) => { x with ctl := q.ctl, mgmt := q.mgmt, ecc := q.ecc }) h)

theorem OnlyEvents.fset (s : State) (f : Fld) (ix : List Nat) (v : Nat) : OnlyEvents s (s.fset f ix v) := by
  unfold OnlyEvents State.fset State.setWord
  split <;> rfl

theorem OnlyEvents.addTotal (s : State) (k n : Nat) : OnlyEvents s (s.addTotal k n) := rfl

theorem OnlyEvents.setEvAux (s : State) (k n : Nat) (a : EvAux) : OnlyEvents s (s.setEvAux k n a) := rfl

theorem countEdge_onlyEvents (k n : Nat) (s : State) : OnlyEvents s (countEdge k n s) := by
  have counted (v : Nat) (a : EvAux) : OnlyEvents s (((s.fwrap EV_SRC_STATE.EDGES [k, n] 1).fset EV_SRC_STATE.ACC [k, n] v).setEvAux k n a) :=
    (((OnlyEvents.fset s ..).trans (.addTotal ..)).trans (.fset ..)).trans (.setEvAux ..)
  unfold countEdge
  dsimp only
  split
  · exact (counted _ _).trans (.fset ..)
  · exact counted _ _

theorem sampleSource_onlyEvents (k n : Nat) (level : Bool) (s : State) : OnlyEvents s (sampleSource k n level s) := by
  have h0 : OnlyEvents s (s.fset EV_SRC_STATE.RAW [k, n] (boolNat level)) := .fset ..
  have edge (c : Prop) [Decidable c] : OnlyEvents s (if c then countEdge k n (s.fset EV_SRC_STATE.RAW [k, n] (boolNat level)) else s.fset EV_SRC_STATE.RAW [k, n] (boolNat level)) := by
    split
    · exact h0.trans (countEdge_onlyEvents ..)
    · exact h0
  unfold sampleSource
  dsimp only
  split
  · exact h0.trans (.fset ..)
  · exact h0.trans (.fset ..)
  · exact edge _
  · exact edge _
  · exact edge _
  · exact h0

theorem pulse_onlyEvents (n : Nat) (s : State) : OnlyEvents s (pulse n s) :=
  ((sampleSource_onlyEvents 0 n true s).trans (sampleSource_onlyEvents 1 n true _)).trans ((sampleSource_onlyEvents 0 n false _).trans (sampleSource_onlyEvents 1 n false _))

/-! The operations on lanes. -/

theorem trainLane_work (l : Nat) (s : State) : LaneWork s (trainLane l s) := by
  have lane : ∀ {f : Fld}, f.w = .FR_LANE_STATUS → f.w.inRange (laneIx l) = true → besidePorts (f.w.addr (f.w.home (laneIx l))) := by
    intro f hf _
    rw [hf]
    exact besidePorts_lane l
  have h0 := ((LaneWork.setLane s l { s.lane l with taps := false, narrowAsked := false, restoreAsked := false }).trans
    (LaneWork.fset _ (f := FR_LANE_STATUS.PORT) (l % 64 / 4) (lane rfl))).trans (LaneWork.fset _ (f := FR_LANE_STATUS.POS) (l % 4) (lane rfl))
  unfold trainLane
  dsimp only
  refine LaneWork.trans ?_ (LaneWork.emit ..)
  split
  · exact h0.trans (LaneWork.fset _ (f := FR_LANE_STATUS.ROLE) 0 (lane rfl))
  · exact h0

theorem freeSpareLane_work (l n : Nat) (s : State) : LaneWork s (freeSpareLane l n s) :=
  ((LaneWork.fset s (f := FR_SPARE.STATE) 1 besidePorts_spare).trans (LaneWork.fset _ (f := FR_SPARE.LANE) 0x3F besidePorts_spare)).trans
    (LaneWork.fset _ (f := FR_SPARE.USE) 0 besidePorts_spare)

theorem abandonSwap_work (l : Nat) (s : State) : LaneWork s (abandonSwap l s) := by
  unfold abandonSwap
  dsimp only
  split
  · next n _ =>
    have h0 (x : Lane) := (LaneWork.setLane s l x).trans (freeSpareLane_work l n _)
    split
    · exact ((h0 _).trans (LaneWork.fset _ (f := FR_LANE_STATUS.RECAL_RESULT) 3 fun _ => besidePorts_lane l)).trans
        (LaneWork.fset _ (f := FR_LANE_STATUS.ROLE) 0 fun _ => besidePorts_lane l)
    · exact h0 _
  · exact LaneWork.setLane ..

theorem setPower_work (l code : Nat) (s : State) : LaneWork s (setPower l code s) := by
  have h0 := LaneWork.fset s (f := FR_LANE_STATUS.RXPWR) (min 100 code) fun _ => besidePorts_lane l
  unfold setPower
  dsimp only
  split
  · exact (h0.trans (LaneWork.setLane ..)).trans (LaneWork.fset _ (f := FR_LANE_STATUS.LOS) 0 fun _ => besidePorts_lane l)
  · split
    · exact (h0.trans (LaneWork.setLane ..)).trans (LaneWork.fset _ (f := FR_LANE_STATUS.LOS) 1 fun _ => besidePorts_lane l)
    · exact h0

theorem pulse_work {n : Nat} (h : n < 2048) (s : State) : LaneWork s (pulse n s) := by
  refine ⟨pulse_touches n s fun k hk => ?_, ?_, ?_, ?_⟩
  · simp only [besidePorts, CW.addr, CW.place, dotIx]
    omega
  all_goals rw [pulse_onlyEvents n s]

theorem fillTokens_work (lp : Nat) (s : State) : LaneWork s (fillTokens lp s) := by
  refine LaneWork.foldl (fun s k => ?_) ..
  unfold setTokens
  split
  · exact LaneWork.fset _ (f := SC_CLASS_STATE.TOKENS) _ fun _ => Or.inr (Or.inr (by simp only [CW.addr, CW.place]; omega))
  · exact LaneWork.fset _ (f := SC_PSTATE.PTOKENS) _ fun _ => Or.inr (Or.inr (by simp only [CW.addr, CW.place]; omega))

/-! A port that falls while it holds no work (R132). -/

theorem sub_inRange {lp : Nat} (h : lp < 512) : CW.inRange .FR_SUB_STATUS (lpIx lp) = true := by
  simp only [CW.inRange, CW.place, fitsDims, lpIx, CW.named, Bool.and_eq_true, decide_eq_true_eq, and_true]
  omega

theorem cntLink_inRange {lp : Nat} (h : lp < 512) : CW.inRange .FR_SUB_CNT_LINK (lpIx lp) = true := by
  simp only [CW.inRange, CW.place, fitsDims, lpIx, CW.named, Bool.and_eq_true, decide_eq_true_eq, and_true]
  omega

/-- A port without its session and its lane moves. -/
def swapsGivenUp (lp : Nat) (s : State) : State :=
  let s := if hasSession s lp then pulse 70 s else s
  (lpLanes (s.modeOf lp) lp).foldl (fun s l => abandonSwap l s) s

theorem swapsGivenUp_work (lp : Nat) (s : State) : LaneWork s (swapsGivenUp lp s) := by
  have h0 : LaneWork s (if hasSession s lp then pulse 70 s else s) := by
    split
    · exact pulse_work (by decide) s
    · exact LaneWork.refl s
  exact h0.trans (LaneWork.foldl (fun s l => abandonSwap_work l s) ..)

section
variable {lp : Nat} {s : State}

/-- The words of a port after its status and its dropped flits are written: STATE as written, and the count of failed trainings as before. -/
theorem statusWritten_reads (hl : lp < 512) {st : Nat} (hst : st < 8) (n : Nat) (s : State) :
    let q := (((s.fadd FR_SUB_CNT_DROP.DROPPED (lpIx lp) n).fset FR_SUB_STATUS.STATE (lpIx lp) st).fset FR_SUB_STATUS.WIDTH (lpIx lp) 0).fset FR_SUB_STATUS.ENC (lpIx lp) 0
    q.lpState lp = st ∧ q.fget FR_SUB_CNT_LINK.TRAIN_FAIL (lpIx lp) = s.fget FR_SUB_CNT_LINK.TRAIN_FAIL (lpIx lp) := by
  have hr := sub_inRange hl
  have hne : CW.addr .FR_SUB_STATUS (lpIx lp) ≠ CW.addr .FR_SUB_CNT_LINK (lpIx lp) := by
    simp only [CW.addr, CW.place]
    omega
  have hdrop : CW.addr .FR_SUB_CNT_DROP (lpIx lp) ≠ CW.addr .FR_SUB_CNT_LINK (lpIx lp) := by
    simp only [CW.addr, CW.place]
    omega
  have total (q : State) (k n : Nat) : (q.addTotal k n).fget FR_SUB_CNT_LINK.TRAIN_FAIL (lpIx lp) = q.fget FR_SUB_CNT_LINK.TRAIN_FAIL (lpIx lp) := State.fget_of_ctl rfl ..
  constructor
  · rw [State.lpState, State.fget_fset_other _ (f := FR_SUB_STATUS.ENC) (g := FR_SUB_STATUS.STATE) rfl (by decide) (by decide) (by decide) (by decide),
      State.fget_fset_other _ (f := FR_SUB_STATUS.WIDTH) (g := FR_SUB_STATUS.STATE) rfl (by decide) (by decide) (by decide) (by decide),
      State.fget_fset _ (f := FR_SUB_STATUS.STATE) hr (by decide) (by decide)]
    exact Nat.mod_eq_of_lt hst
  · have keep {f : Fld} (hf : CW.addr f.w (f.w.home (lpIx lp)) ≠ CW.addr .FR_SUB_CNT_LINK (lpIx lp)) (q : State) (v : Nat) :
        (q.fset f (lpIx lp) v).fget FR_SUB_CNT_LINK.TRAIN_FAIL (lpIx lp) = q.fget FR_SUB_CNT_LINK.TRAIN_FAIL (lpIx lp) := State.fget_fset_ne _ _ _ _ hf
    rw [keep (f := FR_SUB_STATUS.ENC) hne, keep (f := FR_SUB_STATUS.WIDTH) hne, keep (f := FR_SUB_STATUS.STATE) hne, State.fadd, total,
      keep (f := FR_SUB_CNT_DROP.DROPPED) hdrop]

/-- A port that holds no work falls: its state as named, its record reset. -/
theorem linkFalls_idle (hl : lp < 512) {st : Nat} (hst : st < 8) (hp : portHolds s lp = false) (ev : Bool) : let q := linkFalls ev lp st s
    q.lpState lp = st ∧ q.lport lp = .reset ∧ q.now = s.now ∧ q.fget FR_SUB_CNT_LINK.TRAIN_FAIL (lpIx lp) = s.fget FR_SUB_CNT_LINK.TRAIN_FAIL (lpIx lp) := by
  have hw := swapsGivenUp_work lp s
  have hq : linkFalls ev lp st s = { (((((swapsGivenUp lp s).fadd FR_SUB_CNT_DROP.DROPPED (lpIx lp) (s.lport lp).txBuf.length).fset FR_SUB_STATUS.STATE (lpIx lp) st).fset
      FR_SUB_STATUS.WIDTH (lpIx lp) 0).fset FR_SUB_STATUS.ENC (lpIx lp) 0).setLport lp .reset with
        link.sessions := (((((swapsGivenUp lp s).fadd FR_SUB_CNT_DROP.DROPPED (lpIx lp) (s.lport lp).txBuf.length).fset FR_SUB_STATUS.STATE (lpIx lp) st).fset
      FR_SUB_STATUS.WIDTH (lpIx lp) 0).fset FR_SUB_STATUS.ENC (lpIx lp) 0).link.sessions.filter fun x => x != lp } := by
    unfold linkFalls
    dsimp only
    rw [hp]
    rfl
  have reset (q : State) (l : List Nat) (f : Fld) : ({ q.setLport lp .reset with link.sessions := l } : State).fget f (lpIx lp) = q.fget f (lpIx lp) := State.fget_of_ctl rfl ..
  have port (q : State) (l : List Nat) : ({ q.setLport lp .reset with link.sessions := l } : State).lport lp = .reset := State.lport_setLport_same q lp .reset
  have now (q : State) (l : List Nat) : ({ q.setLport lp .reset with link.sessions := l } : State).now = q.now := rfl
  obtain ⟨hs, hc⟩ := statusWritten_reads hl hst (s.lport lp).txBuf.length (swapsGivenUp lp s)
  simp only [hq]
  refine ⟨(reset ..).trans hs, port .., ?_, (reset ..).trans (hc.trans (hw.cnt hl))⟩
  rw [now, State.fset_now, State.fset_now, State.fset_now, State.fadd_now, hw.now]

/-- A failed attempt of a port that holds no work (R132). -/
theorem trainFails_idle (hl : lp < 512) (hp : portHolds s lp = false) : let q := trainFails lp s
    q.lpState lp = 0 ∧ (q.lport lp).retryAt = some (s.now + 1000000) ∧
    q.fget FR_SUB_CNT_LINK.TRAIN_FAIL (lpIx lp) = saturate 16 (s.fget FR_SUB_CNT_LINK.TRAIN_FAIL (lpIx lp) + 1) := by
  have total (q : State) (k n : Nat) (f : Fld) : (q.addTotal k n).fget f (lpIx lp) = q.fget f (lpIx lp) := State.fget_of_ctl rfl ..
  have port (q : State) (p : Lport) (f : Fld) : (q.setLport lp p).fget f (lpIx lp) = q.fget f (lpIx lp) := State.fget_of_ctl rfl ..
  have hcount : (s.fadd FR_SUB_CNT_LINK.TRAIN_FAIL (lpIx lp) 1).fget FR_SUB_CNT_LINK.TRAIN_FAIL (lpIx lp) = saturate 16 (s.fget FR_SUB_CNT_LINK.TRAIN_FAIL (lpIx lp) + 1) := by
    rw [State.fadd, total, State.fget_fset _ (f := FR_SUB_CNT_LINK.TRAIN_FAIL) (cntLink_inRange hl) (by decide) (by decide)]
    refine Nat.mod_eq_of_lt ?_
    show saturate 16 _ < 2 ^ 16
    unfold saturate
    omega
  have hstate : (s.fadd FR_SUB_CNT_LINK.TRAIN_FAIL (lpIx lp) 1).lpState lp = s.lpState lp := by
    rw [State.lpState, State.fadd, total]
    refine State.fget_fset_ne _ FR_SUB_CNT_LINK.TRAIN_FAIL _ _ ?_
    simp only [CW.addr, CW.place, CW.home]
    omega
  have hp' : portHolds (s.fadd FR_SUB_CNT_LINK.TRAIN_FAIL (lpIx lp) 1) lp = false := by
    rw [← hp, portHolds, portHolds, State.lpActive, State.lpActive, hstate, State.lport, State.lport, State.fadd_link]
  obtain ⟨h1, h2, h3, h4⟩ := linkFalls_idle hl (by decide : 0 < 8) hp' true
  refine ⟨(port ..).trans h1, ?_, (port ..).trans (h4.trans hcount)⟩
  unfold trainFails
  dsimp only
  rw [State.lport_setLport_same]
  exact congrArg (fun n => some (n + 1000000)) (h3.trans (State.fadd_now ..))

end

/-! An attempt starts. -/

theorem startTraining_starts {lp : Nat} (hl : lp < 512) {s : State} (hu : s.fget CM_UNIT.STATE [384 + lp / 4] ≠ 3) : let q := startTraining lp s
    q.lpState lp = 1 ∧ q.lport lp = { s.lport lp with trainAt := some s.now, eqDone := false, params := false, retryAt := none } ∧ q.modeOf lp = s.modeOf lp := by
  have hw := LaneWork.foldl (fun s l => trainLane_work l s) (lpLanes (s.modeOf lp) lp) s
  unfold startTraining
  dsimp only
  rw [if_neg hu]
  refine ⟨State.fget_fset _ (f := FR_SUB_STATUS.STATE) (sub_inRange hl) (by decide) (by decide) 1, ?_, ?_⟩
  · rw [State.lport, State.fset_link]
    exact (State.lport_setLport_same ..).trans (by rw [hw.now])
  · rw [State.modeOf, State.fset_link]
    exact hw.modeOf lp

end Sys2Proof.Machine
end

section
/-! SUPPORT. Training, its end and the SPDM session (O37). -/

namespace Sys2Proof.Machine

/-! Light on the lanes of a port. -/

section
variable {l code : Nat} {s : State}

theorem State.lane_setLane (s : State) (l : Nat) (x : Lane) (k : Nat) : (s.setLane l x).lane k = if l = k then x else s.lane k := SMap.get_set ..

theorem State.lane_fset (s : State) (f : Fld) (ix : List Nat) (v k : Nat) : (s.fset f ix v).lane k = s.lane k := by rw [State.lane, State.fset_link, State.lane]

/-- Power above the level lights a lane, and leaves the other lanes alone. -/
theorem setPower_lane (h : 24 < code) (k : Nat) : (setPower l code s).lane k = if l = k then { s.lane l with light := true } else s.lane k := by
  have hc : 24 < min 100 code := by omega
  unfold setPower
  dsimp only
  rw [if_pos hc, State.lane_fset, State.lane_setLane, State.lane_fset, State.lane_fset]

/-- With every power above the level, each lane of the list is lit, and no lane moves. -/
theorem setPowers_lanes {power : List Nat} (es : List (Nat × Nat)) (h : ∀ e ∈ es, 24 < power.getD e.1 0) (s : State) :
    let q := es.foldl (fun s (e : Nat × Nat) => setPower e.2 (power.getD e.1 0) s) s
    (∀ k, k ∈ es.map Prod.snd ∨ (s.lane k).light = true → (q.lane k).light = true) ∧ ∀ k, (q.lane k).onSpare = (s.lane k).onSpare := by
  induction es generalizing s with
  | nil => exact ⟨fun k hk => hk.resolve_left List.not_mem_nil, fun k => rfl⟩
  | cons e es ih =>
    have h1 := setPower_lane (l := e.2) (s := s) (h e List.mem_cons_self)
    obtain ⟨hl, ho⟩ := ih (fun e he => h e (List.mem_cons_of_mem _ he)) (setPower e.2 (power.getD e.1 0) s)
    refine ⟨fun k hk => hl k ?_, fun k => (ho k).trans ?_⟩
    · rw [List.map_cons, List.mem_cons] at hk
      rcases hk with (rfl | hk) | hk
      · exact Or.inr (by rw [h1, if_pos rfl])
      · exact Or.inl hk
      · refine Or.inr ?_
        rw [h1]
        split
        · rfl
        · exact hk
    · rw [h1]
      split
      · next e' => rw [e']
      · rfl

end

/-! A port reaches ACTIVE with no work kept (Table 03.9). -/

section
variable {lp : Nat} {s : State}

/-- A port of no agent tells no epoch (R571). -/
theorem notePort_quiet (ha : (portRole s.com.inForce lp).isAgent = false) : notePort lp s = s := by
  rw [notePort, ha, Bool.and_false, if_neg Bool.false_ne_true]

theorem becomeActive_new (hl : lp < 512) (hk : (s.lport lp).kept = none) (ha : (portRole s.com.inForce lp).isAgent = false) : let q := becomeActive lp s
    q.lpState lp = 3 ∧ q.fget FR_SUB_STATUS.WIDTH (lpIx lp) = modeWidth (s.modeOf lp) ∧
    q.lport lp = { s.lport lp with trainAt := none, kept := none, secureSince := none, activeAt := s.now, replayRuns := 0, pausedBy := false } ∧
    q.fget FR_SUB_STATUS.ENC (lpIx lp) = s.fget FR_SUB_STATUS.ENC (lpIx lp) ∧ q.fget FR_SUB_STATUS.KEY_GEN (lpIx lp) = s.fget FR_SUB_STATUS.KEY_GEN (lpIx lp) ∧
    q.link.sessions = s.link.sessions := by
  have hr := sub_inRange hl
  have hwidth : modeWidth (s.modeOf lp) < 8 := by
    unfold modeWidth
    split <;> decide
  let s1 := (s.fset FR_SUB_STATUS.STATE (lpIx lp) 3).fset FR_SUB_STATUS.WIDTH (lpIx lp) (modeWidth (s.modeOf lp))
  let p : Lport := { s.lport lp with trainAt := none, kept := none, secureSince := none, activeAt := s.now, replayRuns := 0, pausedBy := false }
  have hw := fillTokens_work lp (s1.setLport lp p)
  have port (q : State) (p : Lport) (f : Fld) : (q.setLport lp p).fget f (lpIx lp) = q.fget f (lpIx lp) := State.fget_of_ctl rfl ..
  have hsub {f : Fld} (hf : f.w = .FR_SUB_STATUS) : (fillTokens lp (s1.setLport lp p)).fget f (lpIx lp) = s1.fget f (lpIx lp) :=
    (hw.words.fget (by rw [hf]; exact not_besidePorts_sub hl)).trans (port ..)
  have hcom : (fillTokens lp (s1.setLport lp p)).com = s.com := by
    rw [hw.com]
    show s1.com = s.com
    rw [State.fset_com, State.fset_com]
  have hq : becomeActive lp s = fillTokens lp (s1.setLport lp p) := by
    rw [← notePort_quiet (s := fillTokens lp (s1.setLport lp p)) (by rw [hcom, ha])]
    unfold becomeActive
    simp only [hk, Option.isSome_none, Bool.false_eq_true, if_false, State.fset_now, s1, p]
  simp only [hq]
  refine ⟨?_, ?_, ?_, ?_, ?_, ?_⟩
  · rw [State.lpState, hsub rfl, State.fget_fset_other _ (f := FR_SUB_STATUS.WIDTH) (g := FR_SUB_STATUS.STATE) rfl (by decide) (by decide) (by decide) (by decide)]
    exact State.fget_fset _ (f := FR_SUB_STATUS.STATE) hr (by decide) (by decide) 3
  · rw [hsub rfl, State.fget_fset _ (f := FR_SUB_STATUS.WIDTH) hr (by decide) (by decide)]
    exact Nat.mod_eq_of_lt hwidth
  · rw [hw.lport, State.lport_setLport_same]
  · rw [hsub rfl, State.fget_fset_other _ (f := FR_SUB_STATUS.WIDTH) (g := FR_SUB_STATUS.ENC) rfl (by decide) (by decide) (by decide) (by decide),
      State.fget_fset_other _ (f := FR_SUB_STATUS.STATE) (g := FR_SUB_STATUS.ENC) rfl (by decide) (by decide) (by decide) (by decide)]
  · rw [hsub rfl, State.fget_fset_other _ (f := FR_SUB_STATUS.WIDTH) (g := FR_SUB_STATUS.KEY_GEN) rfl (by decide) (by decide) (by decide) (by decide),
      State.fget_fset_other _ (f := FR_SUB_STATUS.STATE) (g := FR_SUB_STATUS.KEY_GEN) rfl (by decide) (by decide) (by decide) (by decide)]
  · rw [hw.sessions]
    show s1.link.sessions = _
    rw [State.fset_link, State.fset_link]

/-- A good SPDM session with an anchored root makes the port ACTIVE and encrypted. -/
theorem sessionDone_good (hl : lp < 512) (hk : (s.lport lp).kept = none) (ha : (portRole s.com.inForce lp).isAgent = false) {d : List Word} (hd : anchored s d = true) :
    let q := sessionDone lp true (some d) s
    q.lpState lp = 3 ∧ q.fget FR_SUB_STATUS.ENC (lpIx lp) = 1 ∧ q.fget FR_SUB_STATUS.KEY_GEN (lpIx lp) = 0 ∧ (q.lport lp).keysHeld = true ∧ lp ∉ q.link.sessions := by
  have hr := sub_inRange hl
  let s0 : State := { s with link.sessions := s.link.sessions.filter fun x => x != lp }
  have hw : LaneWork s0 (pulse 70 s0) := pulse_work (by decide) s0
  let s1 := ((pulse 70 s0).fset FR_SUB_STATUS.ENC (lpIx lp) 1).fset FR_SUB_STATUS.KEY_GEN (lpIx lp) 0
  let p : Lport := { s1.lport lp with keysHeld := true, groups := 0, groupsRx := 0, keyRx := 0, keyNext := none, keyphTx := false, keyphRx := false }
  have port (q : State) (p : Lport) (f : Fld) : (q.setLport lp p).fget f (lpIx lp) = q.fget f (lpIx lp) := State.fget_of_ctl rfl ..
  have hlink : s1.link = (pulse 70 s0).link := by rw [State.fset_link, State.fset_link]
  have hport : s1.lport lp = s.lport lp := by
    rw [State.lport, hlink]
    exact hw.lport lp
  have hk' : ((s1.setLport lp p).lport lp).kept = none := by
    rw [State.lport_setLport_same]
    show (s1.lport lp).kept = none
    rw [hport, hk]
  have hcom : s1.com = s.com := by rw [State.fset_com, State.fset_com, hw.com]
  have ha' : (portRole (s1.setLport lp p).com.inForce lp).isAgent = false := by
    show (portRole s1.com.inForce lp).isAgent = false
    rw [hcom, ha]
  have hq : sessionDone lp true (some d) s = becomeActive lp (s1.setLport lp p) := by
    unfold sessionDone
    dsimp only
    rw [hd]
    rfl
  obtain ⟨h1, -, h3, h4, h5, h6⟩ := becomeActive_new hl hk' ha'
  simp only [hq]
  refine ⟨h1, h4.trans ((port ..).trans ?_), h5.trans ((port ..).trans ?_), ?_, ?_⟩
  · rw [State.fget_fset_other _ (f := FR_SUB_STATUS.KEY_GEN) (g := FR_SUB_STATUS.ENC) rfl (by decide) (by decide) (by decide) (by decide)]
    exact State.fget_fset _ (f := FR_SUB_STATUS.ENC) hr (by decide) (by decide) 1
  · exact State.fget_fset _ (f := FR_SUB_STATUS.KEY_GEN) hr (by decide) (by decide) 0
  · rw [h3, State.lport_setLport_same]
  · rw [h6]
    show lp ∉ s1.link.sessions
    rw [hlink, hw.sessions, List.mem_filter]
    simp

/-- A session that fails, or whose root has no anchor, fails the attempt. -/
theorem sessionDone_bad {good : Bool} {root : Option (List Word)} (h : good = false ∨ ∃ d, root = some d ∧ anchored s d = false) : sessionDone lp good root s = trainFails lp s := by
  unfold sessionDone
  dsimp only
  rcases h with rfl | ⟨d, rfl, hd⟩
  · exact if_neg (by simp)
  · exact if_neg (by simp [hd])

end

/-! Received power (R116). -/

/-- A port with MODE taken, where it may be, and the received powers read. -/
def powersRead (lp : Nat) (power : List Nat) (s : State) : State :=
  let ls := (lanesOf s lp).map (servingLane s)
  ((List.range ls.length).zip ls).foldl (fun s (e : Nat × Nat) => setPower e.2 (power.getD e.1 0) s) s

def modeTaken (lp : Nat) (s : State) : State := if portIdle s (lp / 4) then takeMode (lp / 4) s else s

theorem powersRead_work (lp : Nat) (power : List Nat) (s : State) : LaneWork s (powersRead lp power s) :=
  LaneWork.foldl (fun s (e : Nat × Nat) => setPower_work e.2 (power.getD e.1 0) s) _ s

theorem lightUp_eq (lp : Nat) (power : List Nat) (s : State) : let q := powersRead lp power (modeTaken lp s)
    lightUp lp power s = if (modeSubs (q.modeOf lp)).contains (lp % 4) && (q.lpState lp == 0 || q.lpState lp == 6) && !(q.lport lp).retryAt.any (fun r => decide (q.now < r)) &&
      portLight q lp && ppFld q FR_PORT_CFG.EN lp == 1 && SMap.get false q.link.txOn (lp / 4) then startTraining lp q else q := rfl

/-- With every power above the level, the port has light. -/
theorem powersRead_light {lp : Nat} {power : List Nat} {s : State} (h : ∀ i, i < modeWidth (s.modeOf lp) → 24 < power.getD i 0) : portLight (powersRead lp power s) lp = true := by
  let ls := (lanesOf s lp).map (servingLane s)
  have hlen : ls.length = modeWidth (s.modeOf lp) := by simp [ls, lanesOf, lpLanes]
  obtain ⟨hlit, hsp⟩ := setPowers_lanes (power := power) ((List.range ls.length).zip ls) (fun e he => h _ (by
    have := (List.of_mem_zip he).1
    rwa [List.mem_range, hlen] at this)) s
  have hserve (l : Nat) : servingLane (powersRead lp power s) l = servingLane s l := by
    unfold servingLane
    rw [powersRead, hsp]
  rw [portLight, List.all_eq_true, (powersRead_work lp power s).modeOf]
  intro l hm
  rw [hserve]
  refine hlit _ (Or.inl ?_)
  rw [List.map_snd_zip (by rw [List.length_range])]
  exact List.mem_map_of_mem hm

theorem modeTaken_idle {lp : Nat} {s : State} (h : portIdle s (lp / 4) = true) : (modeTaken lp s).modeOf lp = actingMode (s.fget FR_PORT_CFG.MODE (ppIx lp)) := by
  have hd : lp / 4 / 8 = lp / 32 := Nat.div_div_eq_div_mul lp 4 8
  rw [modeTaken, if_pos h, State.modeOf, takeMode, hd]
  exact SMap.get_set_self ..

theorem modeTaken_fget (lp : Nat) (s : State) (f : Fld) (ix : List Nat) : (modeTaken lp s).fget f ix = s.fget f ix := by
  unfold modeTaken
  split
  · exact State.fget_of_ctl rfl ..
  · rfl

theorem modeTaken_keeps (lp : Nat) (s : State) : (modeTaken lp s).link.ports = s.link.ports ∧ (modeTaken lp s).link.txOn = s.link.txOn ∧ (modeTaken lp s).now = s.now := by
  unfold modeTaken
  split <;> exact ⟨rfl, rfl, rfl⟩

section
variable {lp : Nat} {u : State}

/-- What an attempt of Table 03.9 starts from. -/
theorem trainingStart_starts {power : List Nat} (hl : lp < 512) (hen : u.fget FR_PORT_CFG.EN (ppIx lp) = 1) (htx : SMap.get false u.link.txOn (lp / 4) = true)
    (hu : u.fget CM_UNIT.STATE [384 + lp / 4] ≠ 3) (hs : u.lpState lp = 0) (hr : (u.lport lp).retryAt = none) (hi : portIdle u (lp / 4) = true)
    (hm : lp % 4 ∈ modeSubs (actingMode (u.fget FR_PORT_CFG.MODE (ppIx lp)))) (hp : ∀ i, i < modeWidth (actingMode (u.fget FR_PORT_CFG.MODE (ppIx lp))) → 24 < power.getD i 0) :
    ∃ q, lightUp lp power u = startTraining lp q ∧ q.now = u.now ∧ q.lport lp = u.lport lp ∧ q.modeOf lp = actingMode (u.fget FR_PORT_CFG.MODE (ppIx lp)) ∧
      q.fget CM_UNIT.STATE [384 + lp / 4] ≠ 3 := by
  obtain ⟨hports, htxOn, hnow⟩ := modeTaken_keeps lp u
  have hmode := modeTaken_idle hi
  have hw := powersRead_work lp power (modeTaken lp u)
  have hport : (powersRead lp power (modeTaken lp u)).lport lp = u.lport lp := by rw [hw.lport, State.lport, hports, State.lport]
  have hm' : (powersRead lp power (modeTaken lp u)).modeOf lp = actingMode (u.fget FR_PORT_CFG.MODE (ppIx lp)) := (hw.modeOf lp).trans hmode
  have hst : (powersRead lp power (modeTaken lp u)).lpState lp = 0 := (hw.lpState hl).trans ((modeTaken_fget ..).trans hs)
  have hen' : ppFld (powersRead lp power (modeTaken lp u)) FR_PORT_CFG.EN lp = 1 := (hw.ppFld hl rfl).trans ((modeTaken_fget ..).trans hen)
  refine ⟨powersRead lp power (modeTaken lp u), ?_, hw.now.trans hnow, hport, hm', fun h => hu (((modeTaken_fget ..).symm.trans (hw.unit hl).symm).trans h)⟩
  refine (lightUp_eq ..).trans (if_pos ?_)
  simp only [hm', hst, hport, hr, hen', hw.txOn, htxOn, htx, powersRead_light (lp := lp) (power := power) (s := modeTaken lp u) (by rw [hmode]; exact hp), Option.any_none]
  simpa using hm

/-- A disabled port reads its light and does not train. -/
theorem lightUp_disabled (hl : lp < 512) (power : List Nat) (hen : u.fget FR_PORT_CFG.EN (ppIx lp) = 0) :
    (lightUp lp power u).lpState lp = u.lpState lp ∧ (lightUp lp power u).link.ports = u.link.ports := by
  have hw := powersRead_work lp power (modeTaken lp u)
  have hen' : ppFld (powersRead lp power (modeTaken lp u)) FR_PORT_CFG.EN lp = 0 := (hw.ppFld hl rfl).trans ((modeTaken_fget ..).trans hen)
  have hq : lightUp lp power u = powersRead lp power (modeTaken lp u) := (lightUp_eq ..).trans (if_neg (by simp [hen']))
  rw [hq]
  exact ⟨(hw.lpState hl).trans (modeTaken_fget ..), hw.ports.trans (modeTaken_keeps lp u).1⟩

end

/-! PARAMS (R134). -/

section
variable {lp node mode : Nat} {enc : Bool} {credits : List Nat} {u : State}

/-- A table of the values that are not 0 reads as its function. -/
theorem SMap.get_map_nonzero (g : Nat → Nat) (l : List Nat) (a : Nat) :
    SMap.get 0 ((l.map fun n => (n, g n)).filter fun (e : Nat × Nat) => e.2 != 0) a = if a ∈ l then g a else 0 := by
  induction l with
  | nil => rfl
  | cons n l ih =>
    rw [List.map_cons, List.filter_cons]
    by_cases hn : n = a
    · subst hn
      by_cases hz : g n = 0
      · simp [hz, ih]
      · simp [hz, SMap.get]
    · have hm : a ∈ n :: l ↔ a ∈ l := by simp [Ne.symm hn]
      split
      · rw [SMap.get, if_neg hn, ih]
        simp only [hm]
      · rw [ih]
        simp only [hm]

/-- The credits of PARAMS: eight slots a unit. -/
theorem givenCredits_get {v : Nat} (hv : v < 5) :
    SMap.get 0 (((List.range 5).map fun v => (v, 8 * credits.getD v 0)).filter fun (e : Nat × Nat) => e.2 != 0) v = 8 * credits.getD v 0 := by
  rw [SMap.get_map_nonzero (fun v => 8 * credits.getD v 0), if_pos (List.mem_range.2 hv)]

theorem params_same (hl : lp < 512) (hs : u.lpState lp = 1) (he : (u.lport lp).eqDone = true) (hm : actingMode mode = u.modeOf lp) (hk : (u.lport lp).kept = none) :
    let q := receiveParams lp node mode enc credits u
    q.fget FR_SUB_STATUS.PARTNER (lpIx lp) = node % 2 ^ 16 ∧ (q.lport lp).params = true ∧ (q.lport lp).partnerEnc = enc ∧
    ∀ v, v < 5 → SMap.get 0 (q.lport lp).credits v = 8 * credits.getD v 0 := by
  have hc : ¬ (u.lpState lp ≠ 1 ∨ (!(u.lport lp).eqDone) = true) := by simp [hs, he]
  have hmode : ¬ actingMode mode ≠ (u.fset FR_SUB_STATUS.PARTNER (lpIx lp) node).modeOf lp := by
    rw [State.modeOf, State.fset_link]
    exact not_not.2 hm
  have port (q : State) (p : Lport) (f : Fld) : (q.setLport lp p).fget f (lpIx lp) = q.fget f (lpIx lp) := State.fget_of_ctl rfl ..
  unfold receiveParams
  dsimp only
  rw [if_neg hc, if_neg hmode, hk]
  refine ⟨(port ..).trans (State.fget_fset _ (f := FR_SUB_STATUS.PARTNER) (sub_inRange hl) (by decide) (by decide) node), ?_, ?_, fun v hv => ?_⟩
  · rw [State.lport_setLport_same]
  · rw [State.lport_setLport_same]
  · rw [State.lport_setLport_same]
    exact givenCredits_get hv

theorem params_other (hl : lp < 512) (hs : u.lpState lp = 1) (he : (u.lport lp).eqDone = true) (hm : actingMode mode ≠ u.modeOf lp) (hk : (u.lport lp).kept = none) :
    (receiveParams lp node mode enc credits u).lpState lp = 5 := by
  have hc : ¬ (u.lpState lp ≠ 1 ∨ (!(u.lport lp).eqDone) = true) := by simp [hs, he]
  have hmode : actingMode mode ≠ (u.fset FR_SUB_STATUS.PARTNER (lpIx lp) node).modeOf lp := by
    rw [State.modeOf, State.fset_link]
    exact hm
  have hst : (u.fset FR_SUB_STATUS.PARTNER (lpIx lp) node).lpState lp = 1 :=
    (State.fget_fset_other _ (f := FR_SUB_STATUS.PARTNER) (g := FR_SUB_STATUS.STATE) rfl (by decide) (by decide) (by decide) (by decide) _).trans hs
  have hp : portHolds (u.fset FR_SUB_STATUS.PARTNER (lpIx lp) node) lp = false := by
    rw [portHolds, State.lpActive, hst, State.lport, State.fset_link]
    show (_ || (u.lport lp).kept.isSome) = false
    rw [hk]
    rfl
  unfold receiveParams
  dsimp only
  rw [if_neg hc, if_pos hmode]
  exact (linkFalls_idle hl (by decide) hp true).1

end

/-! The end of training (Table 03.9). -/

section
variable {lp : Nat} {u : State}

theorem trainingDone_secures (hl : lp < 512) (hn : needsEnc u lp = true) (hk : (u.lport lp).keysHeld = false) : let q := trainingDone lp u
    q.lpState lp = 2 ∧ q.fget FR_SUB_STATUS.WIDTH (lpIx lp) = modeWidth (u.modeOf lp) ∧ q.link.sessions = u.link.sessions ++ [lp] := by
  have hr := sub_inRange hl
  have hwidth : modeWidth (u.modeOf lp) < 8 := by
    unfold modeWidth
    split <;> decide
  have port (q : State) (p : Lport) (l : List Nat) (f : Fld) : ({ q.setLport lp p with link.sessions := l } : State).fget f (lpIx lp) = q.fget f (lpIx lp) := State.fget_of_ctl rfl ..
  unfold trainingDone
  dsimp only
  rw [if_pos (by rw [hn, hk]; rfl)]
  refine ⟨(port ..).trans ?_, (port ..).trans ?_, ?_⟩
  · rw [State.fget_fset_other _ (f := FR_SUB_STATUS.WIDTH) (g := FR_SUB_STATUS.STATE) rfl (by decide) (by decide) (by decide) (by decide)]
    exact State.fget_fset _ (f := FR_SUB_STATUS.STATE) hr (by decide) (by decide) 2
  · rw [State.fget_fset _ (f := FR_SUB_STATUS.WIDTH) hr (by decide) (by decide)]
    exact Nat.mod_eq_of_lt hwidth
  · rw [State.fset_link, State.fset_link]

theorem trainingDone_clear (hn : needsEnc u lp = false) : trainingDone lp u = becomeActive lp u := by
  unfold trainingDone
  dsimp only
  exact if_neg (by simp [hn])

end

/-! Transmitter taps (R132). -/

section
variable {l lane : Nat} {u : State}

/-- A lane in training with its taps agreed. -/
def tapsAgreed (lane : Nat) (u : State) : State := u.setLane lane { u.lane lane with taps := true }

theorem tapsAgreed_all (l lane : Nat) (u : State) : ((lanesOf (tapsAgreed lane u) l).all fun x => ((tapsAgreed lane u).lane x).taps) = true ↔
    ∀ x, x ∈ lanesOf u l → x = lane ∨ (u.lane x).taps = true := by
  have hx (x : Nat) : ((tapsAgreed lane u).lane x).taps = true ↔ x = lane ∨ (u.lane x).taps = true := by
    rw [tapsAgreed, State.lane_setLane]
    by_cases h : lane = x
    · rw [if_pos h]
      exact ⟨fun _ => Or.inl h.symm, fun _ => rfl⟩
    · rw [if_neg h]
      exact ⟨Or.inr, fun e => e.resolve_left (Ne.symm h)⟩
  rw [List.all_eq_true]
  exact forall₂_congr fun x _ => hx x

/-- The answer of a lane's partner: the lane's taps, and PARAMS once every lane of the port has them. -/
theorem execEqAck_of {s : State} {t : Nat} (hu : s.upTo t = u) (ht : laneTrains u lane = true) (hl : laneLp u lane = some l) (he : (u.lport l).eqDone = false) :
    execEqAck t lane s = .next (if ((lanesOf (tapsAgreed lane u) l).all fun x => ((tapsAgreed lane u).lane x).taps) = true then
      sendParams l ((tapsAgreed lane u).setLport l { u.lport l with eqDone := true }) else tapsAgreed lane u) := by
  unfold execEqAck
  dsimp only
  rw [hu, hl]
  refine (whenever_true ht ..).trans (congrArg Host.Outcome.next ?_)
  have hport : ((tapsAgreed lane u).lport l).eqDone = false := he
  show (if (((lanesOf (tapsAgreed lane u) l).all fun x => ((tapsAgreed lane u).lane x).taps) && !((tapsAgreed lane u).lport l).eqDone) = true then _ else _) = _
  rw [hport, Bool.not_false, Bool.and_true]
  rfl

end

/-- PARAMS names what the words, the canopy and the modes say. -/
theorem sendParams_out {q u : State} (hc : q.ctl = u.ctl) (hm : q.com = u.com) (hl : q.link.modes = u.link.modes) (ho : q.out = u.out) (l : Nat) : (sendParams l q).out =
    .params l u.selfNode (u.modeOf l) (ownEnc u l) ((List.range 5).map fun v => vcCredit u (lpDie l) (lpClr u l) v) :: u.out := by
  have hf (f : Fld) (ix : List Nat) : q.fget f ix = u.fget f ix := State.fget_of_ctl hc ..
  have hclr : lpClr q l = lpClr u l := hf ..
  have henc : ownEnc q l = ownEnc u l := by simp only [ownEnc, ppFld, hf, hm, hclr]
  have hcred : (fun v => vcCredit q (lpDie l) (lpClr u l) v) = fun v => vcCredit u (lpDie l) (lpClr u l) v := by
    funext v
    simp only [vcCredit, hf]
  show Output.params l q.selfNode (q.modeOf l) (ownEnc q l) ((List.range 5).map fun v => vcCredit q (lpDie l) (lpClr q l) v) :: q.out = _
  rw [State.selfNode, hm, State.modeOf, hl, henc, hclr, hcred, ho]
  rfl

theorem laneTrains_false {s : State} {lane : Nat} (h : laneTrains s lane = false) (t : Nat) (s0 : State) (hs : s0.upTo t = s) : execEqAck t lane s0 = .next s := by
  unfold execEqAck
  dsimp only
  rw [hs]
  split
  · exact whenever_false h ..
  · rfl

/-- Settles O37: the parts of an attempt, each by what it leaves of the port's state and record. -/
theorem trainingFollowsItsSteps : Obligations.TrainingFollowsItsSteps := by
  unfold Obligations.TrainingFollowsItsSteps
  intro s t lp lane node mode enc power credits root u p cfg starts mayTrain fails
  have startsOf {q : State} (hl : lp < 512) (hnow : q.now = u.now) (hm : q.fget CM_UNIT.STATE [384 + lp / 4] ≠ 3) : starts (startTraining lp q) := by
    obtain ⟨h1, h2, -⟩ := startTraining_starts hl hm
    refine ⟨h1, ?_, ?_, ?_, ?_⟩ <;> rw [h2]
    rw [hnow]
  have idle {st : Nat} (hs : u.lpState lp = st) (hst : st ≠ 3) (hk : p.kept = none) : portHolds u lp = false := by
    have ha : u.lpActive lp = false := beq_eq_false_iff_ne.2 (hs ▸ hst)
    rw [portHolds, ha, show (u.lport lp).kept = none from hk]
    rfl
  refine ⟨fun hl => ⟨?_, fun hen => ?_, fun _ hs he hm hk => ?_, fun hs he hm hk => ?_, fun he => ?_, fun t0 hs ht => ⟨fun hn hk => ?_, fun hn => ?_⟩,
    fun r hs hr => ⟨fun hm hn hlit => ?_, fun hn => ?_⟩, fun t0 hs he hp ht => ⟨fun hn hne hkey => ?_, fun hn hne hk ha => ?_, fun hn => ?_⟩,
    fun hs hmem hk => ⟨?_, ?_, ?_⟩, fun hs => ?_⟩, fun ht => ⟨?_, fun l hl he => ?_⟩, fun ht => ⟨?_, ?_⟩, rfl⟩
  · rintro ⟨hen, htx, hu⟩ hs hr hi hm hp
    obtain ⟨q, hq, hnow, -, hmode, hq3⟩ := trainingStart_starts hl hen htx hu hs hr hi hm hp
    refine ⟨startTraining lp q, congrArg (fun q => Host.Outcome.next (settle q)) hq, startsOf hl hnow hq3, ?_⟩
    exact (startTraining_starts hl hq3).2.2.trans hmode
  · exact ⟨_, rfl, lightUp_disabled hl power hen⟩
  · exact ⟨_, rfl, params_same hl hs he hm hk⟩
  · exact ⟨_, rfl, params_other hl hs he hm hk⟩
  · exact congrArg (fun q => Host.Outcome.next (settle q)) (if_pos (Or.inr (by rw [show (u.lport lp).eqDone = false from he]; rfl)))
  · refine ⟨trainFails lp u, ?_, trainFails_idle hl (idle hs (by decide) hk)⟩
    unfold exec execTrainingStepFail
    dsimp only
    rw [show ((s.upTo t).lport lp).trainAt = some t0 from ht]
    refine whenever_true ?_ ..
    show (u.lpState lp == 1 && decide (t0 + 2000000 ≤ u.now)) = true
    simp [hs, hn]
  · unfold exec execTrainingStepFail
    dsimp only
    rw [show ((s.upTo t).lport lp).trainAt = some t0 from ht]
    refine whenever_false ?_ ..
    rw [Bool.and_eq_false_iff]
    exact Or.inr (decide_eq_false (Nat.not_le.2 hn))
  · obtain ⟨hen, htx, hu⟩ := hm
    refine ⟨startTraining lp u, ?_, startsOf hl rfl hu⟩
    unfold exec execTrainingRetry
    dsimp only
    rw [show ((s.upTo t).lport lp).retryAt = some r from hr]
    refine whenever_true ?_ ..
    have hen' : ppFld u FR_PORT_CFG.EN lp = 1 := hen
    show (u.lpState lp == 0 && decide (r ≤ u.now) && portLight u lp && ppFld u FR_PORT_CFG.EN lp == 1 && SMap.get false u.link.txOn (lp / 4)) = true
    simp [hs, hn, hlit, hen', htx]
  · unfold exec execTrainingRetry
    dsimp only
    rw [show ((s.upTo t).lport lp).retryAt = some r from hr]
    refine whenever_false ?_ ..
    show (u.lpState lp == 0 && decide (r ≤ u.now) && portLight u lp && ppFld u FR_PORT_CFG.EN lp == 1 && SMap.get false u.link.txOn (lp / 4)) = false
    simp [Nat.not_le.2 hn]
  · refine ⟨trainingDone lp u, whenever_true ?_ .., trainingDone_secures hl hne hkey⟩
    show (u.lpState lp == 1 && p.eqDone && p.params && p.trainAt.any fun t0 => decide (u.now ≤ t0 + 11000000)) = true
    simp [hs, he, hp, ht, hn]
  · obtain ⟨h1, h2, h3, -⟩ := becomeActive_new hl hk ha
    refine ⟨trainingDone lp u, whenever_true ?_ .., ?_⟩
    · show (u.lpState lp == 1 && p.eqDone && p.params && p.trainAt.any fun t0 => decide (u.now ≤ t0 + 11000000)) = true
      simp [hs, he, hp, ht, hn]
    · rw [trainingDone_clear hne]
      exact ⟨h1, h2, congrArg Lport.activeAt h3⟩
  · refine whenever_false ?_ ..
    show (u.lpState lp == 1 && p.eqDone && p.params && p.trainAt.any fun t0 => decide (u.now ≤ t0 + 11000000)) = false
    simp [ht, Nat.not_le.2 hn]
  · rintro ⟨d, rfl, hd⟩ ha
    refine ⟨sessionDone lp true (some d) u, whenever_true ?_ .., sessionDone_good hl hk ha hd⟩
    show (u.lpState lp == 2 && (u.link.sessions.take 32).contains lp) = true
    simp [hs, hmem]
  · rintro ⟨d, rfl, hd⟩
    refine ⟨sessionDone lp true (some d) u, whenever_true ?_ .., ?_⟩
    · show (u.lpState lp == 2 && (u.link.sessions.take 32).contains lp) = true
      simp [hs, hmem]
    · rw [sessionDone_bad (Or.inr ⟨d, rfl, hd⟩)]
      exact trainFails_idle hl (idle hs (by decide) hk)
  · refine ⟨sessionDone lp false root u, whenever_true ?_ .., ?_⟩
    · show (u.lpState lp == 2 && (u.link.sessions.take 32).contains lp) = true
      simp [hs, hmem]
    · rw [sessionDone_bad (Or.inl rfl)]
      exact trainFails_idle hl (idle hs (by decide) hk)
  · refine whenever_false ?_ ..
    rw [Bool.and_eq_false_iff]
    exact Or.inl (beq_eq_false_iff_ne.2 hs)
  · exact whenever_true ht ..
  · have hall := tapsAgreed_all l lane u
    refine ⟨_, execEqAck_of rfl ht hl he, ?_⟩
    by_cases hx : ∀ x, x ∈ lanesOf u l → x = lane ∨ (u.lane x).taps = true
    · rw [if_pos (hall.2 hx), if_pos hx]
      refine ⟨?_, ?_, sendParams_out rfl rfl rfl rfl l⟩
      · show ((tapsAgreed lane u).lane lane).taps = true
        rw [tapsAgreed, State.lane_setLane, if_pos rfl]
      · exact iff_of_true (congrArg Lport.eqDone (State.lport_setLport_same (tapsAgreed lane u) l { u.lport l with eqDone := true })) hx
    · rw [if_neg (fun h => hx (hall.1 h)), if_neg hx]
      refine ⟨?_, iff_of_false (fun h => ?_) hx, rfl⟩
      · rw [tapsAgreed, State.lane_setLane, if_pos rfl]
      · exact absurd ((show (u.lport l).eqDone = true from h).symm.trans he) (by decide)
  · exact whenever_false ht ..
  · exact laneTrains_false ht t s rfl

end Sys2Proof.Machine
end

section
/-! SUPPORT. Bytes, slots and lines: numbers and their bytes, slots and their bytes, and the bytes that T0 holds after a write (O41). -/

namespace Sys2Proof.Machine

/-! Numbers and their bytes. -/

theorem toBytesLE_length (n v : Nat) : (toBytesLE n v).length = n := by
  induction n generalizing v with
  | zero => rfl
  | succ n ih => rw [toBytesLE, List.length_cons, ih]

theorem ofBytesLE_toBytesLE (n v : Nat) : ofBytesLE (toBytesLE n v) = v % 256 ^ n := by
  induction n generalizing v with
  | zero => rw [toBytesLE, ofBytesLE, pow_zero, Nat.mod_one]
  | succ n ih =>
    rw [toBytesLE, ofBytesLE, ih, BitVec.toNat_ofNat, Nat.pow_succ' (m := 256)]
    exact Nat.mod_mul.symm

theorem toBytesLE_ofBytesLE (bs : List Byte) : toBytesLE bs.length (ofBytesLE bs) = bs := by
  induction bs with
  | nil => rfl
  | cons b bs ih =>
    have hb := b.isLt
    have hd : (b.toNat + 256 * ofBytesLE bs) / 256 = ofBytesLE bs := by omega
    rw [List.length_cons, toBytesLE, ofBytesLE, hd, ih]
    congr 1
    exact BitVec.eq_of_toNat_eq (by rw [BitVec.toNat_ofNat]; omega)

theorem ofBytesLE_lt (bs : List Byte) : ofBytesLE bs < 256 ^ bs.length := by
  induction bs with
  | nil => exact Nat.one_pos
  | cons b bs ih =>
    have hb := b.isLt
    rw [ofBytesLE, List.length_cons, Nat.pow_succ']
    omega

theorem ofBytesBE_eq (bs : List Byte) : ofBytesBE bs = ofBytesLE bs.reverse := by
  have h (l : List Byte) : l.foldr (fun b a => a * 256 + b.toNat) 0 = ofBytesLE l := by
    induction l with
    | nil => rfl
    | cons b l ih =>
      rw [List.foldr_cons, ih, ofBytesLE]
      omega
  rw [ofBytesBE, List.foldl_eq_foldr_reverse, h]

/-! Slots and lines. -/

/-- A slot holds its sixteen bytes (log 6). -/
theorem slotBytes_bytesSlot {bs : List Byte} (h : bs.length = 16) : slotBytes (bytesSlot bs) = bs := by
  have hlt : ofBytesBE bs < 2 ^ 128 := by
    rw [ofBytesBE_eq]
    exact (ofBytesLE_lt _).trans_le (by rw [List.length_reverse, h]; decide)
  rw [slotBytes, bytesSlot, h, Nat.sub_self, List.replicate_zero, List.append_nil, BitVec.toNat_ofNat, Nat.mod_eq_of_lt hlt, toBytesBE, ofBytesBE_eq]
  have hr : 16 = bs.reverse.length := by rw [List.length_reverse, h]
  rw [hr, toBytesLE_ofBytesLE, List.reverse_reverse]

theorem slotBytes_length (b : BitVec 128) : (slotBytes b).length = 16 := by rw [slotBytes, toBytesBE, List.length_reverse, toBytesLE_length]

theorem slotsBytes_length (xs : List (BitVec 128)) : (slotsBytes xs).length = xs.length * 16 := by
  induction xs with
  | nil => rfl
  | cons x xs ih =>
    rw [slotsBytes] at ih
    rw [slotsBytes, List.map_cons, List.flatten_cons, List.length_append, ih, slotBytes_length, List.length_cons]
    omega

theorem slotsBytes_bytesSlots (n : Nat) (bs : List Byte) (h : bs.length = n * 16) : slotsBytes (bytesSlots n bs) = bs := by
  induction n generalizing bs with
  | zero => rw [List.eq_nil_of_length_eq_zero (by omega : bs.length = 0)]; rfl
  | succ n ih =>
    have ih' := ih (bs.drop 16) (by rw [List.length_drop]; omega)
    rw [slotsBytes] at ih'
    rw [bytesSlots, slotsBytes, List.map_cons, List.flatten_cons, ih', slotBytes_bytesSlot (by rw [List.length_take]; omega), List.take_append_drop]

theorem bytesSlots_length (n : Nat) (bs : List Byte) : (bytesSlots n bs).length = n := by
  induction n generalizing bs with
  | zero => rfl
  | succ n ih => rw [bytesSlots, List.length_cons, ih]

theorem lineBytes_length (d : Line) : (lineBytes d).length = 64 := by
  rw [lineBytes, List.length_take, List.length_append, List.length_replicate]
  omega

theorem lineBytes_of_length {d : Line} (h : d.length = 64) : lineBytes d = d := by rw [lineBytes, ← h, List.take_left]

/-- A line travels in four slots. -/
theorem slotsOf_line (d : Line) : (slotsOf (lineBytes d)).length = 4 ∧ slotsBytes (slotsOf (lineBytes d)) = lineBytes d := by
  have h : ((lineBytes d).length + 15) / 16 = 4 := by rw [lineBytes_length]
  rw [slotsOf, h]
  exact ⟨bytesSlots_length .., slotsBytes_bytesSlots 4 _ (lineBytes_length d)⟩

theorem lineBytes_bytesLine_lineBytes (d : Line) : lineBytes (bytesLine (lineBytes d)) = lineBytes d :=
  (lineBytes_of_length (lineBytes_length (lineBytes d))).trans (lineBytes_of_length (lineBytes_length d))

/-! Bytes of a store. -/

theorem readBytes_length (m : Store) (a n : Nat) : (readBytes m a n).length = n := by
  induction n generalizing a with
  | zero => rfl
  | succ n ih => rw [readBytes, List.length_cons, ih]

theorem readBytes_getElem (m : Store) (a n i : Nat) (h : i < (readBytes m a n).length) : (readBytes m a n)[i] = SMap.get 0 m (a + i) := by
  induction n generalizing a i with
  | zero => exact absurd h (Nat.not_lt_zero _)
  | succ n ih =>
    cases i with
    | zero => rfl
    | succ i =>
      have hi : i < (readBytes m (a + 1) n).length := by
        rw [readBytes, List.length_cons] at h
        omega
      show (readBytes m (a + 1) n)[i] = _
      rw [ih (a + 1) i hi]
      congr 1
      omega

/-- Bytes of a longer range. -/
theorem readBytes_drop_take (m : Store) (a : Nat) {n k j : Nat} (h : k + j ≤ n) : ((readBytes m a n).drop k).take j = readBytes m (a + k) j := by
  refine List.ext_getElem ?_ fun i h1 h2 => ?_
  · rw [List.length_take, List.length_drop, readBytes_length, readBytes_length]
    omega
  · rw [List.getElem_take, List.getElem_drop, readBytes_getElem, readBytes_getElem, Nat.add_assoc]

/-- A write of a range in which only some bytes differ from those that stand: a read of those gives them, and every other byte stands. -/
theorem splice_writeBytes (m : Store) (a : Nat) {n k : Nat} {bs : List Byte} (h : k + bs.length ≤ n) :
    let r := writeBytes m a ((readBytes m a n).take k ++ bs ++ (readBytes m a n).drop (k + bs.length))
    readBytes r (a + k) bs.length = bs ∧ ∀ b, (b < a + k ∨ a + k + bs.length ≤ b) → SMap.get 0 r b = SMap.get 0 m b := by
  let l := (readBytes m a n).take k ++ bs ++ (readBytes m a n).drop (k + bs.length)
  have hk : ((readBytes m a n).take k).length = k := by rw [List.length_take, readBytes_length]; omega
  have hl : l.length = n := by
    rw [List.length_append, List.length_append, hk, List.length_drop, readBytes_length]
    omega
  have hkb : ((readBytes m a n).take k ++ bs).length = k + bs.length := by rw [List.length_append, hk]
  constructor
  · refine List.ext_getElem (readBytes_length ..) fun i h1 h2 => ?_
    rw [readBytes_getElem, Nat.add_assoc, get_writeBytes m a l (by omega), List.getElem_append_left (by omega), List.getElem_append_right (by omega)]
    congr 1
    omega
  · intro b hb
    by_cases hin : a ≤ b ∧ b < a + n
    · obtain ⟨i, rfl⟩ := Nat.exists_eq_add_of_le hin.1
      rw [get_writeBytes m a l (by omega)]
      rcases hb with hb | hb
      · rw [List.getElem_append_left (by omega), List.getElem_append_left (by omega), List.getElem_take, readBytes_getElem]
      · rw [List.getElem_append_right (by omega), List.getElem_drop, readBytes_getElem]
        congr 1
        omega
    · exact get_writeBytes_of_lt m a l (by omega)

end Sys2Proof.Machine
end

section
/-! SUPPORT. Requests of partners: arrival, the port's own refusals, the checks of a memory request, and its tier (O41). -/

namespace Sys2Proof.Machine

/-! Arrival (R151, R234). -/

/-- A transaction of the port's clearing passes landing at once. -/
structure LandsAtOnce (vc lp clr : Nat) (s : State) : Prop where
  active : s.lpState lp = 3
  ingress : s.pw.ingressStopped = false
  own : lpClr s lp = clr
  bound : clr ≠ 0xFF
  landing : landingHeld s lp = false
  first : queuedAt s.sched.held lp vc = false
  free : polOf s lp vc = none

theorem arrive_atOnce {vc lp clr : Nat} {s : State} (h : LandsAtOnce vc lp clr s) (slots : Nat) (a : Arrival) :
    arrive lp clr vc slots a s = takeArrival lp a (returnCredit lp vc slots s) := by
  have h1 : ¬ ((!s.lpActive lp) = true ∨ s.pw.ingressStopped = true) := by simp [State.lpActive, h.active, h.ingress]
  have h2 : ¬ (lpClr s lp = 0xFF ∨ clr ≠ lpClr s lp) := by simp [h.own, h.bound]
  have h3 : ¬ (landingHeld s lp = true ∨ queuedAt s.sched.held lp vc = true) := by simp [h.landing, h.first]
  unfold arrive
  rw [if_neg h1, if_neg h2, land]
  dsimp only
  rw [if_neg h3, h.free]
  rfl

theorem arrive_notActive {lp : Nat} {s : State} (h : s.lpState lp ≠ 3) (clr vc slots : Nat) (a : Arrival) : arrive lp clr vc slots a s = s := by
  have ha : s.lpActive lp = false := beq_eq_false_iff_ne.2 h
  exact if_pos (Or.inl (by rw [ha]; rfl))

theorem Passes.landsAtOnce {vc : Nat} {q : PortReq} {s : State} (h : Passes vc q s) : LandsAtOnce vc q.lp q.clr s :=
  ⟨h.active, h.ingress, h.clr.1, h.clr.2, h.landing.1, h.landing.2.1, h.landing.2.2⟩

/-- The requests that a port refuses whatever they ask for (R158, R170, R500). -/
def portRefuses (s : State) (lp tag : Nat) : Prop := portDenies s lp = true ∨ tagPending s lp tag = true ∨ quarantined s lp = true

theorem serveRequest_refused {q : PortReq} {s : State} (h : portRefuses s q.lp q.tag) (a : Ask) :
    serveRequest q.req q.lp a s = endReq (.port q.lp q.tag) q.clr q.epoch (lpDie q.lp) .denied [] false s := if_pos h

theorem serveRequest_mem {q : PortReq} {s : State} (h : ¬ portRefuses s q.lp q.tag) (k : TxnKind) (narrow : Bool) (pages : Nat) :
    serveRequest q.req q.lp (.mem k narrow pages) s = serveMem q.req k narrow pages (lpDie q.lp) s := if_neg h

theorem serveRequest_illFormed {q : PortReq} {s : State} (h : ¬ portRefuses s q.lp q.tag) (st : Status) : serveRequest q.req q.lp (.refused st) s =
    endReq (.port q.lp q.tag) q.clr q.epoch (lpDie q.lp) (if portRole s.com.inForce q.lp ≠ .trunk ∧ (s.mapAt q.epoch).isNone then .staleEpoch else st) [] false s := by
  refine (if_neg h).trans ?_
  show (if portRole s.com.inForce q.lp ≠ .trunk ∧ (s.mapAt q.epoch).isNone then endReq (.port q.lp q.tag) q.clr q.epoch (lpDie q.lp) .staleEpoch [] false s
    else endReq (.port q.lp q.tag) q.clr q.epoch (lpDie q.lp) st [] false s) = _
  split <;> rfl

theorem Passes.notRefused {vc : Nat} {q : PortReq} {s : State} (h : Passes vc q s) : ¬ portRefuses s q.lp q.tag := by
  rintro (h' | h' | h')
  · exact Bool.noConfusion (h.role.1.symm.trans h')
  · exact Bool.noConfusion (h.tag.symm.trans h')
  · exact Bool.noConfusion (h.spare.symm.trans h')

/-- The credit that a port gives back changes nothing that a request is checked against. -/
theorem returnCredit_refuses (lp vc n : Nat) (s : State) (lp' tag : Nat) : portRefuses (returnCredit lp vc n s) lp' tag = portRefuses s lp' tag := by
  have hf (f : Fld) (ix : List Nat) : (returnCredit lp vc n s).fget f ix = s.fget f ix := State.fget_of_ctl rfl ..
  simp only [portRefuses, portDenies, quarantined, tagPending, hf]
  rfl

theorem returnCredit_fget (lp vc n : Nat) (s : State) (f : Fld) (ix : List Nat) : (returnCredit lp vc n s).fget f ix = s.fget f ix := State.fget_of_ctl rfl ..

theorem returnCredit_mapAt (lp vc n : Nat) (s : State) (e : Nat) : (returnCredit lp vc n s).mapAt e = s.mapAt e := by
  have he : (returnCredit lp vc n s).epoch = s.epoch := returnCredit_fget ..
  simp only [State.mapAt, he, returnCredit_fget]
  rfl

/-- What a memory request of a partner that passes comes to. -/
theorem arriveReq_mem {vc : Nat} {q : PortReq} {s : State} {t : Nat} (h : Passes vc q (s.upTo t)) (slots : Nat) (k : TxnKind) (narrow : Bool) (pages : Nat) :
    arriveReq t vc slots q (.mem k narrow pages) s = .next (settle (serveMem q.req k narrow pages (lpDie q.lp) (returnCredit q.lp vc slots (s.upTo t)))) := by
  unfold arriveReq
  rw [arrive_atOnce h.landsAtOnce]
  have hn : ¬ portRefuses (returnCredit q.lp vc slots (s.upTo t)) q.lp q.tag := by
    rw [returnCredit_refuses]
    exact h.notRefused
  exact congrArg (fun q => Host.Outcome.next (settle q)) (serveRequest_mem hn k narrow pages)

theorem arriveReq_illFormed {vc : Nat} {q : PortReq} {s : State} {t : Nat} (h : Passes vc q (s.upTo t)) (slots : Nat) (st : Status) :
    arriveReq t vc slots q (.refused st) s = .next (settle (endReq (.port q.lp q.tag) q.clr q.epoch (lpDie q.lp)
      (if portRole (s.upTo t).com.inForce q.lp ≠ .trunk ∧ ((s.upTo t).mapAt q.epoch).isNone then .staleEpoch else st) [] false (returnCredit q.lp vc slots (s.upTo t)))) := by
  unfold arriveReq
  rw [arrive_atOnce h.landsAtOnce]
  have hn : ¬ portRefuses (returnCredit q.lp vc slots (s.upTo t)) q.lp q.tag := by
    rw [returnCredit_refuses]
    exact h.notRefused
  have hserve := serveRequest_illFormed hn st
  rw [returnCredit_mapAt] at hserve
  exact congrArg (fun q => Host.Outcome.next (settle q)) hserve

theorem arriveReq_refused {vc : Nat} {q : PortReq} {s : State} {t : Nat} (h : LandsAtOnce vc q.lp q.clr (s.upTo t)) (hr : portRefuses (s.upTo t) q.lp q.tag) (slots : Nat) (a : Ask) :
    arriveReq t vc slots q a s = .next (settle (endReq (.port q.lp q.tag) q.clr q.epoch (lpDie q.lp) .denied [] false (returnCredit q.lp vc slots (s.upTo t)))) := by
  unfold arriveReq
  rw [arrive_atOnce h]
  have hr' : portRefuses (returnCredit q.lp vc slots (s.upTo t)) q.lp q.tag := by
    rw [returnCredit_refuses]
    exact hr
  exact congrArg (fun q => Host.Outcome.next (settle q)) (serveRequest_refused hr' a)

theorem arriveReq_notActive {q : PortReq} {s : State} {t : Nat} (h : (s.upTo t).lpState q.lp ≠ 3) (vc slots : Nat) (a : Ask) :
    arriveReq t vc slots q a s = .next (settle (s.upTo t)) := congrArg (fun q => Host.Outcome.next (settle q)) (arrive_notActive h ..)

/-! The checks of a memory request (R176). -/

section
variable {q : PortReq} {s : State} {k : TxnKind} {pages : Nat} {m : Canopy} {w : Window} {p : Nat}

/-- A request of an epoch not in force. -/
theorem serveMem_stale (hr : portRole s.com.inForce q.lp ≠ .trunk) (hm : s.mapAt q.epoch = none) (k : TxnKind) (narrow : Bool) (pages die : Nat) :
    serveMem q.req k narrow pages die s = endReq (.port q.lp q.tag) q.clr q.epoch die .staleEpoch [] false s := by
  have ht : (srcRole s.com.inForce q.req.src == some Role.trunk) = false := beq_eq_false_iff_ne.2 fun h => hr (Option.some.inj h)
  unfold serveMem
  dsimp only
  rw [ht, if_neg Bool.false_ne_true, show s.mapAt q.req.epoch = none from hm]
  rfl

/-- A partner's request is translated through the windows of its clearing. -/
theorem translateReq_partner (hr : portRole m q.lp ≠ .trunk) (off n : Nat) (need : Right) : translateReq s m q.req off n need = translate m q.clr q.node off n need := by
  have ht : srcRole m q.req.src ≠ some .trunk := fun h => hr (Option.some.inj h)
  have hf : (q.req.fm = true) = False := by simp [PortReq.req]
  have hs : fromSlot s q.req.src = false := rfl
  unfold translateReq
  simp only [if_neg ht, hf, if_false, hs, Bool.false_and, Bool.false_eq_true]
  show (match translate m q.clr q.node off n need with
    | some (w, p) => some (w, p)
    | none => none) = _
  cases translate m q.clr q.node off n need <;> rfl

theorem serveMem_outside (hr : portRole s.com.inForce q.lp ≠ .trunk) (hm : s.mapAt q.epoch = some m) (hrm : portRole m q.lp ≠ .trunk)
    (hw : translate m q.clr q.node (rangeOf k (q.line * 64) pages).1 (rangeOf k (q.line * 64) pages).2 (needOf k) = none) (narrow : Bool) (die : Nat) :
    serveMem q.req k narrow pages die s = denyWindow q.req die s := by
  have ht : (srcRole s.com.inForce q.req.src == some Role.trunk) = false := beq_eq_false_iff_ne.2 fun h => hr (Option.some.inj h)
  unfold serveMem
  dsimp only
  rw [ht, if_neg Bool.false_ne_true, show s.mapAt q.req.epoch = some m from hm]
  dsimp only
  rw [translateReq_partner hrm, show q.req.line = q.line from rfl, hw]

/-- Where a kind of request may stand within its window (R163, R167, R177). -/
def standsWell (line : Nat) (w : Window) (p : Nat) : TxnKind → Prop
  | .gather rowl idx => rowsInside w (line * 64) p rowl idx = true
  | .atomic aop _ _ _ => aop < 8
  | .blkWr d => p % 256 + d.length * 16 ≤ 256
  | _ => True

/-- A request that reaches its window, and that its tier takes, is served there; a part-line write ends with SIZE. -/
theorem serveMem_reaches (hr : portRole s.com.inForce q.lp ≠ .trunk) (h : Reaches k pages q m w p s) (htier : tierTakes k w.tier = true) (hk : standsWell q.line w p k)
    (narrow : Bool) (die : Nat) :
    serveMem q.req k narrow pages die s = if narrow then endReq (.port q.lp q.tag) q.clr q.epoch die .size [] false s else serveTier q.req k w p die pages s := by
  have ht : (srcRole s.com.inForce q.req.src == some Role.trunk) = false := beq_eq_false_iff_ne.2 fun h => hr (Option.some.inj h)
  have hl : lapsed s (holderOf q.req.src) w.region = false := h.holder
  unfold serveMem
  dsimp only
  rw [ht, if_neg Bool.false_ne_true, show s.mapAt q.req.epoch = some m from h.map]
  dsimp only
  rw [translateReq_partner h.role, show q.req.line = q.line from rfl, h.window]
  dsimp only
  rw [if_neg]
  · rcases h.region with hreg | hreg <;> rw [hreg] <;> rfl
  · rw [htier, hl]
    cases k with
    | gather rowl idx => simpa [standsWell, rangeOf] using hk
    | atomic aop wd o c =>
      have : aop < 8 := hk
      interval_cases aop <;> simp [atomicOp]
    | blkWr d => simpa [standsWell] using fun _ => hk
    | _ => simp

end

/-! Service on T0 (R155, R174). -/

theorem Reaches.returned {k : TxnKind} {pages : Nat} {q : PortReq} {m : Canopy} {w : Window} {p : Nat} {s : State} (h : Reaches k pages q m w p s) (vc n : Nat) :
    Reaches k pages q m w p (returnCredit q.lp vc n s) := ⟨(returnCredit_mapAt ..).trans h.map, h.role, h.window, h.region, h.holder⟩

/-- A partner's request that passes its port and reaches its window is served on its tier. -/
theorem arriveReq_served {vc : Nat} {q : PortReq} {s : State} {t : Nat} (hp : Passes vc q (s.upTo t)) {k : TxnKind} {pages : Nat} {m : Canopy} {w : Window} {a : Nat}
    (hr : Reaches k pages q m w a (s.upTo t)) (htier : tierTakes k w.tier = true) (hk : standsWell q.line w a k) (slots : Nat) :
    arriveReq t vc slots q (.mem k false pages) s = .next (settle (serveTier q.req k w a (lpDie q.lp) pages (returnCredit q.lp vc slots (s.upTo t)))) := by
  rw [arriveReq_mem hp, serveMem_reaches (s := returnCredit q.lp vc slots (s.upTo t)) hp.role.2 (hr.returned vc slots) htier hk]
  rfl

section
variable {r : Req} {k : TxnKind} {w : Window} {s : State}

theorem serveTier_t0 (hw : w.tier = .t0) (hg : ∀ rowl idx, k ≠ .gather rowl idx) (hh : k ≠ .hint) (p die pages : Nat) :
    serveTier r k w p die pages s = serveT0 r k p die s := by
  unfold serveTier
  rw [hw]
  cases k with
  | gather rowl idx => exact absurd rfl (hg rowl idx)
  | hint => exact absurd rfl hh
  | _ => rfl

theorem tierTakes_t0 (k : TxnKind) : tierTakes k .t0 = true := rfl

/-- A read on T0 of clean bytes answers them. -/
theorem serveT0_load {off : Nat} (ho : t0Open off 64 = true) (hb : t0Bad s off 64 = false) (die : Nat) :
    serveT0 r .load off die s = endReq r.src r.clr r.epoch die .ok (readBytes s.fab.t0 off 64) false s := by
  exact (if_neg (by simp [kindLen, ho])).trans (if_neg (by simp [hb]))

theorem serveT0_blkRd {off n : Nat} (ho : t0Open off (n * 256) = true) (hb : t0Bad s off (n * 256) = false) (die : Nat) :
    serveT0 r (.blkRd n) off die s = endReq r.src r.clr r.epoch die .ok (readBytes s.fab.t0 off (n * 256)) false s := by
  exact (if_neg (by simp [kindLen, ho])).trans (if_neg (by simp [hb]))

theorem serveT0_pageRd {off : Nat} (ho : t0Open off 4096 = true) (hb : t0Bad s off 4096 = false) (die : Nat) :
    serveT0 r .pageRd off die s = endReq r.src r.clr r.epoch die .ok (readBytes s.fab.t0 off 4096) false s := by
  exact (if_neg (by simp [kindLen, ho])).trans (if_neg (by simp [hb]))

theorem serveT0_store {off : Nat} (d : Line) (ho : t0Open off 64 = true) (die : Nat) :
    serveT0 r (.store d) off die s = endReq r.src r.clr r.epoch die .ok [] false (t0Write off (lineBytes d) s) := by
  exact if_neg (by simp [kindLen, ho])

theorem serveT0_blkWr {off : Nat} (d : List (BitVec 128)) (ho : t0Open off (d.length * 16) = true) (die : Nat) :
    serveT0 r (.blkWr d) off die s = endReq r.src r.clr r.epoch die .ok [] false (t0Write off (slotsBytes d) s) := by
  exact if_neg (by simp [kindLen, ho])

theorem serveT0_atomic {off : Nat} (aop wd o c : Nat) (ho : t0Open off 64 = true) (hb : t0Bad s off 64 = false) (die : Nat) :
    serveT0 r (.atomic aop wd o c) off die s = endReq r.src r.clr r.epoch die .ok (atomicAnswer wd (readBytes s.fab.t0 off 64)) false
      (t0Write off (atomicLine aop wd o c (readBytes s.fab.t0 off 64)) s) := by
  exact (if_neg (by simp [kindLen, ho])).trans (if_neg (by simp [hb]))

theorem t0Write_t0 (off : Nat) (bs : List Byte) (s : State) : (t0Write off bs s).fab.t0 = writeBytes s.fab.t0 off bs := by
  unfold t0Write clearWords
  dsimp only
  split
  · rfl
  · rw [State.fset_fab]

/-- A write on T0 stores its bytes and no others. -/
theorem t0Write_wrote (off : Nat) (bs : List Byte) (s : State) :
    readBytes (t0Write off bs s).fab.t0 off bs.length = bs ∧
    ∀ b, (b < off ∨ off + bs.length ≤ b) → SMap.get 0 (t0Write off bs s).fab.t0 b = SMap.get 0 s.fab.t0 b := by
  rw [t0Write_t0]
  exact ⟨readBytes_writeBytes .., fun b hb => get_writeBytes_of_lt _ _ _ hb⟩

/-- An ATOMIC writes its word and no other byte. -/
theorem t0Write_atomic (off : Nat) {aop wd o c v : Nat} (hwd : wd < 8) (hv : atomicOp aop (ofBytesLE (readBytes s.fab.t0 (off + 8 * wd) 8)) o c = some v) :
    let r := t0Write off (atomicLine aop wd o c (readBytes s.fab.t0 off 64)) s
    readBytes r.fab.t0 (off + 8 * wd) 8 = toBytesLE 8 v ∧ ∀ b, (b < off + 8 * wd ∨ off + 8 * wd + 8 ≤ b) → SMap.get 0 r.fab.t0 b = SMap.get 0 s.fab.t0 b := by
  have hlen : (toBytesLE 8 v).length = 8 := toBytesLE_length ..
  have hline : atomicLine aop wd o c (readBytes s.fab.t0 off 64) =
      (readBytes s.fab.t0 off 64).take (8 * wd) ++ toBytesLE 8 v ++ (readBytes s.fab.t0 off 64).drop (8 * wd + (toBytesLE 8 v).length) := by
    rw [atomicLine, readBytes_drop_take _ _ (by omega : 8 * wd + 8 ≤ 64), hv, hlen]
    rfl
  obtain ⟨h1, h2⟩ := splice_writeBytes s.fab.t0 off (n := 64) (k := 8 * wd) (bs := toBytesLE 8 v) (by omega)
  simp only [t0Write_t0, hline]
  rw [hlen] at h1 h2
  rw [hlen]
  exact ⟨h1, h2⟩

theorem atomicAnswer_word (m : Store) (off : Nat) {wd : Nat} (hwd : wd < 8) :
    atomicAnswer wd (readBytes m off 64) = readBytes m (off + 8 * wd) 8 ++ List.replicate 8 0 := by
  rw [atomicAnswer, readBytes_drop_take _ _ (by omega : 8 * wd + 8 ≤ 64)]

theorem atomicOp_defined {aop : Nat} (h : aop < 8) (old o c : Nat) : ∃ v, atomicOp aop old o c = some v := by
  interval_cases aop <;> exact ⟨_, rfl⟩

/-- A GATHER on T0 of clean rows answers them in the order of the indices. -/
theorem serveTier_gather (hw : w.tier = .t0) {rowl p : Nat} {idx : List Nat} (hb : ∀ i, i ∈ idx → t0Bad s (p + i * ((rowl + 1) * 64)) ((rowl + 1) * 64) = false) (die pages : Nat) :
    serveTier r (.gather rowl idx) w p die pages s =
      endReq r.src r.clr r.epoch die .ok ((idx.map fun i => readBytes s.fab.t0 (p + i * ((rowl + 1) * 64)) ((rowl + 1) * 64)).flatten) false s := by
  let ps := (List.range idx.length).map fun i => (i * (rowl + 1) * 64, p + idx.getD i 0 * ((rowl + 1) * 64), (rowl + 1) * 64)
  have hbad : (ps.any fun q => t0Bad s q.2.1 q.2.2) = false := by
    rw [List.any_eq_false]
    intro e he
    obtain ⟨i, hi, rfl⟩ := List.mem_map.1 he
    have hi' := List.mem_range.1 hi
    dsimp only
    rw [List.getD_eq_getElem _ _ hi', hb _ (List.getElem_mem hi')]
    exact Bool.false_ne_true
  have hrows : ps.map (fun q => readBytes s.fab.t0 q.2.1 q.2.2) = idx.map fun i => readBytes s.fab.t0 (p + i * ((rowl + 1) * 64)) ((rowl + 1) * 64) := by
    rw [List.map_map]
    refine List.ext_getElem (by simp) fun i h1 h2 => ?_
    have hi : i < idx.length := by simpa using h2
    simp [hi]
  unfold serveTier
  rw [hw]
  show (if (ps.any fun q => t0Bad s q.2.1 q.2.2) = true then endReq r.src r.clr r.epoch die .poison [] false s
    else endReq r.src r.clr r.epoch die .ok ((ps.map fun q => readBytes s.fab.t0 q.2.1 q.2.2).flatten) false s) = _
  rw [hbad, hrows]
  rfl

/-- A HINT on T2 becomes the newest range of its clearing (R179). -/
theorem hint_newest (c node page count prio : Nat) (s : State) : let q := hint c node page count prio s
    q.fab.hints.head? = some { clr := c, node := node, page := page, count := count, prio := prio } ∧ (q.fab.hints.filter fun h => h.clr == c).length ≤ 64 ∧ q.fab.t0 = s.fab.t0 := by
  refine ⟨rfl, ?_, rfl⟩
  let h : HintRange := { clr := c, node := node, page := page, count := count, prio := prio }
  show ((((h :: s.fab.hints.filter fun x => x.clr == c).take 64) ++ s.fab.hints.filter fun x => x.clr != c).filter fun h => h.clr == c).length ≤ 64
  have hother : (s.fab.hints.filter fun x => x.clr != c).filter (fun h => h.clr == c) = [] := by
    rw [List.filter_filter]
    refine List.filter_eq_nil_iff.2 fun x _ => ?_
    simp
  rw [List.filter_append, hother, List.append_nil]
  exact (List.length_filter_le ..).trans (List.length_take_le ..)

end

end Sys2Proof.Machine
end

section
/-! SUPPORT. A request that leaves on a port (R171, R172, R178, R197), and the requests of partners (O41). -/

namespace Sys2Proof.Machine

/-! A new entry of a sparse map. -/

section
variable {α : Type}

theorem SMap.erase_of_absent {m : SMap α} {a : Nat} (h : ∀ e ∈ m, e.1 ≠ a) : SMap.erase m a = m := by
  induction m with
  | nil => rfl
  | cons e m ih =>
    obtain ⟨k, v⟩ := e
    rw [SMap.erase, if_neg (h (k, v) List.mem_cons_self), ih fun e he => h e (List.mem_cons_of_mem _ he)]

theorem SMap.any_insert (m : SMap α) (a : Nat) (v : α) (p : Nat × α → Bool) : (SMap.insert m a v).any p = (p (a, v) || m.any p) := by
  refine Bool.eq_iff_iff.2 ?_
  simp only [List.any_eq_true, Bool.or_eq_true, SMap.mem_insert]
  exact ⟨fun ⟨x, hx, hp⟩ => hx.elim (fun e => Or.inl (e ▸ hp)) fun hm => Or.inr ⟨x, hm, hp⟩, fun h => h.elim (fun hp => ⟨_, Or.inl rfl, hp⟩) fun ⟨x, hm, hp⟩ => ⟨x, Or.inr hm, hp⟩⟩

theorem SMap.filter_insert_of_not {m : SMap α} {a : Nat} {v : α} {p : Nat × α → Bool} (h : p (a, v) = false) : (SMap.insert m a v).filter p = m.filter p := by
  induction m with
  | nil => simp [SMap.insert, h]
  | cons e m ih =>
    obtain ⟨k, x⟩ := e
    rw [SMap.insert]
    split
    · simp [h]
    · rw [List.filter_cons, List.filter_cons, ih]

theorem SMap.length_insert (m : SMap α) (a : Nat) (v : α) : (SMap.insert m a v).length = m.length + 1 := by
  induction m with
  | nil => rfl
  | cons e m ih =>
    obtain ⟨k, x⟩ := e
    rw [SMap.insert]
    split
    · rfl
    · rw [List.length_cons, ih, List.length_cons]

end

/-! The lowest free tag (R171). -/

/-- Tags in use below n are at most as many as the requests out and the dead tags. -/
theorem usedTags_le {s : State} {lp n : Nat} (h : ∀ j, j < n → tagUsed s lp j = true) : n ≤ s.fab.txns.length + s.fab.deadTags.length := by
  let used := s.fab.txns.map (fun e => e.2.tag) ++ s.fab.deadTags.map (fun d => d.2.1)
  have hsub : List.range n ⊆ used := by
    intro j hj
    have hu := h j (List.mem_range.1 hj)
    rw [tagUsed, Bool.or_eq_true, List.any_eq_true, List.any_eq_true] at hu
    rcases hu with ⟨e, he, hp⟩ | ⟨d, hd, hp⟩
    · rw [Bool.and_eq_true, beq_iff_eq, beq_iff_eq] at hp
      exact List.mem_append_left _ (List.mem_map.2 ⟨e, he, hp.2⟩)
    · rw [Bool.and_eq_true, beq_iff_eq, beq_iff_eq] at hp
      exact List.mem_append_right _ (List.mem_map.2 ⟨d, hd, hp.2⟩)
  have hle := (List.nodup_range.subperm hsub).length_le
  rwa [List.length_range, List.length_append, List.length_map, List.length_map] at hle

theorem freeTag_of {s : State} {lp n : Nat} (hn : n < 8192) (hfree : tagUsed s lp n = false) (hlow : ∀ j, j < n → tagUsed s lp j = true) : freeTag s lp = some n := by
  have hle := usedTags_le hlow
  rw [freeTag, List.find?_range_eq_some]
  refine ⟨by simp [hn, hfree], List.mem_range.2 (by omega), fun j hj => by simp [hlow j hj]⟩

/-! A new T1 request leaves at once. -/

section
variable {x : Txn} {s : State} {lp n : Nat}

theorem addTxn_txns (hid : x.id = s.fab.nextTxn) (hnew : ∀ e, e ∈ s.fab.txns → e.1 < s.fab.nextTxn) : (s.addTxn x).fab.txns = SMap.insert s.fab.txns x.id x := by
  show SMap.insert (SMap.erase s.fab.txns x.id) x.id x = _
  rw [SMap.erase_of_absent fun e he => by have := hnew e he; omega]

theorem launch_sent (hh : portHolds s lp = true) (ht : freeTag s lp = some n) :
    launch x lp s = emitTxn { x with phase := .sent, lport := some lp, tag := n } lp (s.putTxn { x with phase := .sent, lport := some lp, tag := n }) := by
  unfold launch
  rw [if_pos hh, ht]

/-- The request out on its port under a tag. -/
def Txn.outOn (x : Txn) (lp n : Nat) : Txn := { x with counted := true, phase := .sent, lport := some lp, tag := n }

/-- The home sends on a request whose place, count and tag are free. -/
theorem routeTxn_t1 {lp n : Nat} (htier : x.tier = .t1) (hroute : routeOf ((s.mapAt x.epoch).getD s.com.inForce) x.clr x.node = some lp)
    (hspare : spareRefuses s x.src x.kind lp = false) (hcount : t1Count s x.clr < t1Limit s x.clr)
    (hhome : ∀ e, e ∈ s.fab.txns → x.id ≤ e.1 ∨ e.2.node ≠ x.node) (hh : portHolds s lp = true) (hn : n < 8192) (hfree : tagUsed s lp n = false)
    (hlow : ∀ j, j < n → tagUsed s lp j = true) : routeTxn x s = emitTxn (x.outOn lp n) lp (s.putTxn (x.outOn lp n)) := by
  have hconf : (s.fab.txns.any fun e => decide (e.1 < x.id) && holdsPlace e.2 && conflicts e.2 { x with counted := x.tier == .t1 }) = false := by
    refine List.any_eq_false.2 fun e he => ?_
    rcases hhome e he with h | h
    · simp [Nat.not_lt.2 h]
    · simp [conflicts, h]
  have hlim : ¬ (x.tier = .t1 ∧ (!x.counted) = true ∧ t1Limit s x.clr ≤ t1Count s x.clr) := fun h => absurd h.2.2 (Nat.not_le.2 hcount)
  unfold routeTxn
  rw [hroute]
  dsimp only
  rw [hspare, if_neg Bool.false_ne_true, if_neg hlim, hconf, if_neg Bool.false_ne_true]
  have hx : ({ x with counted := x.tier == .t1 } : Txn) = { x with counted := true } := by
    rw [htier]
    rfl
  exact (congrArg (fun y => launch y lp s) hx).trans (launch_sent hh (freeTag_of hn hfree hlow))

/-- A new request to T1, with no other of its node, room in its clearing's count and a tag free, leaves at once. -/
theorem startTxn_t1 (hid : x.id = s.fab.nextTxn) (hc : x.counted = false) (hport : x.lport = none) (htier : x.tier = .t1)
    (hroute : routeOf ((s.mapAt x.epoch).getD s.com.inForce) x.clr x.node = some lp) (hq : quarantined s lp = false) (hcount : t1Count s x.clr < t1Limit s x.clr)
    (hnew : ∀ e, e ∈ s.fab.txns → e.1 < s.fab.nextTxn ∧ e.2.node ≠ x.node) (hh : portHolds s lp = true) (hn : n < 8192) (hfree : tagUsed s lp n = false)
    (hlow : ∀ j, j < n → tagUsed s lp j = true) : startTxn x s = emitTxn (x.outOn lp n) lp ((s.addTxn x).putTxn (x.outOn lp n)) := by
  have htx := addTxn_txns hid fun e he => (hnew e he).1
  have hf (f : Fld) (ix : List Nat) : (s.addTxn x).fget f ix = s.fget f ix := State.fget_of_ctl rfl ..
  have hmap (e : Nat) : (s.addTxn x).mapAt e = s.mapAt e := by
    have he : (s.addTxn x).epoch = s.epoch := hf ..
    simp only [State.mapAt, he, hf]
    rfl
  have hquar : quarantined (s.addTxn x) lp = false := by
    rw [← hq]
    simp only [quarantined, hf]
  have hspare : spareRefuses (s.addTxn x) x.src x.kind lp = false := by rw [spareRefuses, hquar, Bool.false_and]
  have hcnt : t1Count (s.addTxn x) x.clr = t1Count s x.clr := by rw [t1Count, htx, SMap.filter_insert_of_not (by simp [hc]), t1Count]
  have hused (j : Nat) : tagUsed (s.addTxn x) lp j = tagUsed s lp j := by
    rw [tagUsed, htx, SMap.any_insert, hport]
    rfl
  have hhome (e : Nat × Txn) (he : e ∈ (s.addTxn x).fab.txns) : x.id ≤ e.1 ∨ e.2.node ≠ x.node := by
    rw [htx, SMap.mem_insert] at he
    rcases he with rfl | he
    · exact Or.inl le_rfl
    · exact Or.inr (hnew e he).2
  have hroute' : routeOf (((s.addTxn x).mapAt x.epoch).getD (s.addTxn x).com.inForce) x.clr x.node = some lp := (congrArg (fun m => routeOf (m.getD s.com.inForce) x.clr x.node) (hmap x.epoch)).trans hroute
  exact routeTxn_t1 htier hroute' hspare (hcnt ▸ hcount) hhome hh hn ((hused n).trans hfree) fun j hj => (hused j).trans (hlow j hj)

theorem putTxn_txn? (s : State) (x : Txn) : (s.putTxn x).txn? x.id = some x := by
  rw [State.txn?, State.putTxn, SMap.get?_put, if_pos rfl]

end

/-! What the commands ask (Tables 04.5, 04.6). -/

theorem askReq_line (d : Line) : askReq (slotsOf (lineBytes d)) = .mem (.store (bytesLine (lineBytes d))) false 0 := by
  obtain ⟨hl, hb⟩ := slotsOf_line d
  unfold askReq
  rw [hl, hb]
  rfl

theorem askReq_narrow {data : List (BitVec 128)} (h1 : 1 ≤ data.length) (h3 : data.length ≤ 3) : askReq data = .mem (.store []) true 0 := by
  unfold askReq
  obtain h | h | h : data.length = 1 ∨ data.length = 2 ∨ data.length = 3 := by omega
  all_goals
    rw [h]
    rfl

theorem askBulk_whole {data : List (BitVec 128)} (h0 : 0 < data.length) (h16 : data.length ≤ 16) (h4 : data.length % 4 = 0) : askBulk data = .mem (.blkWr data) false 0 := by
  have hn : ¬ (data = [] ∨ 16 < data.length) := by
    rintro (rfl | h)
    · exact absurd h0 (by decide)
    · omega
  rw [askBulk, if_neg hn, h4]
  rfl

theorem askGather_whole {rowl count : Nat} {data : List (BitVec 128)} (h : data.length = (count % 64 + 4) / 4) :
    askGather rowl (count % 64) data = .mem (.gather (rowl % 16) (gatherIdx (count % 64) data)) false 0 := by
  rw [askGather, if_pos h, Nat.mod_mod]

theorem askAtomic_words {aop wd o c : Nat} (ha : aop < 8) (hw : wd < 8) (ho : o < 2 ^ 64) (hc : c < 2 ^ 64) :
    askAtomic aop wd [bytesSlot (toBytesLE 8 (BitVec.ofNat 64 o).toNat ++ toBytesLE 8 (BitVec.ofNat 64 c).toNat)] = .mem (.atomic aop wd o c) false 0 := by
  have hob : (BitVec.ofNat 64 o).toNat = o := by rw [BitVec.toNat_ofNat, Nat.mod_eq_of_lt ho]
  have hcb : (BitVec.ofNat 64 c).toNat = c := by rw [BitVec.toNat_ofNat, Nat.mod_eq_of_lt hc]
  have hl (v : Nat) : (toBytesLE 8 v).length = 8 := toBytesLE_length ..
  have hslot : slotBytes (bytesSlot (toBytesLE 8 o ++ toBytesLE 8 c)) = toBytesLE 8 o ++ toBytesLE 8 c := slotBytes_bytesSlot (by rw [List.length_append, hl, hl])
  have hval {v : Nat} (hv : v < 2 ^ 64) : ofBytesLE (toBytesLE 8 v) = v := by
    rw [ofBytesLE_toBytesLE]
    exact Nat.mod_eq_of_lt (hv.trans_eq (by norm_num))
  unfold askAtomic
  dsimp only
  rw [hob, hcb, hslot, List.take_left' (hl o), List.drop_left' (hl o), hval ho, hval hc, Nat.mod_eq_of_lt (by omega : aop < 16), Nat.mod_eq_of_lt hw]

/-! The whole path of a partner's request. -/

theorem arriveReq_stale {vc : Nat} {q : PortReq} {s : State} {t : Nat} (hp : Passes vc q (s.upTo t)) (hm : (s.upTo t).mapAt q.epoch = none) (slots : Nat) (k : TxnKind)
    (narrow : Bool) (pages : Nat) : arriveReq t vc slots q (.mem k narrow pages) s =
      .next (settle (endReq (.port q.lp q.tag) q.clr q.epoch (lpDie q.lp) .staleEpoch [] false (returnCredit q.lp vc slots (s.upTo t)))) := by
  rw [arriveReq_mem hp, serveMem_stale (s := returnCredit q.lp vc slots (s.upTo t)) hp.role.2 ((returnCredit_mapAt ..).trans hm)]

theorem serveTier_t1_load {r : Req} {w : Window} {s : State} (hw : w.tier = .t1) (p die pages : Nat) :
    serveTier r .load w p die pages s = startTxn (newTxn r .load w w.pnode p die s) s := by
  unfold serveTier
  rw [hw]

/-- A counter field after an addition. -/
theorem State.fget_fadd (s : State) {f : Fld} {ix : List Nat} (h : f.w.inRange ix = true) (hl : f.lo ≤ f.hi) (hh : f.hi < 64) (n : Nat) :
    (s.fadd f ix n).fget f ix = saturate (f.hi + 1 - f.lo) (s.fget f ix + n) := by
  have total (q : State) (k n : Nat) : (q.addTotal k n).fget f ix = q.fget f ix := State.fget_of_ctl rfl ..
  rw [State.fadd, total, State.fget_fset _ h hl hh]
  refine Nat.mod_eq_of_lt ?_
  have := Nat.two_pow_pos (f.hi + 1 - f.lo)
  unfold saturate
  omega

theorem returnCredit_portHolds (lp vc n : Nat) (s : State) (l : Nat) : portHolds (returnCredit lp vc n s) l = portHolds s l := by
  have hs : (returnCredit lp vc n s).lpState l = s.lpState l := returnCredit_fget ..
  have hk : ((returnCredit lp vc n s).lport l).kept = (s.lport l).kept := by
    unfold returnCredit
    rw [State.lport_setLport]
    split
    · next e => rw [e]
    · rfl
  rw [portHolds, portHolds, State.lpActive, State.lpActive, hs, hk]

/-- Settles O41: each request through landing, the port's refusals and the window checks to its tier. -/
theorem requestsOfPartnersAreServed : Obligations.RequestsOfPartnersAreServed := by
  unfold Obligations.RequestsOfPartnersAreServed
  intro s t q line aop word opd cmp len rowl count prio pages data m w a u back ans clean wrote idx row
  have hint_passes (hp : Passes vcReq q u) : Passes vcReq (hintReq prio q) u := ⟨hp.active, hp.ingress, hp.clr, hp.landing, hp.role, hp.tag, hp.spare⟩
  have hint_reaches (hr : Reaches .hint (pages % 2 ^ 24 + 1) q m w a u) : Reaches .hint (pages % 2 ^ 24 + 1) (hintReq prio q) m w a u :=
    ⟨hr.map, hr.role, hr.window, hr.region, hr.holder⟩
  refine ⟨fun hp => ⟨?_, ?_, ?_, ?_, ?_, ?_, fun hr => ⟨?_, ?_⟩, ?_, ?_, ?_, ?_⟩, fun hn => if_neg hn, fun hp => ⟨?_, ?_⟩, ?_, ?_⟩
  · rintro hr ⟨hw, ho, hb⟩
    have h := arriveReq_served hp hr (by rw [hw]; rfl) trivial 1
    rw [serveTier_t0 hw (by simp) (by simp), serveT0_load (s := back 1) ho hb] at h
    exact h
  · rintro hr ⟨hw, ho, hb⟩
    have h := arriveReq_served hp hr (by rw [hw]; rfl) trivial 2
    rw [serveTier_t0 hw (by simp) (by simp), serveT0_blkRd (s := back 2) ho hb] at h
    exact h
  · rintro hr ⟨hw, ho, hb⟩
    have h := arriveReq_served hp hr (by rw [hw]; rfl) trivial 2
    rw [serveTier_t0 hw (by simp) (by simp), serveT0_pageRd (s := back 2) ho hb] at h
    exact h
  · intro hr hw ho
    have h := arriveReq_served hp hr (by rw [hw]; rfl) trivial 5
    rw [serveTier_t0 hw (by simp) (by simp), serveT0_store (s := back 5) _ ho, lineBytes_bytesLine_lineBytes] at h
    refine ⟨t0Write a (lineBytes line) (back 5), ?_, t0Write_wrote a (lineBytes line) (back 5)⟩
    exact (congrArg (fun k => arriveReq t vcReq 5 q k s) (askReq_line line)).trans h
  · rintro ha hwd ho' hc hr ⟨hw, ho, hb⟩
    obtain ⟨v, hv⟩ := atomicOp_defined ha (ofBytesLE (readBytes u.fab.t0 (a + 8 * word) 8)) opd cmp
    have h := arriveReq_served hp hr (by rw [hw]; rfl) ha 3
    rw [serveTier_t0 hw (by simp) (by simp), serveT0_atomic (s := back 3) _ _ _ _ ho hb, atomicAnswer_word _ _ hwd] at h
    refine ⟨t0Write a (atomicLine aop word opd cmp (readBytes u.fab.t0 a 64)) (back 3), v, hv, ?_, t0Write_atomic (s := back 3) a hwd hv⟩
    exact (congrArg (fun k => arriveReq t vcReq 3 q k s) (askAtomic_words ha hwd ho' hc)).trans h
  · intro hlen hr hw hin hbad
    have h := arriveReq_served hp hr (by rw [hw]; rfl) hin (2 + data.length)
    rw [serveTier_gather (s := back (2 + data.length)) hw hbad] at h
    exact (congrArg (fun k => arriveReq t vcReq (2 + data.length) q k s) (askGather_whole hlen)).trans h
  · intro hw
    have h := arriveReq_served (hint_passes hp) (hint_reaches hr) (by rw [hw]; rfl) trivial 2
    refine ⟨hint w.clr w.pnode (a / 4096) (pages % 2 ^ 24 + 1) (prio % 4) (back 2), ?_, hint_newest ..⟩
    refine h.trans (congrArg (fun q => Host.Outcome.next (settle q)) ?_)
    unfold serveTier
    rw [hw]
    rfl
  · intro hw
    have h := arriveReq_served (hint_passes hp) (hint_reaches hr) (by cases w.tier <;> rfl) trivial 2
    refine h.trans (congrArg (fun q => Host.Outcome.next (settle q)) ?_)
    unfold serveTier
    cases ht : w.tier with
    | t2 => exact absurd ht hw
    | _ => rfl
  · intro h1 h3 hr hw
    have h := arriveReq_mem hp (1 + data.length) (.store []) true 0
    rw [serveMem_reaches (s := back (1 + data.length)) hp.role.2 (hr.returned ..) (by cases ht : w.tier with | t2 => exact absurd ht hw | _ => rfl) trivial true] at h
    exact (if_pos ⟨h1, h3⟩).trans ((congrArg (fun k => arriveReq t vcReq (1 + data.length) q k s) (askReq_narrow h1 h3)).trans h)
  · intro hr hw l n hroute hholds hquar hcount hnew hn hfree hlow
    have h := arriveReq_served hp hr (by rw [hw]; rfl) trivial 1
    rw [serveTier_t1_load hw] at h
    let x := newTxn q.req .load w w.pnode a (lpDie q.lp) (back 1)
    have hroute' : routeOf (((back 1).mapAt x.epoch).getD (back 1).com.inForce) x.clr x.node = some l := by
      rw [show (back 1).mapAt x.epoch = some m from (returnCredit_mapAt ..).trans hr.map]
      exact hroute
    have hquar' : quarantined (back 1) l = false := by
      rw [← hquar]
      simp only [quarantined, back, returnCredit_fget]
    have hstart := startTxn_t1 (x := x) (s := back 1) rfl rfl rfl hw hroute' hquar' hcount hnew ((returnCredit_portHolds ..).trans hholds) hn hfree hlow
    exact ⟨x.outOn l n, ((back 1).addTxn x).putTxn (x.outOn l n), h.trans (congrArg (fun q => Host.Outcome.next (settle q)) hstart), putTxn_txn? .., rfl, rfl, rfl, rfl, rfl, rfl, rfl, rfl, rfl⟩
  · intro hm c hc
    simp only [List.mem_cons, List.not_mem_nil, or_false] at hc
    rcases hc with rfl | rfl | rfl | rfl | rfl
    · exact ⟨back 1, arriveReq_stale hp hm .., rfl⟩
    · exact ⟨back 2, arriveReq_stale hp hm .., rfl⟩
    · exact ⟨back 2, arriveReq_stale hp hm .., rfl⟩
    · exact ⟨back 5, (congrArg (fun k => arriveReq t vcReq 5 q k s) (askReq_line line)).trans (arriveReq_stale hp hm ..), rfl⟩
    · exact ⟨back 2, arriveReq_stale (hint_passes hp) hm .., rfl⟩
  · intro m hm hrole hclr hnone
    have h := arriveReq_mem hp 1 .load false 0
    rw [serveMem_outside (k := .load) (pages := 0) (s := back 1) hp.role.2 ((returnCredit_mapAt ..).trans hm) hrole hnone] at h
    refine ⟨(back 1).fadd CM_CLR_TXN_ERR.DENIED_WINDOW [q.clr] 1, h, State.fadd_fab .., ?_⟩
    rw [State.fget_fadd _ (f := CM_CLR_TXN_ERR.DENIED_WINDOW) (by simp [CW.inRange, CW.place, fitsDims, CW.named, hclr]) (by decide) (by decide)]
    exact congrArg (fun n => saturate 16 (n + 1)) (returnCredit_fget ..)
  · intro hm
    have h := arriveReq_illFormed hp (2 + data.length) .denied
    rw [if_neg (by rintro ⟨-, h'⟩; exact hm (Option.isNone_iff_eq_none.1 h'))] at h
    exact ⟨_, h, rfl⟩
  · intro h0 h16 h4 hseg hr hw ho
    have h := arriveReq_served hp hr (by rw [hw]; rfl) hseg (1 + data.length)
    rw [serveTier_t0 hw (by simp) (by simp), serveT0_blkWr (s := returnCredit q.lp vcBulk (1 + data.length) u) _ ho] at h
    refine ⟨t0Write a (slotsBytes data) (returnCredit q.lp vcBulk (1 + data.length) u), ?_, t0Write_wrote a (slotsBytes data) _⟩
    exact (congrArg (fun k => arriveReq t vcBulk (1 + data.length) q k s) (askBulk_whole h0 h16 h4)).trans h
  · intro ha hi hc hb hl hq hpol hr
    exact arriveReq_refused ⟨ha, hi, hc, hb, hl, hq, hpol⟩ hr 1 _
  · intro hs c hc
    simp only [List.mem_cons, List.not_mem_nil, or_false] at hc
    rcases hc with rfl | rfl | rfl | rfl | rfl | rfl | rfl | rfl | rfl
    · exact arriveReq_notActive hs vcReq 1 _
    · exact arriveReq_notActive hs vcReq 2 _
    · exact arriveReq_notActive hs vcReq 2 _
    · exact arriveReq_notActive hs vcReq 5 _
    · exact arriveReq_notActive (q := hintReq prio q) hs vcReq 2 _
    · exact arriveReq_notActive hs vcBulk (2 + data.length) _
    · exact arriveReq_notActive hs vcBulk (1 + data.length) _
    · exact arriveReq_notActive hs vcReq (2 + data.length) _
    · exact arriveReq_notActive hs vcReq 3 _

end Sys2Proof.Machine
end

section
/-! SUPPORT. Responses, limits, and the writes of units (O42). -/

namespace Sys2Proof.Machine

/-! Responses (R169, R172). -/

section
variable {lp clr tag seg : Nat} {last : Bool} {data : List Byte} {x : Txn} {s : State}

/-- The request that a tag of a port names. -/
def namedBy (s : State) (lp tag : Nat) (x : Txn) : Prop := s.fab.txns.find? (fun e => e.2.lport == some lp && e.2.tag == tag) = some (x.id, x) ∧ x.ended = false

theorem response_bad (h : namedBy s lp tag x) {code : Nat} (hc : Status.ofCode code ≠ .ok) : response lp clr tag code seg last data s = endSent x (Status.ofCode code) s := by
  unfold response
  rw [h.1]
  dsimp only
  rw [if_neg (by simp [h.2]), if_pos hc]

theorem response_unknown (h : s.fab.txns.find? (fun e => e.2.lport == some lp && e.2.tag == tag) = none) (code : Nat) : response lp clr tag code seg last data s =
    ({ s with fab.deadTags := s.fab.deadTags.filter fun d => !(d.1 == lp && d.2.1 == tag) } : State).fadd CM_CLR_TXN_ERR.LATE_RSP [clr] 1 := by
  unfold response
  rw [h]

/-- A request with the data of a segment, and with its last segment heard. -/
def Txn.heard (x : Txn) (seg : Nat) (data : List Byte) : Txn := { x with got := if data = [] then x.got else (x.got.filter fun g => g.1 != seg) ++ [(seg, data)], last := true }

/-- The last segment of a request that needs no more ends it. -/
theorem response_last (h : namedBy s lp tag x) (hk : x.kind = .load ∨ x.kind = .blkRd 16 ∨ ∃ n, x.kind = .unitWr n) (hgot : segCount x.kind ≤ (x.heard seg data).got.length) :
    response lp clr tag 0 seg true data s = endSent (x.heard seg data) .ok s := by
  have hok : ¬ Status.ofCode 0 ≠ .ok := fun h => h rfl
  have hlen : segCount x.kind ≤ (if data = [] then x.got else (x.got.filter fun g => g.1 != seg) ++ [(seg, data)]).length := hgot
  unfold response
  rw [h.1]
  dsimp only
  rw [if_neg (by simp [h.2]), if_neg hok]
  rcases hk with hk | hk | ⟨n, hk⟩
  all_goals
    simp only [hk, Bool.or_true, Bool.false_or, Bool.true_and]
    rw [hk] at hlen
    rw [if_pos (by simp [hlen])]
    simp only [Txn.heard, hk, Bool.false_eq_true, or_false]

theorem spareProgress_noWrite (hk : ∀ d, x.kind ≠ .blkWr d) : spareProgress x s = s := by
  unfold spareProgress
  split
  · next h _ _ => exact absurd h (hk _)
  · rfl

/-- A request other than a unit write or an ATOMIC ends with what it holds. -/
theorem endSent_plain (hk : x.kind = .load ∨ x.kind = .blkRd 16) {st : Status} (hst : st ≠ .staleEpoch) : endSent x st s = endTxn x st (segData x) s := by
  have hs : (if st = .ok then spareProgress x s else s) = s := by
    split
    · exact spareProgress_noWrite fun d hd => by rcases hk with hk | hk <;> exact TxnKind.noConfusion (hk.symm.trans hd)
    · rfl
  unfold endSent
  rw [hs]
  dsimp only
  rw [if_neg fun h => hst h.1]
  rcases hk with hk | hk <;> simp only [hk]

theorem endSent_unitWr {n : Nat} (hk : x.kind = .unitWr n) : endSent x .ok s = unitEnded x .ok s := by
  have hs : spareProgress x s = s := spareProgress_noWrite fun d hd => TxnKind.noConfusion (hk.symm.trans hd)
  unfold endSent
  rw [if_pos rfl, hs]
  dsimp only
  rw [if_neg fun h => Status.noConfusion h.1]
  simp only [hk]

theorem unitEnded_of {e : UnitAsm} (h : s.fab.units.find? (fun a => a.sent == some x.id) = some e) (st : Status) : unitEnded x st s =
    let z := endWaiters st e.waiters { s.delTxn x.id with fab.units := s.fab.units.filter fun b => b.sent != some x.id }
    retryPages (z.fab.txns.map Prod.fst) z := by
  unfold unitEnded
  dsimp only
  rw [show (s.delTxn x.id).fab.units = s.fab.units from rfl, h]

end

theorem delTxn_txn? (s : State) (i j : Nat) : (s.delTxn i).txn? j = if i = j then none else s.txn? j := SMap.get?_erase ..

/-! Limits (R172). -/

section
variable {x : Txn} {s : State}

/-- A request that a limit may end, other than a note or a unit write, answers TIMEOUT. -/
theorem limitTxn_plain (hn : x.kind ≠ .epochNote) (hu : ∀ n, x.kind ≠ .unitWr n) (he : x.ended = false) : limitTxn x s =
    endReq x.src x.clr x.epoch x.die .timeout [] false (((deadTag x s).fadd CM_CLR_TXN_ERR.TIMEOUT [x.clr] 1).delTxn x.id) := by
  have ht : timeoutTxn x (deadTag x s) = endReq x.src x.clr x.epoch x.die .timeout [] false (((deadTag x s).fadd CM_CLR_TXN_ERR.TIMEOUT [x.clr] 1).delTxn x.id) := by
    have hst : (x.staged && (Status.timeout == Status.ok) && (x.tier == .t2)) = false := by
      rw [show (Status.timeout == Status.ok) = false from rfl, Bool.and_false, Bool.false_and]
    unfold timeoutTxn endTxn
    rw [he, if_neg Bool.false_ne_true, if_neg Bool.false_ne_true, hst]
  unfold limitTxn
  split
  · next h => exact absurd h hn
  · next n h => exact absurd h (hu n)
  · exact ht

theorem deadTag_of (x : Txn) (s : State) : (deadTag x s).fab.txns = s.fab.txns ∧ (deadTag x s).ctl = s.ctl ∧
    ∀ l, x.lport = some l → (deadTag x s).fab.deadTags = s.fab.deadTags ++ [(l, x.tag, x.issued + 4 * tierLimit s x.tier)] := by
  unfold deadTag
  split
  · next lp h =>
    refine ⟨rfl, rfl, fun l hl => ?_⟩
    rw [h] at hl
    cases hl
    rfl
  · next h => exact ⟨rfl, rfl, fun l hl => absurd (h.symm.trans hl) (by simp)⟩

end

/-! Units (R182, R183). -/

section
variable {c node unit : Nat} {s : State} {e : UnitAsm}

/-- A complete unit on its way: its assembly sent under the next number, its copies discarded, the unit counted. -/
def unitLeaves (c node unit : Nat) (s : State) : State :=
  ({ s with
    fab.units := s.fab.units.map (fun b => if sameUnit c node unit b && b.sent.isNone then { b with sent := some s.fab.nextTxn } else b),
    fab.staging := s.fab.staging.filter fun y => !(y.clr == c && y.node == node && y.page / 16 == unit) } : State).fadd CM_CLR_T2_STAT.UNITS [c] 1

theorem sendUnit_whole {n : Nat} {ns : List Nat} {x : Txn} (hf : s.fab.units.find? (fun a => sameUnit c node unit a && a.sent.isNone) = some e) (hl : e.segs.length = 256)
    (hi : unitInFlight s c node unit = false) (hw : e.waiters = n :: ns) (hx : s.txn? n = some x) : sendUnit c node unit s =
      startTxn { x with id := s.fab.nextTxn, src := .home, kind := .unitWr unit, phase := .home, off := unit * 65536, got := [], issued := s.now } (unitLeaves c node unit s) := by
  unfold sendUnit
  rw [hf]
  dsimp only
  rw [hw, show ((n :: ns).head?).bind s.txn? = some x from hx]
  dsimp only
  rw [if_pos ⟨hl, by rw [hi]; rfl⟩]
  rfl

theorem sendUnit_part (hf : s.fab.units.find? (fun a => sameUnit c node unit a && a.sent.isNone) = some e) (hl : e.segs.length < 256) : sendUnit c node unit s = s := by
  unfold sendUnit
  rw [hf]
  dsimp only
  split
  · exact if_neg fun h => absurd h.1 (Nat.ne_of_lt hl)
  · rfl

/-- A unit that has left is in flight. -/
theorem unitLeaves_inFlight (hf : s.fab.units.find? (fun a => sameUnit c node unit a && a.sent.isNone) = some e) : unitInFlight (unitLeaves c node unit s) c node unit = true := by
  have hm := List.mem_of_find?_eq_some hf
  have he := List.find?_some hf
  have hu : (unitLeaves c node unit s).fab.units =
      s.fab.units.map (fun b => if sameUnit c node unit b && b.sent.isNone then { b with sent := some s.fab.nextTxn } else b) := by
    rw [unitLeaves, State.fadd_fab]
  rw [unitInFlight, hu, List.any_eq_true]
  refine ⟨{ e with sent := some s.fab.nextTxn }, List.mem_map.2 ⟨e, hm, if_pos he⟩, ?_⟩
  simp only [sameUnit, Bool.and_eq_true] at he
  simp [he.1.1.1, he.1.1.2, he.1.2]

end

/-! The unit buckets (R185). -/

theorem SMap.get?_map {α : Type} (f : Nat → α → α) (m : SMap α) (a : Nat) : SMap.get? (m.map fun e => (e.1, f e.1 e.2)) a = (SMap.get? m a).map (f a) := by
  induction m with
  | nil => rfl
  | cons e m ih =>
    obtain ⟨k, v⟩ := e
    rw [List.map_cons, SMap.get?, SMap.get?]
    split
    · next h => rw [h]; rfl
    · exact ih

theorem t1Admit_goes {t id : Nat} {s : State} {x : Txn} (hx : (s.upTo t).txn? id = some x) (hp : x.phase = .inflight)
    (hfirst : ∀ e, e ∈ (s.upTo t).fab.txns → e.1 < id → e.2.phase ≠ .inflight ∨ e.2.clr ≠ x.clr) : execT1Admit t id s = .next (settle (routeTxn x (s.upTo t))) := by
  have ha : ((s.upTo t).fab.txns.any fun e => decide (e.1 < id) && e.2.phase == .inflight && e.2.clr == x.clr) = false := by
    refine List.any_eq_false.2 fun e he h => ?_
    simp only [Bool.and_eq_true, decide_eq_true_eq, beq_iff_eq] at h
    exact (hfirst e he h.1.1).elim (fun hn => hn h.1.2) fun hn => hn h.2
  unfold execT1Admit
  dsimp only
  rw [hx]
  exact if_pos ⟨hp, by rw [ha]; rfl⟩

theorem t1Admit_waits {t id j : Nat} {s : State} {x y : Txn} (hx : (s.upTo t).txn? id = some x) (hm : (j, y) ∈ (s.upTo t).fab.txns) (hj : j < id) (hy : y.phase = .inflight)
    (hc : y.clr = x.clr) : execT1Admit t id s = .next (s.upTo t) := by
  have ha : ((s.upTo t).fab.txns.any fun e => decide (e.1 < id) && e.2.phase == .inflight && e.2.clr == x.clr) = true :=
    List.any_eq_true.2 ⟨(j, y), hm, by simp [hj, hy, hc]⟩
  unfold execT1Admit
  dsimp only
  rw [hx]
  refine if_neg fun h => ?_
  rw [ha] at h
  exact absurd h.2 (by decide)

/-- Settles O42: responses by the request that they name, limits by what `limitTxn` leaves, units by `unitLeaves` and `unitEnded_of`. -/
theorem requestsEndByResponsesAndLimits : Obligations.RequestsEndByResponsesAndLimits := by
  unfold Obligations.RequestsEndByResponsesAndLimits
  intro s t lp clr tag code seg id node unit last data x e u lands v named ends late
  have tags (p : Txn → Bool) : tagIs s lp tag p = tagIs u lp tag p := by rw [tagIs, tagIs, State.upTo_fab]
  have arrives (hl : lands) (code seg : Nat) (last : Bool) (bs : List Byte) (n : Nat) :
      arrive lp clr vcRsp n (.response tag code seg last bs) u = response lp clr tag code seg last bs (returnCredit lp vcRsp n u) := by
    obtain ⟨ha, hi, hc, hb, hh, hq, hp⟩ := hl
    rw [arrive_atOnce ⟨ha, hi, hc, by omega, hh, hq, hp⟩]
    exact congrArg (fun c => response lp c tag code seg last bs (returnCredit lp vcRsp n u)) ((returnCredit_fget ..).trans hc)
  have tagged {p : Txn → Bool} (hn : named) (hp : p x = true) : tagIs s lp tag p = true := by
    have hm := List.mem_of_find?_eq_some hn.1
    have hx := List.find?_some hn.1
    rw [tags, tagIs, List.any_eq_true]
    exact ⟨_, hm, by rw [hx, hp]; rfl⟩
  refine ⟨fun hl => ⟨fun hn hk hg => ⟨fun hlen => ?_, fun h1 h2 => ?_⟩, fun hn => ?_, fun hn hk hsrc hd hlast hseg hlen hnew => ?_, fun hn hk hd hf hc => ?_⟩, fun h => ?_, fun h => ?_,
    fun hx hid => ⟨fun hlate hap hne hnu hclr => ?_, fun hlate => ⟨?_, ?_⟩, fun hlate hp => ?_, fun hp htier hc => ⟨?_, ?_⟩⟩, fun hx => ⟨?_, ?_, ?_⟩, ?_,
    fun hf => ⟨fun h256 hfl hclr n ns hw hx => ?_, fun hpart => ⟨?_, fun hlate => ?_, fun hlate => ?_⟩⟩, fun h => ?_, fun h => ?_⟩
  · have hne : slotsBytes data ≠ [] := fun h => by rw [h] at hlen; exact absurd hlen (by decide)
    have hgot : (x.heard 0 (slotsBytes data)).got = [(0, slotsBytes data)] := by
      show (if slotsBytes data = [] then x.got else _) = _
      rw [if_neg hne, hg]
      rfl
    have hr := response_last (clr := clr) (seg := 0) (data := slotsBytes data) (s := v) hn (Or.inl hk) (by rw [hgot, hk]; exact le_rfl)
    have hdata : segData (x.heard 0 (slotsBytes data)) = slotsBytes data := by
      unfold segData
      rw [hgot, show (x.heard 0 (slotsBytes data)).kind = .load from hk]
      simp [segCount]
    rw [endSent_plain (x := x.heard 0 (slotsBytes data)) (st := .ok) (Or.inl hk) (by decide), hdata] at hr
    exact ⟨x.heard 0 (slotsBytes data), congrArg (fun q => Host.Outcome.next (settle q)) ((arrives hl ..).trans hr), rfl, rfl, rfl⟩
  · have hr := response_bad (clr := clr) (seg := seg) (last := last) (data := slotsBytes data) (s := v) hn h1
    rw [endSent_plain (Or.inl hk) h2] at hr
    exact ⟨segData x, x, congrArg (fun q => Host.Outcome.next (settle q)) ((arrives hl ..).trans hr), rfl, rfl, rfl⟩
  · have hr := response_unknown (clr := clr) (seg := seg) (last := last) (data := slotsBytes data) (s := v) hn code
    refine ⟨_, congrArg (fun q => Host.Outcome.next (settle q)) ((arrives hl ..).trans hr), ?_, fun d => ?_, ?_⟩
    · have hclr : clr < 128 := hl.2.2.2.1
      rw [State.fget_fadd _ (f := CM_CLR_TXN_ERR.LATE_RSP) (by simp [CW.inRange, CW.place, fitsDims, CW.named, hclr]) (by decide) (by decide)]
      exact congrArg (fun n => saturate 16 (n + 1)) (State.fget_of_ctl rfl ..)
    · rw [State.fadd_fab]
      show d ∈ u.fab.deadTags.filter _ ↔ _
      rw [List.mem_filter]
      simp only [Bool.not_eq_true', Bool.and_eq_false_iff, beq_eq_false_iff_ne, ne_eq, not_and_or]
    · rw [State.fadd_fab]
      rfl
  · subst hlast
    have hne : slotsBytes data ≠ [] := fun h => by
      have := slotsBytes_length data
      rw [h, List.length_nil] at this
      exact hd (List.eq_nil_of_length_eq_zero (by omega))
    have hgot : (x.heard seg (slotsBytes data)).got = x.got ++ [(seg, slotsBytes data)] := by
      show (if slotsBytes data = [] then x.got else _) = _
      rw [if_neg hne, List.filter_eq_self.2 fun g hg => ?_]
      have := List.any_eq_false.1 hnew g hg
      simpa [bne] using this
    have hr := response_last (clr := clr) (seg := seg) (data := slotsBytes data) (s := v) hn (Or.inr (Or.inl hk))
      (by rw [hgot, hk, List.length_append, hlen]; exact le_rfl)
    rw [endSent_plain (x := x.heard seg (slotsBytes data)) (st := .ok) (Or.inr hk) (by decide)] at hr
    obtain ⟨c, n, p, hsrc⟩ := hsrc
    refine ⟨x.heard seg (slotsBytes data), ?_, rfl, rfl, hgot⟩
    exact (if_pos (tagged hn (by rw [hsrc]))).trans (congrArg (fun q => Host.Outcome.next (settle q)) ((arrives hl ..).trans hr))
  · subst hd hc
    have hr := response_last (clr := clr) (seg := 0) (data := []) (s := returnCredit lp vcRsp 1 u) hn (Or.inr (Or.inr ⟨unit, hk⟩)) (by rw [hk]; exact Nat.zero_le _)
    rw [endSent_unitWr (x := x.heard 0 []) hk, unitEnded_of (x := x.heard 0 []) (s := returnCredit lp vcRsp 1 u) hf] at hr
    refine ⟨_, (if_pos (tagged hn (by rw [hk]))).trans (congrArg (fun q => Host.Outcome.next (settle q)) ((arrives hl ..).trans hr)), rfl, ?_⟩
    exact (delTxn_txn? (returnCredit lp vcRsp 1 u) x.id x.id).trans (if_pos rfl)
  · exact if_neg fun hc => Bool.false_ne_true (h.symm.trans ((tags _).symm.trans hc))
  · exact if_neg fun hc => Bool.false_ne_true (h.symm.trans ((tags _).symm.trans hc))
  · have he : x.ended = false := by
      unfold limitApplies at hap
      split at hap
      all_goals simp_all
    obtain ⟨htx, hctl, hdead⟩ := deadTag_of x u
    have hlim := limitTxn_plain (s := u) hne hnu he
    rw [hid] at hlim
    have hother (j : Nat) : (((deadTag x u).fadd CM_CLR_TXN_ERR.TIMEOUT [x.clr] 1).txn? j) = u.txn? j := by rw [State.txn?, State.fadd_fab, htx, State.txn?]
    refine ⟨((deadTag x u).fadd CM_CLR_TXN_ERR.TIMEOUT [x.clr] 1).delTxn id, ?_, (delTxn_txn? ..).trans (if_pos rfl), ?_, fun l hl => ?_, fun j hj => ?_⟩
    · unfold exec execTxnTimeout
      dsimp only
      rw [show (s.upTo t).txn? id = some x from hx]
      exact (if_pos ⟨hap, hlate⟩).trans (congrArg (fun q => Host.Outcome.next (settle q)) hlim)
    · have same (q : State) : (q.delTxn id).fget CM_CLR_TXN_ERR.TIMEOUT [x.clr] = q.fget CM_CLR_TXN_ERR.TIMEOUT [x.clr] := State.fget_of_ctl rfl ..
      rw [same, State.fget_fadd _ (f := CM_CLR_TXN_ERR.TIMEOUT) (by simp [CW.inRange, CW.place, fitsDims, CW.named, hclr]) (by decide) (by decide)]
      exact congrArg (fun n => saturate 16 (n + 1)) (State.fget_of_ctl hctl ..)
    · show ((deadTag x u).fadd CM_CLR_TXN_ERR.TIMEOUT [x.clr] 1).fab.deadTags = _
      rw [State.fadd_fab, hdead l hl]
    · rw [delTxn_txn?, if_neg (Ne.symm hj), hother]
  · unfold exec execTxnTimeout
    dsimp only
    rw [show (s.upTo t).txn? id = some x from hx]
    exact if_neg fun h => hlate h.2
  · unfold exec execHomeHoldEnd
    dsimp only
    rw [show (s.upTo t).txn? id = some x from hx]
    exact if_neg fun h => hlate h.2
  · refine ⟨u.delTxn id, ?_, rfl, (delTxn_txn? ..).trans (if_pos rfl), fun j hj => (delTxn_txn? ..).trans (if_neg (Ne.symm hj))⟩
    unfold exec execHomeHoldEnd
    dsimp only
    rw [show (s.upTo t).txn? id = some x from hx]
    exact if_pos ⟨hp, hlate⟩
  · rintro ⟨y, j, hm, hj, hy, hyc⟩
    exact t1Admit_waits hx hm hj hy hyc
  · intro l n hfirst hids hroute hholds hspare hcount hn hfree hlow
    have hgo := t1Admit_goes hx hp fun e he => (hfirst e.1 e.2 he).1
    have hroute' := routeTxn_t1 (s := u) htier hroute hspare hcount (fun e he => (hfirst e.1 e.2 he).2.elim Or.inr fun h => Or.inl (by rw [hids e he, h, hid])) hholds hn hfree hlow
    refine ⟨x.outOn l n, u.putTxn (x.outOn l n), hgo.trans (congrArg (fun q => Host.Outcome.next (settle q)) hroute'), ?_, rfl, rfl, rfl, rfl⟩
    rw [← hid]
    exact putTxn_txn? u (x.outOn l n)
  · unfold exec execTxnTimeout
    dsimp only
    rw [show (s.upTo t).txn? id = none from hx]
    rfl
  · unfold exec execT1Admit
    dsimp only
    rw [show (s.upTo t).txn? id = none from hx]
    rfl
  · unfold exec execHomeHoldEnd
    dsimp only
    rw [show (s.upTo t).txn? id = none from hx]
    rfl
  · refine ⟨_, rfl, rfl, fun d => ?_⟩
    show d ∈ u.fab.deadTags.filter _ ↔ _
    rw [List.mem_filter]
    simp only [Bool.not_eq_true', Bool.and_eq_false_iff, beq_eq_false_iff_ne, decide_eq_false_iff_not, ne_eq, not_and_or, or_assoc]
    rfl
  · have hr := sendUnit_whole hf h256 hfl hw hx
    refine ⟨_, unitLeaves clr node unit u, congrArg (fun q => Host.Outcome.next (settle q)) hr, rfl, rfl, rfl, rfl, fun c => ?_, ?_, unitLeaves_inFlight hf⟩
    · rw [unitLeaves, State.fadd_fab]
      show c ∈ u.fab.staging.filter _ ↔ _
      rw [List.mem_filter]
      simp only [Bool.not_eq_true', Bool.and_eq_false_iff, beq_eq_false_iff_ne, ne_eq, not_and_or, or_assoc]
    · rw [unitLeaves, State.fget_fadd _ (f := CM_CLR_T2_STAT.UNITS) (by simp [CW.inRange, CW.place, fitsDims, CW.named, hclr]) (by decide) (by decide)]
      exact congrArg (fun n => saturate 16 (n + 1)) (State.fget_of_ctl rfl ..)
  · exact congrArg (fun q => Host.Outcome.next (settle q)) (sendUnit_part hf hpart)
  · refine ⟨{ u with fab.units := u.fab.units.filter fun b => !(sameUnit clr node unit b && b.sent.isNone) }, ?_, fun a => ?_⟩
    · unfold exec execUnitTimeout
      dsimp only
      rw [show (s.upTo t).fab.units.find? (fun a => sameUnit clr node unit a && a.sent.isNone) = some e from hf]
      exact if_pos ⟨hpart, hlate⟩
    · show a ∈ u.fab.units.filter _ ↔ _
      rw [List.mem_filter]
      simp only [Bool.not_eq_true', Bool.and_eq_false_iff, Option.isNone_eq_false_iff, Option.isSome_iff_ne_none, Bool.not_eq_true, not_and_or, ne_eq]
  · unfold exec execUnitTimeout
    dsimp only
    rw [show (s.upTo t).fab.units.find? (fun a => sameUnit clr node unit a && a.sent.isNone) = some e from hf]
    exact if_neg fun h => absurd h.2 (Nat.not_le.2 hlate)
  · refine ⟨_, whenever_true (bne_iff_ne.2 h) .., rfl, fun c n hn => ?_⟩
    refine (SMap.get?_map (fun c n => min (quotaOf u.com.inForce c).t2Burst (n + (quotaOf u.com.inForce c).t2Rate)) u.fab.buckets c).trans ?_
    rw [hn]
    rfl
  · exact whenever_false (bne_eq_false_iff_eq.2 h) ..

end Sys2Proof.Machine
end

section
/-! SUPPORT. Regions of partners: subscriptions, slots, pins, publishes and the Sequencer (O43). -/

namespace Sys2Proof.Machine

/-! Requests about regions (R205). -/

section
variable {vc : Nat} {q : PortReq} {s : State} {t : Nat} {w : Window} {a die : Nat} {g : Region}

theorem Passes.opens (h : Passes vc q s) (n : Nat) : ¬ portRefuses (returnCredit q.lp vc n s) q.lp q.tag := by
  rw [returnCredit_refuses]
  exact h.notRefused

/-- What a partner's request comes to once the port's own refusals are passed. -/
theorem arriveReq_ask (hp : Passes vc q (s.upTo t)) {slots : Nat} {ask : Ask} {r : State} (hr : serveRequest q.req q.lp ask (returnCredit q.lp vc slots (s.upTo t)) = r) :
    arriveReq t vc slots q ask s = .next (settle r) := by
  unfold arriveReq
  rw [arrive_atOnce hp.landsAtOnce]
  exact congrArg (fun q => Host.Outcome.next (settle q)) hr

theorem regionTarget_returned (lp vc n : Nat) (s : State) (r : Req) (len : Nat) (need : Right) (kind : RegionKind) :
    regionTarget (returnCredit lp vc n s) r len need kind = regionTarget s r len need kind := by
  unfold regionTarget
  rw [returnCredit_mapAt]
  rfl

/-! Subscriptions (R207-R211). -/

theorem serveSubscribe_of (ht : regionTarget s q.req 64 .r .plain = .ok (w, a, g)) : serveSubscribe q.req die s =
    if subscribed s g.region (.port q.lp) then endReq (.port q.lp q.tag) q.clr q.epoch die .ok [] false s
    else if 256 ≤ ((s.coh.subs.filter fun x => !x.lapsed).filter fun x => x.region == g.region).length ∨ 4096 ≤ ((s.coh.subs.filter fun x => !x.lapsed).filter fun x => x.clr == g.clr).length then
      endReq (.port q.lp q.tag) q.clr q.epoch die .denied [] false s
    else if invalOrdered s g.region then s.addTxn { newTxn q.req .subscribe w w.pnode a die s with phase := .seq }
    else endReq (.port q.lp q.tag) q.clr q.epoch die .ok [] false (addSub g.region g.clr (.port q.lp) s) := by
  unfold serveSubscribe
  rw [ht]
  rfl

theorem serveUnsubscribe_of (ht : regionTarget s q.req 64 .r .plain = .ok (w, a, g)) : serveUnsubscribe q.req die s =
    if lapsed s (some (.port q.lp)) w.region then endReq (.port q.lp q.tag) q.clr q.epoch die .denied [] false s
    else endReq (.port q.lp q.tag) q.clr q.epoch die .ok [] false { s with coh.subs := s.coh.subs.filter fun x => !(x.region == g.region && x.who == .port q.lp) } := by
  unfold serveUnsubscribe
  rw [ht]
  rfl

theorem serveInval_of {count : Nat} (ht : regionTarget s q.req (count * 64) .w .plain = .ok (w, a, g)) (hl : lapsed s (some (.port q.lp)) w.region = false) : serveInval q.req count die s =
    seqAdd (some w.clr) (.inval s.fab.nextTxn) (s.addTxn { newTxn q.req (.invalidate count) w w.pnode a die s with phase := .seq }) := by
  unfold serveInval
  rw [ht]
  exact if_neg fun h => Bool.false_ne_true (hl.symm.trans h)

theorem addSub_subscribed (region c : Nat) (h : Holder) (s : State) : subscribed (addSub region c h s) region h = true :=
  List.any_eq_true.2 ⟨{ region := region, clr := c, who := h, lapsed := false }, List.mem_append_right _ List.mem_cons_self, by simp⟩

theorem mem_addSub {region c : Nat} {h : Holder} {z : Sub} (hz : ¬ (z.region = region ∧ z.who = h)) (s : State) : z ∈ (addSub region c h s).coh.subs ↔ z ∈ s.coh.subs := by
  have hne : z ≠ { region := region, clr := c, who := h, lapsed := false } := fun e => hz (by rw [e]; exact ⟨rfl, rfl⟩)
  show z ∈ s.coh.subs.filter _ ++ [_] ↔ _
  rw [List.mem_append, List.mem_singleton, List.mem_filter]
  have hb : (!(z.region == region && z.who == h)) = true := by simpa [imp_iff_not_or] using hz
  simp [hne, hb]

/-! Slots and pins (R212-R216). -/

/-- Regions that are changed under their number are found under it. -/
theorem find?_map_region {f : PubRegion → PubRegion} (hf : ∀ p, (f p).region = p.region) (l : List PubRegion) (region : Nat) :
    (l.map f).find? (fun p => p.region == region) = (l.find? fun p => p.region == region).map f := by
  have hp : ((fun p : PubRegion => p.region == region) ∘ f) = fun p => p.region == region := funext fun p => congrArg (· == region) (hf p)
  rw [List.find?_map, hp]

theorem State.pub?_setPub {region : Nat} {pr q' : PubRegion} (h : s.pub? region = some pr) (hr : q'.region = pr.region) : (s.setPub q').pub? region = some q' := by
  have hf (p : PubRegion) : (if p.region == q'.region then q' else p).region = p.region := by
    split
    · next e => exact (beq_iff_eq.1 e).symm
    · rfl
  refine (find?_map_region hf s.coh.pubs region).trans ?_
  rw [show s.coh.pubs.find? (fun p => p.region == region) = some pr from h]
  exact congrArg some (if_pos (beq_iff_eq.2 hr.symm))

theorem servePrepare_of {pr : PubRegion} (ht : regionTarget s q.req 64 .w .published = .ok (w, a, g)) (hg : s.pub? g.region = some pr) : servePrepare q.req die s =
    if (preparedSlot pr (.port q.lp)).isSome ∨ s.fab.txns.any fun e => e.2.kind == .prepare && e.2.region == g.region && holderOf e.2.src == some (.port q.lp) && !e.2.ended then
      endReq (.port q.lp q.tag) q.clr q.epoch die .denied [] false s
    else match pr.prepare (.port q.lp) with
      | some (k, q') => endReq (.port q.lp q.tag) q.clr q.epoch die .ok (verSlot pr.version k) false (s.setPub q')
      | none => s.addTxn { newTxn q.req .prepare w w.pnode a die s with phase := .slotWait } := by
  unfold servePrepare
  rw [ht]
  dsimp only
  rw [show holderOf q.req.src = some (.port q.lp) from rfl]
  dsimp only
  rw [hg]
  rfl

theorem serveOpen_of {pr : PubRegion} (ht : regionTarget s q.req 64 .r .published = .ok (w, a, g)) (hg : s.pub? g.region = some pr) : serveOpen q.req die s =
    endReq (.port q.lp q.tag) q.clr q.epoch die .ok (verSlot pr.version pr.current) false
      (s.setPub (PubRegion.free { pr with pins := pr.pins.filter (fun (p : Holder × Nat) => p.1 != .port q.lp) ++ [(.port q.lp, pr.current)] })) := by
  unfold serveOpen
  rw [ht]
  dsimp only
  rw [show holderOf q.req.src = some (.port q.lp) from rfl]
  dsimp only
  rw [hg]
  rfl

theorem serveClose_of {pr : PubRegion} (ht : regionTarget s q.req 64 .r .published = .ok (w, a, g)) (hg : s.pub? g.region = some pr) : serveClose q.req die s =
    endReq (.port q.lp q.tag) q.clr q.epoch die .ok [] false (s.setPub (PubRegion.free { pr with pins := pr.pins.filter fun p => p.1 != .port q.lp })) := by
  unfold serveClose
  rw [ht]
  rw [show holderOf q.req.src = some (.port q.lp) from rfl]
  dsimp only
  rw [hg]
  rfl

/-- A slot after RETIRED ones without a pin were freed. -/
def SlotState.freed (pinned : Bool) : SlotState → SlotState
  | .retired => if pinned then .retired else .free
  | x => x

theorem PubRegion.free_slot (pr : PubRegion) (k : Nat) : pr.free.slots[k]? = (pr.slots[k]?).map (SlotState.freed (pr.pins.any fun p => p.2 == k)) := by
  by_cases hk : k < pr.slots.length
  · have hd : pr.slots.getD k .free = pr.slots[k] := List.getD_eq_getElem _ _ hk
    simp only [PubRegion.free, List.getElem?_map, List.getElem?_range hk, List.getElem?_eq_getElem hk, Option.map_some, hd, Option.some.injEq]
    cases pr.slots[k] <;> rfl
  · simp only [PubRegion.free, List.getElem?_map, List.getElem?_eq_none (Nat.not_lt.1 hk), Option.map_none, Option.map_eq_none_iff]
    rw [List.getElem?_eq_none]
    simpa using hk

/-! Publishes (R215). -/

theorem servePublish_of {pr : PubRegion} (ht : regionTarget s q.req 64 .w .published = .ok (w, a, g)) (hg : s.pub? g.region = some pr) :
    (preparedSlot pr (.port q.lp) = none → servePublish q.req die s = endReq (.port q.lp q.tag) q.clr q.epoch die .denied [] false s) ∧
    ((preparedSlot pr (.port q.lp)).isSome = true → servePublish q.req die s = publishForward { newTxn q.req .publish w w.pnode a die s with phase := .held }
      (s.addTxn { newTxn q.req .publish w w.pnode a die s with phase := .held })) := by
  unfold servePublish
  rw [ht]
  dsimp only
  rw [show holderOf q.req.src = some (.port q.lp) from rfl]
  dsimp only
  rw [hg]
  dsimp only [Option.bind]
  constructor
  · intro h
    rw [h]
    rfl
  · intro h
    obtain ⟨k, hk⟩ := Option.isSome_iff_exists.1 h
    rw [hk]

theorem publishForward_held {x : Txn} {h : Holder} (hh : holderOf x.src = some h) (hw : writesOut s h x.region = true) : publishForward x s = s := by
  unfold publishForward
  rw [hh]
  exact if_pos hw

theorem publishForward_goes {x : Txn} {h : Holder} (hh : holderOf x.src = some h) (hw : writesOut s h x.region = false) :
    publishForward x s = seqAdd (some x.clr) (.publish x.id) (s.putTxn { x with phase := .seq }) := by
  unfold publishForward
  rw [hh]
  exact if_neg fun e => Bool.false_ne_true (hw.symm.trans e)

/-- A new request that writes nothing leaves the outstanding writes as they were. -/
theorem writesOut_addTxn {x : Txn} (hid : x.id = s.fab.nextTxn) (hnew : ∀ e, e ∈ s.fab.txns → e.1 < s.fab.nextTxn) (hk : needOf x.kind ≠ .w) (h : Holder) (region : Nat) :
    writesOut (s.addTxn x) h region = writesOut s h region := by
  have hn : (needOf x.kind == Right.w) = false := beq_eq_false_iff_ne.2 hk
  rw [writesOut, addTxn_txns hid hnew, SMap.any_insert]
  simp only [hn, Bool.and_false, Bool.false_or]
  rfl

theorem addTxn_txn? (s : State) (x : Txn) : (s.addTxn x).txn? x.id = some x := by
  show SMap.get? (SMap.put s.fab.txns x.id x) x.id = some x
  rw [SMap.get?_put, if_pos rfl]

end

end Sys2Proof.Machine
end

section
/-! SUPPORT. The publish point, invalidations and the Sequencer (O43). -/

namespace Sys2Proof.Machine

/-! A publish point (R215). -/

theorem List.findIdx?_set_of_not {α : Type} {p : α → Bool} {v : α} (hv : p v = false) (l : List α) (i : Nat) (hi : ∀ x, l[i]? = some x → p x = false) :
    (l.set i v).findIdx? p = l.findIdx? p := by
  induction l generalizing i with
  | nil => rfl
  | cons x l ih =>
    cases i with
    | zero => simp [List.findIdx?_cons, hv, hi x rfl]
    | succ i => rw [List.set_cons_succ, List.findIdx?_cons, List.findIdx?_cons, ih i hi]

theorem preparedSlot_get {pr : PubRegion} {h : Holder} {k : Nat} (hk : preparedSlot pr h = some k) : pr.slots[k]? = some (.prepared h) := by
  obtain ⟨hlt, hp, -⟩ := List.findIdx?_eq_some_iff_getElem.1 hk
  rw [List.getElem?_eq_getElem hlt, beq_iff_eq.1 hp]

/-- A region with a holder's prepared slot given up. -/
def PubRegion.withdrawn (pr : PubRegion) (h : Holder) : PubRegion :=
  match preparedSlot pr h with
  | some k => { pr with slots := pr.slots.set k .free }
  | none => pr

section
variable {pr : PubRegion} {h h' : Holder}

theorem withdrawn_keeps (pr : PubRegion) (h : Holder) :
    (pr.withdrawn h).region = pr.region ∧ (pr.withdrawn h).version = pr.version ∧ (pr.withdrawn h).pins = pr.pins ∧ (pr.withdrawn h).ordered = pr.ordered := by
  unfold PubRegion.withdrawn
  split <;> exact ⟨rfl, rfl, rfl, rfl⟩

/-- Slots that hold something else are found where they were. -/
theorem withdrawn_find (pr : PubRegion) (h : Holder) {x : SlotState} (hx : x ≠ .prepared h) (hf : x ≠ .free) :
    (pr.withdrawn h).slots.findIdx? (fun y => y == x) = pr.slots.findIdx? fun y => y == x := by
  unfold PubRegion.withdrawn
  split
  · next k hk =>
    refine List.findIdx?_set_of_not (p := fun y => y == x) (beq_eq_false_iff_ne.2 hf.symm) pr.slots k fun y hy => ?_
    rw [preparedSlot_get hk] at hy
    exact beq_eq_false_iff_ne.2 fun e => hx (e.symm.trans (Option.some.inj hy).symm)
  · rfl

theorem withdrawn_prepared (pr : PubRegion) (hne : h ≠ h') : preparedSlot (pr.withdrawn h) h' = preparedSlot pr h' :=
  withdrawn_find pr h (fun e => hne (SlotState.prepared.inj e).symm) SlotState.noConfusion

theorem withdrawn_current (pr : PubRegion) (h : Holder) : (pr.withdrawn h).current = pr.current :=
  congrArg (fun o => o.getD 0) (withdrawn_find pr h SlotState.noConfusion SlotState.noConfusion)

/-- A slot that was not prepared stands. -/
theorem withdrawn_slot {k : Nat} {x : SlotState} (hk : pr.slots[k]? = some x) (hx : x ≠ .prepared h) : (pr.withdrawn h).slots[k]? = some x := by
  unfold PubRegion.withdrawn
  split
  · next j hj =>
    refine (List.getElem?_set_ne fun e => ?_).trans hk
    have hp := preparedSlot_get hj
    rw [e, hk] at hp
    exact hx (Option.some.inj hp)
  · exact hk

end

/-- A region whose prepared slot k is published. -/
def PubRegion.published (pr : PubRegion) (k : Nat) : PubRegion :=
  PubRegion.free { pr with version := (pr.version + 1) % 2 ^ 32, slots := (pr.slots.set pr.current .retired).set k .current }

theorem published_slots {pr : PubRegion} {h : Holder} {k : Nat} (hk : pr.slots[k]? = some (.prepared h)) (hc : pr.slots[pr.current]? = some .current) :
    (pr.published k).slots[k]? = some .current ∧
    (pr.published k).slots[pr.current]? = some (if pr.pins.any (fun p => p.2 == pr.current) = true then .retired else .free) := by
  have hkl : k < pr.slots.length := (List.getElem?_eq_some_iff.1 hk).1
  have hcl : pr.current < pr.slots.length := (List.getElem?_eq_some_iff.1 hc).1
  have hne : k ≠ pr.current := fun e => by
    rw [e, hc] at hk
    exact SlotState.noConfusion (Option.some.inj hk)
  constructor
  · rw [PubRegion.published, PubRegion.free_slot]
    dsimp only
    rw [List.getElem?_set_self (by rw [List.length_set]; exact hkl)]
    rfl
  · rw [PubRegion.published, PubRegion.free_slot]
    dsimp only
    rw [List.getElem?_set_ne hne, List.getElem?_set_self hcl]
    rfl

/-- The publish of the last ordered request, after the earlier ones. -/
def publishLast (last : Nat) (q : PubRegion) (s : State) : State :=
  match s.txn? last with
  | some x =>
    match (holderOf x.src).bind (preparedSlot q) with
    | some k => endTxn x .ok (verSlot ((q.version + 1) % 2 ^ 32) k) (s.setPub (q.published k))
    | none => endTxn x .denied [] (s.setPub q)
  | none => s.setPub q

theorem publishPoint_eq {pr : PubRegion} {last : Nat} {others : List Nat} (ho : pr.ordered = others ++ [last]) (s : State) :
    publishPoint pr s = publishLast last (supersede { pr with ordered := [] } others s).1 (supersede { pr with ordered := [] } others s).2 := by
  have hr : pr.ordered.reverse = last :: others.reverse := by rw [ho, List.reverse_append, List.reverse_singleton, List.singleton_append]
  unfold publishPoint
  rw [hr]
  dsimp only
  rw [List.reverse_reverse]
  rfl

section
variable {s : State} {pr : PubRegion} {x y : Txn} {h : Holder} {id k : Nat}

theorem publishLast_of {q : PubRegion} (hx : s.txn? id = some x) (hh : holderOf x.src = some h) (hk : preparedSlot q h = some k) :
    publishLast id q s = endTxn x .ok (verSlot ((q.version + 1) % 2 ^ 32) k) (s.setPub (q.published k)) := by
  unfold publishLast
  rw [hx]
  dsimp only
  rw [hh, show (some h).bind (preparedSlot q) = some k from hk]

/-- One earlier publish gives up its slot and ends SUPERSEDED. -/
theorem supersede_one (hy : s.txn? y.id = some y) (hh : holderOf y.src = some h) (q : PubRegion) : supersede q [y.id] s =
    (q.withdrawn h, endTxn y .superseded [] (s.fadd CM_CLR_COH_STAT.SUPERSEDED [y.clr] 1)) := by
  unfold supersede
  rw [hy]
  dsimp only
  rw [hh, show (some h).bind (preparedSlot q) = preparedSlot q h from rfl]
  unfold supersede PubRegion.withdrawn
  cases preparedSlot q h <;> rfl

/-- A strand's request that ends without data. -/
theorem endTxn_strand (st : Status) (he : y.ended = false) (hs : ∃ sr rt stat pc, y.src = .strand sr rt stat pc) :
    endTxn y st [] s = { s.delTxn y.id with fab.ended := s.fab.ended ++ [{ src := y.src, status := st, data := [] }] } := by
  obtain ⟨sr, rt, stat, pc, hsrc⟩ := hs
  unfold endTxn
  rw [he, if_neg Bool.false_ne_true, hsrc]
  show ({ s.delTxn y.id with fab.ended := s.fab.ended ++ [{ src := .strand sr rt stat pc, status := st, data := if st = .ok then [] else [] }] } : State) = _
  rw [ite_self]

/-! Invalidations (R209, R210). -/

variable {v : InvalRun} {lp tag : Nat}

theorem invAck_last (hf : s.coh.invals.find? (fun v => v.awaits.contains (.port lp, tag)) = some v) (ha : v.awaits = [(.port lp, tag)]) (hx : s.txn? v.txn = some x) :
    invAck lp tag s = endTxn x .ok [] { s with coh.invals := s.coh.invals.filter fun u => u.txn != v.txn } := by
  have hl : v.awaits.filter (fun a => a != (.port lp, tag)) = [] := by
    rw [ha]
    simp
  unfold invAck
  rw [hf]
  dsimp only
  rw [if_pos hl]
  show (match s.txn? v.txn with
    | some x => _
    | none => _) = _
  rw [hx]

theorem invAck_more (hf : s.coh.invals.find? (fun v => v.awaits.contains (.port lp, tag)) = some v) {a : Holder × Nat} (ha : a ∈ v.awaits) (hne : a ≠ (.port lp, tag)) :
    invAck lp tag s = { s with coh.invals := s.coh.invals.map fun u => if u.txn == v.txn then { u with awaits := v.awaits.filter fun a => a != (.port lp, tag) } else u } := by
  have hl : v.awaits.filter (fun a => a != (.port lp, tag)) ≠ [] := List.ne_nil_of_mem (List.mem_filter.2 ⟨ha, bne_iff_ne.2 hne⟩)
  unfold invAck
  rw [hf]
  exact if_neg hl

/-- The subscribers that have not answered lapse, and are counted. -/
def unansweredLapse (c : Nat) (v : InvalRun) (s : State) : State :=
  ({ s with
    coh.subs := s.coh.subs.map (fun (u : Sub) => if u.region == v.region && (v.awaits.map Prod.fst).contains u.who then { u with lapsed := true } else u),
    coh.invals := s.coh.invals.filter fun u => u.txn != v.txn } : State).fadd CM_CLR_COH_STAT.LAPSED [c] (v.awaits.map Prod.fst).length

theorem invExpire_of {c : Nat} (hc : (s.coh.subs.find? fun z => z.region == v.region).map Sub.clr = some c) (hx : s.txn? v.txn = some x) :
    invExpire v s = endTxn x .timeout [] (unansweredLapse c v s) := by
  have ht : (unansweredLapse c v s).txn? v.txn = some x := by
    rw [State.txn?, unansweredLapse, State.fadd_fab]
    exact hx
  unfold invExpire
  rw [hc]
  show (match (unansweredLapse c v s).txn? v.txn with
    | some x => endTxn x .timeout [] (unansweredLapse c v s)
    | none => unansweredLapse c v s) = _
  rw [ht]

/-- An INVAL of a region without subscribers ends at once. -/
theorem inval_alone {count : Nat} (hx : s.txn? id = some x) (hk : x.kind = .invalidate count) (hs : ∀ z, z ∈ s.coh.subs → z.region ≠ x.region) :
    inval id s = endTxn x .ok [] { s with coh.invals := s.coh.invals.filter fun v => v.txn != id } := by
  have hnone : s.coh.subs.filter (fun u => u.region == x.region && !u.lapsed) = [] := List.filter_eq_nil_iff.2 fun z hz => by simp [hs z hz]
  unfold inval
  rw [hx]
  simp only [hk]
  rw [hnone]
  rfl

/-! The Sequencer (R199, R443). -/

variable {o : SeqOp}

theorem positionOp_plain {c : Option Nat} (hf : s.coh.seqOps.find? (fun o => !o.positioned && o.clr == c) = some o) (hk : o.kind ≠ .commit) : positionOp c s =
    { s with coh.seqOps := (s.coh.seqOps.filter fun z => z.id != o.id && z.positioned) ++ [{ o with positioned := true, at_ := s.pkg }] ++
      (s.coh.seqOps.filter fun z => z.id != o.id && !z.positioned) } := by
  have hp : (s.coh.seqOps.filter fun p => p.id != o.id).filter (fun p => p.positioned) = s.coh.seqOps.filter fun z => z.id != o.id && z.positioned := by
    rw [List.filter_filter]
    exact List.filter_congr fun z _ => Bool.and_comm ..
  have hw : (s.coh.seqOps.filter fun p => p.id != o.id).filter (fun p => !p.positioned) = s.coh.seqOps.filter fun z => z.id != o.id && !z.positioned := by
    rw [List.filter_filter]
    exact List.filter_congr fun z _ => Bool.and_comm ..
  unfold positionOp
  rw [hf]
  dsimp only
  rw [if_neg hk, seqPosition, hf]
  dsimp only
  rw [hp, hw]

theorem holdOp_waits (h : ∀ z, s.coh.seqOps.head? = some z → z.positioned = false) : holdOp s = s := by
  unfold holdOp
  split
  · next o ho => rw [h o ho]; rfl
  · rfl

theorem holdOp_inval {count : Nat} (ho : s.coh.seqOps.head? = some o) (hp : o.positioned = true) (hk : o.kind = .inval id) (hx : s.txn? id = some x)
    (hc : x.kind = .invalidate count) (hs : ∀ z, z ∈ s.coh.subs → z.region ≠ x.region) :
    holdOp s = endTxn x .ok [] { seqRemove o.id s with coh.invals := s.coh.invals.filter fun v => v.txn != id } := by
  have hsend : invalCanSend s x.region = true := List.all_eq_true.2 fun z hz => by simp [hs z hz]
  unfold holdOp
  rw [ho]
  dsimp only
  rw [hp]
  simp only [hk, Bool.not_true, Bool.false_eq_true, if_false, hx, Option.any_some, hsend]
  exact inval_alone (s := seqRemove o.id s) hx hc hs

theorem holdOp_publish (ho : s.coh.seqOps.head? = some o) (hp : o.positioned = true) (hk : o.kind = .publish id) (hx : s.txn? id = some x) :
    holdOp s = { seqRemove o.id s with coh.pubs := s.coh.pubs.map fun q => if q.region == x.region then { q with ordered := q.ordered ++ [id] } else q } := by
  unfold holdOp
  rw [ho]
  dsimp only
  rw [hp]
  simp only [hk, Bool.not_true, Bool.false_eq_true, if_false]
  unfold publishOrdered
  rw [show (seqRemove o.id s).txn? id = some x from hx]
  rfl

end

end Sys2Proof.Machine
end

section
/-! SUPPORT. Subscriptions, slots, publishes and the Sequencer (O43): the assembled statement. -/

namespace Sys2Proof.Machine

theorem State.fget_fadd_of_lt (s : State) {f : Fld} (hf : f.w = .CM_CLR_COH_STAT ∨ f.w = .CM_CLR_TXN_ERR) (hb : f.hi + 1 - f.lo = 16 ∧ f.hi < 64 ∧ f.lo ≤ f.hi) {c : Nat} (hc : c < 128) (n : Nat) :
    (s.fadd f [c] n).fget f [c] = saturate 16 (s.fget f [c] + n) := by
  obtain ⟨h16, hh, hl⟩ := hb
  rw [State.fget_fadd s (by rcases hf with hf | hf <;> rw [hf] <;> simp [CW.inRange, CW.place, fitsDims, CW.named, hc]) hl hh, h16]

section
variable {s : State} {t id lp clr tag : Nat} {x : Txn}

/-- Arrival of an INV_ACK. -/
theorem execInvAck_of (h : LandsAtOnce vcSnp lp clr (s.upTo t)) : execInvAck t lp clr tag s = .next (settle (invAck lp tag (returnCredit lp vcSnp 1 (s.upTo t)))) :=
  congrArg (fun q => Host.Outcome.next (settle q)) (arrive_atOnce h 1 (.invAck tag))

theorem execPublishForward_of (hx : (s.upTo t).txn? id = some x) : execPublishForward t id s =
    .next (if x.phase = .held ∧ x.kind = .publish then settle (publishForward x (s.upTo t)) else s.upTo t) := by
  unfold execPublishForward
  dsimp only
  rw [hx]
  dsimp only
  split <;> rfl

theorem execPrepareTimeout_of (hx : (s.upTo t).txn? id = some x) : execPrepareTimeout t id s =
    .next (if x.phase = .slotWait ∧ x.issued + tierLimit (s.upTo t) x.tier ≤ (s.upTo t).now then settle (timeoutTxn x (s.upTo t)) else s.upTo t) := by
  unfold execPrepareTimeout
  dsimp only
  rw [hx]
  dsimp only
  split <;> rfl

theorem execInvLimitExpiry_of {v : InvalRun} (hv : (s.upTo t).coh.invals.find? (fun v => v.txn == id) = some v) : execInvLimitExpiry t id s =
    whenever (decide (v.sentAt + invLimit (s.upTo t) ≤ (s.upTo t).now)) (s.upTo t) (settle (invExpire v (s.upTo t))) := by
  unfold execInvLimitExpiry
  dsimp only
  rw [hv]

/-- A request not yet ended that passes its limit. -/
theorem timeoutTxn_open (he : x.ended = false) (u : State) :
    timeoutTxn x u = endReq x.src x.clr x.epoch x.die .timeout [] false ((u.fadd CM_CLR_TXN_ERR.TIMEOUT [x.clr] 1).delTxn x.id) := by
  have hst : (x.staged && (Status.timeout == Status.ok) && (x.tier == .t2)) = false := by
    rw [show (Status.timeout == Status.ok) = false from rfl, Bool.and_false, Bool.false_and]
  unfold timeoutTxn endTxn
  rw [he, if_neg Bool.false_ne_true, if_neg Bool.false_ne_true, hst]

end

/-- The publish point of a single region. -/
theorem execPublishPoint_one {s : State} {t : Nat} {pr : PubRegion} (hn : (s.upTo t).now / 2000 ≠ (s.upTo t).coh.pubPoint) (hp : (s.upTo t).coh.pubs = [pr]) :
    execPublishPoint t s = .next (settle (publishPoint pr { s.upTo t with coh.pubPoint := (s.upTo t).now / 2000 })) := by
  have hpub : State.pub? ({ s.upTo t with coh.pubPoint := (s.upTo t).now / 2000 } : State) pr.region = some pr := by
    show (s.upTo t).coh.pubs.find? _ = _
    rw [hp]
    simp
  refine (whenever_true (bne_iff_ne.2 hn) ..).trans (congrArg (fun q => Host.Outcome.next (settle q)) ?_)
  rw [hp, List.map_singleton, publishAll, publishAll, hpub]

/-- The publish point of a region with an earlier publish of a strand: that one is superseded, the last one takes effect. -/
theorem publishPoint_supersedes {u : State} {pr : PubRegion} {x y : Txn} {h : Holder} {id k : Nat} (hpub : u.pub? pr.region = some pr) (ho : pr.ordered = [y.id, id])
    (hcur : pr.slots[pr.current]? = some .current) (hx : u.txn? id = some x) (hh : holderOf x.src = some h) (hk : preparedSlot pr h = some k) (hy : u.txn? y.id = some y) (hne : y.id ≠ id)
    (he : y.ended = false) (hclr : y.clr < 128) (hsrc : ∃ sr rt st pc, y.src = .strand sr rt st pc) (hother : holderOf y.src ≠ some h) :
    ∃ r, publishPoint pr u = endTxn x .ok (verSlot ((pr.version + 1) % 2 ^ 32) k) r ∧
      (∃ q', r.pub? pr.region = some q' ∧ q'.version = (pr.version + 1) % 2 ^ 32 ∧ q'.slots[k]? = some .current ∧ q'.ordered = [] ∧
        q'.slots[pr.current]? = some (if pr.pins.any (fun p => p.2 == pr.current) = true then .retired else .free)) ∧
      r.fab.ended = u.fab.ended ++ [{ src := y.src, status := .superseded, data := [] }] ∧
      r.fget CM_CLR_COH_STAT.SUPERSEDED [y.clr] = saturate 16 (u.fget CM_CLR_COH_STAT.SUPERSEDED [y.clr] + 1) := by
  obtain ⟨hb, hhb⟩ : ∃ hb, holderOf y.src = some hb := by
    obtain ⟨sr, rt, st, pc, hs⟩ := hsrc
    exact ⟨_, congrArg holderOf hs⟩
  have hbh : hb ≠ h := fun e => hother (e ▸ hhb)
  let u1 := u.fadd CM_CLR_COH_STAT.SUPERSEDED [y.clr] 1
  let s1 : State := { u1.delTxn y.id with fab.ended := u1.fab.ended ++ [{ src := y.src, status := .superseded, data := [] }] }
  let q0 : PubRegion := { pr with ordered := [] }
  have hsup : supersede q0 [y.id] u = (q0.withdrawn hb, s1) := (supersede_one hy hhb q0).trans (by rw [endTxn_strand .superseded he hsrc])
  obtain ⟨hreg, hver, hpins, hord⟩ := withdrawn_keeps q0 hb
  have hcurrent : (q0.withdrawn hb).current = pr.current := withdrawn_current q0 hb
  have hfab : u1.fab = u.fab := State.fadd_fab ..
  have hx1 : s1.txn? id = some x := by
    refine (delTxn_txn? u1 y.id id).trans ((if_neg hne).trans ?_)
    rw [State.txn?, hfab]
    exact hx
  have hk1 : preparedSlot (q0.withdrawn hb) h = some k := (withdrawn_prepared q0 hbh).trans hk
  have hc1 : (q0.withdrawn hb).slots[(q0.withdrawn hb).current]? = some .current := by
    rw [hcurrent]
    exact withdrawn_slot (pr := q0) hcur SlotState.noConfusion
  obtain ⟨h1, h2⟩ := published_slots (preparedSlot_get hk1) hc1
  rw [hcurrent, hpins] at h2
  have hpub1 : s1.pub? pr.region = some pr := by
    have hcoh : u1.coh = u.coh := State.fadd_coh ..
    show u1.coh.pubs.find? _ = _
    rw [hcoh]
    exact hpub
  refine ⟨s1.setPub ((q0.withdrawn hb).published k), ?_, ⟨(q0.withdrawn hb).published k, State.pub?_setPub hpub1 hreg, congrArg (fun v => (v + 1) % 2 ^ 32) hver, h1, hord, h2⟩, ?_, ?_⟩
  · rw [publishPoint_eq (others := [y.id]) ho, hsup]
    refine (publishLast_of hx1 hh hk1).trans ?_
    rw [hver]
  · show u1.fab.ended ++ _ = _
    rw [hfab]
  · have same (q : State) (i : Nat) (l : List Ended) (p : PubRegion) : (State.setPub { q.delTxn i with fab.ended := l } p).fget CM_CLR_COH_STAT.SUPERSEDED [y.clr] =
        q.fget CM_CLR_COH_STAT.SUPERSEDED [y.clr] := State.fget_of_ctl rfl ..
    exact (same ..).trans (State.fget_fadd_of_lt u (f := CM_CLR_COH_STAT.SUPERSEDED) (Or.inl rfl) (by decide) hclr 1)

/-- Settles O43: the partners' requests by what serves them, the publish point by `publishPoint_eq`, the Sequencer by its first operation. -/
theorem subscriptionsAndPublishesFollowTheSequencer : Obligations.SubscriptionsAndPublishesFollowTheSequencer := by
  unfold Obligations.SubscriptionsAndPublishesFollowTheSequencer
  intro s t lp clr tag count id a k c? q w g pr v x y o u me ans plain pubd live seqNew newTxn?
  have target {vc n : Nat} {need : Right} {kind : RegionKind} {slots : Nat} (h : regionTarget u q.req n need kind = .ok (w, a, g)) :
      regionTarget (returnCredit q.lp vc slots u) q.req n need kind = .ok (w, a, g) := (regionTarget_returned ..).trans h
  have asks {vc slots : Nat} (hp : Passes vc q u) {ask : Ask} {r : State} (hr : serveRequest q.req q.lp ask (returnCredit q.lp vc slots u) = r) :
      arriveReq t vc slots q ask s = .next (settle r) := arriveReq_ask hp hr
  refine ⟨fun hp hnew => ⟨?_, ?_, ?_, ?_⟩, fun hp hnew => ⟨?_, ?_⟩, fun hx hid => ⟨?_, ?_, ?_, ?_⟩, ?_, ?_, ?_, ?_, ?_, ?_, ?_, ?_⟩
  · rintro ⟨ht, hg⟩
    have hsub := serveSubscribe_of (die := lpDie q.lp) (target (vc := vcReq) (slots := 2) ht)
    have hunsub := serveUnsubscribe_of (die := lpDie q.lp) (target (vc := vcReq) (slots := 2) ht)
    rw [hg] at hsub hunsub
    have subs {r : State} (h : _ = r) := asks (slots := 2) (ask := .subscribe) hp ((if_neg (hp.opens 2)).trans (hsub.trans h))
    have unsubs {r : State} (h : _ = r) := asks (slots := 2) (ask := .unsubscribe) hp ((if_neg (hp.opens 2)).trans (hunsub.trans h))
    have no {b : Bool} (h : b = false) : ¬ b = true := fun e => Bool.false_ne_true (h.symm.trans e)
    refine ⟨fun h1 => subs (if_pos h1), fun h1 h2 => subs ((if_neg (no h1)).trans (if_pos (Or.inl h2))), fun h1 h2 h3 h4 => ?_, fun h1 => unsubs (if_pos h1), fun h1 => ?_⟩
    · have hroom := not_or.2 ⟨Nat.not_le.2 h2, Nat.not_le.2 h3⟩
      exact ⟨addSub w.region g.clr me (returnCredit q.lp vcReq 2 u), subs ((if_neg (no h1)).trans ((if_neg hroom).trans (if_neg (no h4)))), addSub_subscribed .., fun z hz => mem_addSub hz _⟩
    · refine ⟨_, unsubs (if_neg (no h1)), fun z => ?_⟩
      show z ∈ u.coh.subs.filter _ ↔ _
      rw [List.mem_filter]
      simp only [Bool.not_eq_true', Bool.and_eq_false_iff, beq_eq_false_iff_ne, ne_eq, not_and_or, me]
  · rintro ⟨ht, hg, hpr⟩ hnone hothers
    have hprep := servePrepare_of (die := lpDie q.lp) (pr := pr) (target (vc := vcReq) (slots := 2) ht) (by rw [hg]; exact hpr)
    have hno : (u.fab.txns.any fun e => e.2.kind == .prepare && e.2.region == g.region && holderOf e.2.src == some (.port q.lp) && !e.2.ended) = false :=
      List.any_eq_false.2 fun e he => by simp [hothers e he]
    rw [if_neg (fun e => e.elim (fun h => by rw [show preparedSlot pr (.port q.lp) = none from hnone] at h; exact Bool.false_ne_true h) fun h => Bool.false_ne_true (hno.symm.trans h))] at hprep
    refine ⟨fun hfree => ?_, fun hfree => ?_⟩
    · have hpk : pr.prepare me = some (k, { pr with slots := pr.slots.set k (.prepared me) }) := by rw [PubRegion.prepare, hfree]; rfl
      rw [show pr.prepare (.port q.lp) = _ from hpk] at hprep
      exact ⟨_, asks (slots := 2) (ask := .prepare) hp ((if_neg (hp.opens 2)).trans hprep), State.pub?_setPub (q' := { pr with slots := pr.slots.set k (.prepared me) }) hpr rfl⟩
    · have hpk : pr.prepare me = none := by rw [PubRegion.prepare, hfree]; rfl
      rw [show pr.prepare (.port q.lp) = _ from hpk] at hprep
      exact ⟨_, asks (slots := 2) (ask := .prepare) hp ((if_neg (hp.opens 2)).trans hprep), ⟨_, addTxn_txn? .., rfl, rfl, rfl⟩, rfl⟩
  · rintro ⟨ht, hg, hpr⟩ hsome
    have hprep := servePrepare_of (die := lpDie q.lp) (pr := pr) (target (vc := vcReq) (slots := 2) ht) (by rw [hg]; exact hpr)
    rw [if_pos (Or.inl hsome)] at hprep
    exact asks (slots := 2) (ask := .prepare) hp ((if_neg (hp.opens 2)).trans hprep)
  · rintro ⟨ht, hg, hpr⟩
    have hopen := serveOpen_of (die := lpDie q.lp) (pr := pr) (target (vc := vcReq) (slots := 2) ht) (by rw [hg]; exact hpr)
    have hclose := serveClose_of (die := lpDie q.lp) (pr := pr) (target (vc := vcReq) (slots := 2) ht) (by rw [hg]; exact hpr)
    refine ⟨⟨_, _, asks (slots := 2) (ask := .openPin) hp ((if_neg (hp.opens 2)).trans hopen), State.pub?_setPub hpr rfl, rfl, fun k => ?_⟩,
      ⟨_, _, asks (slots := 2) (ask := .closePin) hp ((if_neg (hp.opens 2)).trans hclose), State.pub?_setPub hpr rfl, rfl, fun k => ?_⟩⟩
    · show (me, k) ∈ pr.pins.filter _ ++ [_] ↔ _
      rw [List.mem_append, List.mem_filter, List.mem_singleton]
      simp [me]
    · show (me, k) ∉ pr.pins.filter _
      rw [List.mem_filter]
      simp [me]
  · rintro ⟨ht, -⟩ hl
    have hinv := serveInval_of (die := lpDie q.lp) (target (vc := vcOrd) (slots := 2) ht) hl
    exact ⟨_, asks (slots := 2) (ask := .inval (count % 2 ^ 24 + 1)) hp ((if_neg (hp.opens 2)).trans hinv), rfl, ⟨_, addTxn_txn? .., rfl, rfl, rfl⟩⟩
  · rintro ⟨ht, hg, hpr⟩
    obtain ⟨hno, hyes⟩ := servePublish_of (die := lpDie q.lp) (pr := pr) (target (vc := vcOrd) (slots := 2) ht) (by rw [hg]; exact hpr)
    let z : Txn := { newTxn q.req .publish w w.pnode a (lpDie q.lp) (returnCredit q.lp vcOrd 2 u) with phase := .held }
    have hwrites : writesOut ((returnCredit q.lp vcOrd 2 u).addTxn z) me w.region = writesOut u me w.region := writesOut_addTxn rfl hnew (show needOf .publish ≠ .w by decide) me w.region
    refine ⟨fun hn => asks (slots := 2) (ask := .publish) hp ((if_neg (hp.opens 2)).trans (hno hn)), fun hs hw => ?_, fun hs hw => ?_⟩
    · have hgo := publishForward_goes (x := z) (s := (returnCredit q.lp vcOrd 2 u).addTxn z) (h := me) rfl (hwrites.trans hw)
      refine ⟨_, asks (slots := 2) (ask := .publish) hp ((if_neg (hp.opens 2)).trans ((hyes hs).trans hgo)), rfl, ⟨{ z with phase := .seq }, ?_, rfl, rfl, rfl⟩⟩
      exact putTxn_txn? ((returnCredit q.lp vcOrd 2 u).addTxn z) { z with phase := .seq }
    · have hstay := publishForward_held (x := z) (s := (returnCredit q.lp vcOrd 2 u).addTxn z) (h := me) rfl (hwrites.trans hw)
      exact ⟨_, asks (slots := 2) (ask := .publish) hp ((if_neg (hp.opens 2)).trans ((hyes hs).trans hstay)), rfl, ⟨z, addTxn_txn? .., rfl, rfl, rfl⟩⟩
  · intro hph hk h hh
    have hcmd : execPublishForward t id s = .next (settle (publishForward x u)) := (execPublishForward_of hx).trans (by rw [if_pos ⟨hph, hk⟩])
    refine ⟨fun hw => ?_, fun hw => ?_⟩
    · rw [publishForward_held hh hw] at hcmd
      exact hcmd
    · rw [publishForward_goes hh hw] at hcmd
      refine ⟨_, hcmd, ?_, by rw [hid]; rfl⟩
      rw [← hid]
      exact putTxn_txn? u { x with phase := .seq }
  · intro hph
    exact (execPublishForward_of hx).trans (by rw [if_neg fun e => hph e.1])
  · intro hph he hclr hlate
    refine ⟨(u.fadd CM_CLR_TXN_ERR.TIMEOUT [x.clr] 1).delTxn x.id, (execPrepareTimeout_of hx).trans ?_, ?_, ?_⟩
    · rw [if_pos ⟨hph, hlate⟩, timeoutTxn_open he]
    · rw [delTxn_txn?, if_pos hid]
    · have same (q : State) : (q.delTxn x.id).fget CM_CLR_TXN_ERR.TIMEOUT [x.clr] = q.fget CM_CLR_TXN_ERR.TIMEOUT [x.clr] := State.fget_of_ctl rfl ..
      rw [same, State.fget_fadd_of_lt _ (Or.inr rfl) (by decide) hclr]
  · intro hearly
    exact (execPrepareTimeout_of hx).trans (by rw [if_neg fun e => absurd e.2 (Nat.not_le.2 hearly)])
  · intro he
    exact whenever_false (bne_eq_false_iff_eq.2 he) ..
  · intro hn hpubs hcur hx hid h hh hk done
    have hpoint := execPublishPoint_one hn hpubs
    let u' : State := { u with coh.pubPoint := u.now / 2000 }
    have hpub : u'.pub? pr.region = some pr := by
      show u.coh.pubs.find? _ = _
      rw [hpubs]
      simp
    have hx' : u'.txn? id = some x := hx
    refine ⟨fun ho => ?_, fun ho hy hne he hclr hsrc hother => ?_⟩
    · have hlast := publishLast_of (q := { pr with ordered := [] }) hx' hh hk
      obtain ⟨h1, h2⟩ := published_slots (pr := { pr with ordered := [] }) (preparedSlot_get hk) hcur
      refine ⟨u'.setPub (PubRegion.published { pr with ordered := [] } k), hpoint.trans (congrArg (fun q => Host.Outcome.next (settle q)) ((publishPoint_eq (others := []) ho u').trans hlast)), ?_⟩
      exact ⟨_, State.pub?_setPub hpub rfl, rfl, h1, rfl, h2⟩
    · obtain ⟨r, hr, hq, hended, hcount⟩ := publishPoint_supersedes (u := u') hpub ho hcur hx' hh hk hy hne he hclr hsrc hother
      exact ⟨r, ⟨hpoint.trans (congrArg (fun q => Host.Outcome.next (settle q)) hr), hq⟩, hended, hcount⟩
  · intro ha hi hc hb hl hq hpol
    have hcmd : execInvAck t lp clr tag s = .next (settle (invAck lp tag (returnCredit lp vcSnp 1 u))) := execInvAck_of ⟨ha, hi, hc, hb, hl, hq, hpol⟩
    refine ⟨fun hf => ?_, fun hf => ⟨fun haw hx => ?_, fun hmore => ?_⟩⟩
    · refine hcmd.trans (congrArg (fun q => Host.Outcome.next (settle q)) ?_)
      unfold invAck
      rw [show (returnCredit lp vcSnp 1 u).coh.invals.find? (fun v => v.awaits.contains (.port lp, tag)) = none from hf]
    · have hack := invAck_last (s := returnCredit lp vcSnp 1 u) hf haw hx
      refine ⟨_, hcmd.trans (congrArg (fun q => Host.Outcome.next (settle q)) hack), fun z => ?_⟩
      show z ∈ u.coh.invals.filter _ ↔ _
      rw [List.mem_filter, bne_iff_ne]
    · obtain ⟨h, hm, hne⟩ := hmore
      have hack := invAck_more (s := returnCredit lp vcSnp 1 u) hf hm hne
      refine ⟨_, hcmd.trans (congrArg (fun q => Host.Outcome.next (settle q)) hack), rfl, { v with awaits := v.awaits.filter fun a => a != (.port lp, tag) }, ?_, rfl, fun h => ?_⟩
      · exact List.mem_map.2 ⟨v, List.mem_of_find?_eq_some hf, if_pos (beq_self_eq_true _)⟩
      · rw [List.mem_filter, bne_iff_ne]
  · intro hv
    refine ⟨fun hlate hx hc hclr => ?_, fun hearly => (execInvLimitExpiry_of hv).trans (whenever_false (decide_eq_false (Nat.not_le.2 hearly)) ..)⟩
    refine ⟨unansweredLapse clr v u, ?_, fun z => ?_, fun z hz hr hw => ?_, ?_⟩
    · exact (execInvLimitExpiry_of hv).trans ((whenever_true (decide_eq_true hlate) ..).trans (congrArg (fun q => Host.Outcome.next (settle q)) (invExpire_of hc hx)))
    · rw [unansweredLapse, State.fadd_coh]
      show z ∈ u.coh.invals.filter _ ↔ _
      rw [List.mem_filter, bne_iff_ne]
    · rw [unansweredLapse, State.fadd_coh]
      exact List.mem_map.2 ⟨z, hz, if_pos (by rw [hr, beq_self_eq_true, Bool.true_and]; exact List.contains_iff_mem.2 hw)⟩
    · rw [unansweredLapse, State.fget_fadd_of_lt _ (Or.inl rfl) (by decide) hclr, List.length_map]
      exact congrArg (fun n => saturate 16 (n + v.awaits.length)) (State.fget_of_ctl rfl ..)
  · intro hf hk hruns
    have hpos := positionOp_plain hf hk
    exact ⟨_, (whenever_true hruns ..).trans (congrArg (fun q => Host.Outcome.next (settle q)) hpos), rfl, rfl⟩
  · intro hruns
    exact whenever_false hruns ..
  · intro hw
    exact congrArg (fun q => Host.Outcome.next (settle q)) (holdOp_waits hw)
  · intro ho hp
    refine ⟨fun hk hx hid hc hs => ?_, fun hk hx hpr => ?_⟩
    · refine ⟨_, congrArg (fun q => Host.Outcome.next (settle q)) (holdOp_inval ho hp hk hx hc hs), fun z => ?_⟩
      show z ∈ u.coh.seqOps.filter _ ↔ _
      rw [List.mem_filter, bne_iff_ne]
    · refine ⟨_, congrArg (fun q => Host.Outcome.next (settle q)) (holdOp_publish ho hp hk hx), ?_, fun z => ?_⟩
      · have hf (p : PubRegion) : (if p.region == x.region then { p with ordered := p.ordered ++ [id] } else p).region = p.region := by split <;> rfl
        refine (find?_map_region hf u.coh.pubs x.region).trans ?_
        rw [show u.coh.pubs.find? (fun p => p.region == x.region) = some pr from hpr]
        exact congrArg some (if_pos (List.find?_some hpr))
      · show z ∈ u.coh.seqOps.filter _ ↔ _
        rw [List.mem_filter, bne_iff_ne]

end Sys2Proof.Machine
end

section
/-! SUPPORT. The order in which control words are listed tells when a cell of clearing 127 was refused on die 7 (O11). A store puts a word before the first one of a greater address, so in
a state whose words are not in rising order a later store can move the word that stood behind it. The drop of STANDBY does so, with its own counter; what follows every command does not. -/

namespace Sys2Proof.Machine

/-- HELD of clearing 127 on die 7. -/
abbrev heldAddr : Nat := 0x37007FB

/-- The counters of its discards: the word behind it. -/
abbrev dropAddr : Nat := 0x37007FC

/-- An address between the copses' blocks and the forwarding core's, at which no word stands. -/
abbrev strayAddr : Nat := 0x2F00000

theorem heldAddr_lt_dropAddr : heldAddr < dropAddr := by decide

/-- The stray entry stands behind HELD with nothing of a greater address before it, and no word above HELD is listed but the discards, none of them counted for a port that is down. -/
structure LateOrder (c : SMap Word) : Prop where
  held : [heldAddr, strayAddr].Sublist (c.map Prod.fst)
  drop : ¬ [dropAddr, strayAddr].Sublist (c.map Prod.fst)
  above : ∀ e ∈ c, heldAddr < e.1 → e.1 = dropAddr ∧ bitsOf e.2 63 48 = 0

/-- Where the words stand in the late order, no cell of clearing 127 waits refused on die 7. -/
structure HeldInOrder (s : State) : Prop where
  none : LateOrder s.ctl → ∀ e ∈ s.fwd.refused, ¬ (e.1 = 7 ∧ e.2.clr = 127)

/-! The order under a store. -/

theorem SMap.erase_eq_filter {α : Type} (m : SMap α) (a : Nat) : SMap.erase m a = m.filter fun e => e.1 != a := by
  induction m with
  | nil => rfl
  | cons e m ih => by_cases h : e.1 = a <;> simp [SMap.erase, h, ih]

theorem SMap.filter_set {α : Type} [DecidableEq α] (d : α) (m : SMap α) (a : Nat) (v : α) :
    (SMap.set d m a v).filter (fun e => e.1 != a) = m.filter fun e => e.1 != a := by
  unfold SMap.set
  split
  · rw [SMap.erase_eq_filter, List.filter_filter]
    simp
  · rw [SMap.filter_insert_of_not (by simp), SMap.erase_eq_filter, List.filter_filter]
    simp

theorem SMap.mem_set_of_ne {α : Type} [DecidableEq α] {d : α} {m : SMap α} {a : Nat} {v : α} {e : Nat × α} (h : e.1 ≠ a) : e ∈ SMap.set d m a v ↔ e ∈ m := by
  have := congrArg (e ∈ ·) (SMap.filter_set d m a v)
  simpa [h] using this

theorem pair_sublist_filter {α : Type} {x y a : Nat} (hx : x ≠ a) (hy : y ≠ a) (m : SMap α) :
    [x, y].Sublist ((m.filter fun e => e.1 != a).map Prod.fst) ↔ [x, y].Sublist (m.map Prod.fst) := by
  have hf : (m.filter fun e => e.1 != a).map Prod.fst = (m.map Prod.fst).filter (· != a) := by
    rw [List.filter_map]
    rfl
  have hxy : [x, y].filter (· != a) = [x, y] := by simp [hx, hy]
  rw [hf]
  exact ⟨fun h => h.trans List.filter_sublist, fun h => hxy ▸ h.filter _⟩

theorem pair_sublist_set {α : Type} [DecidableEq α] {d : α} {m : SMap α} {x y a : Nat} {v : α} (hx : x ≠ a) (hy : y ≠ a) :
    [x, y].Sublist ((SMap.set d m a v).map Prod.fst) ↔ [x, y].Sublist (m.map Prod.fst) := by
  rw [← pair_sublist_filter hx hy, SMap.filter_set, pair_sublist_filter hx hy]

/-- An entry is put right before the first greater one: whatever of smaller address stands behind it stands behind that one too. -/
theorem greater_of_insert {α : Type} {m : SMap α} {a b : Nat} {v : α} (hb : b < a) (ha : ∀ e ∈ m, e.1 ≠ a) (h : [a, b].Sublist ((SMap.insert m a v).map Prod.fst)) :
    ∃ c, a < c ∧ c ∈ m.map Prod.fst ∧ [c, b].Sublist (m.map Prod.fst) := by
  induction m with
  | nil => simp [SMap.insert] at h
  | cons e m ih =>
    obtain ⟨k, w⟩ := e
    have hk : k ≠ a := ha (k, w) (List.mem_cons_self ..)
    unfold SMap.insert at h
    split at h
    next hlt =>
      have hmem : b ∈ k :: m.map Prod.fst := by simpa using h
      have hmem : b ∈ m.map Prod.fst := (List.mem_cons.1 hmem).resolve_left (by omega)
      exact ⟨k, hlt, List.mem_cons_self .., (List.singleton_sublist.2 hmem).cons_cons k⟩
    next =>
      have h : [a, b].Sublist ((SMap.insert m a v).map Prod.fst) := by
        cases h with
        | cons _ h => exact h
        | cons_cons _ h => exact absurd rfl hk
      obtain ⟨c, hc, hm, hs⟩ := ih (fun e he => ha e (List.mem_cons_of_mem _ he)) h
      exact ⟨c, hc, List.mem_cons_of_mem _ hm, hs.cons k⟩

/-- A store at another word leaves the late order as it was: it lies below HELD, or a word that the late order does not allow stays listed. -/
theorem LateOrder.of_set {c : SMap Word} {d v : Word} {a : Nat} (h : LateOrder (SMap.set d c a v)) (hs : a ≠ strayAddr)
    (ha : a < heldAddr ∨ ∃ e ∈ c, dropAddr < e.1 ∧ e.1 ≠ a) : LateOrder c := by
  obtain ⟨hheld, hdrop, habove⟩ := h
  rcases ha with ha | ⟨e, he, hgt, hne⟩
  · refine ⟨?_, ?_, fun e he hgt => habove e ((SMap.mem_set_of_ne (by omega)).2 he) hgt⟩
    · rwa [pair_sublist_set (by omega) hs.symm] at hheld
    · rwa [pair_sublist_set (ha.trans heldAddr_lt_dropAddr).ne' hs.symm] at hdrop
  · have := (habove e ((SMap.mem_set_of_ne hne).2 he) (heldAddr_lt_dropAddr.trans hgt)).1
    exact absurd this hgt.ne'

/-- A store of HELD itself never leaves the late order. -/
theorem not_lateOrder_set_held {c : SMap Word} {d v : Word} : ¬ LateOrder (SMap.set d c heldAddr v) := by
  rintro ⟨hheld, hdrop, habove⟩
  have hne : ∀ e ∈ SMap.erase c heldAddr, e.1 ≠ heldAddr := fun e he => (SMap.mem_erase.1 he).2
  have hins : SMap.set d c heldAddr v = SMap.insert (SMap.erase c heldAddr) heldAddr v := by
    unfold SMap.set
    split
    next hd =>
      rw [SMap.set, if_pos hd] at hheld
      obtain ⟨e, he, heq⟩ := List.mem_map.1 (hheld.subset (List.mem_cons_self ..))
      exact absurd heq (hne e he)
    next => rfl
  rw [hins] at hheld habove hdrop
  obtain ⟨k, hgt, hmem, hpair⟩ := greater_of_insert (by decide) hne hheld
  obtain ⟨e, he, rfl⟩ := List.mem_map.1 hmem
  rw [(habove e (SMap.mem_insert.2 (Or.inr he)) hgt).1] at hpair
  rw [SMap.erase_eq_filter, pair_sublist_filter (by decide) (by decide)] at hpair
  exact hdrop (hins ▸ (pair_sublist_set (by decide) (by decide)).2 hpair)

/-- Neither does a store of the discards with one counted for a port that is down. -/
theorem not_lateOrder_set_drop {c : SMap Word} {v : Word} (hv : bitsOf v 63 48 ≠ 0) : ¬ LateOrder (SMap.set 0 c dropAddr v) := by
  rintro ⟨-, -, habove⟩
  have hv0 : v ≠ 0 := fun h => hv (by rw [h]; decide)
  rw [SMap.set, if_neg hv0] at habove
  exact hv (habove (dropAddr, v) (SMap.mem_insert.2 (Or.inl rfl)) heldAddr_lt_dropAddr).2

end Sys2Proof.Machine
end

section
/-! SUPPORT. The stores of control words, refusals, discards and trails under that order (LateOrder): the operations of which what follows a command is made (O11). -/

namespace Sys2Proof.Machine

variable {s : State}

/-! Where words stand. -/

/-- The greatest sum of index × stride. -/
def dimSpan : List (Nat × Nat) → Nat
  | [] => 0
  | (n, st) :: ds => (n - 1) * st + dimSpan ds

theorem dotIx_le_dimSpan {ds : List (Nat × Nat)} {ix : List Nat} (h : fitsDims ds ix = true) : dotIx ds ix ≤ dimSpan ds := by
  induction ds generalizing ix with
  | nil => exact Nat.le_refl 0
  | cons d ds ih =>
    cases ix with
    | nil => exact absurd h Bool.false_ne_true
    | cons i ix =>
      obtain ⟨hi, hr⟩ := Bool.and_eq_true_iff.1 h
      exact Nat.add_le_add (Nat.mul_le_mul_right _ (Nat.le_sub_one_of_lt (of_decide_eq_true hi))) (ih hr)

theorem CW.home_cases (w : CW) (ix : List Nat) : w.home ix = ix ∨ ∃ i r, ix = i :: r ∧ w.home ix = 0 :: r := by
  unfold CW.home
  split
  any_goals exact Or.inr ⟨_, _, rfl, rfl⟩
  exact Or.inl rfl

theorem CW.addr_home_le {w : CW} {ix : List Nat} (h : w.inRange ix = true) : w.addr (w.home ix) ≤ w.place.base + dimSpan w.place.dims := by
  have hfit := (Bool.and_eq_true_iff.1 h).1
  have hle : dotIx w.place.dims (w.home ix) ≤ dotIx w.place.dims ix := by
    rcases w.home_cases ix with he | ⟨i, r, rfl, he⟩
    · rw [he]
    · rw [he]
      cases w.place.dims with
      | nil => exact Nat.le_refl 0
      | cons d ds => exact Nat.add_le_add_right (Nat.mul_le_mul_right _ (Nat.zero_le i)) _
  exact Nat.add_le_add_left (hle.trans (dotIx_le_dimSpan hfit)) _

/-- The words below the stray address: all but those of the forwarding core and the scheduler. -/
def CW.isLow (w : CW) : Bool := decide (w.place.base + dimSpan w.place.dims < strayAddr)

theorem CW.addr_lt_of_isLow {w : CW} {ix : List Nat} (hw : w.isLow = true) (h : w.inRange ix = true) : w.addr (w.home ix) < strayAddr :=
  (CW.addr_home_le h).trans_lt (of_decide_eq_true hw)

/-! Stores. -/

theorem HeldInOrder.of_eq {r : State} (h : HeldInOrder s) (hc : LateOrder r.ctl → LateOrder s.ctl) (hr : r.fwd.refused = s.fwd.refused) : HeldInOrder r :=
  ⟨fun hl => hr ▸ h.none (hc hl)⟩

theorem State.setWord_ordered_of {w : CW} {ix : List Nat} {v : Word} (h : HeldInOrder s)
    (hc : w.inRange ix = true → LateOrder (SMap.set (w.resetWord (w.home ix)) s.ctl (w.addr (w.home ix)) v) → LateOrder s.ctl) : HeldInOrder (s.setWord w ix v) := by
  unfold State.setWord
  split
  next hw => exact h.of_eq (hc hw) rfl
  next => exact h

theorem State.setWord_ordered {w : CW} {ix : List Nat} {v : Word} (hw : w.isLow = true) (h : HeldInOrder s) : HeldInOrder (s.setWord w ix v) :=
  State.setWord_ordered_of h fun hi hl =>
    have hlt := CW.addr_lt_of_isLow hw hi
    hl.of_set hlt.ne (Or.inl (hlt.trans (by decide)))

theorem State.fset_ordered {f : Fld} {ix : List Nat} {v : Nat} (hf : f.w.isLow = true) (h : HeldInOrder s) : HeldInOrder (s.fset f ix v) := State.setWord_ordered hf h

theorem State.addTotal_ordered {k n : Nat} (h : HeldInOrder s) : HeldInOrder (s.addTotal k n) := h.of_eq id rfl

theorem State.fadd_ordered {f : Fld} {ix : List Nat} {n : Nat} (hf : f.w.isLow = true) (h : HeldInOrder s) : HeldInOrder (s.fadd f ix n) :=
  State.addTotal_ordered (State.fset_ordered hf h)

theorem State.fwrap_ordered {f : Fld} {ix : List Nat} {n : Nat} (hf : f.w.isLow = true) (h : HeldInOrder s) : HeldInOrder (s.fwrap f ix n) :=
  State.addTotal_ordered (State.fset_ordered hf h)

/-! Refusals: HELD is counted behind everything smaller. -/

theorem cntBuf_addr {ix : List Nat} (h : CW.inRange .FW_CLR_CNT_BUF ix = true) : CW.addr .FW_CLR_CNT_BUF ix ≤ heldAddr ∧ strayAddr < CW.addr .FW_CLR_CNT_BUF ix :=
  ⟨CW.addr_home_le h, Nat.lt_of_lt_of_le (by decide) (Nat.le_add_right _ _)⟩

theorem lateOrder_of_set_cntBuf {c : SMap Word} {d v : Word} {ix : List Nat} (h : CW.inRange .FW_CLR_CNT_BUF ix = true)
    (hl : LateOrder (SMap.set d c (CW.addr .FW_CLR_CNT_BUF ix) v)) : LateOrder c := by
  obtain ⟨hle, hgt⟩ := cntBuf_addr h
  rcases hle.lt_or_eq with hlt | heq
  · exact hl.of_set hgt.ne' (Or.inl hlt)
  · rw [heq] at hl
    exact absurd hl not_lateOrder_set_held

theorem State.fadd_ordered_cntBuf {hi lo n : Nat} {ix : List Nat} (h : HeldInOrder s) : HeldInOrder (s.fadd ⟨.FW_CLR_CNT_BUF, hi, lo⟩ ix n) :=
  State.addTotal_ordered (State.setWord_ordered_of h fun hr hl => lateOrder_of_set_cntBuf hr hl)

theorem refuseCell_ctl (die : Nat) (c : Cell) (s : State) : (refuseCell die c s).ctl = (s.fadd FW_CLR_CNT_BUF.HELD [die, c.clr] 1).ctl := by
  unfold refuseCell State.fadd State.addTotal State.fset State.setWord State.fget State.word
  dsimp only
  split <;> rfl

theorem refuseCell_refused (die : Nat) (c : Cell) (s : State) : (refuseCell die c s).fwd.refused = s.fwd.refused ++ [(die, c)] := by
  rw [refuseCell, State.fadd_fwd]

theorem refuseCell_ordered {die : Nat} {c : Cell} (h : HeldInOrder s) : HeldInOrder (refuseCell die c s) := by
  refine ⟨fun hl e he hc => ?_⟩
  rw [refuseCell_ctl] at hl
  rw [refuseCell_refused, List.mem_append, List.mem_singleton] at he
  have hlast : e = (die, c) := he.resolve_left fun he => (State.fadd_ordered_cntBuf (hi := 63) (lo := 48) (ix := [die, c.clr]) (n := 1) h).none hl e (by rwa [State.fadd_fwd]) hc
  subst hlast
  obtain ⟨rfl, hclr⟩ := hc
  dsimp only at hclr
  rw [hclr] at hl
  have hset : (s.fadd FW_CLR_CNT_BUF.HELD [7, 127] 1).ctl = SMap.set 0 s.ctl heldAddr (setBits (s.word .FW_CLR_CNT_BUF [7, 127]) 63 48 (saturate 16 (s.fget FW_CLR_CNT_BUF.HELD [7, 127] + 1))) := rfl
  rw [hset] at hl
  exact not_lateOrder_set_held hl

/-! Discards for a port that is down. -/

theorem cntDrop_addr {g c : Nat} (h : CW.inRange .FW_CLR_CNT_DROP [g, c] = true) :
    strayAddr < CW.addr .FW_CLR_CNT_DROP [g, c] ∧ (CW.addr .FW_CLR_CNT_DROP [g, c] < heldAddr ∨ CW.addr .FW_CLR_CNT_DROP [g, c] = dropAddr) := by
  simp only [CW.inRange, CW.place, fitsDims, CW.named, Bool.and_eq_true, decide_eq_true_eq, and_true] at h
  simp only [CW.addr, CW.place, dotIx, strayAddr, heldAddr, dropAddr]
  omega

theorem State.fadd_ordered_portDown {g c : Nat} (h : HeldInOrder s) : HeldInOrder (s.fadd FW_CLR_CNT_DROP.PORT_DOWN [g, c] 1) := by
  refine State.addTotal_ordered (State.setWord_ordered_of h fun hr hl => ?_)
  obtain ⟨hgt, hlt | heq⟩ := cntDrop_addr hr
  · exact hl.of_set hgt.ne' (Or.inl hlt)
  · have hcount : bitsOf (setBits (s.word .FW_CLR_CNT_DROP [g, c]) 63 48 (saturate 16 (s.fget FW_CLR_CNT_DROP.PORT_DOWN [g, c] + 1))) 63 48 ≠ 0 := by
      rw [bitsOf_setBits _ (by decide) (by decide), saturate]
      omega
    have hset : CW.addr .FW_CLR_CNT_DROP (CW.home .FW_CLR_CNT_DROP [g, c]) = dropAddr := heq
    rw [hset] at hl
    exact absurd hl (not_lateOrder_set_drop hcount)

theorem State.dropRefused_ordered {p : Nat × Cell → Bool} (h : HeldInOrder s) : HeldInOrder { s with fwd.refused := s.fwd.refused.filter p } :=
  ⟨fun hl e he => h.none hl e (List.mem_of_mem_filter he)⟩

/-! Trails: a ring that records has its CFG listed, above HELD on the last die. -/

theorem SMap.mem_of_get_ne {α : Type} {d : α} {m : SMap α} {a : Nat} (h : SMap.get d m a ≠ d) : ∃ e ∈ m, e.1 = a := by
  induction m with
  | nil => exact absurd rfl h
  | cons e m ih =>
    by_cases ha : e.1 = a
    · exact ⟨e, List.mem_cons_self .., ha⟩
    · rw [SMap.get, if_neg ha] at h
      obtain ⟨x, hx, hxa⟩ := ih h
      exact ⟨x, List.mem_cons_of_mem _ hx, hxa⟩

theorem trailCfg_listed {w : CW} {ix : List Nat} {e : TrailEv} (hreset : bitsOf (w.resetWord (w.home ix)) 63 63 = 0) (h : trailMatch (s.word w ix) e = true) :
    w.inRange ix = true ∧ ∃ x ∈ s.ctl, x.1 = w.addr (w.home ix) := by
  have hen : bitsOf (s.word w ix) 63 63 = 1 := by
    simp only [trailMatch, Bool.and_eq_true, beq_iff_eq] at h
    exact h.1.1.1.1
  unfold State.word at hen
  split at hen
  next hw => exact ⟨hw, SMap.mem_of_get_ne fun he => absurd (hreset.symm.trans (he ▸ hen)) (by decide)⟩
  next => exact absurd hen (by decide)

theorem trailCfg_off (g c : Nat) : bitsOf (CW.resetWord .FW_TRAIL_CFG (CW.home .FW_TRAIL_CFG [g, c])) 63 63 = 0 := by
  change bitsOf (setFields 0 (CW.fields .FW_TRAIL_CFG)) 63 63 = 0
  decide

theorem trailFmCfg_off (g : Nat) : bitsOf (CW.resetWord .FW_TRAILFM_CFG (CW.home .FW_TRAILFM_CFG [g])) 63 63 = 0 := by
  change bitsOf (setFields 0 (CW.fields .FW_TRAILFM_CFG)) 63 63 = 0
  decide

theorem writeChannel_ordered {ch byte : Nat} {bs : List Byte} (h : HeldInOrder s) : HeldInOrder (writeChannel ch byte bs s) := h.of_eq id rfl

theorem trails_ordered {m : SMap TrailSt} (h : HeldInOrder s) : HeldInOrder { s with fwd.trails := m } := ⟨h.none⟩

/-- What a ring writes keeps the order if the store of its IDX does. -/
theorem trailRing_ordered {ring : Nat} {cfg idx : CW} {ix : List Nat} {ch : Option Nat} {missed : Fld} {mix : List Nat} {e : TrailEv} (h : HeldInOrder s)
    (hidx : trailMatch (s.word cfg ix) e = true → ∀ r v, r.ctl = s.ctl → HeldInOrder r → HeldInOrder (r.setWord idx ix v))
    (hmissed : trailMatch (s.word cfg ix) e = true → ∀ r, r.ctl = s.ctl → HeldInOrder r → HeldInOrder (r.fadd missed mix 1)) :
    HeldInOrder (trailRing ring cfg idx ix ch missed mix e s) := by
  unfold trailRing
  dsimp only
  split
  next hm =>
    split
    next =>
      split
      all_goals
        split
        next => exact hmissed hm _ rfl (trails_ordered h)
        next =>
          split
          next => exact hidx hm _ _ rfl (writeChannel_ordered (trails_ordered h))
          next => exact trails_ordered h
    next => exact trails_ordered h
  next => exact h

/-- A store beside a listed word above the discards, or below HELD, keeps the order. -/
theorem HeldInOrder.setWord_trail {r : State} {w : CW} {ix : List Nat} {v : Word} (h : HeldInOrder r) (hgt : strayAddr < w.place.base)
    (ha : w.inRange ix = true → w.addr (w.home ix) < heldAddr ∨ ∃ e ∈ r.ctl, dropAddr < e.1 ∧ e.1 ≠ w.addr (w.home ix)) : HeldInOrder (r.setWord w ix v) :=
  State.setWord_ordered_of h fun hi hl => hl.of_set (Nat.lt_of_lt_of_le hgt (Nat.le_add_right _ _)).ne' (ha hi)

theorem trail_ordered {g : Nat} {e : TrailEv} (h : HeldInOrder s) : HeldInOrder (trail g e s) := by
  have hclr (h : HeldInOrder s) : HeldInOrder (trailRing (129 * g + e.clr) .FW_TRAIL_CFG .FW_TRAIL_IDX [g, e.clr] (lowChannel s.com.inForce g e.clr) FW_CLR_CNT_BUF.MISSED [g, e.clr] e s) := by
    refine trailRing_ordered h (fun hm r v hr hk => ?_) fun _ _ _ => State.fadd_ordered_cntBuf
    obtain ⟨hin, x, hx, hxa⟩ := trailCfg_listed (trailCfg_off g e.clr) hm
    refine hk.setWord_trail (by decide) fun _ => ?_
    simp only [CW.inRange, CW.place, fitsDims, CW.named, Bool.and_eq_true, decide_eq_true_eq, and_true] at hin
    simp only [CW.addr, CW.place, CW.home, dotIx, heldAddr, dropAddr] at hxa ⊢
    by_cases hg : g < 7
    · exact Or.inl (by omega)
    · exact Or.inr ⟨x, hr ▸ hx, by omega, by omega⟩
  have hfm (r : State) (h : HeldInOrder r) :
      HeldInOrder (trailRing (129 * g + 128) .FW_TRAILFM_CFG .FW_TRAILFM_IDX [g] (some (r.fget FW_TRAILFM_CFG.CH [g])) FW_CNT_MESH.FM_MISSED [g] e r) := by
    have hstore {w : CW} (hw : w = .FW_TRAILFM_IDX ∨ w = .FW_CNT_MESH) (hm : trailMatch (r.word .FW_TRAILFM_CFG [g]) e = true) (q : State) (v : Word) (hq : q.ctl = r.ctl)
        (hk : HeldInOrder q) : HeldInOrder (q.setWord w [g] v) := by
      obtain ⟨hin, x, hx, hxa⟩ := trailCfg_listed (trailFmCfg_off g) hm
      refine hk.setWord_trail (by rcases hw with rfl | rfl <;> decide) fun _ => ?_
      simp only [CW.inRange, CW.place, fitsDims, CW.named, Bool.and_eq_true, decide_eq_true_eq, and_true] at hin
      simp only [CW.addr, CW.place, CW.home, dotIx, heldAddr, dropAddr] at hxa ⊢
      by_cases hg : g < 7
      · exact Or.inl (by rcases hw with rfl | rfl <;> simp only [dotIx] <;> omega)
      · exact Or.inr ⟨x, hq ▸ hx, by omega, by rcases hw with rfl | rfl <;> simp only [dotIx] <;> omega⟩
    exact trailRing_ordered h (hstore (Or.inl rfl)) fun hm q hq hk => State.addTotal_ordered (hstore (Or.inr rfl) hm q _ hq hk)
  unfold trail
  split
  next => exact hfm s h
  next => exact hfm _ (hclr h)

end Sys2Proof.Machine
end

section
/-! SUPPORT. What follows a command keeps the order of HeldInOrder: every operation from which `settle` is made, one lemma each, in the order of the model (O11). -/

namespace Sys2Proof.Machine

theorem ordered_mk {pending now pkgRuns pkg draws ctl out pw boot link fab coh fwd sched nx svc clr com ecc mgmt} :
    HeldInOrder (State.mk pending now pkgRuns pkg draws ctl out pw boot link fab coh fwd sched nx svc clr com ecc mgmt) ↔
      (LateOrder ctl → ∀ e ∈ fwd.refused, ¬ (e.1 = 7 ∧ e.2.clr = 127)) :=
  ⟨fun h => h.none, fun h => ⟨h⟩⟩

theorem ordered_all {x : State} (h : HeldInOrder x) : LateOrder x.ctl → ∀ e ∈ x.fwd.refused, ¬ (e.1 = 7 ∧ e.2.clr = 127) := h.none

theorem ordered_ite {c : Prop} [Decidable c] {a b : State} (h1 : HeldInOrder a) (h2 : HeldInOrder b) : HeldInOrder (if c then a else b) := by split <;> assumption

theorem ordered_foldl {α : Type} {f : State → α → State} {l : List α} {s : State} (h : HeldInOrder s) (hf : ∀ s e, HeldInOrder s → HeldInOrder (f s e)) :
    HeldInOrder (l.foldl f s) := by
  induction l generalizing s with
  | nil => exact h
  | cons a l ih => exact ih (hf _ _ h)

/-- A state that may be absent. -/
structure HeldInOrderOpt (o : Option State) : Prop where
  some : ∀ s, o = Option.some s → HeldInOrder s

theorem orderedOpt_none : HeldInOrderOpt none := ⟨fun _ h => nomatch h⟩

theorem orderedOpt_some {s : State} (h : HeldInOrder s) : HeldInOrderOpt (some s) := ⟨fun _ e => by cases e; exact h⟩

theorem orderedOpt_ite {c : Prop} [Decidable c] {a b : Option State} (h1 : HeldInOrderOpt a) (h2 : HeldInOrderOpt b) : HeldInOrderOpt (if c then a else b) := by
  split <;> assumption

theorem orderedOpt_map {f : State → State} {o : Option State} (h : HeldInOrderOpt o) (hf : ∀ s, HeldInOrder s → HeldInOrder (f s)) : HeldInOrderOpt (o.map f) := by
  cases o with
  | none => exact orderedOpt_none
  | some s => exact orderedOpt_some (hf s (h.some s rfl))

theorem ordered_getD {o : Option State} {d : State} (h : HeldInOrderOpt o) (h' : HeldInOrder d) : HeldInOrder (o.getD d) := by
  cases o with
  | none => exact h'
  | some s => exact h.some s rfl

theorem State.setEvAux_ordered {s0 x1 x2 x3} (h0 : HeldInOrder s0) : HeldInOrder (State.setEvAux s0 x1 x2 x3) := h0.of_eq id rfl

theorem countEdge_ordered {x0 x1 s2} (h2 : HeldInOrder s2) : HeldInOrder (countEdge x0 x1 s2) := by
  unfold countEdge
  repeat' (first | (exact rfl) | (with_reducible first | assumption | apply ordered_ite | apply State.fset_ordered | apply State.fwrap_ordered | apply State.setEvAux_ordered))

theorem sampleSource_ordered {x0 x1 x2 s3} (h3 : HeldInOrder s3) : HeldInOrder (sampleSource x0 x1 x2 s3) := by
  unfold sampleSource
  repeat' (first | (exact rfl) | (with_reducible first | assumption | apply ordered_ite | apply State.fset_ordered | apply countEdge_ordered) | split)

theorem setSource_ordered {x0 x1 s2} (h2 : HeldInOrder s2) : HeldInOrder (setSource x0 x1 s2) := sampleSource_ordered (sampleSource_ordered h2)

theorem State.emit_ordered {s : State} {o} (h : HeldInOrder s) : HeldInOrder (s.emit o) := h.of_eq id rfl

theorem State.done_ordered {s0 x1 x2} (h0 : HeldInOrder s0) : HeldInOrder (State.done s0 x1 x2) := State.emit_ordered h0

theorem State.draw_ordered {s : State} (h : HeldInOrder s) : HeldInOrder s.draw := h.of_eq id rfl

theorem pulse_ordered {x0 s1} (h1 : HeldInOrder s1) : HeldInOrder (pulse x0 s1) := setSource_ordered (setSource_ordered h1)

theorem State.setFwUse_ordered {s0 x1 x2 x3} (h0 : HeldInOrder s0) : HeldInOrder (State.setFwUse s0 x1 x2 x3) := h0.of_eq id rfl

theorem addCharge_ordered {x0 x1 x2 x3 x4 s5} (h5 : HeldInOrder s5) : HeldInOrder (addCharge x0 x1 x2 x3 x4 s5) := by
  unfold addCharge
  repeat' (first | (with_reducible first | assumption | apply State.setFwUse_ordered) | split)

theorem State.setEgQ_ordered {s0 x1 x2 x3} (h0 : HeldInOrder s0) : HeldInOrder (State.setEgQ s0 x1 x2 x3) := h0.of_eq id rfl

theorem toOverflow_ordered {x0 x1 s2} (h2 : HeldInOrder s2) : HeldInOrderOpt (toOverflow x0 x1 s2) := by
  unfold toOverflow
  repeat' (first | (with_reducible first | assumption | apply orderedOpt_some | exact orderedOpt_none | apply orderedOpt_ite | apply trail_ordered | apply State.fadd_ordered_cntBuf | apply State.setEgQ_ordered))

theorem admitEgress_ordered {x0 x1 s2} (h2 : HeldInOrder s2) : HeldInOrderOpt (admitEgress x0 x1 s2) := by
  unfold admitEgress
  repeat' (first | (with_reducible first | assumption | apply orderedOpt_some | exact orderedOpt_none | apply orderedOpt_ite | apply toOverflow_ordered | apply State.setEgQ_ordered | apply addCharge_ordered) | split)

theorem State.setFlow_ordered {s0 x1 x2} (h0 : HeldInOrder s0) : HeldInOrder (State.setFlow s0 x1 x2) := h0.of_eq id rfl

theorem admitMesh_ordered {x0 s1} (h1 : HeldInOrder s1) : HeldInOrderOpt (admitMesh x0 s1) := by
  unfold admitMesh
  repeat' (first | (with_reducible first | assumption | apply orderedOpt_some | exact orderedOpt_none | apply State.setFlow_ordered | apply addCharge_ordered) | split | (dsimp only))

theorem tryEnter_ordered {x0 s1} (h1 : HeldInOrder s1) : HeldInOrderOpt (tryEnter x0 s1) := by
  unfold tryEnter
  repeat' (first | (with_reducible assumption) | (intro _) | (with_reducible first | apply orderedOpt_map | apply admitEgress_ordered | apply admitMesh_ordered | apply trail_ordered) | split)

theorem enterCell_ordered {x0 s1} (h1 : HeldInOrder s1) : HeldInOrder (enterCell x0 s1) := by
  unfold enterCell
  repeat' (first | (with_reducible first | assumption | apply ordered_ite | apply ordered_getD | apply refuseCell_ordered | apply tryEnter_ordered))

theorem sendCell_ordered {x0 x1 x2 x3 x4 x5 x6 x7 x8 x9 s10} (h10 : HeldInOrder s10) : HeldInOrder (sendCell x0 x1 x2 x3 x4 x5 x6 x7 x8 x9 s10) := enterCell_ordered h10

theorem dropCharge_ordered {x0 x1 x2 x3 x4 s5} (h5 : HeldInOrder s5) : HeldInOrder (dropCharge x0 x1 x2 x3 x4 s5) := by
  unfold dropCharge
  repeat' (first | (with_reducible first | assumption | apply State.setFwUse_ordered) | split)

theorem dropPointer_ordered {x0 s1} (h1 : HeldInOrder s1) : HeldInOrder (dropPointer x0 s1) := by
  unfold dropPointer
  repeat' (first | (with_reducible first | assumption | apply ordered_all) | (simp only [ordered_mk]) | (with_reducible first | apply dropCharge_ordered) | split)

theorem sendReq_ordered {x0 x1 x2 x3 x4 s5} (h5 : HeldInOrder s5) : HeldInOrder (sendReq x0 x1 x2 x3 x4 s5) := sendCell_ordered h5

theorem sendUnitSegs_ordered {x0 x1 x2 s3} (h3 : HeldInOrder s3) : HeldInOrder (sendUnitSegs x0 x1 x2 s3) := by
  induction x2 generalizing x0 x1 s3 with
  | nil =>
    unfold sendUnitSegs
    exact h3
  | cons a l ih =>
    unfold sendUnitSegs
    repeat' (first | (with_reducible first | assumption | apply ih | apply sendReq_ordered))

theorem sendMsgSegs_ordered {x0 x1 x2 x3 x4 x5 x6 x7 x8 s9} (h9 : HeldInOrder s9) : HeldInOrder (sendMsgSegs x0 x1 x2 x3 x4 x5 x6 x7 x8 s9) := by
  induction x6 generalizing x0 x1 x2 x3 x4 x5 x7 x8 s9 with
  | zero =>
    unfold sendMsgSegs
    exact h9
  | succ k ih =>
    unfold sendMsgSegs
    repeat' (first | (with_reducible first | assumption | apply ih | apply sendCell_ordered))

theorem emitTxn_ordered {x0 x1 s2} (h2 : HeldInOrder s2) : HeldInOrder (emitTxn x0 x1 s2) := by
  unfold emitTxn
  repeat' (first | (with_reducible first | assumption | apply sendReq_ordered | apply sendUnitSegs_ordered | apply sendMsgSegs_ordered) | split)

theorem State.putTxn_ordered {s0 x1} (h0 : HeldInOrder s0) : HeldInOrder (State.putTxn s0 x1) := h0.of_eq id rfl

theorem State.delTxn_ordered {s0 x1} (h0 : HeldInOrder s0) : HeldInOrder (State.delTxn s0 x1) := h0.of_eq id rfl

theorem respond_ordered {x0 x1 x2 x3 x4 x5 x6 x7 x8 x9 s10} (h10 : HeldInOrder s10) : HeldInOrder (respond x0 x1 x2 x3 x4 x5 x6 x7 x8 x9 s10) := by
  unfold respond
  repeat' (first | (with_reducible first | assumption | apply sendCell_ordered | apply State.fadd_ordered_portDown) | split)

theorem respondSegs_ordered {x0 x1 x2 x3 x4 x5 x6 x7 x8 s9} (h9 : HeldInOrder s9) : HeldInOrder (respondSegs x0 x1 x2 x3 x4 x5 x6 x7 x8 s9) := by
  induction x7 generalizing x0 x1 x2 x3 x4 x5 x6 x8 s9 with
  | zero =>
    unfold respondSegs
    exact h9
  | succ k ih =>
    unfold respondSegs
    repeat' (first | (with_reducible first | assumption | apply ih | apply respond_ordered))

theorem endReq_ordered {x0 x1 x2 x3 x4 x5 x6 s7} (h7 : HeldInOrder s7) : HeldInOrder (endReq x0 x1 x2 x3 x4 x5 x6 s7) := by
  unfold endReq
  repeat' (first | (with_reducible first | assumption | apply ordered_all) | (simp only [ordered_mk]) | (with_reducible first | apply respondSegs_ordered | apply respond_ordered) | split)

theorem endTxn_ordered {x0 x1 x2 s3} (h3 : HeldInOrder s3) : HeldInOrder (endTxn x0 x1 x2 s3) := by
  unfold endTxn
  repeat' (first | (with_reducible first | assumption | apply State.delTxn_ordered | apply endReq_ordered) | split)

theorem timeoutTxn_ordered {x0 s1} (h1 : HeldInOrder s1) : HeldInOrder (timeoutTxn x0 s1) := by
  unfold timeoutTxn
  repeat' (first | (exact rfl) | (with_reducible first | assumption | apply endTxn_ordered | apply State.fadd_ordered) | split)

theorem launch_ordered {x0 x1 s2} (h2 : HeldInOrder s2) : HeldInOrder (launch x0 x1 s2) := by
  unfold launch
  repeat' (first | (with_reducible first | assumption | apply emitTxn_ordered | apply State.putTxn_ordered | apply timeoutTxn_ordered) | split)

theorem State.addTxn_ordered {s0 x1} (h0 : HeldInOrder s0) : HeldInOrder (State.addTxn s0 x1) := h0.of_eq id rfl

theorem joinUnit_ordered {x0 x1 s2} (h2 : HeldInOrder s2) : HeldInOrder (joinUnit x0 x1 s2) := by
  unfold joinUnit
  repeat' (first | (with_reducible first | assumption | apply ordered_all) | (simp only [ordered_mk]) | (with_reducible first | apply State.addTxn_ordered) | split)

theorem finishPages_ordered {x0 s1} (h1 : HeldInOrder s1) : HeldInOrder (finishPages x0 s1) := by
  unfold finishPages
  repeat' (first | (with_reducible first | assumption | apply ordered_ite | apply endTxn_ordered | apply State.putTxn_ordered) | split)

theorem finishIfHeld_ordered {x0 s1} (h1 : HeldInOrder s1) : HeldInOrder (finishIfHeld x0 s1) := by
  unfold finishIfHeld
  repeat' (first | (with_reducible first | assumption | apply finishPages_ordered) | split)

theorem routeTxn_ordered {x0 s1} (h1 : HeldInOrder s1) : HeldInOrder (routeTxn x0 s1) := by
  unfold routeTxn
  repeat' (first | (with_reducible first | assumption | apply ordered_ite | apply endTxn_ordered | apply State.putTxn_ordered | apply launch_ordered) | split)

theorem startTxn_ordered {x0 s1} (h1 : HeldInOrder s1) : HeldInOrder (startTxn x0 s1) := by
  unfold startTxn
  repeat' (first | (with_reducible first | assumption | apply routeTxn_ordered | apply State.addTxn_ordered))

theorem startPageRead_ordered {x0 x1 s2} (h2 : HeldInOrder s2) : HeldInOrder (startPageRead x0 x1 s2) := by
  unfold startPageRead
  repeat' (first | (exact rfl) | (with_reducible first | assumption | apply startTxn_ordered | apply State.fadd_ordered) | split)

theorem fetchPages_ordered {x0 x1 s2} (h2 : HeldInOrder s2) : HeldInOrder (fetchPages x0 x1 s2) := by
  induction x1 generalizing x0 s2 with
  | nil =>
    unfold fetchPages
    exact h2
  | cons a l ih =>
    unfold fetchPages
    repeat' (first | (exact rfl) | (with_reducible first | assumption | apply ordered_all) | (simp only [ordered_mk]) | (with_reducible first | apply ih | apply State.fadd_ordered | apply State.putTxn_ordered | apply startPageRead_ordered) | split)

theorem denyWindow_ordered {x0 x1 s2} (h2 : HeldInOrder s2) : HeldInOrder (denyWindow x0 x1 s2) := by
  unfold denyWindow
  repeat' (first | (exact rfl) | (with_reducible first | assumption | apply endReq_ordered | apply State.fadd_ordered))

theorem clearWords_ordered {x0 x1 x2 x3 x4 s5} (h5 : HeldInOrder s5) : HeldInOrder (clearWords x0 x1 x2 x3 x4 s5) := by
  unfold clearWords
  repeat' (first | (exact rfl) | (with_reducible first | assumption | apply ordered_all) | (simp only [ordered_mk]) | (with_reducible first | apply State.fset_ordered) | split)

theorem t0Write_ordered {off bs} {s : State} (h : HeldInOrder s) : HeldInOrder (t0Write off bs s) := clearWords_ordered (h.of_eq id rfl)

theorem hint_ordered {x0 x1 x2 x3 x4 s5} (h5 : HeldInOrder s5) : HeldInOrder (hint x0 x1 x2 x3 x4 s5) := by
  unfold hint
  repeat' (first | (with_reducible first | assumption | apply ordered_all) | (simp only [ordered_mk]))

theorem serveT2Read_ordered {x0 s1} (h1 : HeldInOrder s1) : HeldInOrder (serveT2Read x0 s1) := by
  unfold serveT2Read
  repeat' (first | (with_reducible first | assumption | apply finishIfHeld_ordered | apply fetchPages_ordered | apply State.addTxn_ordered))

theorem startParts_ordered {x0 x1 s2} (h2 : HeldInOrder s2) : HeldInOrder (startParts x0 x1 s2) := by
  induction x1 generalizing x0 s2 with
  | nil =>
    unfold startParts
    exact h2
  | cons a l ih =>
    unfold startParts
    repeat' (first | (with_reducible first | assumption | apply ih | apply startTxn_ordered))

theorem startGather_ordered {x0 s1} (h1 : HeldInOrder s1) : HeldInOrder (startGather x0 s1) := by
  unfold startGather
  repeat' (first | (with_reducible first | assumption | apply startParts_ordered | apply State.addTxn_ordered))

theorem serveT0_ordered {x0 x1 x2 x3 s4} (h4 : HeldInOrder s4) : HeldInOrder (serveT0 x0 x1 x2 x3 s4) := by
  unfold serveT0
  repeat' (first | (with_reducible first | assumption | apply endReq_ordered | apply t0Write_ordered) | split)

theorem serveTier_ordered {x0 x1 x2 x3 x4 x5 s6} (h6 : HeldInOrder s6) : HeldInOrder (serveTier x0 x1 x2 x3 x4 x5 s6) := by
  unfold serveTier
  repeat' (first | (exact rfl) | (with_reducible first | assumption | apply ordered_ite | apply endReq_ordered | apply hint_ordered | apply serveT2Read_ordered | apply startGather_ordered | apply serveT0_ordered | apply State.fadd_ordered | apply joinUnit_ordered | apply startTxn_ordered) | split)

theorem pumpHome_ordered {x0 s1} (h1 : HeldInOrder s1) : HeldInOrder (pumpHome x0 s1) := by
  induction x0 generalizing s1 with
  | nil =>
    unfold pumpHome
    exact h1
  | cons a l ih =>
    unfold pumpHome
    repeat' (first | (with_reducible first | assumption | apply ih | apply routeTxn_ordered | apply launch_ordered) | split)

theorem servePage_ordered {x0 x1 x2 x3 x4 x5 s6} (h6 : HeldInOrder s6) : HeldInOrder (servePage x0 x1 x2 x3 x4 x5 s6) := by
  induction x5 generalizing x0 x1 x2 x3 x4 s6 with
  | nil =>
    unfold servePage
    exact h6
  | cons a l ih =>
    unfold servePage
    repeat' (first | (with_reducible first | assumption | apply ih | apply finishPages_ordered) | split)

theorem serveMem_ordered {x0 x1 x2 x3 x4 s5} (h5 : HeldInOrder s5) : HeldInOrder (serveMem x0 x1 x2 x3 x4 s5) := by
  unfold serveMem
  repeat' (first | (with_reducible assumption) | (with_reducible first | apply endReq_ordered | apply denyWindow_ordered | apply serveTier_ordered) | split | (dsimp only))

theorem stagePage_ordered {x0 x1 x2 x3 s4} (h4 : HeldInOrder s4) : HeldInOrder (stagePage x0 x1 x2 x3 s4) := by
  unfold stagePage
  repeat' (first | (with_reducible first | assumption | apply ordered_all) | (simp only [ordered_mk]) | (with_reducible first | apply ordered_ite) | split)

theorem pageEnded_ordered {x0 x1 x2 x3 x4 s5} (h5 : HeldInOrder s5) : HeldInOrder (pageEnded x0 x1 x2 x3 x4 s5) := by
  unfold pageEnded
  repeat' (first | (with_reducible first | assumption | apply ordered_ite | apply stagePage_ordered | apply servePage_ordered))

theorem partEnded_ordered {x0 x1 x2 x3 s4} (h4 : HeldInOrder s4) : HeldInOrder (partEnded x0 x1 x2 x3 s4) := by
  unfold partEnded
  repeat' (first | (with_reducible assumption) | (with_reducible first | apply ordered_ite | apply State.putTxn_ordered | apply endTxn_ordered) | split)

theorem State.putEntry_ordered {s0 x1} (h0 : HeldInOrder s0) : HeldInOrder (State.putEntry s0 x1) := h0.of_eq id rfl

theorem cohFinish_ordered {x0 x1 x2 s3} (h3 : HeldInOrder s3) : HeldInOrder (cohFinish x0 x1 x2 s3) := by
  unfold cohFinish
  repeat' (first | (with_reducible first | assumption | apply ordered_all) | (simp only [ordered_mk]) | (with_reducible first | apply State.putEntry_ordered | apply endTxn_ordered))

theorem State.setPub_ordered {s0 x1} (h0 : HeldInOrder s0) : HeldInOrder (State.setPub s0 x1) := by
  unfold State.setPub
  repeat' (first | (with_reducible first | assumption | apply ordered_all) | (simp only [ordered_mk]))

theorem refuseOp_ordered {x0 x1 x2 x3 x4 s5} (h5 : HeldInOrder s5) : HeldInOrder (refuseOp x0 x1 x2 x3 x4 s5) := by
  unfold refuseOp
  repeat' (first | (with_reducible first | assumption | apply denyWindow_ordered | apply endReq_ordered) | split)

theorem serveOpen_ordered {x0 x1 s2} (h2 : HeldInOrder s2) : HeldInOrder (serveOpen x0 x1 s2) := by
  unfold serveOpen
  repeat' (first | (with_reducible first | assumption | apply endReq_ordered | apply State.setPub_ordered | apply refuseOp_ordered) | split)

theorem State.delEntry_ordered {s0 x1 x2} (h0 : HeldInOrder s0) : HeldInOrder (State.delEntry s0 x1 x2) := h0.of_eq id rfl

theorem sendSnp_ordered {x0 x1 x2 x3 x4 x5 x6 x7 s8} (h8 : HeldInOrder s8) : HeldInOrder (sendSnp x0 x1 x2 x3 x4 x5 x6 x7 s8) := by
  unfold sendSnp
  repeat' (first | (with_reducible first | assumption | apply sendCell_ordered) | split)

theorem sendSnoops_ordered {x0 x1 x2 x3 s4} (h4 : HeldInOrder s4) : HeldInOrder (sendSnoops x0 x1 x2 x3 s4) := by
  induction x3 generalizing x0 x1 x2 s4 with
  | nil =>
    unfold sendSnoops
    exact h4
  | cons a l ih =>
    unfold sendSnoops
    repeat' (first | (with_reducible first | assumption | apply ih | apply State.putEntry_ordered | apply sendSnp_ordered) | split)

theorem childTxn_ordered {x0 x1 x2 s3} (h3 : HeldInOrder s3) : HeldInOrder (childTxn x0 x1 x2 s3) := startTxn_ordered h3

theorem cohAdvance_ordered {x0 s1} (h1 : HeldInOrder s1) : HeldInOrder (cohAdvance x0 s1) := by
  unfold cohAdvance
  repeat' (first | (with_reducible first | assumption | apply ordered_ite | apply childTxn_ordered | apply State.putTxn_ordered | apply cohFinish_ordered) | split)

theorem cohStart_ordered {x0 x1 s2} (h2 : HeldInOrder s2) : HeldInOrder (cohStart x0 x1 s2) := by
  unfold cohStart
  repeat' (first | (with_reducible first | assumption | apply ordered_ite | apply State.putTxn_ordered | apply State.putEntry_ordered | apply endTxn_ordered | apply childTxn_ordered | apply State.delEntry_ordered | apply cohAdvance_ordered | apply sendSnoops_ordered) | split)

theorem cohAllocate_ordered {x0 x1 s2} (h2 : HeldInOrder s2) : HeldInOrder (cohAllocate x0 x1 s2) := by
  unfold cohAllocate
  repeat' (first | (exact rfl) | (with_reducible assumption) | (with_reducible first | apply ordered_ite | apply cohAdvance_ordered | apply State.putTxn_ordered | apply State.putEntry_ordered | apply State.fadd_ordered | apply sendSnoops_ordered) | split)

theorem cohTry_ordered {x0 s1} (h1 : HeldInOrder s1) : HeldInOrder (cohTry x0 s1) := by
  unfold cohTry
  repeat' (first | (with_reducible assumption) | (with_reducible first | apply ordered_ite | apply cohStart_ordered | apply endTxn_ordered | apply cohAllocate_ordered) | split)

theorem serveClose_ordered {x0 x1 s2} (h2 : HeldInOrder s2) : HeldInOrder (serveClose x0 x1 s2) := by
  unfold serveClose
  repeat' (first | (with_reducible first | assumption | apply endReq_ordered | apply State.setPub_ordered | apply refuseOp_ordered) | split)

theorem syncPoison_ordered {x0 s1} (h1 : HeldInOrder s1) : HeldInOrder (syncPoison x0 s1) := State.fset_ordered rfl h1

theorem domainEvent_ordered {x0 s1} (h1 : HeldInOrder s1) : HeldInOrder (domainEvent x0 s1) := by
  unfold domainEvent
  repeat' (first | (with_reducible first | assumption | apply pulse_ordered) | split)

theorem endDomain_ordered {x0 x1 s2} (h2 : HeldInOrder s2) : HeldInOrder (endDomain x0 x1 s2) := by
  induction x1 generalizing x0 s2 with
  | nil =>
    unfold endDomain
    exact h2
  | cons a l ih =>
    unfold endDomain
    repeat' (first | (with_reducible first | assumption | apply ih | apply endTxn_ordered) | split)

theorem domainDown_ordered {x0 x1 x2 x3 s4} (h4 : HeldInOrder s4) : HeldInOrder (domainDown x0 x1 x2 x3 s4) := by
  unfold domainDown
  repeat' (first | (exact rfl) | (with_reducible first | assumption | apply ordered_all) | (simp only [ordered_mk]) | (with_reducible first | apply syncPoison_ordered | apply State.fset_ordered | apply domainEvent_ordered | apply endDomain_ordered) | split)

theorem addSub_ordered {x0 x1 x2 s3} (h3 : HeldInOrder s3) : HeldInOrder (addSub x0 x1 x2 s3) := h3.of_eq id rfl

theorem pumpSubs_ordered {x0 s1} (h1 : HeldInOrder s1) : HeldInOrder (pumpSubs x0 s1) := by
  induction x0 generalizing s1 with
  | nil =>
    unfold pumpSubs
    exact h1
  | cons a l ih =>
    unfold pumpSubs
    repeat' (first | (with_reducible first | assumption | apply ih | apply endTxn_ordered | apply addSub_ordered) | split)

theorem pumpPrepare_ordered {x0 s1} (h1 : HeldInOrder s1) : HeldInOrder (pumpPrepare x0 s1) := by
  induction x0 generalizing s1 with
  | nil =>
    unfold pumpPrepare
    exact h1
  | cons a l ih =>
    unfold pumpPrepare
    repeat' (first | (with_reducible assumption) | (with_reducible first | apply ih | apply endTxn_ordered | apply State.setPub_ordered) | split)

theorem cohPart_ordered {x0 x1 x2 x3 s4} (h4 : HeldInOrder s4) : HeldInOrder (cohPart x0 x1 x2 x3 s4) := by
  unfold cohPart
  repeat' (first | (with_reducible first | assumption | apply endTxn_ordered | apply cohAdvance_ordered | apply State.putTxn_ordered | apply domainDown_ordered | apply State.delEntry_ordered | apply State.putEntry_ordered) | split | (dsimp only))

theorem pumpCoh_ordered {x0 s1} (h1 : HeldInOrder s1) : HeldInOrder (pumpCoh x0 s1) := by
  induction x0 generalizing s1 with
  | nil =>
    unfold pumpCoh
    exact h1
  | cons a l ih =>
    unfold pumpCoh
    repeat' (first | (with_reducible first | assumption | apply ih | apply cohTry_ordered | apply cohAdvance_ordered) | split)

theorem wakeUnits_ordered {x0 x1 s2} (h2 : HeldInOrder s2) : HeldInOrder (wakeUnits x0 x1 s2) := by
  unfold wakeUnits
  repeat' (first | (with_reducible first | assumption | apply ordered_all) | (simp only [ordered_mk]) | (with_reducible first | apply ordered_foldl) | split)

theorem State.putCtx_ordered {s0 x1 x2 x3} (h0 : HeldInOrder s0) : HeldInOrder (State.putCtx s0 x1 x2 x3) := h0.of_eq id rfl

theorem State.setCopse_ordered {s0 x1 x2} (h0 : HeldInOrder s0) : HeldInOrder (State.setCopse s0 x1 x2) := h0.of_eq id rfl

theorem makeResident_ordered {x0 x1 x2 s3} (h3 : HeldInOrder s3) : HeldInOrder (makeResident x0 x1 x2 s3) := by
  unfold makeResident
  repeat' (first | (with_reducible first | assumption | apply ordered_ite | apply wakeUnits_ordered | apply State.putCtx_ordered | apply State.setCopse_ordered))

theorem State.modCtx_ordered {s0 x1 x2 x3} (h0 : HeldInOrder s0) : HeldInOrder (State.modCtx s0 x1 x2 x3) := by
  unfold State.modCtx
  repeat' (first | (with_reducible first | assumption | apply State.putCtx_ordered) | split)

theorem startSave_ordered {x0 x1 x2 x3 s4} (h4 : HeldInOrder s4) : HeldInOrder (startSave x0 x1 x2 x3 s4) := by
  unfold startSave
  repeat' (first | (exact rfl) | (with_reducible first | assumption | apply State.modCtx_ordered | apply State.fadd_ordered) | split)

theorem startSaves_ordered {x0 x1 x2 x3 s4} (h4 : HeldInOrder s4) : HeldInOrder (startSaves x0 x1 x2 x3 s4) := by
  induction x3 generalizing x0 x1 x2 s4 with
  | nil =>
    unfold startSaves
    exact h4
  | cons a l ih =>
    unfold startSaves
    repeat' (first | (with_reducible first | assumption | apply ih | apply startSave_ordered))

theorem schedule_ordered {x0 s1} (h1 : HeldInOrder s1) : HeldInOrder (schedule x0 s1) := by
  unfold schedule
  repeat' (first | (with_reducible first | assumption | apply makeResident_ordered | apply startSaves_ordered | apply State.setCopse_ordered) | split | (dsimp only))

theorem scheduleAll_ordered {x0 x1 s2} (h2 : HeldInOrder s2) : HeldInOrder (scheduleAll x0 x1 s2) := by
  induction x0 generalizing x1 s2 with
  | zero =>
    unfold scheduleAll
    exact h2
  | succ k ih =>
    unfold scheduleAll
    repeat' (first | (with_reducible first | assumption | apply ordered_ite | apply ih | apply schedule_ordered))

theorem reblock_ordered {x0 x1 s2} (h2 : HeldInOrder s2) : HeldInOrder (reblock x0 x1 s2) := by
  unfold reblock
  repeat' (first | (with_reducible first | assumption | apply ordered_ite | apply scheduleAll_ordered | apply State.putCtx_ordered | apply State.setCopse_ordered) | split)

theorem State.modStrand_ordered {s0 x1 x2} (h0 : HeldInOrder s0) : HeldInOrder (State.modStrand s0 x1 x2) := State.modCtx_ordered h0

theorem countIssue_ordered {x0 s1} (h1 : HeldInOrder s1) : HeldInOrder (countIssue x0 s1) := by
  unfold countIssue
  repeat' (first | (exact rfl) | (with_reducible first | assumption | apply State.fadd_ordered | apply State.modCtx_ordered))

theorem releaseUnits_ordered {x0 x1 s2} (h2 : HeldInOrder s2) : HeldInOrder (releaseUnits x0 x1 s2) := State.setCopse_ordered h2

theorem endProgram_ordered {x0 x1 x2 s3} (h3 : HeldInOrder s3) : HeldInOrder (endProgram x0 x1 x2 s3) := by
  unfold endProgram
  repeat' (first | (exact rfl) | (with_reducible assumption) | (with_reducible first | apply ordered_ite | apply State.putCtx_ordered | apply releaseUnits_ordered | apply State.fadd_ordered | apply State.setCopse_ordered) | split)

theorem afterStrand_ordered {x0 x1 s2} (h2 : HeldInOrder s2) : HeldInOrder (afterStrand x0 x1 s2) := by
  unfold afterStrand
  repeat' (first | (with_reducible first | assumption | apply endProgram_ordered | apply reblock_ordered) | split)

theorem freeBay_ordered {x0 x1 s2} (h2 : HeldInOrder s2) : HeldInOrder (freeBay x0 x1 s2) := by
  unfold freeBay
  repeat' (first | (with_reducible first | assumption | apply State.setCopse_ordered | apply State.modCtx_ordered))

theorem finishStrand_ordered {x0 s1} (h1 : HeldInOrder s1) : HeldInOrder (finishStrand x0 s1) := by
  unfold finishStrand
  repeat' (first | (with_reducible first | assumption | apply freeBay_ordered | apply State.modCtx_ordered | apply State.setCopse_ordered) | split)

theorem leaveBar_ordered {x0 x1 x2 s3 x4} (h3 : HeldInOrder s3) : HeldInOrder (leaveBar x0 x1 x2 s3 x4) := by
  unfold leaveBar
  repeat' (first | (exact rfl) | (with_reducible first | assumption | apply State.fadd_ordered | apply State.modCtx_ordered | apply finishStrand_ordered | apply State.modStrand_ordered) | split)

theorem releaseBar_ordered {x0 x1 s2} (h2 : HeldInOrder s2) : HeldInOrder (releaseBar x0 x1 s2) := by
  unfold releaseBar
  repeat' (first | (with_reducible assumption) | (with_reducible first | apply ordered_foldl | apply leaveBar_ordered) | split | (dsimp only))

theorem endStrand_ordered {x0 s1} (h1 : HeldInOrder s1) : HeldInOrder (endStrand x0 s1) := by
  unfold endStrand
  repeat' (first | (with_reducible first | assumption | apply afterStrand_ordered | apply releaseBar_ordered | apply finishStrand_ordered))

theorem retire_ordered {x0 s1} (h1 : HeldInOrder s1) : HeldInOrder (retire x0 s1) := by
  unfold retire
  repeat' (first | (with_reducible first | assumption | apply countIssue_ordered | apply endStrand_ordered | apply reblock_ordered | apply State.putCtx_ordered) | split | (dsimp only))

theorem endWith_ordered {x0 x1 x2 x3 x4 s5} (h5 : HeldInOrder s5) : HeldInOrder (endWith x0 x1 x2 x3 x4 s5) := by
  unfold endWith
  repeat' (first | (with_reducible first | assumption | apply endProgram_ordered) | split)

theorem failWith_ordered {x0 x1 x2 s3} (h3 : HeldInOrder s3) : HeldInOrder (failWith x0 x1 x2 s3) := endWith_ordered h3

theorem clearScratch_ordered {x0 x1 x2 x3 x4 s5} (h5 : HeldInOrder s5) : HeldInOrder (clearScratch x0 x1 x2 x3 x4 s5) := by
  unfold clearScratch
  repeat' (first | (with_reducible assumption) | (intro _) | (with_reducible first | apply ordered_foldl | apply clearWords_ordered) | split)

theorem State.writeScratch_ordered {s0 x1 x2 x3 x4 x5} (h0 : HeldInOrder s0) : HeldInOrder (State.writeScratch s0 x1 x2 x3 x4 x5) := by
  unfold State.writeScratch
  repeat' (first | (with_reducible first | assumption | apply clearScratch_ordered | apply State.modCtx_ordered))

theorem sendRecord_ordered {x0 x1 x2 x3 s4} (h4 : HeldInOrder s4) : HeldInOrder (sendRecord x0 x1 x2 x3 s4) := by
  unfold sendRecord
  repeat' (first | (with_reducible first | assumption | apply ordered_all) | (simp only [ordered_mk]) | (with_reducible apply serveMem_ordered) | split)

theorem landMsg_ordered {x0 x1 x2 x3 x4 x5 s6} (h6 : HeldInOrder s6) : HeldInOrder (landMsg x0 x1 x2 x3 x4 x5 s6) := by
  unfold landMsg
  repeat' (first | (with_reducible first | assumption | apply ordered_all) | (simp only [ordered_mk]) | (with_reducible first | apply reblock_ordered | apply State.putCtx_ordered) | split)

theorem msgToCtx_ordered {x0 x1 x2 x3 s4} (h4 : HeldInOrder s4) : HeldInOrder (msgToCtx x0 x1 x2 x3 s4) := by
  unfold msgToCtx
  repeat' (first | (with_reducible first | assumption | apply endReq_ordered | apply landMsg_ordered | apply State.putCtx_ordered | apply scheduleAll_ordered | apply State.setCopse_ordered) | split)

theorem crecEnded_ordered {x0 x1 x2 s3} (h3 : HeldInOrder s3) : HeldInOrder (crecEnded x0 x1 x2 s3) := by
  unfold crecEnded
  repeat' (first | (exact rfl) | (with_reducible first | assumption | apply ordered_all) | (simp only [ordered_mk]) | (with_reducible first | apply State.fadd_ordered) | split)

theorem State.setS_ordered {s0 x1 x2 x3} (h0 : HeldInOrder s0) : HeldInOrder (State.setS s0 x1 x2 x3) := State.modStrand_ordered h0

theorem refusedRecord_ordered {x0 x1 x2 x3 x4 x5 s6} (h6 : HeldInOrder s6) : HeldInOrder (refusedRecord x0 x1 x2 x3 x4 x5 s6) := sendRecord_ordered h6

theorem sendMessage_ordered {x0 x1 x2 s3} (h3 : HeldInOrder s3) : HeldInOrder (sendMessage x0 x1 x2 s3) := by
  unfold sendMessage
  repeat' (first | (with_reducible first | assumption | apply ordered_ite | apply endReq_ordered | apply launch_ordered | apply State.addTxn_ordered | apply msgToCtx_ordered) | split)

theorem wakeStrand_ordered {x0 s1} (h1 : HeldInOrder s1) : HeldInOrder (wakeStrand x0 s1) := by
  unfold wakeStrand
  repeat' (first | (with_reducible first | assumption | apply ordered_ite | apply reblock_ordered | apply State.putCtx_ordered) | split)

theorem State.writeBay_ordered {s0 x1 x2 x3} (h0 : HeldInOrder s0) : HeldInOrder (State.writeBay s0 x1 x2 x3) := by
  unfold State.writeBay
  repeat' (first | (with_reducible first | assumption | apply ordered_ite | apply State.modCtx_ordered | apply clearWords_ordered) | split)

theorem endNow_ordered {x0 x1 s2} (h2 : HeldInOrder s2) : HeldInOrder (endNow x0 x1 s2) := endReq_ordered h2

theorem serveStrand_ordered {x0 x1 x2 x3 x4 s5} (h5 : HeldInOrder s5) : HeldInOrder (serveStrand x0 x1 x2 x3 x4 s5) := by
  unfold serveStrand
  repeat' (first | (with_reducible first | assumption | apply ordered_ite | apply endNow_ordered | apply endReq_ordered | apply serveMem_ordered) | split)

theorem touchLine_ordered {x0 x1 x2 s3} (h3 : HeldInOrder s3) : HeldInOrder (touchLine x0 x1 x2 s3) := State.setCopse_ordered h3

theorem fillLine_ordered {x0 x1 x2 x3 x4 x5 x6 x7 s8} (h8 : HeldInOrder s8) : HeldInOrder (fillLine x0 x1 x2 x3 x4 x5 x6 x7 s8) := by
  unfold fillLine
  repeat' (first | (exact rfl) | (with_reducible assumption) | (with_reducible first | apply State.setCopse_ordered | apply State.fadd_ordered) | split | (dsimp only))

theorem writeBack_ordered {x0 x1 x2 s3} (h3 : HeldInOrder s3) : HeldInOrder (writeBack x0 x1 x2 s3) := by
  unfold writeBack
  repeat' (first | (with_reducible first | assumption | apply State.setS_ordered | apply State.writeScratch_ordered | apply State.writeBay_ordered | apply fillLine_ordered) | split)

theorem countScrub_ordered {x0 x1 x2 s3} (h3 : HeldInOrder s3) : HeldInOrder (countScrub x0 x1 x2 s3) := by
  unfold countScrub
  repeat' (first | (with_reducible first | assumption | apply ordered_all) | (simp only [ordered_mk]))

theorem cleanLine_ordered {x0 x1 x2 x3 s4} (h4 : HeldInOrder s4) : HeldInOrder (cleanLine x0 x1 x2 x3 s4) := by
  unfold cleanLine
  repeat' (first | (with_reducible first | assumption | apply ordered_ite | apply countScrub_ordered | apply State.setCopse_ordered))

theorem deliverStrand_ordered {x0 x1 x2 x3 x4 x5 s6} (h6 : HeldInOrder s6) : HeldInOrder (deliverStrand x0 x1 x2 x3 x4 x5 s6) := by
  unfold deliverStrand
  repeat' (first | (with_reducible assumption) | (with_reducible first | apply cleanLine_ordered | apply writeBack_ordered | apply State.setS_ordered | apply failWith_ordered | apply wakeStrand_ordered) | split | (dsimp only))

theorem amaxUpdate_ordered {x0 x1 x2 s3} (h3 : HeldInOrder s3) : HeldInOrder (amaxUpdate x0 x1 x2 s3) := State.setCopse_ordered h3

theorem State.setSvc_ordered {s0 x1 x2} (h0 : HeldInOrder s0) : HeldInOrder (State.setSvc s0 x1 x2) := h0.of_eq id rfl

theorem State.modSvc_ordered {s0 x1 x2} (h0 : HeldInOrder s0) : HeldInOrder (State.modSvc s0 x1 x2) := by
  unfold State.modSvc
  repeat' (first | (with_reducible first | assumption | apply State.setSvc_ordered) | split)

theorem dropJob_ordered {x0 x1 s2} (h2 : HeldInOrder s2) : HeldInOrder (dropJob x0 x1 s2) := State.modSvc_ordered h2

theorem newJob_ordered {x0 x1 x2 s3} (h3 : HeldInOrder s3) : HeldInOrder (newJob x0 x1 x2 s3).2 := by
  unfold newJob
  repeat' (first | (with_reducible first | assumption | apply State.setSvc_ordered))

theorem svcSend_ordered {x0 x1 x2 x3 s4} (h4 : HeldInOrder s4) : HeldInOrder (svcSend x0 x1 x2 x3 s4) := by
  unfold svcSend
  repeat' (first | (with_reducible first | assumption | apply ordered_ite | apply newJob_ordered | apply State.modSvc_ordered | apply endReq_ordered | apply sendMessage_ordered))

theorem svcResult_ordered {x0 x1 x2 s3} (h3 : HeldInOrder s3) : HeldInOrder (svcResult x0 x1 x2 s3) := svcSend_ordered h3

theorem svcConvert_ordered {x0 x1 x2 x3 s4} (h4 : HeldInOrder s4) : HeldInOrder (svcConvert x0 x1 x2 x3 s4).2 := by
  unfold svcConvert
  repeat' (first | (exact rfl) | (with_reducible first | assumption | apply amaxUpdate_ordered | apply State.modCtx_ordered | apply State.fadd_ordered | apply State.modSvc_ordered) | split)

theorem svcStore_ordered {x0 x1 x2 s3} (h3 : HeldInOrder s3) : HeldInOrder (svcStore x0 x1 x2 s3) := by
  unfold svcStore
  repeat' (first | (with_reducible first | assumption | apply newJob_ordered | apply serveMem_ordered))

theorem svcStats_ordered {x0 s1} (h1 : HeldInOrder s1) : HeldInOrder (svcStats x0 s1) := svcStore_ordered h1

theorem svcRest_ordered {x0 s1} (h1 : HeldInOrder s1) : HeldInOrder (svcRest x0 s1) := by
  unfold svcRest
  repeat' (first | (with_reducible first | assumption | apply reblock_ordered | apply State.modCtx_ordered) | split)

theorem svcEnd_ordered {x0 s1} (h1 : HeldInOrder s1) : HeldInOrder (svcEnd x0 s1) := by
  unfold svcEnd
  repeat' (first | (with_reducible first | assumption | apply ordered_ite | apply svcStats_ordered | apply endProgram_ordered | apply State.modCtx_ordered))

theorem bagEntries_ordered {x0 x1 x2 x3 x4 s5} (h5 : HeldInOrder s5) : HeldInOrder (bagEntries x0 x1 x2 x3 x4 s5).2 := by
  induction x3 generalizing x0 x1 x2 x4 s5 with
  | nil =>
    unfold bagEntries
    exact h5
  | cons a l ih =>
    unfold bagEntries
    repeat' (first | (with_reducible first | assumption | apply ih | apply svcConvert_ordered) | split)

theorem sendBagRsps_ordered {x0 x1 x2 x3 s4} (h4 : HeldInOrder s4) : HeldInOrder (sendBagRsps x0 x1 x2 x3 s4) := by
  induction x2 generalizing x0 x1 x3 s4 with
  | nil =>
    unfold sendBagRsps
    exact h4
  | cons a l ih =>
    unfold sendBagRsps
    repeat' (first | (with_reducible first | assumption | apply ih | apply svcResult_ordered))

theorem bagsDone_ordered {x0 x1 x2 s3} (h3 : HeldInOrder s3) : HeldInOrder (bagsDone x0 x1 x2 s3) := by
  unfold bagsDone
  repeat' (first | (with_reducible first | assumption | apply bagEntries_ordered | apply sendBagRsps_ordered | apply State.modSvc_ordered))

theorem startKv_ordered {x0 x1 x2 x3 x4 s5} (h5 : HeldInOrder s5) : HeldInOrder (startKv x0 x1 x2 x3 x4 s5) := by
  unfold startKv
  repeat' (first | (with_reducible assumption) | (intro _) | (with_reducible first | apply ordered_foldl | apply newJob_ordered | apply serveMem_ordered))

theorem startDone_ordered {x0 x1 s2} (h2 : HeldInOrder s2) : HeldInOrder (startDone x0 x1 s2) := by
  unfold startDone
  repeat' (first | (with_reducible first | assumption | apply endProgram_ordered | apply State.modSvc_ordered) | split)

theorem filterRegions_ordered {x0 x1 s2} (h2 : HeldInOrder s2) : HeldInOrder (filterRegions x0 x1 s2) := by
  unfold filterRegions
  repeat' (first | (with_reducible assumption) | (intro _) | (with_reducible first | apply ordered_foldl | apply serveOpen_ordered | apply serveClose_ordered) | split | (dsimp only))

theorem filterAnswer_ordered {x0 x1 x2 x3 s4} (h4 : HeldInOrder s4) : HeldInOrder (filterAnswer x0 x1 x2 x3 s4) := by
  unfold filterAnswer
  repeat' (first | (with_reducible first | assumption | apply filterRegions_ordered | apply State.modSvc_ordered | apply svcResult_ordered))

theorem startKvs_ordered {x0 x1 x2 x3 x4 s5} (h5 : HeldInOrder s5) : HeldInOrder (startKvs x0 x1 x2 x3 x4 s5) := by
  induction x3 generalizing x0 x1 x2 x4 s5 with
  | nil =>
    unfold startKvs
    exact h5
  | cons a l ih =>
    unfold startKvs
    repeat' (first | (with_reducible first | assumption | apply ih | apply startKv_ordered))

theorem filterDone_ordered {x0 x1 x2 s3} (h3 : HeldInOrder s3) : HeldInOrder (filterDone x0 x1 x2 s3) := by
  unfold filterDone
  repeat' (first | (with_reducible first | assumption | apply ordered_ite | apply filterAnswer_ordered | apply State.modCtx_ordered | apply startKvs_ordered) | split)

theorem kvDone_ordered {x0 x1 x2 x3 x4 x5 s6} (h6 : HeldInOrder s6) : HeldInOrder (kvDone x0 x1 x2 x3 x4 x5 s6) := by
  unfold kvDone
  repeat' (first | (with_reducible first | assumption | apply svcResult_ordered) | split)

theorem countResend_ordered {x0 s1} (h1 : HeldInOrder s1) : HeldInOrder (countResend x0 s1) := State.modSvc_ordered h1

theorem finishJob_ordered {x0 x1 x2 s3} (h3 : HeldInOrder s3) : HeldInOrder (finishJob x0 x1 x2 s3) := by
  unfold finishJob
  repeat' (first | (with_reducible assumption) | (with_reducible first | apply dropJob_ordered | apply startDone_ordered | apply bagsDone_ordered | apply filterDone_ordered | apply kvDone_ordered | apply countResend_ordered | apply State.modSvc_ordered) | split)

theorem svcPump_ordered {x0 x1 s2} (h2 : HeldInOrder s2) : HeldInOrder (svcPump x0 x1 s2) := by
  induction x1 generalizing x0 s2 with
  | nil =>
    unfold svcPump
    exact h2
  | cons a l ih =>
    unfold svcPump
    repeat' (first | (with_reducible first | assumption | apply ih | apply finishJob_ordered) | split)

theorem svcAfter_ordered {x0 s1} (h1 : HeldInOrder s1) : HeldInOrder (svcAfter x0 s1) := by
  unfold svcAfter
  repeat' (first | (with_reducible first | assumption | apply ordered_ite | apply svcPump_ordered | apply svcRest_ordered | apply svcEnd_ordered))

theorem svcEnded_ordered {x0 x1 x2 x3 x4 s5} (h5 : HeldInOrder s5) : HeldInOrder (svcEnded x0 x1 x2 x3 x4 s5) := by
  unfold svcEnded
  repeat' (first | (with_reducible first | assumption | apply svcAfter_ordered | apply State.modSvc_ordered) | split)

theorem putLoad_ordered {x0 s1} (h1 : HeldInOrder s1) : HeldInOrder (putLoad x0 s1) := by
  unfold putLoad
  repeat' (first | (with_reducible first | assumption | apply ordered_all) | (simp only [ordered_mk]))

theorem dropLoad_ordered {x0 s1} (h1 : HeldInOrder s1) : HeldInOrder (dropLoad x0 s1) := h1.of_eq id rfl

theorem refuseLoad_ordered {x0 x1 x2 s3} (h3 : HeldInOrder s3) : HeldInOrder (refuseLoad x0 x1 x2 s3) := by
  unfold refuseLoad
  repeat' (first | (with_reducible first | assumption | apply refusedRecord_ordered | apply endReq_ordered | apply dropLoad_ordered))

theorem addResid_ordered {x0 x1 s2} (h2 : HeldInOrder s2) : HeldInOrder (addResid x0 x1 s2) := by
  induction x1 generalizing x0 s2 with
  | nil =>
    unfold addResid
    exact h2
  | cons a l ih =>
    unfold addResid
    repeat' (first | (with_reducible first | assumption | apply ih | apply State.setCopse_ordered))

theorem addAmax_ordered {x0 x1 s2} (h2 : HeldInOrder s2) : HeldInOrder (addAmax x0 x1 s2) := by
  induction x1 generalizing x0 s2 with
  | nil =>
    unfold addAmax
    exact h2
  | cons a l ih =>
    unfold addAmax
    repeat' (first | (with_reducible first | assumption | apply ih | apply State.setCopse_ordered))

theorem placeLoad_ordered {x0 x1 x2 x3 s4} (h4 : HeldInOrder s4) : HeldInOrder (placeLoad x0 x1 x2 x3 s4) := by
  unfold placeLoad
  repeat' (first | (with_reducible first | assumption | apply ordered_all) | (simp only [ordered_mk]) | (with_reducible first | apply putLoad_ordered | apply addResid_ordered | apply addAmax_ordered | apply State.draw_ordered | apply State.putCtx_ordered | apply State.setCopse_ordered | apply State.setSvc_ordered | apply scheduleAll_ordered | apply endReq_ordered | apply dropLoad_ordered) | split)

theorem decideLoad_ordered {x0 s1} (h1 : HeldInOrder s1) : HeldInOrder (decideLoad x0 s1) := by
  unfold decideLoad
  repeat' (first | (with_reducible first | assumption | apply refuseLoad_ordered | apply placeLoad_ordered) | split)

theorem issueRead_ordered {x0 s1} (h1 : HeldInOrder s1) : HeldInOrder (issueRead x0 s1) := by
  unfold issueRead
  repeat' (first | (with_reducible first | assumption | apply serveMem_ordered | apply putLoad_ordered) | split)

theorem beginLoad_ordered {x0 s1} (h1 : HeldInOrder s1) : HeldInOrder (beginLoad x0 s1) := by
  unfold beginLoad
  repeat' (first | (with_reducible first | assumption | apply decideLoad_ordered | apply issueRead_ordered) | split)

theorem stageDone_ordered {x0 s1} (h1 : HeldInOrder s1) : HeldInOrder (stageDone x0 s1) := by
  unfold stageDone
  repeat' (first | (with_reducible first | assumption | apply ordered_ite | apply decideLoad_ordered | apply refuseLoad_ordered | apply issueRead_ordered))

theorem loaderRead_ordered {x0 x1 x2 s3} (h3 : HeldInOrder s3) : HeldInOrder (loaderRead x0 x1 x2 s3) := by
  unfold loaderRead
  repeat' (first | (with_reducible first | assumption | apply ordered_ite | apply refuseLoad_ordered | apply stageDone_ordered | apply issueRead_ordered) | split)

theorem pumpLoads_ordered {x0 s1} (h1 : HeldInOrder s1) : HeldInOrder (pumpLoads x0 s1) := by
  induction x0 generalizing s1 with
  | zero =>
    unfold pumpLoads
    exact h1
  | succ k ih =>
    unfold pumpLoads
    repeat' (first | (with_reducible first | assumption | apply ih | apply beginLoad_ordered | apply placeLoad_ordered) | split | (dsimp only))

theorem State.setStream_ordered {s0 x1 x2 x3} (h0 : HeldInOrder s0) : HeldInOrder (State.setStream s0 x1 x2 x3) := State.setCopse_ordered h0

theorem putBlock_ordered {x0 x1 x2 x3 s4} (h4 : HeldInOrder s4) : HeldInOrder (putBlock x0 x1 x2 x3 s4) := by
  unfold putBlock
  repeat' (first | (with_reducible first | assumption | apply State.setStream_ordered) | split)

theorem fetchLines_ordered {x0 x1 x2 s3} (h3 : HeldInOrder s3) : HeldInOrder (fetchLines x0 x1 x2 s3) := by
  induction x2 generalizing x0 x1 s3 with
  | nil =>
    unfold fetchLines
    exact h3
  | cons a l ih =>
    unfold fetchLines
    repeat' (first | (with_reducible assumption) | (with_reducible first | apply ih | apply putBlock_ordered | apply touchLine_ordered | apply serveStrand_ordered) | split | (dsimp only))

theorem expFetch_ordered {x0 x1 s2} (h2 : HeldInOrder s2) : HeldInOrder (expFetch x0 x1 s2) := by
  unfold expFetch
  repeat' (first | (with_reducible first | assumption | apply fetchLines_ordered) | split)

theorem expLine_ordered {x0 x1 x2 x3 x4 x5 x6 s7} (h7 : HeldInOrder s7) : HeldInOrder (expLine x0 x1 x2 x3 x4 x5 x6 s7) := by
  unfold expLine
  repeat' (first | (with_reducible first | assumption | apply fillLine_ordered | apply expFetch_ordered | apply putBlock_ordered) | split | (dsimp only))

theorem State.setSchedPort_ordered {s0 x1 x2} (h0 : HeldInOrder s0) : HeldInOrder (State.setSchedPort s0 x1 x2) := h0.of_eq id rfl

theorem joinClass_ordered {x0 x1 s2} (h2 : HeldInOrder s2) : HeldInOrder (joinClass x0 x1 s2) := by
  unfold joinClass
  repeat' (first | (with_reducible first | assumption | apply ordered_ite | apply State.setSchedPort_ordered))

theorem joinAll_ordered {s0} (h0 : HeldInOrder s0) : HeldInOrder (joinAll s0) := by
  unfold joinAll
  repeat' (first | (with_reducible assumption) | (intro _) | (with_reducible first | apply ordered_foldl | apply joinClass_ordered) | split)

theorem copyGone_ordered {x0 x1 x2 s3} (h3 : HeldInOrder s3) : HeldInOrder (copyGone x0 x1 x2 s3) := by
  unfold copyGone
  repeat' (first | (with_reducible first | assumption | apply ordered_ite | apply State.putTxn_ordered | apply endTxn_ordered | apply timeoutTxn_ordered) | split)

theorem dropCell_ordered {x1 x2 x3 x4 s5} (h5 : HeldInOrder s5) : HeldInOrder (dropCell FW_CLR_CNT_DROP.PORT_DOWN x1 x2 x3 x4 s5) := by
  unfold dropCell
  repeat' (first | (with_reducible first | assumption | apply trail_ordered | apply State.fadd_ordered_portDown | apply copyGone_ordered) | split)

theorem dropCells_ordered {x1 x2 x3 s4} (h4 : HeldInOrder s4) : HeldInOrder (dropCells FW_CLR_CNT_DROP.PORT_DOWN x1 x2 x3 s4) := by
  induction x3 generalizing x1 x2 s4 with
  | nil =>
    unfold dropCells
    exact h4
  | cons a l ih =>
    unfold dropCells
    repeat' (first | (with_reducible first | assumption | apply ih | apply dropCell_ordered))

theorem uncharge_ordered {x0 x1 s2} (h2 : HeldInOrder s2) : HeldInOrder (uncharge x0 x1 s2) := by
  unfold uncharge
  repeat' (first | (with_reducible first | assumption | apply dropPointer_ordered | apply dropCharge_ordered) | split)

theorem dropQueued_ordered {x1 x2 s3} (h3 : HeldInOrder s3) : HeldInOrder (dropQueued FW_CLR_CNT_DROP.PORT_DOWN x1 x2 s3) := by
  induction x2 generalizing x1 s3 with
  | nil =>
    unfold dropQueued
    exact h3
  | cons a l ih =>
    unfold dropQueued
    repeat' (first | (with_reducible first | assumption | apply ih | apply dropCell_ordered | apply uncharge_ordered))

theorem dropEgress_ordered {x1 x2 s3} (h3 : HeldInOrder s3) : HeldInOrder (dropEgress FW_CLR_CNT_DROP.PORT_DOWN x1 x2 s3) := by
  induction x2 generalizing x1 s3 with
  | nil =>
    unfold dropEgress
    exact h3
  | cons a l ih =>
    unfold dropEgress
    repeat' (first | (with_reducible first | assumption | apply ih | apply dropCells_ordered | apply dropQueued_ordered | apply State.setEgQ_ordered))

theorem dropPortCells_ordered {x1 s2} (h2 : HeldInOrder s2) : HeldInOrder (dropPortCells FW_CLR_CNT_DROP.PORT_DOWN x1 s2) :=
  dropCells_ordered (dropEgress_ordered (State.dropRefused_ordered h2))

theorem State.setStack_ordered {s0 x1 x2 x3} (h0 : HeldInOrder s0) : HeldInOrder (State.setStack s0 x1 x2 x3) := h0.of_eq id rfl

theorem answerClaim_ordered {x0 x1 s2} (h2 : HeldInOrder s2) : HeldInOrder (answerClaim x0 x1 s2) := by
  unfold answerClaim
  repeat' (first | (with_reducible first | assumption | apply retire_ordered | apply State.setS_ordered | apply State.done_ordered) | split)

theorem claimSource_ordered {x0 x1 x2 s3} (h3 : HeldInOrder s3) : HeldInOrder (claimSource x0 x1 x2 s3) := by
  unfold claimSource
  repeat' (first | (exact rfl) | (with_reducible first | assumption | apply ordered_ite | apply State.setStack_ordered | apply State.fset_ordered | apply State.setEvAux_ordered))

theorem serveClaims_ordered {x0 s1} (h1 : HeldInOrder s1) : HeldInOrder (serveClaims x0 s1) := by
  induction x0 generalizing s1 with
  | nil =>
    unfold serveClaims
    exact h1
  | cons a l ih =>
    unfold serveClaims
    repeat' (first | (with_reducible first | assumption | apply ordered_all) | (simp only [ordered_mk]) | (with_reducible first | apply ih | apply answerClaim_ordered | apply claimSource_ordered) | split)

theorem sweepPorts_ordered {s0} (h0 : HeldInOrder s0) : HeldInOrder (sweepPorts s0) := by
  unfold sweepPorts
  repeat' (first | (with_reducible assumption) | (intro _) | (with_reducible first | apply ordered_foldl | apply dropPortCells_ordered) | split)

theorem pumpAll_ordered {s0} (h0 : HeldInOrder s0) : HeldInOrder (pumpAll s0) := by
  unfold pumpAll
  repeat' (first | (with_reducible first | assumption | apply pumpHome_ordered | apply pumpCoh_ordered | apply pumpSubs_ordered | apply pumpPrepare_ordered | apply sweepPorts_ordered | apply pumpLoads_ordered))

theorem txnPart_ordered {x0 x1 x2 x3 s4} (h4 : HeldInOrder s4) : HeldInOrder (txnPart x0 x1 x2 x3 s4) := by
  unfold txnPart
  repeat' (first | (with_reducible first | assumption | apply cohPart_ordered | apply partEnded_ordered) | split)

theorem spareNote_ordered {x0 x1 s2} (h2 : HeldInOrder s2) : HeldInOrder (spareNote x0 x1 s2) := by
  unfold spareNote
  repeat' (first | (with_reducible first | assumption | apply ordered_all) | (simp only [ordered_mk]) | (with_reducible first | apply ordered_ite))

theorem deliver_ordered {x0 s1} (h1 : HeldInOrder s1) : HeldInOrder (deliver x0 s1) := by
  unfold deliver
  repeat' (first | (with_reducible first | assumption | apply deliverStrand_ordered | apply txnPart_ordered | apply loaderRead_ordered | apply crecEnded_ordered | apply svcEnded_ordered | apply expLine_ordered | apply pageEnded_ordered | apply spareNote_ordered) | split)

theorem settleN_ordered {x0 s1} (h1 : HeldInOrder s1) : HeldInOrder (settleN x0 s1) := by
  induction x0 generalizing s1 with
  | zero =>
    unfold settleN
    exact h1
  | succ k ih =>
    unfold settleN
    repeat' (first | (with_reducible first | assumption | apply ordered_all) | (simp only [ordered_mk]) | (with_reducible first | apply ih | apply deliver_ordered | apply pumpAll_ordered) | split)

theorem settle_ordered {s0} (h0 : HeldInOrder s0) : HeldInOrder (settle s0) := by
  unfold settle
  repeat' (first | (with_reducible first | assumption | apply joinAll_ordered | apply settleN_ordered | apply serveClaims_ordered))

end Sys2Proof.Machine
end

section
/-! SUPPORT. Why O11 fails: of the cells that the drop of STANDBY discards, one may end a request whose answer is refused in turn, and nothing takes that answer away. -/

namespace Sys2Proof.Machine

/-- A copy of a group message, refused on a die: its discard ends the message. -/
def groupCopy : Cell :=
  { clr := 0, cls := 0, vc := 4, dkind := 0, ddie := 8, dest := 512, skind := 2, sdie := 8, src := 0, seq := 0, mcg := 1, void := false, poison := false, tstamp := 0,
    hdr1 := 0, hdr2 := none, data := [], txn := some 0 }

/-- A cell of clearing 127 refused on die 7. -/
def refusedCell : Cell := { groupCopy with clr := 127, ddie := 7, dest := 448, sdie := 7, mcg := 0, txn := none }

/-- The group message, with one copy left; it came in on logical port 448. -/
def groupMsg : Txn :=
  { id := 0, src := .port 448 0, kind := .msg 0 0 0, phase := .parts, clr := 127, epoch := 0, node := 0, off := 0, lnode := 0, loff := 0, tier := .t1, region := 0, die := 7,
    lport := none, tag := 0, issued := 0, got := [], staged := true, bad := [], pos := 0, last := false, parts := 1, counted := false }

/-- 50 µs after tc of an entry to STANDBY: both cells wait refused, the VC reserve of clearing 127 on die 7 is used up, and the discards' word is listed before a stray one. -/
def droppingState : State :=
  { State.reset with
    now := 50000
    pw.entry := .committed 1 0
    ctl := [(dropAddr, 1), (strayAddr, 0)]
    link.ports := [(448, { Lport.reset with kept := some 0 })]
    fab.txns := [(0, groupMsg)]
    fwd.use := [(1023, { shared := 0, resv := [(1, 65536)] })]
    fwd.refused := [(8, groupCopy), (7, refusedCell)] }

/-- What the drop leaves there. -/
def droppedState : State := settle { dropAllCells droppingState with pw.forwardingStopped := true }

theorem dropped_ctl : droppedState.ctl = [(0x17F800, 0x100000000), (heldAddr, 0x1000000000000), (strayAddr, 0), (dropAddr, 0x100000001)] := by decide

theorem dropped_refused : (droppedState.fwd.refused.map fun e => (e.1, e.2.clr)) = [(7, 127)] := by decide

theorem dropped_lateOrder : LateOrder droppedState.ctl := by
  rw [dropped_ctl]
  refine ⟨?_, ?_, ?_⟩
  · decide
  · decide
  · decide

theorem not_heldInOrder_dropped : ¬ HeldInOrder droppedState := by
  intro h
  have hmem : (7, 127) ∈ droppedState.fwd.refused.map fun e => (e.1, e.2.clr) := by
    rw [dropped_refused]
    exact List.mem_singleton_self _
  obtain ⟨e, he, heq⟩ := List.mem_map.1 hmem
  exact h.none dropped_lateOrder e he (Prod.mk.inj heq)

theorem dropping_upTo : droppingState.upTo 0 = droppingState := by decide

theorem exec_standbyCellDrop_dropping : exec (.standbyCellDrop 0) droppingState = .next droppedState := by
  change execStandbyCellDrop 0 droppingState = _
  unfold execStandbyCellDrop
  rw [dropping_upTo]
  have hstep : (standbyStep droppingState 50000 && !droppingState.pw.forwardingStopped) = true := by decide
  exact congrArg Host.Outcome.next (if_pos hstep)

/-- Refutes O11, in the drop of STANDBY alone: the discard of the last copy of a group message ends the message with TIMEOUT, its answer is refused for want of room, and it waits refused
after the command (dropped_refused). The statement wants some state with no refused cell that settles to the same; the order of the control words rules out each (settle_ordered): HELD was
counted before the last discard, and what follows a command counts no discard of STANDBY. -/
theorem not_anEntryGoesThroughItsSteps : ¬ Obligations.AnEntryGoesThroughItsSteps := by
  unfold Obligations.AnEntryGoesThroughItsSteps
  intro h
  obtain ⟨-, -, -, -, -, -, -, hdrop, -⟩ := h droppingState 0
  obtain ⟨q, hq, -, hempty⟩ := hdrop 0 (by rw [dropping_upTo]; rfl) (by rw [dropping_upTo]; decide) (by rw [dropping_upTo]; rfl)
  have hsettle : droppedState = settle q := Host.Outcome.next.inj (exec_standbyCellDrop_dropping.symm.trans hq)
  have horder : HeldInOrder q := ⟨fun _ e he => absurd he (by rw [hempty]; exact List.not_mem_nil)⟩
  exact not_heldInOrder_dropped (hsettle ▸ settle_ordered horder)

end Sys2Proof.Machine
end
